-- ==== Sys2Proof/Word.lean ====
section
/-! DEFINITION. The word types of the block (00_scope.md R6, R7) and nothing else. -/

namespace Sys2Proof

/-- One byte of a memory or of a message. -/
abbrev Byte := BitVec 8

/-- One 32-bit register or structure word (R7). -/
abbrev Word := BitVec 32

end Sys2Proof
end

