-- ==== Sys2Proof/Syntax.lean ====
section
/-! DEFINITION. The commands the block takes, and the types of their operands. -/

namespace Sys2Proof

/-- The agents that originate accesses, messages, lock requests and records (01_architecture.md R30). -/
inductive Agent where
  | hc (n : Fin 8)
  | nc (n : Fin 8)
  | isp (n : Fin 2)
  | pge (n : Fin 2)
  | wpe (n : Fin 2)
  | ofe (n : Fin 2)
  | sge
  | fte
  | lnd
  | dmae (n : Fin 4)
  | fgs
  | hts
  | tdu
  | smc
  | safety
  | pcieHost
  | pciePeer
  | noAgent
deriving DecidableEq, Repr

/-- The two alignment sources of device time that send corrections (R45). -/
inductive TimeSource where
  | ptm
  | pps
deriving DecidableEq, Repr

/-- One line packet on a pixel port (02_pixel_ports.md R56, R63): the 32-bit transfers with LV high in order, TPPn_FS at
transfer 0 and whether FS was high on a later transfer (R69), and whether the ingest buffer overran and cut it short (R71). -/
structure LinePacket where
  words : List Word
  fs0 : Bool
  fsLater : Bool
  overrun : Bool
deriving DecidableEq, Repr

/-- One PMBus reading of a rail (17_power_clocks_ageing.md R587, R588): whether it is valid (no NACK, PEC right), READ_VOUT in mV,
READ_IOUT in mA, and whether STATUS_WORD holds a VOUT, IOUT, TEMPERATURE or INPUT fault bit. -/
structure RailReading where
  valid : Bool
  mv : Nat
  ma : Nat
  fault : Bool
deriving DecidableEq, Repr

/-- One domain's sample of the caramel monitors (R589): the worst slack in ps and the monitor that reported it. -/
structure SlackReading where
  ps : Int
  monitor : Nat
deriving DecidableEq, Repr

/-- A PCI Express configuration request: a read or a write of one doubleword register (18_boot_security_pcie.md R601, R617). -/
structure CfgReq where
  write : Bool
  reg : Nat
  data : Word
deriving DecidableEq, Repr


/-- The commands of the block: one constructor per row of spec/opcode_table.json, in its order. (DESIGN CHOICE, log 76) -/
inductive Instr where
  /-- REGISTER_WRITE (R11): A write to a register field that has no row of its own takes effect under its access code and the partition permissions of its block. -/
  | registerWrite (ag : Agent) (off : Nat) (size : Nat) (v : Word)
  /-- PAIR_LOW_WORD_READ (R17): A read of the low word of a 64-bit register pair latches the high word for the reading agent. -/
  | pairLowWordRead (ag : Agent) (off : Nat) (size : Nat)
  /-- POR_ASSERT (R18): Assertion of POR_N resets the device; every register returns to its Reset value when POR_N is released. -/
  | porAssert
  /-- POR_RELEASE (R655): The device leaves reset at the later of POR_N release and its rails reaching range, and boots under R600. -/
  | porRelease
  /-- PERST_ASSERT (R602): Assertion of PERST_N resets configuration space, clears the queue enables and discards deliveries still waiting. -/
  | perstAssert
  /-- CONFIG_REQUEST (R601): A PCI Express configuration request is served from ROM, or answered with Request Retry Status before t_CFG. -/
  | configRequest (c : CfgReq)
  /-- TIME_CORRECTION (R44): A PTM or PPS update corrects device time, by slewing or, above 1 ms forward, by one step. -/
  | timeCorrection (src : TimeSource) (delta : Int)
  /-- TIME_SOURCE_LOST (R45): The selected alignment source gives no update for 3 s, so LOST is set and device time runs on uncorrected. -/
  | timeSourceLost
  /-- CONTROL_BLOCK_FAULT (R26): A fault detected in a control block reaches the SMC and the safety island within 4 µs. -/
  | controlBlockFault (ag : Agent) (code : Byte)
  /-- PORT_ENABLE (R58): Setting TPP_CTRL.ENABLE moves a DISABLED port to TRAINING. -/
  | portEnable (ag : Agent) (n : Fin 8)
  /-- PORT_DISABLE (R59): Clearing TPP_CTRL.ENABLE disables the port at the next line packet boundary. -/
  | portDisable (ag : Agent) (n : Fin 8)
  /-- RETRAIN (R96): Writing RETRAIN returns an ACTIVE port to TRAINING. -/
  | tppRetrain (ag : Agent) (n : Fin 8)
  /-- TPP_CLEAR_COUNTS (R96): Writing CLEAR_COUNTS zeroes the port's counters. -/
  | tppClearCounts (ag : Agent) (n : Fin 8)
  /-- CTL_ENABLE (R88): Writing CTL_ENABLE starts or stops TPPn_CTL_CK and the control return channel. -/
  | ctlEnable (ag : Agent) (n : Fin 8) (on : Bool)
  /-- TRAINING_COMPLETE (R58): After 2,048 consecutive training cycles the port enters ACTIVE. -/
  | trainingComplete (n : Fin 8)
  /-- CLOCK_LOST (R58): When PCLK is absent for 10 µs the port enters CLOCK_LOST, and a cut-off packet is discarded as a length error. -/
  | clockLost (n : Fin 8) (cut : Bool)
  /-- CLOCK_RETURN (R58): When PCLK is present again, a CLOCK_LOST port returns to TRAINING. -/
  | clockReturn (n : Fin 8)
  /-- DESKEW_RECALIBRATION (R57): Every 100 ms an ACTIVE port recalibrates its deskew in the training gaps. -/
  | deskewRecalibration (n : Fin 8)
  /-- DESKEW_STALE (R596): A port with no training gap for 1 s keeps its deskew setting and counts PMG_DESKEW_STALE_CNT. -/
  | deskewStale (n : Fin 8)
  /-- FRAME_START_LINE (R79): A FRAME_START line opens its frame, first closing any open frame with FE_MISSING. -/
  | frameStartLine (n : Fin 8) (p : LinePacket)
  /-- ACTIVE_LINE (R70): An ACTIVE line packet is checked in order and, when it passes, is written to its row in the frame ring. -/
  | activeLine (n : Fin 8) (p : LinePacket)
  /-- EMBEDDED_LINE (R68): An EMBEDDED line packet is checked and landed in its embedded row. -/
  | embeddedLine (n : Fin 8) (p : LinePacket)
  /-- FRAME_END_LINE (R80): A FRAME_END line closes the open frame, clean or with LINE_MISSING. -/
  | frameEndLine (n : Fin 8) (p : LinePacket)
  /-- LANDING_WRITE_DRAIN (R73): Completed landing writes to DRAM free space in the ingest buffer. -/
  | landingWriteDrain (n : Fin 8) (transfers : Nat)
  /-- FRAME_LATE_TIMEOUT (R81): A frame still open LATE_US after its FS_TIME closes with LATE and FE_MISSING. -/
  | frameLateTimeout (st : Fin 1024)
  /-- CTL_COMMAND_SEND (R89): A queued control command is sent as one frame on CTL_DO once fewer than 8 are outstanding. -/
  | ctlCommandSend (n : Fin 8)
  /-- CTL_REPLY (R90): A reply frame on CTL_DI is matched by STREAM_ID and SEQ, or discarded and counted. -/
  | ctlReply (n : Fin 8) (frame : BitVec 56)
  /-- CTL_COMMAND_TIMEOUT (R91): A command without a valid reply after 500 µs ends as NAK and is counted, and it is not resent. -/
  | ctlCommandTimeout (n : Fin 8)
  /-- SEND (R97): Writing TPP_CTL_CMD0.SEND queues a direct command, or is ignored and sets REFUSED. -/
  | tppSend (ag : Agent) (n : Fin 8)
  /-- LND_CTX_WRITE (R94): A context WRITE checks the staging words and installs them, or is refused with a status. -/
  | lndCtxWrite (ag : Agent) (st : Fin 1024)
  /-- LND_CTX_READ (R98): A context READ copies the stream context to the staging words. -/
  | lndCtxRead (ag : Agent) (st : Fin 1024)
  /-- LANDING_ENABLE (R98): Writing LND_CTRL.ENABLE starts or stops all landing. -/
  | landingEnable (ag : Agent) (on : Bool)
  /-- LND_CLEAR_COUNTS (R98): Writing CLEAR_COUNTS zeroes words 9 to 14 of every context. -/
  | lndClearCounts (ag : Agent)
  /-- LND_RELEASE (R99): Writing GO lowers the hold count of the slot named, or only counts when the count is already 0. -/
  | lndRelease (ag : Agent) (st : Fin 1024) (slot : Fin 8)
  /-- ISP_FRAME_START (R126): A free ISP instance takes the selected startable frame from the ISP frame queue. -/
  | ispFrameStart (n : Fin 2) (out : Nat) (ts : List Nat) (stats : Nat)
  /-- ISP_CONTEXT_LOAD (R129): The load of a stream's 64 KiB ISP context completes after at most 4 µs. -/
  | ispContextLoad (n : Fin 2)
  /-- ISP_FRAME_COMPLETE (R140): The instance writes the statistics record, commits the completion record and releases the slot. -/
  | ispFrameComplete (n : Fin 2) (stalled : Bool)
  /-- ISP_PARITY_ERROR (R131): A parity error in the line memories makes the frame recompute within limits, or end with RETRY_EXHAUSTED. -/
  | ispParityError (n : Fin 2)
  /-- ISP_YIELD (R130): The instance yields at the next 4-row boundary, saves its state and requeues the frame. -/
  | ispYield (n : Fin 2) (rows : Nat)
  /-- ISP_ABORT (R132): Writing ISP_CTRL.ABORT aborts the current frame under R50 to R55. -/
  | ispAbort (ag : Agent) (n : Fin 2)
  /-- ISP_ENABLE (R144): Writing ISP_CTRL.ENABLE lets the instance take new frames or stops it doing so. -/
  | ispEnable (ag : Agent) (n : Fin 2) (on : Bool)
  /-- ISP_CLEAR_COUNTS (R144): Writing CLEAR_COUNTS zeroes the instance's counters. -/
  | ispClearCounts (ag : Agent) (n : Fin 2)
  /-- SWAP (R123): ISP_CTX_CMD.SWAP checks a new context and installs it for the stream, or refuses it. -/
  | ispSwap (ag : Agent) (st : Fin 1024)
  /-- RESET_MODEL (R124): ISP_CTX_CMD.RESET_MODEL discards the stream's sensor setting model and its pending requests. -/
  | ispResetModel (ag : Agent) (st : Fin 1024)
  /-- POST (R139): Writing ISP_SR_CTRL_h.POST accepts a setting request, computes its targets and queues the sensor writes, or refuses it. -/
  | ispPost (ag : Agent) (h : Fin 8) (v : Word)
  /-- LOAD (R154): FGS_GRAPH_CMD.LOAD checks a graph image, admits its segments and makes the graph resident. -/
  | graphLoad (ag : Agent) (g : Fin 256) (place : List Nat)
  /-- UNLOAD (R156): FGS_GRAPH_CMD.UNLOAD removes a resident graph that is stopped and has no job in flight. -/
  | graphUnload (ag : Agent) (g : Fin 256)
  /-- START (R156): FGS_GRAPH_CMD.START enables a loaded graph's triggers. -/
  | graphStart (ag : Agent) (g : Fin 256)
  /-- STOP (R156): FGS_GRAPH_CMD.STOP ends instantiation and discards the graph's pending triggers. -/
  | graphStop (ag : Agent) (g : Fin 256)
  /-- FGS_ENABLE (R194): Writing FGS_CTRL.ENABLE makes the sequencer take or ignore triggers. -/
  | fgsEnable (ag : Agent) (on : Bool)
  /-- FGS_CLEAR_COUNTS (R194): Writing CLEAR_COUNTS zeroes the sequencer counters. -/
  | fgsClearCounts (ag : Agent)
  /-- JOB_INSTANTIATE (R162): The sequencer turns the pending trigger chosen under R163 into a frame job once R162 is met. -/
  | jobInstantiate
  /-- JOB_TASK_POST (R166): The sequencer posts a job's next task to the post queue once the queue has room. -/
  | jobTaskPost
  /-- JOIN_WAIT_EXPIRY (R177): At WAIT_US after the trigger time, a JOIN still waiting commits with the streams it has. -/
  | joinWaitExpiry
  /-- WATCHDOG_CLOSE (R183): A node's window closes before it commits, so LATE is raised and the reaction follows WD_REACTION. -/
  | watchdogClose
  /-- JOB_TIMEOUT (R184): A job not in RETIRING at JOB_TIMEOUT_US is aborted and its record carries DEADLINE_MISSED. -/
  | jobTimeout
  /-- FGS_ABORT (R55): Writing FGS_ABORT.GO aborts the matching frame jobs and reports the reply. -/
  | fgsAbort (ag : Agent) (v : Word)
  /-- FGS_CQ_WRITE (R193): A write of FGS_CQ_BASE, SIZE or HEAD reconfigures or drains the queue and retries held records. -/
  | fgsCqWrite (ag : Agent) (p : Fin 4) (k : Fin 4) (v : Word)
  /-- RING_GRANT (R185): A slot ring is granted to the next job in instantiation order, with its slots set FREE and RESOURCE set. -/
  | ringGrant (g : Fin 256) (r : Fin 32)
  /-- RING_SLOT_COMMIT (R186): A producer commits a FILLING slot to FULL, which ends a stalled consumer's wait. `bs` and `last` are what the
  sender of the event holds of the slot; the producer forms its bytes and LAST itself (R235), so they decide nothing. (DEDUCED, log 36) -/
  | ringSlotCommit (g : Fin 256) (r : Fin 32) (bs : List Byte) (last : Bool)
  /-- RING_SLOT_RELEASE (R186): A consumer releases a DRAINING slot to FREE, which ends a stalled producer's wait. -/
  | ringSlotRelease (g : Fin 256) (r : Fin 32)
  /-- SLOT_RING_TIMEOUT (R188): A slot stall that lasts TIMEOUT_US ends the node with SLOT_STARVED or SLOT_BLOCKED. -/
  | slotRingTimeout (g : Fin 256) (r : Fin 32)
  /-- POST_TRY (R219): A read of HTS_PS_POST_TRY_h posts the task described by the post set, or refuses it. -/
  | postTry (ag : Agent) (h : Fin 8)
  /-- EVENT_TRY (R219): A read of HTS_PS_EVENT_TRY_h posts EVT_FLAGS to EVT_TARGET, or returns BUSY. -/
  | eventTry (ag : Agent) (h : Fin 8)
  /-- POST_QUEUE_TAKE (R223): Every 4 NOC_CLK cycles the scheduler takes one post from the post queue. -/
  | postQueueTake
  /-- DELAY_EXPIRY (R209): At a tick boundary a task's delay expires, and it becomes READY or WAITING. -/
  | delayExpiry
  /-- TASK_TIMEOUT (R211): A waiting task's timeout expires, and it becomes READY with TIMED_OUT = 1. -/
  | taskTimeout
  /-- TASK_DISPATCH (R203): A free worker receives the selected READY task, which becomes RUNNING. -/
  | taskDispatch (w : Agent)
  /-- WINDOW_OPEN (R207): A window of a partition opens on a window table, and engines running other partitions' tasks are asked to yield. -/
  | windowOpen
  /-- TAKE (R215): A read of HTS_TAKE_n takes the selected task for a TAKE-mode core, or stalls. -/
  | htsTake (ag : Agent) (n : Fin 8)
  /-- TAKE_TIMEOUT (R215): A stalled HTS_TAKE_n read returns 0 after TAKE_TIMEOUT_US. -/
  | takeTimeout (n : Fin 8)
  /-- HTS_DONE (R217): A write of HTS_DONE_n commits the core's RUNNING task with its status and progress. -/
  | htsDone (ag : Agent) (n : Fin 8) (v : Word)
  /-- HTS_YIELD (R216): A write of HTS_YIELD_n returns the RUNNING task to the head of its list and assigns the waiting task. -/
  | htsYield (ag : Agent) (n : Fin 8) (v : Word)
  /-- HTS_ABORT (R221): Writing HTS_ABORT_CTRL.GO aborts the named software task and reports the reply. -/
  | htsAbort (ag : Agent) (v : Word)
  /-- HTS_FREE (R220): A write of HTS_FREE releases a DONE software task to FREE. -/
  | htsFree (ag : Agent) (v : Word)
  /-- GROUP_FLAGS_CLEAR (R201): A W1C write to HTS_GROUP_FLAGS_g clears group flags, and an event in the same cycle wins. -/
  | groupFlagsClear (ag : Agent) (g : Fin 256) (v : Word)
  /-- HTS_TICK_WRITE (R210): A write of HTS_TICK changes the tick at the next boundary of the old tick, or is ignored. -/
  | htsTickWrite (ag : Agent) (v : Word)
  /-- HTS_MAJOR_CYCLE_WRITE (R205): A write of HTS_MAJOR_CYCLE outside 10 to 1,000 ms is ignored. -/
  | htsMajorCycleWrite (ag : Agent) (v : Word)
  /-- HTS_QUOTA_WRITE (R196): A quota write that would take the sum of quotas above 8,192 is ignored. -/
  | htsQuotaWrite (ag : Agent) (p : Fin 4) (v : Word)
  /-- HTS_ENABLE (R227): Writing HTS_CTRL.ENABLE starts or stops dispatch. -/
  | htsEnable (ag : Agent) (on : Bool)
  /-- HTS_CLEAR_COUNTS (R227): Writing CLEAR_COUNTS zeroes the scheduler counters. -/
  | htsClearCounts (ag : Agent)
  /-- TIMER_EXPIRY (R212): A timer expires at t mod PERIOD = PHASE and starts its triggers, events and strobes. -/
  | timerExpiry (n : Fin 32) (held : Bool)
  /-- TIMER_ENABLE (R212): Writing TIM_CTRL_n.ENABLE arms or disarms the timer. -/
  | timerEnable (ag : Agent) (n : Fin 32) (v : Word)
  /-- PGE_JOB_COMPLETE (R242): A pyramid job finishes its levels and commits its completion record. -/
  | pgeJobComplete (n : Fin 2)
  /-- PGE_YIELD (R243): A pyramid job yields at its next yield point and writes its state to the save area. -/
  | pgeYield (n : Fin 2) (pos : Nat)
  /-- WPE_JOB_COMPLETE (R252): A warp job finishes its tiles and commits its completion record. -/
  | wpeJobComplete (n : Fin 2)
  /-- WPE_YIELD (R254): A warp job yields at the next tile or sub-tile boundary. -/
  | wpeYield (n : Fin 2) (pos : Nat)
  /-- PIPELINE_PARITY_ERROR (R257): A parity error in a PGE or WPE buffer makes the job recompute, or end with RETRY_EXHAUSTED. -/
  | pipelineParityError (e : Fin 4)
  /-- ENGINE_ABORT (R261): Writing ABORT in a PGE, WPE, OFE, SGE, FTE or NC control register aborts its current job. -/
  | engineAbort (ag : Agent) (e : Fin 16)
  /-- ENGINE_ENABLE (R261): Writing ENABLE in an engine control register lets the engine take new jobs or stops it doing so. -/
  | engineEnable (ag : Agent) (e : Fin 16) (on : Bool)
  /-- ENGINE_CLEAR_COUNTS (R260): Writing CLEAR_COUNTS in an engine control register zeroes that engine's counters. -/
  | engineClearCounts (ag : Agent) (e : Fin 16)
  /-- OFE_JOB_COMPLETE (R281): An optical flow job finishes and commits its completion record. -/
  | ofeJobComplete (n : Fin 2)
  /-- SGE_JOB_COMPLETE (R290): A stereo job finishes both pipes and commits its completion record. -/
  | sgeJobComplete
  /-- STATE_BANK_YIELD (R291): An OFE, SGE, FTE or NC job yields at its next boundary and leaves its state in its partition's bank. -/
  | stateBankYield (e : Fin 12) (pos : Nat)
  /-- FLOW_STEREO_PARITY_ERROR (R294): A parity or scratch CRC error makes an OFE or SGE job recompute from row 0, or end with RETRY_EXHAUSTED. -/
  | flowStereoParityError (e : Fin 3)
  /-- FTE_JOB_COMPLETE (R323): A feature job finishes detection, descriptors, matching and table output, and commits its record. -/
  | fteJobComplete
  /-- FTE_PARITY_ERROR (R322): A parity error in FTE0 working memories makes the job recompute, or end with RETRY_EXHAUSTED. -/
  | fteParityError
  /-- PAIR_TABLE_LOAD (R320): FTE_PT_CMD.LOAD reads a pair table image and forms its 64 rotations, or refuses the load. -/
  | pairTableLoad (ag : Agent) (v : Word)
  /-- PAIR_TABLE_PARITY_ERROR (R321): A parity error in a resident pair table makes FTE0 reload the table and recompute the job. -/
  | pairTableParityError (k : Fin 4)
  /-- TRACK_SET_NEXT_ID_WRITE (R329): A write of FTE_TS_NEXT_ID_s sets the next TRACK_ID, unless it is 0 or the set is in use. -/
  | trackSetNextIdWrite (ag : Agent) (k : Fin 16) (v : Word)
  /-- NOP (R348): A NOP waits, marks a tile end and clears CLEAR_MASK once every earlier command has completed. -/
  | ncNop (n : Fin 8)
  /-- CONV (R350): A CONV command issues to an MXU and convolves its input with its weights. -/
  | ncConv (n : Fin 8)
  /-- MATMUL (R671): A MATMUL command issues to an MXU and multiplies its operands per batch element. -/
  | ncMatmul (n : Fin 8)
  /-- POOL (R351): A POOL command issues to the vector unit and pools its input. -/
  | ncPool (n : Fin 8)
  /-- ELTWISE (R351): An ELTWISE command issues to the vector unit and applies its binary operation. -/
  | ncEltwise (n : Fin 8)
  /-- ACT (R339): An ACT command applies a glaze set to a tensor. -/
  | ncAct (n : Fin 8)
  /-- SOFTMAX (R351): A SOFTMAX command issues to the vector unit and takes the softmax along DIM. -/
  | ncSoftmax (n : Fin 8)
  /-- NORM (R351): A NORM command issues to the vector unit and applies layer or RMS normalisation. -/
  | ncNorm (n : Fin 8)
  /-- RESIZE (R351): A RESIZE command issues to the vector unit and resizes by nearest or bilinear sampling. -/
  | ncResize (n : Fin 8)
  /-- TOPK (R351): A TOPK command writes the K largest values and their indices. -/
  | ncTopk (n : Fin 8)
  /-- GATHER (R396): A GATHER command reads indexed slices of its source. -/
  | ncGather (n : Fin 8)
  /-- SCATTER_SET (R398): A SCATTER_SET command writes indexed updates into its destination. -/
  | ncScatterSet (n : Fin 8)
  /-- SCATTER_ADD (R398): A SCATTER_ADD command accumulates indexed updates into its destination. -/
  | ncScatterAdd (n : Fin 8)
  /-- SCATTER_MAX (R398): A SCATTER_MAX command keeps the maximum of indexed updates in its destination. -/
  | ncScatterMax (n : Fin 8)
  /-- HALO (R403): A HALO command copies the edge of its local shard to a neighbour's halo area. -/
  | ncHalo (n : Fin 8)
  /-- NC_COMMAND_COMPLETE (R348): A command's last output becomes visible, and its SET_FLAG is set. -/
  | ncCommandComplete (n : Fin 8) (unit : Fin 4)
  /-- NC_PARITY_ERROR (R371): A memory parity or streamed weight CRC error makes the run recompute or reload, or end with RETRY_EXHAUSTED. -/
  | ncParityError (n : Fin 8) (kind : Fin 3)
  /-- NC_QUOTA_WRITE (R376): A quota write below the use already admitted, or above the granules owned, is ignored. -/
  | ncQuotaWrite (ag : Agent) (c : Fin 8) (p : Fin 4) (k : Fin 4) (v : Word)
  /-- TDU_CREATE (R391): CREATE checks the staged descriptor and gives it a handle, or refuses it. -/
  | tduCreate (ag : Agent) (p : Fin 4)
  /-- TDU_DESTROY (R392): DESTROY frees a descriptor's handle, unless it is pinned or a companion. -/
  | tduDestroy (ag : Agent) (p : Fin 4)
  /-- TDU_READ (R405): READ copies a descriptor to the staging words. -/
  | tduRead (ag : Agent) (p : Fin 4)
  /-- TDU_CLEAR_COUNTS (R405): CLEAR_COUNTS zeroes both out-of-bounds counters of the partition. -/
  | tduClearCounts (ag : Agent) (p : Fin 4)
  /-- REGION_CREATE (R379): A region CREATE checks the staged region and gives it an ID, or refuses it. -/
  | regionCreate (ag : Agent)
  /-- REGION_DESTROY (R380): A region DESTROY removes a region that no descriptor names. -/
  | regionDestroy (ag : Agent) (id : Nat)
  /-- REGION_READ (R407): A region READ copies a region to the staging words. -/
  | regionRead (ag : Agent) (id : Nat)
  /-- SCRATCHPAD_ACCESS (R412): An access of one bank word takes effect whole in its wheel slot, or queues as a remote request. -/
  | scratchpadAccess (ag : Agent) (mem : Fin 25) (off : Nat) (len : Nat) (data : Option (List (Option Byte))) (h : Option Nat) (newBad : List (Nat × Nat))
  /-- OWNERSHIP_CHANGE (R424): SPM_OWN_CMD.GO starts the zero-fill and owner change of the granules named, or refuses it. -/
  | ownershipChange (ag : Agent) (v : Word)
  /-- ZERO_FILL_DONE (R425): The zero-fill completes, and the granules take their new owner. -/
  | zeroFillDone
  /-- SCRATCHPAD_SCRUB (R430): Every SCRUB_DIV revolutions the scrubber reads one word of each bank and logs a failing one. -/
  | scratchpadScrub (busy : List Nat) (newBad : List (Nat × Nat × Nat))
  /-- SPM_CLEAR_COUNTS (R431): Writing SPM_CTRL.CLEAR_COUNTS zeroes the scratchpad counters. -/
  | spmClearCounts (ag : Agent)
  /-- DMA_CHANNEL_ENABLE (R443): Writing ENABLE = 1 arms a DISABLED channel. -/
  | dmaChannelEnable (ag : Agent) (e : Fin 4) (c : Fin 16) (v : Word)
  /-- DMA_CHANNEL_DISABLE (R442): Writing ENABLE = 0 disables the channel once its chain in progress has committed. -/
  | dmaChannelDisable (ag : Agent) (e : Fin 4) (c : Fin 16)
  /-- DMA_START (R439): Writing START counts as one software trigger for the channel. -/
  | dmaStart (ag : Agent) (e : Fin 4) (c : Fin 16)
  /-- DMA_PAUSE (R453): Writing PAUSE drains the channel's reads and holds its exact position. -/
  | dmaPause (ag : Agent) (e : Fin 4) (c : Fin 16)
  /-- DMA_RESUME (R453): Writing RESUME continues a paused channel from its held state. -/
  | dmaResume (ag : Agent) (e : Fin 4) (c : Fin 16)
  /-- DMA_ABORT (R455): Writing ABORT stops the channel and commits ABORTED, or replies ABORT_LATE. -/
  | dmaAbort (ag : Agent) (e : Fin 4) (c : Fin 16)
  /-- DMA_RESTART (R452): Writing RESTART returns every STOPPED channel to its state before the bus error. -/
  | dmaRestart (ag : Agent) (e : Fin 4)
  /-- DMA_ENGINE_ENABLE (R456): Writing DMA_CTRL.ENABLE lets chains start or stops them starting. -/
  | dmaEngineEnable (ag : Agent) (e : Fin 4) (on : Bool)
  /-- DMA_CLEAR_COUNTS (R456): Writing CLEAR_COUNTS zeroes the engine counters. -/
  | dmaClearCounts (ag : Agent) (e : Fin 4)
  /-- DMA_DESC_FETCH (R438): A channel fetches and checks the next descriptor of its chain when it reaches it. -/
  | dmaDescFetch (e : Fin 4) (c : Fin 16)
  /-- DMA_READ_ISSUE (R444): The engine issues one 64-byte read for the next RUNNING channel in rotation. -/
  | dmaReadIssue (e : Fin 4) (pass : List Nat)
  /-- DMA_READ_RETURN (R449): A read returns and is written, or repeated after an integrity error. -/
  | dmaReadReturn (e : Fin 4) (k : Nat) (ext : List Byte) (transient : Bool)
  /-- DMA_BUS_ERROR (R450): An error response stops the engine's channels, drains its reads and writes one error record. -/
  | dmaBusError (e : Fin 4) (k : Nat) (wr : Bool) (valid : Bool)
  /-- DMA_CQ_WRITE (R446): A write of DMA_CQ_BASE, SIZE or HEAD reconfigures or drains the queue and writes held records. -/
  | dmaCqWrite (ag : Agent) (e : Fin 4) (k : Fin 4) (v : Word)
  /-- MBX_SEND (R471): A write of MBX_SEND with GO delivers the staged words to the mailbox, or refuses the delivery. -/
  | mbxSend (ag : Agent) (v : Word)
  /-- MBX_MSG_LATCH (R473): A read of MBX_MSG_m_0 latches the whole slot into the read window. -/
  | mbxMsgLatch (ag : Agent) (m : Fin 64)
  /-- MBX_RELEASE (R474): A write of MBX_RELEASE_m with the slot's SEQ empties the mailbox. -/
  | mbxRelease (ag : Agent) (m : Fin 64) (v : Word)
  /-- LOCK_ACQUIRE (R479): A read of LCK_n acquires a free lock or reports its owner. -/
  | lockAcquire (readers : List Agent) (n : Fin 64)
  /-- LOCK_RELEASE (R480): A write of 0 by the owner releases the lock; any other write is counted as a bad release. -/
  | lockRelease (ag : Agent) (n : Fin 64) (v : Word)
  /-- LCK_FORCE (R483): A write of LCK_FORCE by the SMC or the safety island frees the lock named. -/
  | lckForce (ag : Agent) (v : Word)
  /-- CACHE_CLEAN_PARITY_ERROR (R468): A parity error in a clean cache line invalidates the line and refetches it. -/
  | cacheCleanParityError (n : Fin 8)
  /-- CACHE_DIRTY_PARITY_ERROR (R468): A parity error in a dirty line discards it, logs the block and raises source 45. -/
  | cacheDirtyParityError (n : Fin 8) (a : Nat)
  /-- DRAM_READ (R504): A DRAM block read is checked against the firewall and its CRC, and returns data or an integrity error. -/
  | dramRead (ag : Agent) (a : Nat) (n : Nat) (newBad : List Nat) (transient : List Nat)
  /-- DRAM_WRITE (R503): A DRAM write stores a block with its check value, merging masked bytes and mirroring to a pantry copy. -/
  | dramWrite (ag : Agent) (a : Nat) (bs : List Byte)
  /-- PANTRY_RELOAD (R508): The SMC's rewrite of a lost pantry range from the boot image section completes. -/
  | pantryReload (e : Fin 32)
  /-- DRAM_SCRUB (R509): The scrubber reads the next DRAM block on its schedule, and restores or logs a failing one. -/
  | dramScrub (newBad : List Nat)
  /-- DIE_TEMP_SAMPLE (R510): Each 1 ms die temperature sample updates the die's thermal state and refresh rate. -/
  | dieTempSample (d : Fin 4) (temp : BitVec 16)
  /-- FLIT_CRC_FAIL (R502): A flit that fails its CRC-16 is replayed; after 3 replays the link goes out of service. -/
  | flitCrcFail (ag : Agent) (replays : Nat) (dead : Bool)
  /-- DMC_SHARE_WRITE (R494): A write of DMC_SHARE_p sets the partition's guarantee and cap, or is ignored with SHARE_REJECT. -/
  | dmcShareWrite (ag : Agent) (p : Fin 4) (v : Word)
  /-- PANTRY_ENTRY_WRITE (R506): Writing VALID = 1 validates a pantry entry, or is refused with PANTRY_REJECT. -/
  | pantryEntryWrite (ag : Agent) (e : Fin 32) (v : Word)
  /-- FIREWALL_REGION_WRITE (R513): A firewall region write takes effect in the NOC_CLK cycle after the write. -/
  | firewallRegionWrite (ag : Agent) (r : Fin 64) (w : Fin 3) (v : Word)
  /-- DMC_CLEAR_COUNTS (R512): Writing DMC_CTRL.CLEAR_COUNTS zeroes the DRAM controller counters. -/
  | dmcClearCounts (ag : Agent)
  /-- DMC_SCRUB_CFG_WRITE (R513): A write of PASS_S outside 60 to 3,600 is ignored. -/
  | dmcScrubCfgWrite (ag : Agent) (v : Word)
  /-- LOCK_REQ (R520): SAF_CTRL.LOCK_REQ makes the island check the configuration and set or refuse the partition configuration lock. -/
  | safLockReq (ag : Agent)
  /-- ARM (R542): SAF_CTRL.ARM, together with a passing proof interval, moves the island from LOCKED to RUN. -/
  | safArm (ag : Agent)
  /-- SAF_FORCE (R540): A write of SAF_FORCE.GO is the safe-state cause REQUESTED. -/
  | safForce (ag : Agent)
  /-- SAF_HEARTBEAT (R539): A write of SAF_HEARTBEAT restarts the heartbeat supervision. -/
  | safHeartbeat (ag : Agent)
  /-- HEARTBEAT_TIMEOUT (R539): A gap longer than HB_US is the cause HEARTBEAT. -/
  | heartbeatTimeout
  /-- LOCKSTEP_MISMATCH (R517): A lockstep mismatch stops SAFE_OK in hardware and drops SAFE_OFF_N 20 ms later. -/
  | lockstepMismatch
  /-- CLOCK_FAULT (R516): A SAFE_CLK deviation beyond ±25 % for 100 µs, or a PLL unlock, is the cause CLOCK_FAULT. -/
  | clockFault
  /-- TASTER_COMPARE_COMPLETE (R525): The taster finishes comparing the element pairs and commits its verdict record. -/
  | tasterCompareComplete
  /-- TASTER_VERDICT (R528): A verdict reaches the island and is shifted into its policy history. -/
  | tasterVerdict
  /-- SAFE_OFF_DROP (R543): The island drops SAFE_OFF_N once SAFE_OK has stopped and the record is written, or 20 ms after the decision. -/
  | safeOffDrop
  /-- PROOF_INTERVAL_OPEN (R533): The proof window opens, and the island re-lands slot 0 of every valid proof set. -/
  | proofIntervalOpen
  /-- PROOF_WINDOW_CLOSE (R535): The proof window closes, and each set and the interval are judged PASS, FAIL or MISSED. -/
  | proofWindowClose
  /-- WD_EVENT_ARRIVAL (R538): A LATE or EARLY of a P0 node reaches the island as a cause or a notice. -/
  | wdEventArrival
  /-- SAF_CAUSE_CLEAR (R547): SAF_CAUSE_CLEAR.GO empties the retention memory. -/
  | safCauseClear (ag : Agent)
  /-- SAF_CLEAR_COUNTS (R548): Writing SAF_CTRL.CLEAR_COUNTS zeroes the island counters. -/
  | safClearCounts (ag : Agent)
  /-- DERATE_STEP (R574): At a major-cycle boundary, or at once, the device moves to the next derate step and re-admits the resident graphs. -/
  | derateStep
  /-- PLL_SLEW_DONE (R574): The PLL slew to the new VCO ends, and SLEWING clears. -/
  | pllSlewDone
  /-- DOMAIN_POWER_OFF (R577): A domain idle for IDLE_US with AUTO_OFF set powers off. -/
  | domainPowerOff (d : Fin 10) (wfi : Bool)
  /-- DOMAIN_WAKE (R578): A READY task, a mailbox delivery or a register access starts the wake of a powered-off domain. -/
  | domainWake (d : Fin 10)
  /-- DOMAIN_WAKE_DONE (R578): The wake completes, the domain is ON and its waiting work proceeds. -/
  | domainWakeDone (d : Fin 10)
  /-- POWER_CREDIT_GRANT (R583): A waiting credit request is granted once it fits the pool under the P0 reserve. -/
  | powerCreditGrant
  /-- POWER_BASE_UPDATE (R581): Every 1 s the SMC recomputes BASE and the credit pool. -/
  | powerBaseUpdate
  /-- THERMAL_CAP_UPDATE (R586): Every 10 ms THERM_CAP is lowered or raised by 4 units according to temperature. -/
  | thermalCapUpdate (tj : List (BitVec 16))
  /-- RAIL_READ (R587): Every 1 ms the SMC reads every rail over PMBus and checks for POWER_THERMAL. -/
  | railRead (rs : List RailReading)
  /-- DROOP (R585): A supply droop skips MAC_CLK pulses in NE_W or NE_E, or is counted in other domains. -/
  | droopEvent (d : Fin 10)
  /-- SLACK_SAMPLE (R591): Every 10 ms the SMC reads the caramel monitors and re-plans each domain's margin. -/
  | slackSample (xs : List SlackReading)
  /-- FLASH_LOG_APPEND (R597): The SMC appends a held log record to flash within LOG_RATE, erasing the next block first. -/
  | flashLogAppend
  /-- PMG_BUDGET_LIMIT_WRITE (R580): A write of PMG_BUDGET_LIMIT sets the budget limit, or is ignored below 200. -/
  | pmgBudgetLimitWrite (ag : Agent) (v : Word)
  /-- PMG_BUDGET_MAX_WRITE (R599): A write of PMG_BUDGET_MAX outside 200 to 760 is ignored. -/
  | pmgBudgetMaxWrite (ag : Agent) (v : Word)
  /-- PMG_P0_RESERVE_WRITE (R599): A write of P0_RESERVE above PMG_BUDGET_MAX − 200 is ignored. -/
  | pmgP0ReserveWrite (ag : Agent) (v : Word)
  /-- PMG_THERM_CFG_WRITE (R599): A write of PMG_THERM_CFG with a field out of range is ignored. -/
  | pmgThermCfgWrite (ag : Agent) (v : Word)
  /-- PMG_CLEAR_COUNTS (R598): Writing PMG_CTRL.CLEAR_COUNTS zeroes the power counters. -/
  | pmgClearCounts (ag : Agent)
  /-- INBOUND_BAR0_ACCESS (R618): An inbound BAR 0 access from the host or a peer reaches a register, or completes as Unsupported Request. -/
  | inboundBar0Access (ag : Agent) (off : Nat) (size : Nat) (v : Option Word)
  /-- INBOUND_BAR2_ACCESS (R618): An inbound BAR 2 access maps to DRAM and passes the firewall, or is refused. -/
  | inboundBar2Access (rid : Fin 65536) (o : Nat) (n : Nat) (data : Option (List Byte)) (poison : Bool)
  /-- RQ_HEAD_WRITE (R622): A host write of RQ_HEAD_q or PAY_HEAD_q in BAR 4 frees room in a result queue. -/
  | rqHeadWrite (q : Fin 256) (pay : Bool) (v : Word)
  /-- MGQ_DOORBELL (R626): A host write of the submission tail to BAR 4 announces new management commands. -/
  | mgqDoorbell (tail : Word) (cmds : List (List Word))
  /-- IDENTIFY (R627): IDENTIFY returns the identity, contract level, image version and SEC_STATUS. -/
  | mgqIdentify
  /-- ATTEST (R615): ATTEST writes a signed 256-byte attestation report to host memory. -/
  | mgqAttest
  /-- GRAPH_ADMIT (R627): GRAPH_ADMIT creates a P2 pantry entry and loads and starts a host graph. -/
  | mgqGraphAdmit (place : List Nat)
  /-- GRAPH_REMOVE (R627): GRAPH_REMOVE stops and unloads a host graph and invalidates its pantry entry. -/
  | mgqGraphRemove
  /-- FLASH_WRITE (R627): FLASH_WRITE erases and programs a range of a slot that is not running. -/
  | mgqFlashWrite (src : Option (List Byte))
  /-- FLASH_READ (R627): FLASH_READ copies a flash range or the log area to host memory. -/
  | mgqFlashRead
  /-- SET_TRIAL (R627): SET_TRIAL verifies a slot and sets it to TRIAL with TRIES 0. -/
  | mgqSetTrial
  /-- ADVANCE_ROLLBACK (R612): ADVANCE_ROLLBACK raises FUSE_RB to the running image's ROLLBACK when permitted. -/
  | mgqAdvanceRollback
  /-- ENROL_OWNER (R611): ENROL_OWNER burns an owner key hash into the first free owner slot. -/
  | mgqEnrolOwner (key : Option (List Byte))
  /-- REVOKE_OWNER0 (R611): REVOKE_OWNER0 burns the revocation of OWNER_HASH0 when permitted. -/
  | mgqRevokeOwner0
  /-- DISABLE_DEBUG (R616): DISABLE_DEBUG burns DEBUG_POLICY to DISABLED when permitted. -/
  | mgqDisableDebug
  /-- DEBUG_CHALLENGE (R616): DEBUG_CHALLENGE issues a 68-byte challenge for an unlock of the given scope. -/
  | mgqDebugChallenge
  /-- DEBUG_RESPONSE (R616): DEBUG_RESPONSE checks a signed response and grants or refuses the unlock. -/
  | mgqDebugResponse (src : Option (List Byte))
  /-- CONFIRM (R605): SEC_BOOT_CTRL.CONFIRM sets the running slot to CONFIRMED. -/
  | secConfirm (ag : Agent)
  /-- PCI_QUEUE_CONFIG_WRITE (R629): A write of a queue register while its ENABLE is 1 is ignored, except one that only clears ENABLE. -/
  | pciQueueConfigWrite (ag : Agent) (off : Nat) (v : Word)
  /-- LINK_DOWN (R621): With the link down, outbound reads and writes end in bus errors for the requesting engine. -/
  | linkDown
  /-- COMPLETION_TIMEOUT (R621): An outbound read without a completion after 50 ms is a bus error of its engine. -/
  | completionTimeout (e : Fin 12) (k : Nat)
  /-- SNAPSHOT (R633): PMC_CTRL.SNAPSHOT copies every counter and monitor to the shadow bank and raises SNAP_SEQ. -/
  | pmcSnapshot (ag : Agent)
  /-- FREEZE (R633): Writing PMC_CTRL.FREEZE stops or restarts all counting. -/
  | pmcFreeze (ag : Agent) (on : Bool)
  /-- PMC_CLEAR (R633): PMC_CTRL.CLEAR zeroes every event counter and overflow bit. -/
  | pmcClear (ag : Agent)
  /-- CLEAR_PEAK (R636): PMC_CTRL.CLEAR_PEAK clears every PEAK at the next window end. -/
  | pmcClearPeak (ag : Agent)
  /-- PMC_BW_WINDOW_WRITE (R636): A write of WINDOW_US takes effect at the next boundary and clears every PEAK, or is ignored. -/
  | pmcBwWindowWrite (ag : Agent) (v : Word)
  /-- BW_WINDOW_END (R636): At each window end LAST and PEAK of every bandwidth monitor are updated. -/
  | bwWindowEnd
  /-- CRUMB_TRAIL_ENABLE (R637): Setting PMC_CT_CTRL.ENABLE starts recording decisions to the crumb ring. -/
  | crumbTrailEnable (ag : Agent) (mode : Bool)
  /-- CRUMB_TRAIL_DISABLE (R638): Clearing ENABLE stops recording, and buffered records are written within 10 µs. -/
  | crumbTrailDisable (ag : Agent) (mode : Bool)
  /-- CRUMB_RECORD_WRITE (R637): A buffered crumb record is written to the DRAM ring, and TAIL advances. -/
  | crumbRecordWrite
  /-- TELEMETRY_SAMPLE (R639): Every second the SMC forms a telemetry record and sends it to the host queue. -/
  | telemetrySample
  /-- SMBUS_READ_IDENTITY (R641): SMBus command 0x01 returns SMC_DEVICE_ID and SMC_CONTRACT_LEVEL. -/
  | smbusReadIdentity
  /-- SMBUS_READ_TELEMETRY_LOW (R641): SMBus command 0x20 latches the latest telemetry record and returns its first half. -/
  | smbusReadTelemetryLow
  /-- SMBUS_READ_TELEMETRY_HIGH (R641): SMBus command 0x21 returns the second half of the latched record. -/
  | smbusReadTelemetryHigh
  /-- SMBUS_READ_BUDGET (R641): SMBus command 0x30 Read Word returns PMG_BUDGET_LIMIT. -/
  | smbusReadBudget
  /-- SMBUS_WRITE_BUDGET (R641): SMBus command 0x30 Write Word with a valid PEC writes PMG_BUDGET_LIMIT. -/
  | smbusWriteBudget (v : BitVec 16) (pec : Option Byte)
  /-- GPIO_EDGE (R663): An edge at a GPIO ball fires sequencer, DMA, APLIC or PPS triggers. -/
  | gpioEdge (n : Fin 16) (level : Bool)
  /-- GPIO_CFG_WRITE (R663): A write of SMC_GPIO_CFG_n sets the mode, or is ignored when STROBE names another partition's timer. -/
  | gpioCfgWrite (ag : Agent) (n : Fin 16) (v : Word)
  /-- EXTEST (R665): The EXTEST instruction selects the boundary register. -/
  | jtagExtest
  /-- SAMPLE_PRELOAD (R665): The SAMPLE/PRELOAD instruction selects the boundary register. -/
  | jtagSamplePreload
  /-- IDCODE (R665): The IDCODE instruction selects the 32-bit identification register. -/
  | jtagIdcode
  /-- BYPASS (R665): The BYPASS instruction, or any reserved one, selects the 1-bit bypass register. -/
  | jtagBypass (code : Fin 64)
  /-- DBG_CHAL (R665): Update-DR of DBG_CHAL issues a debug challenge through JTAG. -/
  | jtagDbgChal (scope : Word)
  /-- DBG_RESP (R665): Update-DR of DBG_RESP submits a debug response through JTAG. -/
  | jtagDbgResp (bs : List Byte)
  /-- POWER_RAIL_REMOVAL (R654): The rails other than VDD_AON are removed, in order or after SAFE_OFF_N in any order. -/
  | powerRailRemoval
  /-- VDD_AON_LOSS (R547): Loss of VDD_AON loses the retained cause record. -/
  | vddAonLoss
  /-- PERST_RELEASE (R601): Release of PERST_N starts link training, and configuration space becomes ready within t_CFG. -/
  | perstRelease
  /-- LINK_UP (R617): The PCI Express link completes training and comes up at a negotiated rate and width, updating PCI_LINK_STATUS. -/
  | linkUp (rate : Fin 8) (width : Fin 16)
  /-- DOMAIN_POWER_OFF_DONE (R578): A power-down in progress completes and the domain passes from POWERING_OFF to OFF. -/
  | domainPowerOffDone (d : Fin 10)
  /-- DROOP_RECOVERY (R585): The supply of NE_W or NE_E recovers above its threshold and the detector stops skipping MAC_CLK pulses. -/
  | droopRecovery (d : Fin 10) (pulses : Nat)
  /-- CONSOLE_INPUT (R616): A character arrives on UART_RX and is taken as console input when a FULL unlock is in effect. -/
  | consoleInput (c : Byte)
  /-- HOST_OUTBOUND_ACCESS (R619): A host-core load or store in the outbound host or peer window is sent over PCI Express, or faults or is dropped while Bus Master Enable is 0. -/
  | hostOutboundAccess (n : Fin 8) (a : Nat) (len : Nat) (data : Option (List Byte)) (ext : Option (List Byte))
deriving DecidableEq, Repr

end Sys2Proof
end

