-- ==== Sys2Proof/Decode.lean ====
section
/-! DEFINITION. The commands that a word of the opcode table spells: no row of the table gives bits, so no word spells one. -/

namespace Sys2Proof

/-- No row of spec/opcode_table.json gives its command a bit pattern: every word is refused. (DESIGN CHOICE, log 1) -/
def decodeTableWord (_nbits _w : Nat) : Option Instr := none

end Sys2Proof
end

