-- ==== Sys2Proof/Config.lean ====
section
/-! DEFINITION. What the spec leaves to an implementation or to a standard outside it: free values, each an opaque constant
that no proof can evaluate. -/

namespace Sys2Proof.Config

/-- A free 32-bit value, by draw number and use. (DESIGN CHOICE, log 5) -/
opaque freeWord : Nat → Word

/-- A free byte, by draw number and position. (DESIGN CHOICE, log 5) -/
opaque freeByte : Nat → Nat → Byte

/-- An FP32 sum whose order of additions the spec leaves open (R238, R240, R248, R249, R338, R351, R398): the result's code, by the use
and the codes of the operands. (UNVERIFIED, log 40) -/
opaque fp32Sum : Nat → List Nat → Nat

/-- An INT32 accumulation that saturates in some orders of its additions and not in others (R338): from start and products, the value when it
saturates, and whether it does. (UNVERIFIED, log 40) -/
opaque intSum : Int → List Int → Int × Bool

/-- An FP32 result the spec does not state (the maximum of NaN, a bilinear sample …), by use and operands: its code. (DESIGN CHOICE, log 41) -/
opaque fpOpen : Nat → List Nat → Nat

/-- A byte of an output that no rule states, as a function of a command's inputs (R370): use, inputs, place. (DESIGN CHOICE, log 41) -/
opaque ncByte : Nat → List Nat → Nat → Byte

/-- How far exp, reciprocal and reciprocal square root lie from the nearest value, in units in the last place: 0 to 4 for −2 to 2 (R351). (UNVERIFIED, log 40) -/
opaque expUlp : Nat → Fin 5
opaque recipUlp : Nat → Fin 5
opaque rsqrtUlp : Nat → Fin 5

/-- Demosaic of R114, whose sums of gradients, interpolated greens and interpolated colour differences the spec does not give: by
direction (vertical or not) or colour (0 red, 2 blue), the 25 values of the window, and the channel of its centre. (UNVERIFIED, log 25) -/
opaque demosaicGrad : Bool → List Nat → Nat → Nat
opaque demosaicGreen : Bool → List Nat → Nat → BitVec 16
opaque demosaicDiff : Nat → List Nat → Nat → Int

/-- Red (0) and blue (2) of a MONO pixel after stages 7 to 9, which pass its one value through as green (R106). (UNVERIFIED, log 25) -/
opaque monoColour : Nat → Nat → BitVec 16

/-- The fused base voltage of a domain at a derate step, in mV (R590). (UNVERIFIED, log 6) -/
opaque baseMv : Nat → Nat → Nat

/-- The filter of BASE over 8 s (R581), which the spec does not state: of the samples of the last eight seconds, in µW. (UNVERIFIED, log 63) -/
opaque baseFilter : List Nat → Nat

/-- SM3 (R604) of bytes, and SM4 (R614) of a 128-bit block under a key: standards the spec only names. (UNVERIFIED, log 7) -/
opaque sm3 : List Byte → List Byte
opaque sm4 : List Byte → Nat → Nat

/-- SM2 (R607, R613, R615, R616), a standard the spec only names: whether a signature is valid (key, message, signature), the signature of
a message under a private key, and the decryption of a text under a private key. (UNVERIFIED, log 7) -/
opaque sm2Verify : List Byte → List Byte → List Byte → Bool
opaque sm2Sign : List Byte → List Byte → List Byte
opaque sm2Decrypt : List Byte → List Byte → List Byte

/-- Aqnacor's JEP106 code (R665) and PCI-SIG Vendor ID (R617), which the spec does not give. (UNVERIFIED, log 6) -/
opaque jep106 : BitVec 11
opaque vendorId : BitVec 16

/-- How long after PERST_N release, or POR_N release when that is later, configuration space is ready (R601): at most 80 ms, in ns. (UNVERIFIED, log 6) -/
opaque tCfg : Fin 80000001

/-- What a configuration register reads whose contents the spec leaves to PCI Express 6.0 (R617), by its dword number. (PRESUMED, log 30) -/
opaque cfgDword : Nat → BitVec 32

/-- The dword of configuration space that holds the Resizable BAR control register of BAR 2 (R617, R618), and log2 of the size of BAR 2 in
GiB before it is written. (PRESUMED, log 30) -/
opaque rebarCtl : Nat
opaque bar2Default : Fin 6

/-- How long a command that shows PENDING takes, by the register of the PENDING bit and the local time of its start, in ns; the rules only
bound it. (DESIGN CHOICE, log 85) -/
opaque cmdTime : Nat → Nat → Nat

/-- The boundary register's cells (R665), in bytes: one bit per cell, which the spec does not order. (UNVERIFIED, log 6) -/
opaque boundaryBytes : Nat

end Sys2Proof.Config
end

