-- ==== Sys2Proof/Machine/Bits.lean ====
section
/-! DEFINITION. Bit fields, byte order and fixed-point helpers (00_scope.md R6, R7, R8) and the sparse stores every
memory and register file of the block is held in. -/

namespace Sys2Proof.Machine

/-- The unsigned value of bits [hi:lo] of a number (R6). -/
def nbits (v hi lo : Nat) : Nat := v / 2 ^ lo % 2 ^ (hi + 1 - lo)

/-- Bits [hi:lo] of a word (R6). -/
def bits (v : Word) (hi lo : Nat) : Nat := nbits v.toNat hi lo

/-- Bit i of a word. -/
def bit (v : Word) (i : Nat) : Bool := nbits v.toNat i i == 1

/-- The word with bits [hi:lo] replaced by `n` (truncated to the field). -/
def setBits (v : Word) (hi lo n : Nat) : Word :=
  BitVec.ofNat 32 (v.toNat % 2 ^ lo + n % 2 ^ (hi + 1 - lo) * 2 ^ lo + v.toNat / 2 ^ (hi + 1) * 2 ^ (hi + 1))

/-- A Bool as a bit. -/
def b2n (b : Bool) : Nat := if b then 1 else 0

/-- The signed value of the low `w` bits of `n` (R8). -/
def sext (w n : Nat) : Int :=
  let m := n % 2 ^ w
  if m < 2 ^ (w - 1) then (m : Int) else (m : Int) - (2 ^ w : Nat)

/-- The two's-complement code of an integer in `w` bits. -/
def unsext (w : Nat) (x : Int) : Nat := (x % ((2 ^ w : Nat) : Int)).toNat

/-- An integer clamped to [lo, hi]. -/
def clampI (lo hi x : Int) : Int := if x < lo then lo else if hi < x then hi else x

/-- ⌈a / b⌉; 0 for b = 0. -/
def ceilDiv (a b : Nat) : Nat := if b = 0 then 0 else (a + b - 1) / b

/-- Whether `n` is a power of two. -/
def isPow2 (n : Nat) : Bool := n != 0 && 2 ^ Nat.log2 n == n

/-- The `n` bytes of a value, least significant first (R7). -/
def leBytes : Nat → Nat → List Byte
  | 0, _ => []
  | n + 1, v => BitVec.ofNat 8 v :: leBytes n (v / 256)

/-- The value of bytes, least significant first (R7). -/
def leNat : List Byte → Nat
  | [] => 0
  | b :: t => b.toNat + 256 * leNat t

/-- The bytes of words in order, each little-endian (R7). -/
def wordBytes (ws : List Word) : List Byte := ws.flatMap (fun w => leBytes 4 w.toNat)

/-- Word `n` of a structure held as bytes (R7); 0 beyond its end. -/
def wordAt (bs : List Byte) (n : Nat) : Word := BitVec.ofNat 32 (leNat ((bs.drop (4 * n)).take 4))

/-- Word `n` of a list of words; 0 beyond its end. (DESIGN CHOICE, log 80) -/
def wd (ws : List Word) (n : Nat) : Word := ws.getD n 0#32

/-- Entry `n` of a list replaced; the list unchanged when it has none. -/
def setAt {α : Type} (l : List α) (n : Nat) (v : α) : List α := l.set n v

/-- Entry `n` of a list changed by `f`. -/
def modAt {α : Type} (l : List α) (n : Nat) (f : α → α) : List α := l.modify n f

/-! ### Sparse stores -/

/-- The value at key `k`; what the store lists first for it, else the default. -/
def Store.get {α : Type} (d : Nat → α) : List (Nat × α) → Nat → α
  | [], k => d k
  | (a, v) :: t, k => if k = a then v else Store.get d t k

/-- A key put in its place before the first larger one. -/
def Store.insert {α : Type} (k : Nat) (v : α) : List (Nat × α) → List (Nat × α)
  | [] => [(k, v)]
  | (a, w) :: t => if k < a then (k, v) :: (a, w) :: t else (a, w) :: Store.insert k v t

/-- The store with key `k` holding `v`: an entry equal to the default is not listed. -/
def Store.put {α : Type} [DecidableEq α] (d : Nat → α) (k : Nat) (v : α) (l : List (Nat × α)) : List (Nat × α) :=
  let l' := l.filter (fun e => e.1 != k)
  if v = d k then l' else Store.insert k v l'

/-- The store with every key in [lo, hi) back at its default. -/
def Store.clear {α : Type} (lo hi : Nat) (l : List (Nat × α)) : List (Nat × α) :=
  l.filter (fun e => decide (e.1 < lo) || decide (hi ≤ e.1))

/-- Strictly rising keys above `b`, none holding the default. -/
def Store.wfFrom {α : Type} [DecidableEq α] (d : Nat → α) : Option Nat → List (Nat × α) → Bool
  | _, [] => true
  | b, (a, v) :: t =>
    (match b with | none => true | some x => decide (x < a)) && decide (v ≠ d a) && Store.wfFrom d (some a) t

/-- The canonical form of a store. -/
def Store.wf {α : Type} [DecidableEq α] (d : Nat → α) (l : List (Nat × α)) : Bool := Store.wfFrom d none l

/-- Consecutive values put from key `k` on. -/
def Store.putList {α : Type} [DecidableEq α] (d : Nat → α) : Nat → List α → List (Nat × α) → List (Nat × α)
  | _, [], l => l
  | k, v :: vs, l => Store.putList d (k + 1) vs (Store.put d k v l)

/-- `n` consecutive values from key `k` on. -/
def Store.getList {α : Type} (d : Nat → α) (l : List (Nat × α)) (k : Nat) : Nat → List α
  | 0 => []
  | n + 1 => Store.get d l k :: Store.getList d l (k + 1) n

end Sys2Proof.Machine
end

