-- ==== Sys2Proof/Machine/Crc.lean ====
section
/-! DEFINITION. The check codes of the device: CRC-32C (01_architecture.md R47), CRC-8 (02_pixel_ports.md R66), CRC-16
(14_dram_integrity.md R501) and the PEC of SMBus (19_counters_trace.md R641). -/

namespace Sys2Proof.Machine

/-- `n` steps of a reflected 32-bit CRC whose reflected polynomial is 0x82F6_3B78 (0x1EDC_6F41 reflected, R47). -/
def crc32cBits : Nat → Nat → Nat
  | 0, c => c
  | n + 1, c => crc32cBits n (if c % 2 = 1 then (c / 2) ^^^ 0x82F63B78 else c / 2)

/-- One byte of CRC-32C. -/
def crc32cByte (c : Nat) (b : Byte) : Nat := crc32cBits 8 (c ^^^ b.toNat)

/-- CRC-32C of bytes (R47): initial value and final XOR 0xFFFF_FFFF. -/
def crc32c (bs : List Byte) : Word := BitVec.ofNat 32 ((bs.foldl crc32cByte 0xFFFFFFFF) ^^^ 0xFFFFFFFF)

/-- `n` steps of a non-reflected CRC of width `w` (top bit first). -/
def crcTopBits (w poly : Nat) : Nat → Nat → Nat
  | 0, c => c
  | n + 1, c =>
    crcTopBits w poly n (if c / 2 ^ (w - 1) % 2 = 1 then ((c * 2) % 2 ^ w) ^^^ poly else (c * 2) % 2 ^ w)

/-- CRC-8 with polynomial 0x07, initial value 0, not reflected (R66). -/
def crc8 (bs : List Byte) : Nat := bs.foldl (fun c b => crcTopBits 8 0x07 8 (c ^^^ b.toNat)) 0

/-- CRC-16 with polynomial 0x1021, initial value 0xFFFF, not reflected (R501). -/
def crc16 (bs : List Byte) : Nat := bs.foldl (fun c b => crcTopBits 16 0x1021 8 (c ^^^ (256 * b.toNat))) 0xFFFF

end Sys2Proof.Machine
end

