-- ==== Sys2Proof/Machine/Flags.lean ====
section
/-! DEFINITION. Status codes (01_architecture.md R37), record kinds (R46), frame marks (R41, R42) and the causes and notices of the safety
island (15_functional_safety.md R540, R548). -/

namespace Sys2Proof.Machine

namespace St
abbrev done : Nat := 0x00
abbrev aborted : Nat := 0x01
abbrev abortLate : Nat := 0x02
abbrev paused : Nat := 0x03
abbrev deadlineMissed : Nat := 0x08
abbrev early : Nat := 0x09
abbrev descInvalid : Nat := 0x10
abbrev alignFault : Nat := 0x11
abbrev rangeFault : Nat := 0x12
abbrev partitionFault : Nat := 0x13
abbrev busError : Nat := 0x20
abbrev integrity : Nat := 0x21
abbrev retryExhausted : Nat := 0x22
abbrev cqFull : Nat := 0x23
abbrev slotStarved : Nat := 0x30
abbrev slotBlocked : Nat := 0x31
abbrev busy : Nat := 0x38
abbrev inputMarked : Nat := 0x40
abbrev footprint : Nat := 0x48
abbrev timeBudget : Nat := 0x49
abbrev untrusted : Nat := 0x50
abbrev internal : Nat := 0x7F
end St

namespace Mark
abbrev crcErr : Nat := 0x001
abbrev lineMissing : Nat := 0x002
abbrev late : Nat := 0x004
abbrev droppedPrev : Nat := 0x008
abbrev settings : Nat := 0x010
abbrev joinPartial : Nat := 0x020
abbrev recomputed : Nat := 0x040
abbrev untrusted : Nat := 0x080
abbrev proof : Nat := 0x100
abbrev degraded : Nat := 0x200
end Mark

namespace Kind
abbrev dma : Nat := 0x01
abbrev dmaError : Nat := 0x02
abbrev pipeline : Nat := 0x10
abbrev segment : Nat := 0x20
abbrev frameJob : Nat := 0x30
abbrev node : Nat := 0x31
end Kind

namespace Cause
abbrev tasterTrip : Nat := 0x01
abbrev proofFail : Nat := 0x02
abbrev proofMissed : Nat := 0x03
abbrev wdLate : Nat := 0x04
abbrev wdEarly : Nat := 0x05
abbrev dramStop : Nat := 0x06
abbrev linkDown : Nat := 0x07
abbrev pantryLost : Nat := 0x08
abbrev clockFault : Nat := 0x09
abbrev lockstep : Nat := 0x0A
abbrev heartbeat : Nat := 0x0B
abbrev controlFault : Nat := 0x0C
abbrev powerThermal : Nat := 0x0D
abbrev requested : Nat := 0x0E
end Cause

namespace Notice
abbrev untrusted : Nat := 0
abbrev proofMissed : Nat := 1
abbrev wdMark : Nat := 2
abbrev pantryLost : Nat := 3
abbrev heartbeat : Nat := 4
abbrev controlFault : Nat := 5
abbrev p0Refused : Nat := 6
abbrev p2Trip : Nat := 7
end Notice

/-- Marks propagate by OR; no node clears one (R42). -/
def orMarks (a b : Nat) : Nat := a ||| b

/-- Whether marks hold every bit of `m`. -/
def hasMark (a m : Nat) : Bool := a &&& m == m

/-- A node's output is usable (R172). -/
def usable (st : Nat) : Bool := st == St.done || st == St.inputMarked || st == St.deadlineMissed

/-- DONE, or INPUT_MARKED when marks stand (R42). -/
def doneWith (marks : Nat) : Nat := if marks = 0 then St.done else St.inputMarked

/-- Frame number a is later than b (R40). -/
def laterThan (a b : Nat) : Bool :=
  let d := (65536 + a - b % 65536) % 65536
  decide (1 ≤ d) && decide (d ≤ 32767)

/-- The frame tag word of a stream's frame (R39). -/
def frameTag (stream frame : Nat) : Word := BitVec.ofNat 32 (2 ^ 31 + stream % 1024 * 65536 + frame % 65536)

end Sys2Proof.Machine
end

