-- ==== Sys2Proof/Machine/RegMap.lean ====
section
/-! DEFINITION. The register map of BAR 0 (00_scope.md R11, R14, R15, R18 and the register tables of every chapter):
the offset of every register by its name, and one row per register or register family with its access masks and its
reset value. -/

namespace Sys2Proof.Machine

/-- One row of the register map: the register (or family of registers) at `base + i * s1 + j * s2` for `i < n1`, `j < n2`.
`rw` holds the bits a permitted write changes, `lk` those it changes only while the partition configuration lock is
not set ("RW until lock", R231), `w1c` those a written 1 clears (R11); every other bit is RO, WO, W1P, RL or Reserved. -/
structure RegRow where
  name : String
  base : Nat
  n1 : Nat
  s1 : Nat
  n2 : Nat
  s2 : Nat
  rw : Nat
  lk : Nat
  w1c : Nat
  reset : Nat
deriving DecidableEq, Repr

/-- Whether offset `off` is a register of the row. -/
def RegRow.holds (r : RegRow) (off : Nat) : Bool :=
  decide (r.base ≤ off) &&
    (let d := off - r.base
     let i := if r.n1 ≤ 1 then 0 else min (d / r.s1) (r.n1 - 1)
     let e := d - i * r.s1
     if r.n2 ≤ 1 then decide (e = 0) else decide (e % r.s2 = 0) && decide (e / r.s2 < r.n2))

namespace R

/-- SMC_DEVICE_ID (R4). -/
abbrev SMC_DEVICE_ID : Nat := 0
/-- SMC_CONTRACT_LEVEL (R4). -/
abbrev SMC_CONTRACT_LEVEL : Nat := 4
/-- SMC_CAP_COUNT (R33). -/
abbrev SMC_CAP_COUNT : Nat := 0x100
/-- SMC_CAP_ENTRY_i (R33). -/
abbrev SMC_CAP_ENTRY (i : Nat) : Nat := 0x108 + i * 8
/-- SMC_CAP_OFFSET_i (R33). -/
abbrev SMC_CAP_OFFSET (i : Nat) : Nat := 0x10c + i * 8
/-- SMC_LOCAL_TIME_LO (R45). -/
abbrev SMC_LOCAL_TIME_LO : Nat := 0x40
/-- SMC_LOCAL_TIME_HI (R45). -/
abbrev SMC_LOCAL_TIME_HI : Nat := 0x44
/-- SMC_DEV_TIME_LO (R45). -/
abbrev SMC_DEV_TIME_LO : Nat := 0x48
/-- SMC_DEV_TIME_HI (R45). -/
abbrev SMC_DEV_TIME_HI : Nat := 0x4c
/-- SMC_TIME_CTRL (R45). -/
abbrev SMC_TIME_CTRL : Nat := 0x50
/-- SMC_TIME_STATUS (R45). -/
abbrev SMC_TIME_STATUS : Nat := 0x54
/-- TPP_CTRL (R96). -/
abbrev TPP_CTRL (n : Nat) : Nat := 0x400000 + n * 0x10000
/-- TPP_STATUS (R96). -/
abbrev TPP_STATUS (n : Nat) : Nat := 0x400004 + n * 0x10000
/-- TPP_ORPHAN_CNT (R96). -/
abbrev TPP_ORPHAN_CNT (n : Nat) : Nat := 0x400010 + n * 0x10000
/-- TPP_LENGTH_CNT (R96). -/
abbrev TPP_LENGTH_CNT (n : Nat) : Nat := 0x400014 + n * 0x10000
/-- TPP_OVERRUN_CNT (R96). -/
abbrev TPP_OVERRUN_CNT (n : Nat) : Nat := 0x400018 + n * 0x10000
/-- TPP_HOLD_US (R96). -/
abbrev TPP_HOLD_US (n : Nat) : Nat := 0x40001c + n * 0x10000
/-- TPP_FS_MISMATCH_CNT (R96). -/
abbrev TPP_FS_MISMATCH_CNT (n : Nat) : Nat := 0x400020 + n * 0x10000
/-- TPP_CTL_TIMEOUT_CNT (R96). -/
abbrev TPP_CTL_TIMEOUT_CNT (n : Nat) : Nat := 0x400024 + n * 0x10000
/-- TPP_CTL_CRC_CNT (R96). -/
abbrev TPP_CTL_CRC_CNT (n : Nat) : Nat := 0x400028 + n * 0x10000
/-- TPP_CTL_CMD0 (R96). -/
abbrev TPP_CTL_CMD0 (n : Nat) : Nat := 0x400030 + n * 0x10000
/-- TPP_CTL_CMD1 (R96). -/
abbrev TPP_CTL_CMD1 (n : Nat) : Nat := 0x400034 + n * 0x10000
/-- TPP_CTL_RSP0 (R96). -/
abbrev TPP_CTL_RSP0 (n : Nat) : Nat := 0x400038 + n * 0x10000
/-- TPP_CTL_RSP1 (R96). -/
abbrev TPP_CTL_RSP1 (n : Nat) : Nat := 0x40003c + n * 0x10000
/-- LND_CTRL (R98). -/
abbrev LND_CTRL : Nat := 0x480000
/-- LND_CTX_CMD (R98). -/
abbrev LND_CTX_CMD : Nat := 0x480004
/-- LND_CTX_STATUS (R98). -/
abbrev LND_CTX_STATUS : Nat := 0x480008
/-- LND_RELEASE (R98). -/
abbrev LND_RELEASE : Nat := 0x48000c
/-- LND_CTX_WORD_w (R98). -/
abbrev LND_CTX_WORD (w : Nat) : Nat := 0x480040 + w * 4
/-- ISP_CTRL (R144). -/
abbrev ISP_CTRL (i : Nat) : Nat := 0x500000 + i * 0x100000
/-- ISP_STATUS (R144). -/
abbrev ISP_STATUS (i : Nat) : Nat := 0x500004 + i * 0x100000
/-- ISP_CUR_TAG (R144). -/
abbrev ISP_CUR_TAG (i : Nat) : Nat := 0x500008 + i * 0x100000
/-- ISP_ROWS_DONE (R144). -/
abbrev ISP_ROWS_DONE (i : Nat) : Nat := 0x50000c + i * 0x100000
/-- ISP_FRAMES_CNT (R144). -/
abbrev ISP_FRAMES_CNT (i : Nat) : Nat := 0x500010 + i * 0x100000
/-- ISP_STALL_US (R144). -/
abbrev ISP_STALL_US (i : Nat) : Nat := 0x500014 + i * 0x100000
/-- ISP_YIELD_CNT (R144). -/
abbrev ISP_YIELD_CNT (i : Nat) : Nat := 0x500018 + i * 0x100000
/-- ISP_QUEUE_STATUS (R145). -/
abbrev ISP_QUEUE_STATUS : Nat := 0x508000
/-- ISP_CTX_CMD (R145). -/
abbrev ISP_CTX_CMD : Nat := 0x508010
/-- ISP_CTX_ADDR_LO (R145). -/
abbrev ISP_CTX_ADDR_LO : Nat := 0x508014
/-- ISP_CTX_ADDR_HI (R145). -/
abbrev ISP_CTX_ADDR_HI : Nat := 0x508018
/-- ISP_CTX_STATUS (R145). -/
abbrev ISP_CTX_STATUS : Nat := 0x50801c
/-- ISP_SR_CTRL_h (R147). -/
abbrev ISP_SR_CTRL (h : Nat) : Nat := 0x509000 + h * 0x40
/-- ISP_SR_ID_h (R147). -/
abbrev ISP_SR_ID (h : Nat) : Nat := 0x509004 + h * 0x40
/-- ISP_SR_EXPOSURE_h (R147). -/
abbrev ISP_SR_EXPOSURE (h : Nat) : Nat := 0x509008 + h * 0x40
/-- ISP_SR_GAIN_h (R147). -/
abbrev ISP_SR_GAIN (h : Nat) : Nat := 0x50900c + h * 0x40
/-- ISP_SR_WB0_h (R147). -/
abbrev ISP_SR_WB0 (h : Nat) : Nat := 0x509010 + h * 0x40
/-- ISP_SR_WB1_h (R147). -/
abbrev ISP_SR_WB1 (h : Nat) : Nat := 0x509014 + h * 0x40
/-- ISP_SR_WRITE_k_h (R147). -/
abbrev ISP_SR_WRITE (h k : Nat) : Nat := 0x509018 + h * 0x40 + k * 4
/-- ISP_SR_RESULT_h (R147). -/
abbrev ISP_SR_RESULT (h : Nat) : Nat := 0x509030 + h * 0x40
/-- ISP_SR_TARGET_h (R147). -/
abbrev ISP_SR_TARGET (h : Nat) : Nat := 0x509034 + h * 0x40
/-- FGS_CTRL (R194). -/
abbrev FGS_CTRL : Nat := 0x800000
/-- FGS_STATUS (R194). -/
abbrev FGS_STATUS : Nat := 0x800004
/-- FGS_GRAPH_CMD (R194). -/
abbrev FGS_GRAPH_CMD : Nat := 0x800010
/-- FGS_GRAPH_ADDR_LO (R194). -/
abbrev FGS_GRAPH_ADDR_LO : Nat := 0x800014
/-- FGS_GRAPH_ADDR_HI (R194). -/
abbrev FGS_GRAPH_ADDR_HI : Nat := 0x800018
/-- FGS_GRAPH_STATUS (R194). -/
abbrev FGS_GRAPH_STATUS : Nat := 0x80001c
/-- FGS_GRAPH_DETAIL (R194). -/
abbrev FGS_GRAPH_DETAIL : Nat := 0x800020
/-- FGS_ABORT (R194). -/
abbrev FGS_ABORT : Nat := 0x800030
/-- FGS_ABORT_TAG (R194). -/
abbrev FGS_ABORT_TAG : Nat := 0x800034
/-- FGS_ABORT_STATUS (R194). -/
abbrev FGS_ABORT_STATUS : Nat := 0x800038
/-- FGS_TRIGGER_CNT (R194). -/
abbrev FGS_TRIGGER_CNT : Nat := 0x800040
/-- FGS_SUPERSEDED_CNT (R194). -/
abbrev FGS_SUPERSEDED_CNT : Nat := 0x800044
/-- FGS_JOBS_CNT (R194). -/
abbrev FGS_JOBS_CNT : Nat := 0x800048
/-- FGS_EMIT_DROP_CNT (R194). -/
abbrev FGS_EMIT_DROP_CNT : Nat := 0x80004c
/-- FGS_WD_EARLY_CNT (R194). -/
abbrev FGS_WD_EARLY_CNT : Nat := 0x800050
/-- FGS_WD_LATE_CNT (R194). -/
abbrev FGS_WD_LATE_CNT : Nat := 0x800054
/-- FGS_SLOT_FAULT_CNT (R194). -/
abbrev FGS_SLOT_FAULT_CNT : Nat := 0x800058
/-- FGS_HELD_US (R194). -/
abbrev FGS_HELD_US : Nat := 0x80005c
/-- FGS_CQ_BASE_LO_p (R194). -/
abbrev FGS_CQ_BASE_LO (p : Nat) : Nat := 0x800100 + p * 0x20
/-- FGS_CQ_BASE_HI_p (R194). -/
abbrev FGS_CQ_BASE_HI (p : Nat) : Nat := 0x800104 + p * 0x20
/-- FGS_CQ_SIZE_p (R194). -/
abbrev FGS_CQ_SIZE (p : Nat) : Nat := 0x800108 + p * 0x20
/-- FGS_CQ_HEAD_p (R194). -/
abbrev FGS_CQ_HEAD (p : Nat) : Nat := 0x80010c + p * 0x20
/-- FGS_CQ_TAIL_p (R194). -/
abbrev FGS_CQ_TAIL (p : Nat) : Nat := 0x800110 + p * 0x20
/-- FGS_CQ_STATUS_p (R194). -/
abbrev FGS_CQ_STATUS (p : Nat) : Nat := 0x800114 + p * 0x20
/-- HTS_CTRL (R227). -/
abbrev HTS_CTRL : Nat := 0x900000
/-- HTS_STATUS (R227). -/
abbrev HTS_STATUS : Nat := 0x900004
/-- HTS_TICK (R227). -/
abbrev HTS_TICK : Nat := 0x900008
/-- HTS_MAJOR_CYCLE (R227). -/
abbrev HTS_MAJOR_CYCLE : Nat := 0x90000c
/-- HTS_QUERY_HANDLE (R227). -/
abbrev HTS_QUERY_HANDLE : Nat := 0x900018
/-- HTS_QUERY_RESULT (R227). -/
abbrev HTS_QUERY_RESULT : Nat := 0x90001c
/-- HTS_QUOTA_p (R227). -/
abbrev HTS_QUOTA (p : Nat) : Nat := 0x900020 + p * 4
/-- HTS_ABORT_HANDLE (R227). -/
abbrev HTS_ABORT_HANDLE : Nat := 0x900030
/-- HTS_ABORT_CTRL (R227). -/
abbrev HTS_ABORT_CTRL : Nat := 0x900034
/-- HTS_ABORT_STATUS (R227). -/
abbrev HTS_ABORT_STATUS : Nat := 0x900038
/-- HTS_FREE (R227). -/
abbrev HTS_FREE : Nat := 0x90003c
/-- HTS_POSTS_CNT (R227). -/
abbrev HTS_POSTS_CNT : Nat := 0x900040
/-- HTS_BUSY_CNT (R227). -/
abbrev HTS_BUSY_CNT : Nat := 0x900044
/-- HTS_HELD_US (R227). -/
abbrev HTS_HELD_US : Nat := 0x900048
/-- HTS_STALE_EVENT_CNT (R227). -/
abbrev HTS_STALE_EVENT_CNT : Nat := 0x90004c
/-- HTS_LATE_EVENT_CNT (R227). -/
abbrev HTS_LATE_EVENT_CNT : Nat := 0x900050
/-- HTS_PREEMPT_CNT (R227). -/
abbrev HTS_PREEMPT_CNT : Nat := 0x900054
/-- HTS_TIMEOUT_CNT (R227). -/
abbrev HTS_TIMEOUT_CNT : Nat := 0x900058
/-- HTS_PROTO_CNT (R227). -/
abbrev HTS_PROTO_CNT : Nat := 0x90005c
/-- HTS_CT_FILTER (R227). -/
abbrev HTS_CT_FILTER : Nat := 0x900080
/-- HTS_GROUP_FLAGS_g (R227). -/
abbrev HTS_GROUP_FLAGS (g : Nat) : Nat := 0x901000 + g * 4
/-- HTS_GROUP_PART_k (R227). -/
abbrev HTS_GROUP_PART (k : Nat) : Nat := 0x901400 + k * 4
/-- HTS_WIN_t_e (R227). -/
abbrev HTS_WIN (t e : Nat) : Nat := 0x902000 + t * 0x20 + e * 4
/-- HTS_PS_CFG_h (R228). -/
abbrev HTS_PS_CFG (h : Nat) : Nat := 0x900100 + h * 0x40
/-- HTS_PS_MASK_h (R228). -/
abbrev HTS_PS_MASK (h : Nat) : Nat := 0x900104 + h * 0x40
/-- HTS_PS_FLAGS_h (R228). -/
abbrev HTS_PS_FLAGS (h : Nat) : Nat := 0x900108 + h * 0x40
/-- HTS_PS_TIME_h (R228). -/
abbrev HTS_PS_TIME (h : Nat) : Nat := 0x90010c + h * 0x40
/-- HTS_PS_ARGk_h (R228). -/
abbrev HTS_PS_ARG (h k : Nat) : Nat := 0x900110 + h * 0x40 + k * 4
/-- HTS_PS_ONDONE_TARGET_h (R228). -/
abbrev HTS_PS_ONDONE_TARGET (h : Nat) : Nat := 0x900120 + h * 0x40
/-- HTS_PS_ONDONE_FLAGS_h (R228). -/
abbrev HTS_PS_ONDONE_FLAGS (h : Nat) : Nat := 0x900124 + h * 0x40
/-- HTS_PS_EVT_TARGET_h (R228). -/
abbrev HTS_PS_EVT_TARGET (h : Nat) : Nat := 0x900128 + h * 0x40
/-- HTS_PS_EVT_FLAGS_h (R228). -/
abbrev HTS_PS_EVT_FLAGS (h : Nat) : Nat := 0x90012c + h * 0x40
/-- HTS_PS_POST_TRY_h (R228). -/
abbrev HTS_PS_POST_TRY (h : Nat) : Nat := 0x900130 + h * 0x40
/-- HTS_PS_EVENT_TRY_h (R228). -/
abbrev HTS_PS_EVENT_TRY (h : Nat) : Nat := 0x900134 + h * 0x40
/-- HTS_PS_HANDLE_h (R228). -/
abbrev HTS_PS_HANDLE (h : Nat) : Nat := 0x900138 + h * 0x40
/-- HTS_PS_PART_h (R228). -/
abbrev HTS_PS_PART (h : Nat) : Nat := 0x90013c + h * 0x40
/-- HTS_HC_CFG_n (R229). -/
abbrev HTS_HC_CFG (n : Nat) : Nat := 0x900400 + n * 0x40
/-- HTS_TAKE_n (R229). -/
abbrev HTS_TAKE (n : Nat) : Nat := 0x900404 + n * 0x40
/-- HTS_CUR_n (R229). -/
abbrev HTS_CUR (n : Nat) : Nat := 0x900408 + n * 0x40
/-- HTS_ARGk_n (R229). -/
abbrev HTS_ARG (n k : Nat) : Nat := 0x90040c + n * 0x40 + k * 4
/-- HTS_DONE_n (R229). -/
abbrev HTS_DONE (n : Nat) : Nat := 0x90041c + n * 0x40
/-- HTS_YIELD_n (R229). -/
abbrev HTS_YIELD (n : Nat) : Nat := 0x900420 + n * 0x40
/-- HTS_HC_STATUS_n (R229). -/
abbrev HTS_HC_STATUS (n : Nat) : Nat := 0x900424 + n * 0x40
/-- TIM_CTRL_n (R230). -/
abbrev TIM_CTRL (n : Nat) : Nat := 0x903000 + n * 0x20
/-- TIM_PERIOD_n (R230). -/
abbrev TIM_PERIOD (n : Nat) : Nat := 0x903004 + n * 0x20
/-- TIM_PHASE_n (R230). -/
abbrev TIM_PHASE (n : Nat) : Nat := 0x903008 + n * 0x20
/-- TIM_EVENT_TARGET_n (R230). -/
abbrev TIM_EVENT_TARGET (n : Nat) : Nat := 0x90300c + n * 0x20
/-- TIM_EVENT_FLAGS_n (R230). -/
abbrev TIM_EVENT_FLAGS (n : Nat) : Nat := 0x903010 + n * 0x20
/-- TIM_COUNT_n (R230). -/
abbrev TIM_COUNT (n : Nat) : Nat := 0x903014 + n * 0x20
/-- TIM_OVERRUN_n (R230). -/
abbrev TIM_OVERRUN (n : Nat) : Nat := 0x903018 + n * 0x20
/-- FTE_CTRL (R328). -/
abbrev FTE_CTRL : Nat := 0xa70000
/-- FTE_STATUS (R328). -/
abbrev FTE_STATUS : Nat := 0xa70004
/-- FTE_CUR_TAG (R328). -/
abbrev FTE_CUR_TAG : Nat := 0xa70008
/-- FTE_PROGRESS (R328). -/
abbrev FTE_PROGRESS : Nat := 0xa7000c
/-- FTE_JOBS_CNT (R328). -/
abbrev FTE_JOBS_CNT : Nat := 0xa70010
/-- FTE_STALL_US (R328). -/
abbrev FTE_STALL_US : Nat := 0xa70014
/-- FTE_YIELD_CNT (R328). -/
abbrev FTE_YIELD_CNT : Nat := 0xa70018
/-- FTE_KP_CNT (R328). -/
abbrev FTE_KP_CNT : Nat := 0xa7001c
/-- FTE_MATCH_CNT (R328). -/
abbrev FTE_MATCH_CNT : Nat := 0xa70020
/-- FTE_NEW_TRACK_CNT (R328). -/
abbrev FTE_NEW_TRACK_CNT : Nat := 0xa70024
/-- FTE_DROP_TRACK_CNT (R328). -/
abbrev FTE_DROP_TRACK_CNT : Nat := 0xa70028
/-- FTE_TT_FULL_CNT (R328). -/
abbrev FTE_TT_FULL_CNT : Nat := 0xa7002c
/-- FTE_TABLE_LOST_CNT (R328). -/
abbrev FTE_TABLE_LOST_CNT : Nat := 0xa70030
/-- FTE_PT_CMD (R328). -/
abbrev FTE_PT_CMD : Nat := 0xa70040
/-- FTE_PT_ADDR_LO (R328). -/
abbrev FTE_PT_ADDR_LO : Nat := 0xa70044
/-- FTE_PT_ADDR_HI (R328). -/
abbrev FTE_PT_ADDR_HI : Nat := 0xa70048
/-- FTE_PT_STATUS (R328). -/
abbrev FTE_PT_STATUS : Nat := 0xa7004c
/-- FTE_TS_CFG_s (R328). -/
abbrev FTE_TS_CFG (s : Nat) : Nat := 0xa70100 + s * 8
/-- FTE_TS_NEXT_ID_s (R328). -/
abbrev FTE_TS_NEXT_ID (s : Nat) : Nat := 0xa70104 + s * 8
/-- NC_CTRL (R374). -/
abbrev NC_CTRL (n : Nat) : Nat := 0xc00000 + n * 0x40000
/-- NC_STATUS (R374). -/
abbrev NC_STATUS (n : Nat) : Nat := 0xc00004 + n * 0x40000
/-- NC_CUR_TAG (R374). -/
abbrev NC_CUR_TAG (n : Nat) : Nat := 0xc00008 + n * 0x40000
/-- NC_TILES_DONE (R374). -/
abbrev NC_TILES_DONE (n : Nat) : Nat := 0xc0000c + n * 0x40000
/-- NC_RUNS_CNT (R374). -/
abbrev NC_RUNS_CNT (n : Nat) : Nat := 0xc00010 + n * 0x40000
/-- NC_STALL_US (R374). -/
abbrev NC_STALL_US (n : Nat) : Nat := 0xc00014 + n * 0x40000
/-- NC_YIELD_CNT (R374). -/
abbrev NC_YIELD_CNT (n : Nat) : Nat := 0xc00018 + n * 0x40000
/-- NC_BUSY_US (R374). -/
abbrev NC_BUSY_US (n : Nat) : Nat := 0xc0001c + n * 0x40000
/-- NC_ACC_SAT_CNT (R374). -/
abbrev NC_ACC_SAT_CNT (n : Nat) : Nat := 0xc00020 + n * 0x40000
/-- NC_OUT_SAT_CNT (R374). -/
abbrev NC_OUT_SAT_CNT (n : Nat) : Nat := 0xc00024 + n * 0x40000
/-- NC_EST_OVER_CNT (R374). -/
abbrev NC_EST_OVER_CNT (n : Nat) : Nat := 0xc00028 + n * 0x40000
/-- NC_WM_QUOTA_p (R374). -/
abbrev NC_WM_QUOTA (n p : Nat) : Nat := 0xc00040 + n * 0x40000 + p * 0x10
/-- NC_AM_QUOTA_p (R374). -/
abbrev NC_AM_QUOTA (n p : Nat) : Nat := 0xc00044 + n * 0x40000 + p * 0x10
/-- NC_PM_QUOTA_p (R374). -/
abbrev NC_PM_QUOTA (n p : Nat) : Nat := 0xc00048 + n * 0x40000 + p * 0x10
/-- NC_ADM_STATUS (R375). -/
abbrev NC_ADM_STATUS : Nat := 0xc20000
/-- NC_ADM_SHORT (R375). -/
abbrev NC_ADM_SHORT : Nat := 0xc20004
/-- NC_SCRATCH_QUOTA_p (R375). -/
abbrev NC_SCRATCH_QUOTA (p : Nat) : Nat := 0xc20010 + p * 4
/-- NC_STREAM_RATE_p (R375). -/
abbrev NC_STREAM_RATE (p : Nat) : Nat := 0xc20020 + p * 4
/-- NC_SCRATCH_BASE_p (R375). -/
abbrev NC_SCRATCH_BASE (p : Nat) : Nat := 0xc20030 + p * 4
/-- NC_TIME_USED_W_p (R375). -/
abbrev NC_TIME_USED_W (p : Nat) : Nat := 0xc20040 + p * 8
/-- NC_TIME_USED_E_p (R375). -/
abbrev NC_TIME_USED_E (p : Nat) : Nat := 0xc20044 + p * 8
/-- TDU_CMD_p (R405). -/
abbrev TDU_CMD (p : Nat) : Nat := 0xe00000 + p * 0x100
/-- TDU_STATUS_p (R405). -/
abbrev TDU_STATUS (p : Nat) : Nat := 0xe00004 + p * 0x100
/-- TDU_HANDLE_p (R405). -/
abbrev TDU_HANDLE (p : Nat) : Nat := 0xe00008 + p * 0x100
/-- TDU_DETAIL_p (R405). -/
abbrev TDU_DETAIL (p : Nat) : Nat := 0xe0000c + p * 0x100
/-- TDU_USED_p (R405). -/
abbrev TDU_USED (p : Nat) : Nat := 0xe00010 + p * 0x100
/-- TDU_OOB_READ_CNT_p (R405). -/
abbrev TDU_OOB_READ_CNT (p : Nat) : Nat := 0xe00014 + p * 0x100
/-- TDU_OOB_WRITE_CNT_p (R405). -/
abbrev TDU_OOB_WRITE_CNT (p : Nat) : Nat := 0xe00018 + p * 0x100
/-- TDU_OOB_LOG_p (R405). -/
abbrev TDU_OOB_LOG (p : Nat) : Nat := 0xe0001c + p * 0x100
/-- TDU_OOB_INDEX_p (R405). -/
abbrev TDU_OOB_INDEX (p : Nat) : Nat := 0xe00020 + p * 0x100
/-- TDU_STAGE_w_p (R405). -/
abbrev TDU_STAGE (p w : Nat) : Nat := 0xe00080 + p * 0x100 + w * 4
/-- TDU_REG_CMD (R406). -/
abbrev TDU_REG_CMD : Nat := 0xe01000
/-- TDU_REG_STATUS (R406). -/
abbrev TDU_REG_STATUS : Nat := 0xe01004
/-- TDU_REG_STAGE_w (R406). -/
abbrev TDU_REG_STAGE (w : Nat) : Nat := 0xe01010 + w * 4
/-- SPM_CTRL (R431). -/
abbrev SPM_CTRL : Nat := 0xe80000
/-- SPM_OWN_CMD (R431). -/
abbrev SPM_OWN_CMD : Nat := 0xe80010
/-- SPM_OWN_STATUS (R431). -/
abbrev SPM_OWN_STATUS : Nat := 0xe80014
/-- SPM_ERR_LOG (R431). -/
abbrev SPM_ERR_LOG : Nat := 0xe80040
/-- SPM_PARITY_CNT (R431). -/
abbrev SPM_PARITY_CNT : Nat := 0xe80050
/-- SPM_SCRUB_ERR_CNT (R431). -/
abbrev SPM_SCRUB_ERR_CNT : Nat := 0xe80054
/-- SPM_PART_FAULT_CNT (R431). -/
abbrev SPM_PART_FAULT_CNT : Nat := 0xe80058
/-- SPM_SCRUB_PASS_CNT (R431). -/
abbrev SPM_SCRUB_PASS_CNT : Nat := 0xe8005c
/-- SPM_ZERO_FILL_CNT (R431). -/
abbrev SPM_ZERO_FILL_CNT : Nat := 0xe80060
/-- SPM_OWN_NC_c_k (R431). -/
abbrev SPM_OWN_NC (c k : Nat) : Nat := 0xe80100 + c * 0x20 + k * 4
/-- SPM_OWN_SLOT (R431). -/
abbrev SPM_OWN_SLOT : Nat := 0xe80200
/-- DMA_CTRL (R456). -/
abbrev DMA_CTRL (e : Nat) : Nat := 0xf00000 + e * 0x40000
/-- DMA_STATUS (R456). -/
abbrev DMA_STATUS (e : Nat) : Nat := 0xf00004 + e * 0x40000
/-- DMA_CQ_BASE_LO (R456). -/
abbrev DMA_CQ_BASE_LO (e : Nat) : Nat := 0xf00010 + e * 0x40000
/-- DMA_CQ_BASE_HI (R456). -/
abbrev DMA_CQ_BASE_HI (e : Nat) : Nat := 0xf00014 + e * 0x40000
/-- DMA_CQ_SIZE (R456). -/
abbrev DMA_CQ_SIZE (e : Nat) : Nat := 0xf00018 + e * 0x40000
/-- DMA_CQ_HEAD (R456). -/
abbrev DMA_CQ_HEAD (e : Nat) : Nat := 0xf0001c + e * 0x40000
/-- DMA_CQ_TAIL (R456). -/
abbrev DMA_CQ_TAIL (e : Nat) : Nat := 0xf00020 + e * 0x40000
/-- DMA_CQ_CFG (R456). -/
abbrev DMA_CQ_CFG (e : Nat) : Nat := 0xf00024 + e * 0x40000
/-- DMA_CQ_STATUS (R456). -/
abbrev DMA_CQ_STATUS (e : Nat) : Nat := 0xf00028 + e * 0x40000
/-- DMA_ERR_ADDR_LO (R456). -/
abbrev DMA_ERR_ADDR_LO (e : Nat) : Nat := 0xf00030 + e * 0x40000
/-- DMA_ERR_ADDR_HI (R456). -/
abbrev DMA_ERR_ADDR_HI (e : Nat) : Nat := 0xf00034 + e * 0x40000
/-- DMA_ERR_INFO (R456). -/
abbrev DMA_ERR_INFO (e : Nat) : Nat := 0xf00038 + e * 0x40000
/-- DMA_CHAINS_CNT (R456). -/
abbrev DMA_CHAINS_CNT (e : Nat) : Nat := 0xf00040 + e * 0x40000
/-- DMA_BUS_ERR_CNT (R456). -/
abbrev DMA_BUS_ERR_CNT (e : Nat) : Nat := 0xf00044 + e * 0x40000
/-- DMA_TRIG_MERGE_CNT (R456). -/
abbrev DMA_TRIG_MERGE_CNT (e : Nat) : Nat := 0xf00048 + e * 0x40000
/-- DMA_RETRY_CNT (R456). -/
abbrev DMA_RETRY_CNT (e : Nat) : Nat := 0xf0004c + e * 0x40000
/-- DMA_CQ_HELD_US (R456). -/
abbrev DMA_CQ_HELD_US (e : Nat) : Nat := 0xf00050 + e * 0x40000
/-- DMA_CH_CFG_c (R457). -/
abbrev DMA_CH_CFG (e c : Nat) : Nat := 0xf01000 + e * 0x40000 + c * 0x40
/-- DMA_CH_CMD_c (R457). -/
abbrev DMA_CH_CMD (e c : Nat) : Nat := 0xf01004 + e * 0x40000 + c * 0x40
/-- DMA_CH_STATUS_c (R457). -/
abbrev DMA_CH_STATUS (e c : Nat) : Nat := 0xf01008 + e * 0x40000 + c * 0x40
/-- DMA_CH_HEAD_LO_c (R457). -/
abbrev DMA_CH_HEAD_LO (e c : Nat) : Nat := 0xf0100c + e * 0x40000 + c * 0x40
/-- DMA_CH_HEAD_HI_c (R457). -/
abbrev DMA_CH_HEAD_HI (e c : Nat) : Nat := 0xf01010 + e * 0x40000 + c * 0x40
/-- DMA_CH_CUR_DESC_LO_c (R457). -/
abbrev DMA_CH_CUR_DESC_LO (e c : Nat) : Nat := 0xf01014 + e * 0x40000 + c * 0x40
/-- DMA_CH_CUR_DESC_HI_c (R457). -/
abbrev DMA_CH_CUR_DESC_HI (e c : Nat) : Nat := 0xf01018 + e * 0x40000 + c * 0x40
/-- DMA_CH_SRC_LO_c (R457). -/
abbrev DMA_CH_SRC_LO (e c : Nat) : Nat := 0xf0101c + e * 0x40000 + c * 0x40
/-- DMA_CH_SRC_HI_c (R457). -/
abbrev DMA_CH_SRC_HI (e c : Nat) : Nat := 0xf01020 + e * 0x40000 + c * 0x40
/-- DMA_CH_DST_LO_c (R457). -/
abbrev DMA_CH_DST_LO (e c : Nat) : Nat := 0xf01024 + e * 0x40000 + c * 0x40
/-- DMA_CH_DST_HI_c (R457). -/
abbrev DMA_CH_DST_HI (e c : Nat) : Nat := 0xf01028 + e * 0x40000 + c * 0x40
/-- DMA_CH_REMAIN_c (R457). -/
abbrev DMA_CH_REMAIN (e c : Nat) : Nat := 0xf0102c + e * 0x40000 + c * 0x40
/-- DMA_CH_LINES_LEFT_c (R457). -/
abbrev DMA_CH_LINES_LEFT (e c : Nat) : Nat := 0xf01030 + e * 0x40000 + c * 0x40
/-- DMA_CH_DONE_BYTES_c (R457). -/
abbrev DMA_CH_DONE_BYTES (e c : Nat) : Nat := 0xf01034 + e * 0x40000 + c * 0x40
/-- DMA_CH_EVT_MASK_c (R457). -/
abbrev DMA_CH_EVT_MASK (e c : Nat) : Nat := 0xf01038 + e * 0x40000 + c * 0x40
/-- MBX_STAGE_w (R485). -/
abbrev MBX_STAGE (w : Nat) : Nat := 0x1000000 + w * 4
/-- MBX_SEND (R485). -/
abbrev MBX_SEND : Nat := 0x1000040
/-- MBX_SEND_STATUS (R485). -/
abbrev MBX_SEND_STATUS : Nat := 0x1000044
/-- MBX_MSG_m_w (R485). -/
abbrev MBX_MSG (m w : Nat) : Nat := 0x1000400 + m * 0x80 + w * 4
/-- MBX_CFG_m (R485). -/
abbrev MBX_CFG (m : Nat) : Nat := 0x1000440 + m * 0x80
/-- MBX_STATE_m (R485). -/
abbrev MBX_STATE (m : Nat) : Nat := 0x1000444 + m * 0x80
/-- MBX_RELEASE_m (R485). -/
abbrev MBX_RELEASE (m : Nat) : Nat := 0x1000448 + m * 0x80
/-- MBX_LOST_m (R485). -/
abbrev MBX_LOST (m : Nat) : Nat := 0x100044c + m * 0x80
/-- LCK_n (R485). -/
abbrev LCK (n : Nat) : Nat := 0x1004000 + n * 4
/-- LCK_PEEK_n (R485). -/
abbrev LCK_PEEK (n : Nat) : Nat := 0x1004100 + n * 4
/-- LCK_PART_k (R485). -/
abbrev LCK_PART (k : Nat) : Nat := 0x1004200 + k * 4
/-- LCK_BAD_RELEASE_CNT (R485). -/
abbrev LCK_BAD_RELEASE_CNT : Nat := 0x1004210
/-- LCK_FORCE (R485). -/
abbrev LCK_FORCE : Nat := 0x1004214
/-- MBX_HC_PART (R485). -/
abbrev MBX_HC_PART : Nat := 0x1006000
/-- MBX_L3_WAYS_LO (R485). -/
abbrev MBX_L3_WAYS_LO : Nat := 0x1006004
/-- MBX_L3_WAYS_HI (R485). -/
abbrev MBX_L3_WAYS_HI : Nat := 0x1006008
/-- MBX_HC_CLEAN_ERR_CNT (R485). -/
abbrev MBX_HC_CLEAN_ERR_CNT : Nat := 0x100600c
/-- MBX_HC_ERR_LO_n (R485). -/
abbrev MBX_HC_ERR_LO (n : Nat) : Nat := 0x1006040 + n * 8
/-- MBX_HC_ERR_HI_n (R485). -/
abbrev MBX_HC_ERR_HI (n : Nat) : Nat := 0x1006044 + n * 8
/-- DMC_CTRL (R512). -/
abbrev DMC_CTRL : Nat := 0x1200000
/-- DMC_STATUS (R512). -/
abbrev DMC_STATUS : Nat := 0x1200004
/-- DMC_SCRUB_CFG (R512). -/
abbrev DMC_SCRUB_CFG : Nat := 0x1200008
/-- DMC_SCRUB_POS (R512). -/
abbrev DMC_SCRUB_POS : Nat := 0x120000c
/-- DMC_SHARE_p (R512). -/
abbrev DMC_SHARE (p : Nat) : Nat := 0x1200010 + p * 4
/-- DMC_TEMP_d (R512). -/
abbrev DMC_TEMP (d : Nat) : Nat := 0x1200020 + d * 4
/-- DMC_ERR_LOG (R512). -/
abbrev DMC_ERR_LOG : Nat := 0x1200040
/-- DMC_ERR_ADDR_LO (R512). -/
abbrev DMC_ERR_ADDR_LO : Nat := 0x1200044
/-- DMC_ERR_ADDR_HI (R512). -/
abbrev DMC_ERR_ADDR_HI : Nat := 0x1200048
/-- DMC_FW_LOG (R512). -/
abbrev DMC_FW_LOG : Nat := 0x1200050
/-- DMC_FW_ADDR_LO (R512). -/
abbrev DMC_FW_ADDR_LO : Nat := 0x1200054
/-- DMC_FW_ADDR_HI (R512). -/
abbrev DMC_FW_ADDR_HI : Nat := 0x1200058
/-- CRC_ERR_CNT (R512). -/
abbrev CRC_ERR_CNT : Nat := 0x1200060
/-- RESTORE_CNT (R512). -/
abbrev RESTORE_CNT : Nat := 0x1200064
/-- PANTRY_LOST_CNT (R512). -/
abbrev PANTRY_LOST_CNT : Nat := 0x1200068
/-- SCRUB_ERR_CNT (R512). -/
abbrev SCRUB_ERR_CNT : Nat := 0x120006c
/-- FW_FAULT_CNT (R512). -/
abbrev FW_FAULT_CNT : Nat := 0x1200070
/-- DMC_FLIT_REPLAY_CNT (R512). -/
abbrev DMC_FLIT_REPLAY_CNT : Nat := 0x1200074
/-- SCRUB_PASS_CNT (R512). -/
abbrev SCRUB_PASS_CNT : Nat := 0x1200078
/-- DMC_FW_BASE_r (R512). -/
abbrev DMC_FW_BASE (r : Nat) : Nat := 0x1201000 + r * 0x10
/-- DMC_FW_LIMIT_r (R512). -/
abbrev DMC_FW_LIMIT (r : Nat) : Nat := 0x1201004 + r * 0x10
/-- DMC_FW_CFG_r (R512). -/
abbrev DMC_FW_CFG (r : Nat) : Nat := 0x1201008 + r * 0x10
/-- DMC_PANTRY_PRI_e (R512). -/
abbrev DMC_PANTRY_PRI (e : Nat) : Nat := 0x1202000 + e * 0x10
/-- DMC_PANTRY_COPY_e (R512). -/
abbrev DMC_PANTRY_COPY (e : Nat) : Nat := 0x1202004 + e * 0x10
/-- DMC_PANTRY_SIZE_e (R512). -/
abbrev DMC_PANTRY_SIZE (e : Nat) : Nat := 0x1202008 + e * 0x10
/-- DMC_PANTRY_CFG_e (R512). -/
abbrev DMC_PANTRY_CFG (e : Nat) : Nat := 0x120200c + e * 0x10
/-- SAF_CTRL (R548). -/
abbrev SAF_CTRL : Nat := 0x200000
/-- SAF_STATUS (R548). -/
abbrev SAF_STATUS : Nat := 0x200004
/-- SAF_LOCK_STATUS (R548). -/
abbrev SAF_LOCK_STATUS : Nat := 0x200008
/-- SAF_PROOF_CFG (R548). -/
abbrev SAF_PROOF_CFG : Nat := 0x200010
/-- SAF_PROOF_PHASE (R548). -/
abbrev SAF_PROOF_PHASE : Nat := 0x200014
/-- SAF_PROOF_LEN (R548). -/
abbrev SAF_PROOF_LEN : Nat := 0x200018
/-- SAF_PROOF_STATUS (R548). -/
abbrev SAF_PROOF_STATUS : Nat := 0x20001c
/-- SAF_HEARTBEAT (R548). -/
abbrev SAF_HEARTBEAT : Nat := 0x200020
/-- SAF_HB_CFG (R548). -/
abbrev SAF_HB_CFG : Nat := 0x200024
/-- SAF_REACT (R548). -/
abbrev SAF_REACT : Nat := 0x200028
/-- SAF_NOTICE_PEND (R548). -/
abbrev SAF_NOTICE_PEND : Nat := 0x20002c
/-- SAF_FORCE (R548). -/
abbrev SAF_FORCE : Nat := 0x200030
/-- SAF_DISAGREE_CNT (R548). -/
abbrev SAF_DISAGREE_CNT : Nat := 0x200040
/-- SAF_UNTRUSTED_CNT (R548). -/
abbrev SAF_UNTRUSTED_CNT : Nat := 0x200044
/-- SAF_PROOF_PASS_CNT (R548). -/
abbrev SAF_PROOF_PASS_CNT : Nat := 0x200048
/-- SAF_PROOF_MISS_CNT (R548). -/
abbrev SAF_PROOF_MISS_CNT : Nat := 0x20004c
/-- SAF_WD_NOTICE_CNT (R548). -/
abbrev SAF_WD_NOTICE_CNT : Nat := 0x200050
/-- SAF_TP_CFG_i (R548). -/
abbrev SAF_TP_CFG (i : Nat) : Nat := 0x200100 + i * 0x10
/-- SAF_TP_STATE_i (R548). -/
abbrev SAF_TP_STATE (i : Nat) : Nat := 0x200104 + i * 0x10
/-- SAF_PS_ADDR_LO_s (R548). -/
abbrev SAF_PS_ADDR_LO (s : Nat) : Nat := 0x200200 + s * 0x10
/-- SAF_PS_ADDR_HI_s (R548). -/
abbrev SAF_PS_ADDR_HI (s : Nat) : Nat := 0x200204 + s * 0x10
/-- SAF_PS_CFG_s (R548). -/
abbrev SAF_PS_CFG (s : Nat) : Nat := 0x200208 + s * 0x10
/-- SAF_PS_STATUS_s (R548). -/
abbrev SAF_PS_STATUS (s : Nat) : Nat := 0x20020c + s * 0x10
/-- SAF_LAST_CAUSE_w (R548). -/
abbrev SAF_LAST_CAUSE (w : Nat) : Nat := 0x200300 + w * 4
/-- SAF_CAUSE_CLEAR (R548). -/
abbrev SAF_CAUSE_CLEAR : Nat := 0x200320
/-- PMG_CTRL (R598). -/
abbrev PMG_CTRL : Nat := 0x100000
/-- PMG_CLK_STATUS (R598). -/
abbrev PMG_CLK_STATUS : Nat := 0x100004
/-- PMG_CORE_HZ (R598). -/
abbrev PMG_CORE_HZ : Nat := 0x100008
/-- PMG_NOC_HZ (R598). -/
abbrev PMG_NOC_HZ : Nat := 0x10000c
/-- PMG_PIPE_HZ (R598). -/
abbrev PMG_PIPE_HZ : Nat := 0x100010
/-- PMG_MAC_HZ (R598). -/
abbrev PMG_MAC_HZ : Nat := 0x100014
/-- PMG_BUDGET_MAX (R598). -/
abbrev PMG_BUDGET_MAX : Nat := 0x100020
/-- PMG_BUDGET_LIMIT (R598). -/
abbrev PMG_BUDGET_LIMIT : Nat := 0x100024
/-- PMG_P0_RESERVE (R598). -/
abbrev PMG_P0_RESERVE : Nat := 0x100028
/-- PMG_BUDGET_EFF (R598). -/
abbrev PMG_BUDGET_EFF : Nat := 0x10002c
/-- PMG_BASE (R598). -/
abbrev PMG_BASE : Nat := 0x100030
/-- PMG_USED (R598). -/
abbrev PMG_USED : Nat := 0x100034
/-- PMG_THERM_CFG (R598). -/
abbrev PMG_THERM_CFG : Nat := 0x100038
/-- PMG_TJ (R598). -/
abbrev PMG_TJ : Nat := 0x10003c
/-- PMG_GRANT_DELAY_US (R598). -/
abbrev PMG_GRANT_DELAY_US : Nat := 0x100040
/-- PMG_DELAYED_CNT (R598). -/
abbrev PMG_DELAYED_CNT : Nat := 0x100044
/-- PMG_DROOP_SKIP_W (R598). -/
abbrev PMG_DROOP_SKIP_W : Nat := 0x100048
/-- PMG_DROOP_SKIP_E (R598). -/
abbrev PMG_DROOP_SKIP_E : Nat := 0x10004c
/-- PMG_DROOP_EVT_CNT (R598). -/
abbrev PMG_DROOP_EVT_CNT : Nat := 0x100050
/-- PMG_DESKEW_STALE_CNT (R598). -/
abbrev PMG_DESKEW_STALE_CNT : Nat := 0x100054
/-- PMG_LIFE (R598). -/
abbrev PMG_LIFE : Nat := 0x100060
/-- PMG_DOM_CFG_d (R598). -/
abbrev PMG_DOM_CFG (d : Nat) : Nat := 0x100100 + d * 0x10
/-- PMG_DOM_STATUS_d (R598). -/
abbrev PMG_DOM_STATUS (d : Nat) : Nat := 0x100104 + d * 0x10
/-- PMG_MARGIN_d (R598). -/
abbrev PMG_MARGIN (d : Nat) : Nat := 0x100108 + d * 0x10
/-- PMG_SLACK_d (R598). -/
abbrev PMG_SLACK (d : Nat) : Nat := 0x10010c + d * 0x10
/-- PCI_LINK_STATUS (R628). -/
abbrev PCI_LINK_STATUS : Nat := 0x1300000
/-- PCI_BAR2_DRAM_BASE (R628). -/
abbrev PCI_BAR2_DRAM_BASE : Nat := 0x1300008
/-- PCI_OBH_BASE_LO (R628). -/
abbrev PCI_OBH_BASE_LO : Nat := 0x1300010
/-- PCI_OBH_BASE_HI (R628). -/
abbrev PCI_OBH_BASE_HI : Nat := 0x1300014
/-- PCI_OBP_BASE_LO (R628). -/
abbrev PCI_OBP_BASE_LO : Nat := 0x1300018
/-- PCI_OBP_BASE_HI (R628). -/
abbrev PCI_OBP_BASE_HI : Nat := 0x130001c
/-- PCI_PEER_RID_k (R628). -/
abbrev PCI_PEER_RID (k : Nat) : Nat := 0x1300020 + k * 4
/-- PCI_MGQ_SQ_LO (R628). -/
abbrev PCI_MGQ_SQ_LO : Nat := 0x1300040
/-- PCI_MGQ_SQ_HI (R628). -/
abbrev PCI_MGQ_SQ_HI : Nat := 0x1300044
/-- PCI_MGQ_CQ_LO (R628). -/
abbrev PCI_MGQ_CQ_LO : Nat := 0x1300048
/-- PCI_MGQ_CQ_HI (R628). -/
abbrev PCI_MGQ_CQ_HI : Nat := 0x130004c
/-- PCI_MGQ_CFG (R628). -/
abbrev PCI_MGQ_CFG : Nat := 0x1300050
/-- PCI_MGQ_SQ_HEAD (R628). -/
abbrev PCI_MGQ_SQ_HEAD : Nat := 0x1300054
/-- PCI_TELEM_CFG (R628). -/
abbrev PCI_TELEM_CFG : Nat := 0x1300060
/-- PCI_SAFETY_NOTICE (R628). -/
abbrev PCI_SAFETY_NOTICE : Nat := 0x1300064
/-- PCI_NEXT_SEQ (R628). -/
abbrev PCI_NEXT_SEQ : Nat := 0x1300068
/-- PCI_POISON_CNT (R628). -/
abbrev PCI_POISON_CNT : Nat := 0x130006c
/-- PCI_RQ_CFG_q (R628). -/
abbrev PCI_RQ_CFG (q : Nat) : Nat := 0x1301000 + q * 0x20
/-- PCI_RQ_BASE_LO_q (R628). -/
abbrev PCI_RQ_BASE_LO (q : Nat) : Nat := 0x1301004 + q * 0x20
/-- PCI_RQ_BASE_HI_q (R628). -/
abbrev PCI_RQ_BASE_HI (q : Nat) : Nat := 0x1301008 + q * 0x20
/-- PCI_RQ_PBASE_LO_q (R628). -/
abbrev PCI_RQ_PBASE_LO (q : Nat) : Nat := 0x130100c + q * 0x20
/-- PCI_RQ_PBASE_HI_q (R628). -/
abbrev PCI_RQ_PBASE_HI (q : Nat) : Nat := 0x1301010 + q * 0x20
/-- PCI_RQ_SHADOW_LO_q (R628). -/
abbrev PCI_RQ_SHADOW_LO (q : Nat) : Nat := 0x1301014 + q * 0x20
/-- PCI_RQ_SHADOW_HI_q (R628). -/
abbrev PCI_RQ_SHADOW_HI (q : Nat) : Nat := 0x1301018 + q * 0x20
/-- PCI_RQ_DROP_q (R628). -/
abbrev PCI_RQ_DROP (q : Nat) : Nat := 0x130101c + q * 0x20
/-- SEC_STATUS (R628). -/
abbrev SEC_STATUS : Nat := 0x1380000
/-- SEC_IMAGE_VERSION (R628). -/
abbrev SEC_IMAGE_VERSION : Nat := 0x1380004
/-- SEC_BOOT_CTRL (R628). -/
abbrev SEC_BOOT_CTRL : Nat := 0x1380008
/-- SEC_DEVICE_PUB_w (R628). -/
abbrev SEC_DEVICE_PUB (w : Nat) : Nat := 0x1380040 + w * 4
/-- PMC_CTRL (R643). -/
abbrev PMC_CTRL : Nat := 0x1100000
/-- PMC_STATUS (R643). -/
abbrev PMC_STATUS : Nat := 0x1100004
/-- PMC_BW_WINDOW (R643). -/
abbrev PMC_BW_WINDOW : Nat := 0x1100008
/-- PMC_CT_CTRL (R643). -/
abbrev PMC_CT_CTRL : Nat := 0x1100010
/-- PMC_CT_BASE_LO (R643). -/
abbrev PMC_CT_BASE_LO : Nat := 0x1100014
/-- PMC_CT_BASE_HI (R643). -/
abbrev PMC_CT_BASE_HI : Nat := 0x1100018
/-- PMC_CT_SIZE (R643). -/
abbrev PMC_CT_SIZE : Nat := 0x110001c
/-- PMC_CT_HEAD (R643). -/
abbrev PMC_CT_HEAD : Nat := 0x1100020
/-- PMC_CT_TAIL (R643). -/
abbrev PMC_CT_TAIL : Nat := 0x1100024
/-- PMC_CT_DROP_CNT (R643). -/
abbrev PMC_CT_DROP_CNT : Nat := 0x1100028
/-- PMC_OVF_w (R643). -/
abbrev PMC_OVF (w : Nat) : Nat := 0x1100100 + w * 4
/-- PMC_SOVF_w (R643). -/
abbrev PMC_SOVF (w : Nat) : Nat := 0x1100300 + w * 4
/-- PMC_CNT_LO_i (R643). -/
abbrev PMC_CNT_LO (i : Nat) : Nat := 0x1101000 + i * 8
/-- PMC_CNT_HI_i (R643). -/
abbrev PMC_CNT_HI (i : Nat) : Nat := 0x1101004 + i * 8
/-- PMC_SHD_LO_i (R643). -/
abbrev PMC_SHD_LO (i : Nat) : Nat := 0x1104000 + i * 8
/-- PMC_SHD_HI_i (R643). -/
abbrev PMC_SHD_HI (i : Nat) : Nat := 0x1104004 + i * 8
/-- PMC_BW_LAST_k (R643). -/
abbrev PMC_BW_LAST (k : Nat) : Nat := 0x1108000 + k * 0x10
/-- PMC_BW_PEAK_k (R643). -/
abbrev PMC_BW_PEAK (k : Nat) : Nat := 0x1108004 + k * 0x10
/-- PMC_BW_SLAST_k (R643). -/
abbrev PMC_BW_SLAST (k : Nat) : Nat := 0x1108008 + k * 0x10
/-- PMC_BW_SPEAK_k (R643). -/
abbrev PMC_BW_SPEAK (k : Nat) : Nat := 0x110800c + k * 0x10
/-- SMC_GPIO_CFG_n (R662). -/
abbrev SMC_GPIO_CFG (n : Nat) : Nat := 0x200 + n * 4
/-- ENG_CTRL (R260, R298). -/
abbrev ENG_CTRL (e : Nat) : Nat := 0xa00000 + e * 0x10000
/-- ENG_STATUS (R260, R298). -/
abbrev ENG_STATUS (e : Nat) : Nat := 0xa00004 + e * 0x10000
/-- ENG_CUR_TAG (R260, R298). -/
abbrev ENG_CUR_TAG (e : Nat) : Nat := 0xa00008 + e * 0x10000
/-- ENG_ROWS_DONE (R260, R298). -/
abbrev ENG_ROWS_DONE (e : Nat) : Nat := 0xa0000c + e * 0x10000
/-- ENG_JOBS_CNT (R260, R298). -/
abbrev ENG_JOBS_CNT (e : Nat) : Nat := 0xa00010 + e * 0x10000
/-- ENG_STALL_US (R260, R298). -/
abbrev ENG_STALL_US (e : Nat) : Nat := 0xa00014 + e * 0x10000
/-- ENG_YIELD_CNT (R260, R298). -/
abbrev ENG_YIELD_CNT (e : Nat) : Nat := 0xa00018 + e * 0x10000
/-- WPE_BORDER_CNT (R260). -/
abbrev WPE_BORDER_CNT (i : Nat) : Nat := 0xa2001c + i * 0x10000
/-- WPE_INVALID_CNT (R260). -/
abbrev WPE_INVALID_CNT (i : Nat) : Nat := 0xa20020 + i * 0x10000
/-- WPE_SPLIT_CNT (R260). -/
abbrev WPE_SPLIT_CNT (i : Nat) : Nat := 0xa20024 + i * 0x10000
/-- OFE_INVALID_CNT (R298). -/
abbrev OFE_INVALID_CNT (i : Nat) : Nat := 0xa4001c + i * 0x10000
/-- OFE_REACH_CNT (R298). -/
abbrev OFE_REACH_CNT (i : Nat) : Nat := 0xa40020 + i * 0x10000
/-- OFE_PRIOR_ABSENT_CNT (R298). -/
abbrev OFE_PRIOR_ABSENT_CNT (i : Nat) : Nat := 0xa40024 + i * 0x10000
/-- SGE_INVALID_CNT (R298). -/
abbrev SGE_INVALID_CNT : Nat := 0xa6001c
/-- SGE_LR_FAIL_CNT (R298). -/
abbrev SGE_LR_FAIL_CNT : Nat := 0xa60020
/-- SGE_RANGE_EDGE_CNT (R298). -/
abbrev SGE_RANGE_EDGE_CNT : Nat := 0xa60024

end R

def smcRows : List RegRow :=
  [⟨"SMC_DEVICE_ID", 0, 1, 0, 1, 0, 0, 0, 0, 0x51200a01⟩,
   ⟨"SMC_CONTRACT_LEVEL", 4, 1, 0, 1, 0, 0, 0, 0, 0x10000⟩,
   ⟨"SMC_CAP_COUNT", 0x100, 1, 0, 1, 0, 0, 0, 0, 0xa⟩,
   ⟨"SMC_CAP_ENTRY_i", 0x108, 10, 8, 1, 0, 0, 0, 0, 0⟩,
   ⟨"SMC_CAP_OFFSET_i", 0x10c, 10, 8, 1, 0, 0, 0, 0, 0⟩,
   ⟨"SMC_LOCAL_TIME_LO", 0x40, 1, 0, 1, 0, 0, 0, 0, 0⟩,
   ⟨"SMC_LOCAL_TIME_HI", 0x44, 1, 0, 1, 0, 0, 0, 0, 0⟩,
   ⟨"SMC_DEV_TIME_LO", 0x48, 1, 0, 1, 0, 0, 0, 0, 0⟩,
   ⟨"SMC_DEV_TIME_HI", 0x4c, 1, 0, 1, 0, 0, 0, 0, 0⟩,
   ⟨"SMC_TIME_CTRL", 0x50, 1, 0, 1, 0, 0x3f, 0, 0, 0⟩,
   ⟨"SMC_TIME_STATUS", 0x54, 1, 0, 1, 0, 0, 0, 6, 0⟩,
   ⟨"SMC_GPIO_CFG_n", 0x200, 16, 4, 1, 0, 0x1f3d, 0xc0000000, 0, 0⟩]

def pmgRows : List RegRow :=
  [⟨"PMG_CTRL", 0x100000, 1, 0, 1, 0, 0, 0, 0, 0⟩,
   ⟨"PMG_CLK_STATUS", 0x100004, 1, 0, 1, 0, 0, 0, 0, 0⟩,
   ⟨"PMG_CORE_HZ", 0x100008, 1, 0, 1, 0, 0, 0, 0, 0x77359400⟩,
   ⟨"PMG_NOC_HZ", 0x10000c, 1, 0, 1, 0, 0, 0, 0, 0x3b9aca00⟩,
   ⟨"PMG_PIPE_HZ", 0x100010, 1, 0, 1, 0, 0, 0, 0, 0x1dcd6500⟩,
   ⟨"PMG_MAC_HZ", 0x100014, 1, 0, 1, 0, 0, 0, 0, 0xee6b280⟩,
   ⟨"PMG_BUDGET_MAX", 0x100020, 1, 0, 1, 0, 0, 0x3ff, 0, 0x2f8⟩,
   ⟨"PMG_BUDGET_LIMIT", 0x100024, 1, 0, 1, 0, 0x3ff, 0, 0, 0x2f8⟩,
   ⟨"PMG_P0_RESERVE", 0x100028, 1, 0, 1, 0, 0, 0x3ff, 0, 0⟩,
   ⟨"PMG_BUDGET_EFF", 0x10002c, 1, 0, 1, 0, 0, 0, 0, 0x2f802f8⟩,
   ⟨"PMG_BASE", 0x100030, 1, 0, 1, 0, 0, 0, 0, 0⟩,
   ⟨"PMG_USED", 0x100034, 1, 0, 1, 0, 0, 0, 0, 0⟩,
   ⟨"PMG_THERM_CFG", 0x100038, 1, 0, 1, 0, 0, 0xffff, 0, 0x5c64⟩,
   ⟨"PMG_TJ", 0x10003c, 1, 0, 1, 0, 0, 0, 0, 0⟩,
   ⟨"PMG_GRANT_DELAY_US", 0x100040, 1, 0, 1, 0, 0, 0, 0, 0⟩,
   ⟨"PMG_DELAYED_CNT", 0x100044, 1, 0, 1, 0, 0, 0, 0, 0⟩,
   ⟨"PMG_DROOP_SKIP_W", 0x100048, 1, 0, 1, 0, 0, 0, 0, 0⟩,
   ⟨"PMG_DROOP_SKIP_E", 0x10004c, 1, 0, 1, 0, 0, 0, 0, 0⟩,
   ⟨"PMG_DROOP_EVT_CNT", 0x100050, 1, 0, 1, 0, 0, 0, 0, 0⟩,
   ⟨"PMG_DESKEW_STALE_CNT", 0x100054, 1, 0, 1, 0, 0, 0, 0, 0⟩,
   ⟨"PMG_LIFE", 0x100060, 1, 0, 1, 0, 0, 0, 0, 0xffff0000⟩,
   ⟨"PMG_DOM_CFG_d", 0x100100, 10, 0x10, 1, 0, 0x8000ffff, 0, 0, 0x3e8⟩,
   ⟨"PMG_DOM_STATUS_d", 0x100104, 10, 0x10, 1, 0, 0, 0, 0, 0⟩,
   ⟨"PMG_MARGIN_d", 0x100108, 10, 0x10, 1, 0, 0, 0, 0, 0⟩,
   ⟨"PMG_SLACK_d", 0x10010c, 10, 0x10, 1, 0, 0, 0, 0, 0⟩]

def safRows : List RegRow :=
  [⟨"SAF_CTRL", 0x200000, 1, 0, 1, 0, 0, 0, 0, 0⟩,
   ⟨"SAF_STATUS", 0x200004, 1, 0, 1, 0, 0, 0, 0, 0⟩,
   ⟨"SAF_LOCK_STATUS", 0x200008, 1, 0, 1, 0, 0, 0, 0, 0⟩,
   ⟨"SAF_PROOF_CFG", 0x200010, 1, 0, 1, 0, 0, 0x3ff, 0, 0x1f4⟩,
   ⟨"SAF_PROOF_PHASE", 0x200014, 1, 0, 1, 0, 0, 0x1ffff, 0, 0⟩,
   ⟨"SAF_PROOF_LEN", 0x200018, 1, 0, 1, 0, 0, 0x1ffff, 0, 0xc8⟩,
   ⟨"SAF_PROOF_STATUS", 0x20001c, 1, 0, 1, 0, 0, 0, 0, 0⟩,
   ⟨"SAF_HEARTBEAT", 0x200020, 1, 0, 1, 0, 0, 0, 0, 0⟩,
   ⟨"SAF_HB_CFG", 0x200024, 1, 0, 1, 0, 0, 0x1ffff, 0, 0⟩,
   ⟨"SAF_REACT", 0x200028, 1, 0, 1, 0, 0xff00, 3, 0, 0xff03⟩,
   ⟨"SAF_NOTICE_PEND", 0x20002c, 1, 0, 1, 0, 0, 0, 0xff, 0⟩,
   ⟨"SAF_FORCE", 0x200030, 1, 0, 1, 0, 0, 0, 0, 0⟩,
   ⟨"SAF_DISAGREE_CNT", 0x200040, 1, 0, 1, 0, 0, 0, 0, 0⟩,
   ⟨"SAF_UNTRUSTED_CNT", 0x200044, 1, 0, 1, 0, 0, 0, 0, 0⟩,
   ⟨"SAF_PROOF_PASS_CNT", 0x200048, 1, 0, 1, 0, 0, 0, 0, 0⟩,
   ⟨"SAF_PROOF_MISS_CNT", 0x20004c, 1, 0, 1, 0, 0, 0, 0, 0⟩,
   ⟨"SAF_WD_NOTICE_CNT", 0x200050, 1, 0, 1, 0, 0, 0, 0, 0⟩,
   ⟨"SAF_TP_CFG_i", 0x200100, 16, 0x10, 1, 0, 0, 0xb0ffff00, 0, 0x200200⟩,
   ⟨"SAF_TP_STATE_i", 0x200104, 16, 0x10, 1, 0, 0, 0, 0, 0⟩,
   ⟨"SAF_PS_ADDR_LO_s", 0x200200, 8, 0x10, 1, 0, 0, 0xffffffff, 0, 0⟩,
   ⟨"SAF_PS_ADDR_HI_s", 0x200204, 8, 0x10, 1, 0, 0, 0xff, 0, 0⟩,
   ⟨"SAF_PS_CFG_s", 0x200208, 8, 0x10, 1, 0, 0, 0x80000000, 0, 0⟩,
   ⟨"SAF_PS_STATUS_s", 0x20020c, 8, 0x10, 1, 0, 0, 0, 0, 0xff00⟩,
   ⟨"SAF_LAST_CAUSE_w", 0x200300, 8, 4, 1, 0, 0, 0, 0, 0⟩,
   ⟨"SAF_CAUSE_CLEAR", 0x200320, 1, 0, 1, 0, 0, 0, 0, 0⟩]

def portRows : List RegRow :=
  [⟨"TPP_CTRL", 0x400000, 8, 0x10000, 1, 0, 9, 0, 0, 0⟩,
   ⟨"TPP_STATUS", 0x400004, 8, 0x10000, 1, 0, 0, 0, 0x30, 0x4000000⟩,
   ⟨"TPP_ORPHAN_CNT", 0x400010, 8, 0x10000, 1, 0, 0, 0, 0, 0⟩,
   ⟨"TPP_LENGTH_CNT", 0x400014, 8, 0x10000, 1, 0, 0, 0, 0, 0⟩,
   ⟨"TPP_OVERRUN_CNT", 0x400018, 8, 0x10000, 1, 0, 0, 0, 0, 0⟩,
   ⟨"TPP_HOLD_US", 0x40001c, 8, 0x10000, 1, 0, 0, 0, 0, 0⟩,
   ⟨"TPP_FS_MISMATCH_CNT", 0x400020, 8, 0x10000, 1, 0, 0, 0, 0, 0⟩,
   ⟨"TPP_CTL_TIMEOUT_CNT", 0x400024, 8, 0x10000, 1, 0, 0, 0, 0, 0⟩,
   ⟨"TPP_CTL_CRC_CNT", 0x400028, 8, 0x10000, 1, 0, 0, 0, 0, 0⟩,
   ⟨"TPP_CTL_CMD0", 0x400030, 8, 0x10000, 1, 0, 0x3ff3000, 0, 0, 0⟩,
   ⟨"TPP_CTL_CMD1", 0x400034, 8, 0x10000, 1, 0, 0xffffffff, 0, 0, 0⟩,
   ⟨"TPP_CTL_RSP0", 0x400038, 8, 0x10000, 1, 0, 0, 0, 0xc0000000, 0⟩,
   ⟨"TPP_CTL_RSP1", 0x40003c, 8, 0x10000, 1, 0, 0, 0, 0, 0⟩,
   ⟨"LND_CTRL", 0x480000, 1, 0, 1, 0, 1, 0, 0, 0⟩,
   ⟨"LND_CTX_CMD", 0x480004, 1, 0, 1, 0, 0x3ff, 0, 0, 0⟩,
   ⟨"LND_CTX_STATUS", 0x480008, 1, 0, 1, 0, 0, 0, 0, 0⟩,
   ⟨"LND_RELEASE", 0x48000c, 1, 0, 1, 0, 0x3ff0007, 0, 0, 0⟩,
   ⟨"LND_CTX_WORD_w", 0x480040, 16, 4, 1, 0, 0xffffffff, 0, 0, 0⟩]

def ispRows : List RegRow :=
  [⟨"ISP_CTRL", 0x500000, 2, 0x100000, 1, 0, 1, 0, 0, 0⟩,
   ⟨"ISP_STATUS", 0x500004, 2, 0x100000, 1, 0, 0, 0, 0, 0⟩,
   ⟨"ISP_CUR_TAG", 0x500008, 2, 0x100000, 1, 0, 0, 0, 0, 0⟩,
   ⟨"ISP_ROWS_DONE", 0x50000c, 2, 0x100000, 1, 0, 0, 0, 0, 0⟩,
   ⟨"ISP_FRAMES_CNT", 0x500010, 2, 0x100000, 1, 0, 0, 0, 0, 0⟩,
   ⟨"ISP_STALL_US", 0x500014, 2, 0x100000, 1, 0, 0, 0, 0, 0⟩,
   ⟨"ISP_YIELD_CNT", 0x500018, 2, 0x100000, 1, 0, 0, 0, 0, 0⟩,
   ⟨"ISP_QUEUE_STATUS", 0x508000, 1, 0, 1, 0, 0, 0, 0, 0⟩,
   ⟨"ISP_CTX_CMD", 0x508010, 1, 0, 1, 0, 0x3ff, 0, 0, 0⟩,
   ⟨"ISP_CTX_ADDR_LO", 0x508014, 1, 0, 1, 0, 0xffffffff, 0, 0, 0⟩,
   ⟨"ISP_CTX_ADDR_HI", 0x508018, 1, 0, 1, 0, 0xff, 0, 0, 0⟩,
   ⟨"ISP_CTX_STATUS", 0x50801c, 1, 0, 1, 0, 0, 0, 0, 0⟩,
   ⟨"ISP_SR_CTRL_h", 0x509000, 8, 0x40, 1, 0, 0x3ff0007, 0, 0, 0⟩,
   ⟨"ISP_SR_ID_h", 0x509004, 8, 0x40, 1, 0, 0xffffffff, 0, 0, 0⟩,
   ⟨"ISP_SR_EXPOSURE_h", 0x509008, 8, 0x40, 1, 0, 0xffffffff, 0, 0, 0⟩,
   ⟨"ISP_SR_GAIN_h", 0x50900c, 8, 0x40, 1, 0, 0xffff0001, 0, 0, 0⟩,
   ⟨"ISP_SR_WB0_h", 0x509010, 8, 0x40, 1, 0, 0xffffffff, 0, 0, 0⟩,
   ⟨"ISP_SR_WB1_h", 0x509014, 8, 0x40, 1, 0, 0xffffffff, 0, 0, 0⟩,
   ⟨"ISP_SR_WRITE_k_h", 0x509018, 8, 0x40, 6, 4, 0xffffffff, 0, 0, 0⟩,
   ⟨"ISP_SR_RESULT_h", 0x509030, 8, 0x40, 1, 0, 0, 0, 0, 0⟩,
   ⟨"ISP_SR_TARGET_h", 0x509034, 8, 0x40, 1, 0, 0, 0, 0, 0⟩]

def fgsRows : List RegRow :=
  [⟨"FGS_CTRL", 0x800000, 1, 0, 1, 0, 1, 0, 0, 0⟩,
   ⟨"FGS_STATUS", 0x800004, 1, 0, 1, 0, 0, 0, 0, 0⟩,
   ⟨"FGS_GRAPH_CMD", 0x800010, 1, 0, 1, 0, 0xff, 0, 0, 0⟩,
   ⟨"FGS_GRAPH_ADDR_LO", 0x800014, 1, 0, 1, 0, 0xffffffff, 0, 0, 0⟩,
   ⟨"FGS_GRAPH_ADDR_HI", 0x800018, 1, 0, 1, 0, 0xff, 0, 0, 0⟩,
   ⟨"FGS_GRAPH_STATUS", 0x80001c, 1, 0, 1, 0, 0, 0, 0, 0⟩,
   ⟨"FGS_GRAPH_DETAIL", 0x800020, 1, 0, 1, 0, 0, 0, 0, 0⟩,
   ⟨"FGS_ABORT", 0x800030, 1, 0, 1, 0, 0x1ff, 0, 0, 0⟩,
   ⟨"FGS_ABORT_TAG", 0x800034, 1, 0, 1, 0, 0xffffffff, 0, 0, 0⟩,
   ⟨"FGS_ABORT_STATUS", 0x800038, 1, 0, 1, 0, 0, 0, 0, 0⟩,
   ⟨"FGS_TRIGGER_CNT", 0x800040, 1, 0, 1, 0, 0, 0, 0, 0⟩,
   ⟨"FGS_SUPERSEDED_CNT", 0x800044, 1, 0, 1, 0, 0, 0, 0, 0⟩,
   ⟨"FGS_JOBS_CNT", 0x800048, 1, 0, 1, 0, 0, 0, 0, 0⟩,
   ⟨"FGS_EMIT_DROP_CNT", 0x80004c, 1, 0, 1, 0, 0, 0, 0, 0⟩,
   ⟨"FGS_WD_EARLY_CNT", 0x800050, 1, 0, 1, 0, 0, 0, 0, 0⟩,
   ⟨"FGS_WD_LATE_CNT", 0x800054, 1, 0, 1, 0, 0, 0, 0, 0⟩,
   ⟨"FGS_SLOT_FAULT_CNT", 0x800058, 1, 0, 1, 0, 0, 0, 0, 0⟩,
   ⟨"FGS_HELD_US", 0x80005c, 1, 0, 1, 0, 0, 0, 0, 0⟩,
   ⟨"FGS_CQ_BASE_LO_p", 0x800100, 4, 0x20, 1, 0, 0xffffffff, 0, 0, 0⟩,
   ⟨"FGS_CQ_BASE_HI_p", 0x800104, 4, 0x20, 1, 0, 0xff, 0, 0, 0⟩,
   ⟨"FGS_CQ_SIZE_p", 0x800108, 4, 0x20, 1, 0, 0xffffffff, 0, 0, 0⟩,
   ⟨"FGS_CQ_HEAD_p", 0x80010c, 4, 0x20, 1, 0, 0xffffffff, 0, 0, 0⟩,
   ⟨"FGS_CQ_TAIL_p", 0x800110, 4, 0x20, 1, 0, 0, 0, 0, 0⟩,
   ⟨"FGS_CQ_STATUS_p", 0x800114, 4, 0x20, 1, 0, 0, 0, 6, 0⟩]

def htsRows : List RegRow :=
  [⟨"HTS_CTRL", 0x900000, 1, 0, 1, 0, 1, 0, 0, 0⟩,
   ⟨"HTS_STATUS", 0x900004, 1, 0, 1, 0, 0, 0, 0, 0⟩,
   ⟨"HTS_TICK", 0x900008, 1, 0, 1, 0, 0x3ff, 0, 0, 0x32⟩,
   ⟨"HTS_MAJOR_CYCLE", 0x90000c, 1, 0, 1, 0, 0, 0x3ff, 0, 0x64⟩,
   ⟨"HTS_QUERY_HANDLE", 0x900018, 1, 0, 1, 0, 0xffffffff, 0, 0, 0⟩,
   ⟨"HTS_QUERY_RESULT", 0x90001c, 1, 0, 1, 0, 0, 0, 0, 0⟩,
   ⟨"HTS_QUOTA_p", 0x900020, 4, 4, 1, 0, 0, 0x3fff, 0, 0x800⟩,
   ⟨"HTS_ABORT_HANDLE", 0x900030, 1, 0, 1, 0, 0xffffffff, 0, 0, 0⟩,
   ⟨"HTS_ABORT_CTRL", 0x900034, 1, 0, 1, 0, 0, 0, 0, 0⟩,
   ⟨"HTS_ABORT_STATUS", 0x900038, 1, 0, 1, 0, 0, 0, 0, 0⟩,
   ⟨"HTS_FREE", 0x90003c, 1, 0, 1, 0, 0, 0, 0, 0⟩,
   ⟨"HTS_POSTS_CNT", 0x900040, 1, 0, 1, 0, 0, 0, 0, 0⟩,
   ⟨"HTS_BUSY_CNT", 0x900044, 1, 0, 1, 0, 0, 0, 0, 0⟩,
   ⟨"HTS_HELD_US", 0x900048, 1, 0, 1, 0, 0, 0, 0, 0⟩,
   ⟨"HTS_STALE_EVENT_CNT", 0x90004c, 1, 0, 1, 0, 0, 0, 0, 0⟩,
   ⟨"HTS_LATE_EVENT_CNT", 0x900050, 1, 0, 1, 0, 0, 0, 0, 0⟩,
   ⟨"HTS_PREEMPT_CNT", 0x900054, 1, 0, 1, 0, 0, 0, 0, 0⟩,
   ⟨"HTS_TIMEOUT_CNT", 0x900058, 1, 0, 1, 0, 0, 0, 0, 0⟩,
   ⟨"HTS_PROTO_CNT", 0x90005c, 1, 0, 1, 0, 0, 0, 0, 0⟩,
   ⟨"HTS_CT_FILTER", 0x900080, 1, 0, 1, 0, 0x3f03ff, 0, 0, 0x3f03ff⟩,
   ⟨"HTS_GROUP_FLAGS_g", 0x901000, 256, 4, 1, 0, 0, 0, 0xffffffff, 0⟩,
   ⟨"HTS_GROUP_PART_k", 0x901400, 16, 4, 1, 0, 0, 0xffffffff, 0, 0⟩,
   ⟨"HTS_WIN_t_e", 0x902000, 8, 0x20, 8, 4, 0, 0xb001ffff, 0, 0⟩,
   ⟨"HTS_PS_CFG_h", 0x900100, 8, 0x40, 1, 0, 0x3ffffff, 0, 0, 0⟩,
   ⟨"HTS_PS_MASK_h", 0x900104, 8, 0x40, 1, 0, 0xffffffff, 0, 0, 0⟩,
   ⟨"HTS_PS_FLAGS_h", 0x900108, 8, 0x40, 1, 0, 0xffffffff, 0, 0, 0⟩,
   ⟨"HTS_PS_TIME_h", 0x90010c, 8, 0x40, 1, 0, 0xffffffff, 0, 0, 0⟩,
   ⟨"HTS_PS_ARGk_h", 0x900110, 8, 0x40, 4, 4, 0xffffffff, 0, 0, 0⟩,
   ⟨"HTS_PS_ONDONE_TARGET_h", 0x900120, 8, 0x40, 1, 0, 0xffffffff, 0, 0, 0⟩,
   ⟨"HTS_PS_ONDONE_FLAGS_h", 0x900124, 8, 0x40, 1, 0, 0xffffffff, 0, 0, 0⟩,
   ⟨"HTS_PS_EVT_TARGET_h", 0x900128, 8, 0x40, 1, 0, 0xffffffff, 0, 0, 0⟩,
   ⟨"HTS_PS_EVT_FLAGS_h", 0x90012c, 8, 0x40, 1, 0, 0xffffffff, 0, 0, 0⟩,
   ⟨"HTS_PS_POST_TRY_h", 0x900130, 8, 0x40, 1, 0, 0, 0, 0, 0⟩,
   ⟨"HTS_PS_EVENT_TRY_h", 0x900134, 8, 0x40, 1, 0, 0, 0, 0, 0⟩,
   ⟨"HTS_PS_HANDLE_h", 0x900138, 8, 0x40, 1, 0, 0, 0, 0, 0⟩,
   ⟨"HTS_PS_PART_h", 0x90013c, 8, 0x40, 1, 0, 0, 3, 0, 2⟩,
   ⟨"HTS_HC_CFG_n", 0x900400, 8, 0x40, 1, 0, 0xffff0, 1, 0, 0x10⟩,
   ⟨"HTS_TAKE_n", 0x900404, 8, 0x40, 1, 0, 0, 0, 0, 0⟩,
   ⟨"HTS_CUR_n", 0x900408, 8, 0x40, 1, 0, 0, 0, 0, 0⟩,
   ⟨"HTS_ARGk_n", 0x90040c, 8, 0x40, 4, 4, 0, 0, 0, 0⟩] ++
  [⟨"HTS_DONE_n", 0x90041c, 8, 0x40, 1, 0, 0, 0, 0, 0⟩,
   ⟨"HTS_YIELD_n", 0x900420, 8, 0x40, 1, 0, 0, 0, 0, 0⟩,
   ⟨"HTS_HC_STATUS_n", 0x900424, 8, 0x40, 1, 0, 0, 0, 0, 0⟩,
   ⟨"TIM_CTRL_n", 0x903000, 32, 0x20, 1, 0, 7, 0xc0000000, 0, 0⟩,
   ⟨"TIM_PERIOD_n", 0x903004, 32, 0x20, 1, 0, 0xffffffff, 0, 0, 0⟩,
   ⟨"TIM_PHASE_n", 0x903008, 32, 0x20, 1, 0, 0xffffffff, 0, 0, 0⟩,
   ⟨"TIM_EVENT_TARGET_n", 0x90300c, 32, 0x20, 1, 0, 0xffffffff, 0, 0, 0⟩,
   ⟨"TIM_EVENT_FLAGS_n", 0x903010, 32, 0x20, 1, 0, 0xffffffff, 0, 0, 0⟩,
   ⟨"TIM_COUNT_n", 0x903014, 32, 0x20, 1, 0, 0, 0, 0, 0⟩,
   ⟨"TIM_OVERRUN_n", 0x903018, 32, 0x20, 1, 0, 0, 0, 0, 0⟩]

def pipeRows : List RegRow :=
  [⟨"FTE_CTRL", 0xa70000, 1, 0, 1, 0, 1, 0, 0, 0⟩,
   ⟨"FTE_STATUS", 0xa70004, 1, 0, 1, 0, 0, 0, 0, 0⟩,
   ⟨"FTE_CUR_TAG", 0xa70008, 1, 0, 1, 0, 0, 0, 0, 0⟩,
   ⟨"FTE_PROGRESS", 0xa7000c, 1, 0, 1, 0, 0, 0, 0, 0⟩,
   ⟨"FTE_JOBS_CNT", 0xa70010, 1, 0, 1, 0, 0, 0, 0, 0⟩,
   ⟨"FTE_STALL_US", 0xa70014, 1, 0, 1, 0, 0, 0, 0, 0⟩,
   ⟨"FTE_YIELD_CNT", 0xa70018, 1, 0, 1, 0, 0, 0, 0, 0⟩,
   ⟨"FTE_KP_CNT", 0xa7001c, 1, 0, 1, 0, 0, 0, 0, 0⟩,
   ⟨"FTE_MATCH_CNT", 0xa70020, 1, 0, 1, 0, 0, 0, 0, 0⟩,
   ⟨"FTE_NEW_TRACK_CNT", 0xa70024, 1, 0, 1, 0, 0, 0, 0, 0⟩,
   ⟨"FTE_DROP_TRACK_CNT", 0xa70028, 1, 0, 1, 0, 0, 0, 0, 0⟩,
   ⟨"FTE_TT_FULL_CNT", 0xa7002c, 1, 0, 1, 0, 0, 0, 0, 0⟩,
   ⟨"FTE_TABLE_LOST_CNT", 0xa70030, 1, 0, 1, 0, 0, 0, 0, 0⟩,
   ⟨"FTE_PT_CMD", 0xa70040, 1, 0, 1, 0, 3, 0, 0, 0⟩,
   ⟨"FTE_PT_ADDR_LO", 0xa70044, 1, 0, 1, 0, 0xffffffff, 0, 0, 0⟩,
   ⟨"FTE_PT_ADDR_HI", 0xa70048, 1, 0, 1, 0, 0xff, 0, 0, 0⟩,
   ⟨"FTE_PT_STATUS", 0xa7004c, 1, 0, 1, 0, 0, 0, 0, 0⟩,
   ⟨"FTE_TS_CFG_s", 0xa70100, 16, 8, 1, 0, 0, 0xc0000001, 0, 0⟩,
   ⟨"FTE_TS_NEXT_ID_s", 0xa70104, 16, 8, 1, 0, 0xffffffff, 0, 0, 1⟩,
   ⟨"ENG_CTRL", 0xa00000, 7, 0x10000, 1, 0, 1, 0, 0, 0⟩,
   ⟨"ENG_STATUS", 0xa00004, 7, 0x10000, 1, 0, 0, 0, 0, 0⟩,
   ⟨"ENG_CUR_TAG", 0xa00008, 7, 0x10000, 1, 0, 0, 0, 0, 0⟩,
   ⟨"ENG_ROWS_DONE", 0xa0000c, 7, 0x10000, 1, 0, 0, 0, 0, 0⟩,
   ⟨"ENG_JOBS_CNT", 0xa00010, 7, 0x10000, 1, 0, 0, 0, 0, 0⟩,
   ⟨"ENG_STALL_US", 0xa00014, 7, 0x10000, 1, 0, 0, 0, 0, 0⟩,
   ⟨"ENG_YIELD_CNT", 0xa00018, 7, 0x10000, 1, 0, 0, 0, 0, 0⟩,
   ⟨"WPE_BORDER_CNT", 0xa2001c, 2, 0x10000, 1, 0, 0, 0, 0, 0⟩,
   ⟨"WPE_INVALID_CNT", 0xa20020, 2, 0x10000, 1, 0, 0, 0, 0, 0⟩,
   ⟨"WPE_SPLIT_CNT", 0xa20024, 2, 0x10000, 1, 0, 0, 0, 0, 0⟩,
   ⟨"OFE_INVALID_CNT", 0xa4001c, 2, 0x10000, 1, 0, 0, 0, 0, 0⟩,
   ⟨"OFE_REACH_CNT", 0xa40020, 2, 0x10000, 1, 0, 0, 0, 0, 0⟩,
   ⟨"OFE_PRIOR_ABSENT_CNT", 0xa40024, 2, 0x10000, 1, 0, 0, 0, 0, 0⟩,
   ⟨"SGE_INVALID_CNT", 0xa6001c, 1, 0, 1, 0, 0, 0, 0, 0⟩,
   ⟨"SGE_LR_FAIL_CNT", 0xa60020, 1, 0, 1, 0, 0, 0, 0, 0⟩,
   ⟨"SGE_RANGE_EDGE_CNT", 0xa60024, 1, 0, 1, 0, 0, 0, 0, 0⟩]

def ncRows : List RegRow :=
  [⟨"NC_CTRL", 0xc00000, 8, 0x40000, 1, 0, 1, 0, 0, 0⟩,
   ⟨"NC_STATUS", 0xc00004, 8, 0x40000, 1, 0, 0, 0, 0, 0⟩,
   ⟨"NC_CUR_TAG", 0xc00008, 8, 0x40000, 1, 0, 0, 0, 0, 0⟩,
   ⟨"NC_TILES_DONE", 0xc0000c, 8, 0x40000, 1, 0, 0, 0, 0, 0⟩,
   ⟨"NC_RUNS_CNT", 0xc00010, 8, 0x40000, 1, 0, 0, 0, 0, 0⟩,
   ⟨"NC_STALL_US", 0xc00014, 8, 0x40000, 1, 0, 0, 0, 0, 0⟩,
   ⟨"NC_YIELD_CNT", 0xc00018, 8, 0x40000, 1, 0, 0, 0, 0, 0⟩,
   ⟨"NC_BUSY_US", 0xc0001c, 8, 0x40000, 1, 0, 0, 0, 0, 0⟩,
   ⟨"NC_ACC_SAT_CNT", 0xc00020, 8, 0x40000, 1, 0, 0, 0, 0, 0⟩,
   ⟨"NC_OUT_SAT_CNT", 0xc00024, 8, 0x40000, 1, 0, 0, 0, 0, 0⟩,
   ⟨"NC_EST_OVER_CNT", 0xc00028, 8, 0x40000, 1, 0, 0, 0, 0, 0⟩,
   ⟨"NC_WM_QUOTA_p", 0xc00040, 8, 0x40000, 4, 0x10, 0, 0x1fff, 0, 0⟩,
   ⟨"NC_AM_QUOTA_p", 0xc00044, 8, 0x40000, 4, 0x10, 0, 0x1fff, 0, 0⟩,
   ⟨"NC_PM_QUOTA_p", 0xc00048, 8, 0x40000, 4, 0x10, 0, 0x1fff, 0, 0⟩,
   ⟨"NC_ADM_STATUS", 0xc20000, 1, 0, 1, 0, 0, 0, 0, 0⟩,
   ⟨"NC_ADM_SHORT", 0xc20004, 1, 0, 1, 0, 0, 0, 0, 0⟩,
   ⟨"NC_SCRATCH_QUOTA_p", 0xc20010, 4, 4, 1, 0, 0, 0xffff, 0, 0⟩,
   ⟨"NC_STREAM_RATE_p", 0xc20020, 4, 4, 1, 0, 0, 0xffffffff, 0, 0⟩,
   ⟨"NC_SCRATCH_BASE_p", 0xc20030, 4, 4, 1, 0, 0, 0x7fff, 0, 0⟩,
   ⟨"NC_TIME_USED_W_p", 0xc20040, 4, 8, 1, 0, 0, 0, 0, 0⟩,
   ⟨"NC_TIME_USED_E_p", 0xc20044, 4, 8, 1, 0, 0, 0, 0, 0⟩]

def tduRows : List RegRow :=
  [⟨"TDU_CMD_p", 0xe00000, 4, 0x100, 1, 0, 0, 0, 0, 0⟩,
   ⟨"TDU_STATUS_p", 0xe00004, 4, 0x100, 1, 0, 0, 0, 0, 0⟩,
   ⟨"TDU_HANDLE_p", 0xe00008, 4, 0x100, 1, 0, 0xffff, 0, 0, 0xffff⟩,
   ⟨"TDU_DETAIL_p", 0xe0000c, 4, 0x100, 1, 0, 0, 0, 0, 0⟩,
   ⟨"TDU_USED_p", 0xe00010, 4, 0x100, 1, 0, 0, 0, 0, 0⟩,
   ⟨"TDU_OOB_READ_CNT_p", 0xe00014, 4, 0x100, 1, 0, 0, 0, 0, 0⟩,
   ⟨"TDU_OOB_WRITE_CNT_p", 0xe00018, 4, 0x100, 1, 0, 0, 0, 0, 0⟩,
   ⟨"TDU_OOB_LOG_p", 0xe0001c, 4, 0x100, 1, 0, 0, 0, 0x80000000, 0⟩,
   ⟨"TDU_OOB_INDEX_p", 0xe00020, 4, 0x100, 1, 0, 0, 0, 0, 0⟩,
   ⟨"TDU_STAGE_w_p", 0xe00080, 4, 0x100, 32, 4, 0xffffffff, 0, 0, 0⟩,
   ⟨"TDU_REG_CMD", 0xe01000, 1, 0, 1, 0, 0xfff, 0, 0, 0⟩,
   ⟨"TDU_REG_STATUS", 0xe01004, 1, 0, 1, 0, 0, 0, 0, 0⟩,
   ⟨"TDU_REG_STAGE_w", 0xe01010, 4, 4, 1, 0, 0xffffffff, 0, 0, 0⟩]

def spmRows : List RegRow :=
  [⟨"SPM_CTRL", 0xe80000, 1, 0, 1, 0, 0xfff01, 0, 0, 0x10001⟩,
   ⟨"SPM_OWN_CMD", 0xe80010, 1, 0, 1, 0, 0x7f003f3f, 0, 0, 0⟩,
   ⟨"SPM_OWN_STATUS", 0xe80014, 1, 0, 1, 0, 0, 0, 0, 0⟩,
   ⟨"SPM_ERR_LOG", 0xe80040, 1, 0, 1, 0, 0, 0, 0x80000000, 0⟩,
   ⟨"SPM_PARITY_CNT", 0xe80050, 1, 0, 1, 0, 0, 0, 0, 0⟩,
   ⟨"SPM_SCRUB_ERR_CNT", 0xe80054, 1, 0, 1, 0, 0, 0, 0, 0⟩,
   ⟨"SPM_PART_FAULT_CNT", 0xe80058, 1, 0, 1, 0, 0, 0, 0, 0⟩,
   ⟨"SPM_SCRUB_PASS_CNT", 0xe8005c, 1, 0, 1, 0, 0, 0, 0, 0⟩,
   ⟨"SPM_ZERO_FILL_CNT", 0xe80060, 1, 0, 1, 0, 0, 0, 0, 0⟩,
   ⟨"SPM_OWN_NC_c_k", 0xe80100, 8, 0x20, 8, 4, 0, 0, 0, 0xffffffff⟩,
   ⟨"SPM_OWN_SLOT", 0xe80200, 1, 0, 1, 0, 0, 0, 0, 0xffffffff⟩]

def dmaRows : List RegRow :=
  [⟨"DMA_CTRL", 0xf00000, 4, 0x40000, 1, 0, 1, 0, 0, 0⟩,
   ⟨"DMA_STATUS", 0xf00004, 4, 0x40000, 1, 0, 0, 0, 0, 0⟩,
   ⟨"DMA_CQ_BASE_LO", 0xf00010, 4, 0x40000, 1, 0, 0xffffffff, 0, 0, 0⟩,
   ⟨"DMA_CQ_BASE_HI", 0xf00014, 4, 0x40000, 1, 0, 0xffffffff, 0, 0, 0⟩,
   ⟨"DMA_CQ_SIZE", 0xf00018, 4, 0x40000, 1, 0, 0xffffffff, 0, 0, 0⟩,
   ⟨"DMA_CQ_HEAD", 0xf0001c, 4, 0x40000, 1, 0, 0xffffffff, 0, 0, 0⟩,
   ⟨"DMA_CQ_TAIL", 0xf00020, 4, 0x40000, 1, 0, 0, 0, 0, 0⟩,
   ⟨"DMA_CQ_CFG", 0xf00024, 4, 0x40000, 1, 0, 1, 0, 0, 0⟩,
   ⟨"DMA_CQ_STATUS", 0xf00028, 4, 0x40000, 1, 0, 0, 0, 6, 0⟩,
   ⟨"DMA_ERR_ADDR_LO", 0xf00030, 4, 0x40000, 1, 0, 0, 0, 0, 0⟩,
   ⟨"DMA_ERR_ADDR_HI", 0xf00034, 4, 0x40000, 1, 0, 0, 0, 0, 0⟩,
   ⟨"DMA_ERR_INFO", 0xf00038, 4, 0x40000, 1, 0, 0, 0, 0, 0⟩,
   ⟨"DMA_CHAINS_CNT", 0xf00040, 4, 0x40000, 1, 0, 0, 0, 0, 0⟩,
   ⟨"DMA_BUS_ERR_CNT", 0xf00044, 4, 0x40000, 1, 0, 0, 0, 0, 0⟩,
   ⟨"DMA_TRIG_MERGE_CNT", 0xf00048, 4, 0x40000, 1, 0, 0, 0, 0, 0⟩,
   ⟨"DMA_RETRY_CNT", 0xf0004c, 4, 0x40000, 1, 0, 0, 0, 0, 0⟩,
   ⟨"DMA_CQ_HELD_US", 0xf00050, 4, 0x40000, 1, 0, 0, 0, 0, 0⟩,
   ⟨"DMA_CH_CFG_c", 0xf01000, 4, 0x40000, 16, 0x40, 0xfffc0001, 0, 0, 0⟩,
   ⟨"DMA_CH_CMD_c", 0xf01004, 4, 0x40000, 16, 0x40, 0, 0, 0, 0⟩,
   ⟨"DMA_CH_STATUS_c", 0xf01008, 4, 0x40000, 16, 0x40, 0, 0, 0x20, 0⟩,
   ⟨"DMA_CH_HEAD_LO_c", 0xf0100c, 4, 0x40000, 16, 0x40, 0xffffffff, 0, 0, 0⟩,
   ⟨"DMA_CH_HEAD_HI_c", 0xf01010, 4, 0x40000, 16, 0x40, 0xff, 0, 0, 0⟩,
   ⟨"DMA_CH_CUR_DESC_LO_c", 0xf01014, 4, 0x40000, 16, 0x40, 0, 0, 0, 0⟩,
   ⟨"DMA_CH_CUR_DESC_HI_c", 0xf01018, 4, 0x40000, 16, 0x40, 0, 0, 0, 0⟩,
   ⟨"DMA_CH_SRC_LO_c", 0xf0101c, 4, 0x40000, 16, 0x40, 0, 0, 0, 0⟩,
   ⟨"DMA_CH_SRC_HI_c", 0xf01020, 4, 0x40000, 16, 0x40, 0, 0, 0, 0⟩,
   ⟨"DMA_CH_DST_LO_c", 0xf01024, 4, 0x40000, 16, 0x40, 0, 0, 0, 0⟩,
   ⟨"DMA_CH_DST_HI_c", 0xf01028, 4, 0x40000, 16, 0x40, 0, 0, 0, 0⟩,
   ⟨"DMA_CH_REMAIN_c", 0xf0102c, 4, 0x40000, 16, 0x40, 0, 0, 0, 0⟩,
   ⟨"DMA_CH_LINES_LEFT_c", 0xf01030, 4, 0x40000, 16, 0x40, 0, 0, 0, 0⟩,
   ⟨"DMA_CH_DONE_BYTES_c", 0xf01034, 4, 0x40000, 16, 0x40, 0, 0, 0, 0⟩,
   ⟨"DMA_CH_EVT_MASK_c", 0xf01038, 4, 0x40000, 16, 0x40, 0xffffffff, 0, 0, 0⟩]

def mbxRows : List RegRow :=
  [⟨"MBX_STAGE_w", 0x1000000, 16, 4, 1, 0, 0xffffffff, 0, 0, 0⟩,
   ⟨"MBX_SEND", 0x1000040, 1, 0, 1, 0, 0, 0, 0, 0⟩,
   ⟨"MBX_SEND_STATUS", 0x1000044, 1, 0, 1, 0, 0, 0, 0, 0⟩,
   ⟨"MBX_MSG_m_w", 0x1000400, 64, 0x80, 16, 4, 0, 0, 0, 0⟩,
   ⟨"MBX_CFG_m", 0x1000440, 64, 0x80, 1, 0, 0x800000ff, 0x3f000000, 0, 0xff⟩,
   ⟨"MBX_STATE_m", 0x1000444, 64, 0x80, 1, 0, 0, 0, 2, 0⟩,
   ⟨"MBX_RELEASE_m", 0x1000448, 64, 0x80, 1, 0, 0, 0, 0, 0⟩,
   ⟨"MBX_LOST_m", 0x100044c, 64, 0x80, 1, 0, 0, 0, 0, 0⟩,
   ⟨"LCK_n", 0x1004000, 64, 4, 1, 0, 0, 0, 0, 0⟩,
   ⟨"LCK_PEEK_n", 0x1004100, 64, 4, 1, 0, 0, 0, 0, 0⟩,
   ⟨"LCK_PART_k", 0x1004200, 4, 4, 1, 0, 0, 0xffffffff, 0, 0⟩,
   ⟨"LCK_BAD_RELEASE_CNT", 0x1004210, 1, 0, 1, 0, 0, 0, 0, 0⟩,
   ⟨"LCK_FORCE", 0x1004214, 1, 0, 1, 0, 0, 0, 0, 0⟩,
   ⟨"MBX_HC_PART", 0x1006000, 1, 0, 1, 0, 0, 0xffffffff, 0, 0⟩,
   ⟨"MBX_L3_WAYS_LO", 0x1006004, 1, 0, 1, 0, 0, 0xffffffff, 0, 0xffffffff⟩,
   ⟨"MBX_L3_WAYS_HI", 0x1006008, 1, 0, 1, 0, 0, 0xffffffff, 0, 0xffffffff⟩,
   ⟨"MBX_HC_CLEAN_ERR_CNT", 0x100600c, 1, 0, 1, 0, 0, 0, 0, 0⟩,
   ⟨"MBX_HC_ERR_LO_n", 0x1006040, 8, 8, 1, 0, 0, 0, 1, 0⟩,
   ⟨"MBX_HC_ERR_HI_n", 0x1006044, 8, 8, 1, 0, 0, 0, 0, 0⟩]

def pmcRows : List RegRow :=
  [⟨"PMC_CTRL", 0x1100000, 1, 0, 1, 0, 2, 0, 0, 0⟩,
   ⟨"PMC_STATUS", 0x1100004, 1, 0, 1, 0, 0, 0, 0, 0⟩,
   ⟨"PMC_BW_WINDOW", 0x1100008, 1, 0, 1, 0, 0xfffff, 0, 0, 0x3e8⟩,
   ⟨"PMC_CT_CTRL", 0x1100010, 1, 0, 1, 0, 3, 0, 0, 0⟩,
   ⟨"PMC_CT_BASE_LO", 0x1100014, 1, 0, 1, 0, 0xffffffff, 0, 0, 0⟩,
   ⟨"PMC_CT_BASE_HI", 0x1100018, 1, 0, 1, 0, 0xff, 0, 0, 0⟩,
   ⟨"PMC_CT_SIZE", 0x110001c, 1, 0, 1, 0, 0xffffffff, 0, 0, 0⟩,
   ⟨"PMC_CT_HEAD", 0x1100020, 1, 0, 1, 0, 0xffffffff, 0, 0, 0⟩,
   ⟨"PMC_CT_TAIL", 0x1100024, 1, 0, 1, 0, 0, 0, 0, 0⟩,
   ⟨"PMC_CT_DROP_CNT", 0x1100028, 1, 0, 1, 0, 0, 0, 0, 0⟩,
   ⟨"PMC_OVF_w", 0x1100100, 40, 4, 1, 0, 0, 0, 0xffffffff, 0⟩,
   ⟨"PMC_SOVF_w", 0x1100300, 40, 4, 1, 0, 0, 0, 0, 0⟩,
   ⟨"PMC_CNT_LO_i", 0x1101000, 1280, 8, 1, 0, 0, 0, 0, 0⟩,
   ⟨"PMC_CNT_HI_i", 0x1101004, 1280, 8, 1, 0, 0, 0, 0, 0⟩,
   ⟨"PMC_SHD_LO_i", 0x1104000, 1280, 8, 1, 0, 0, 0, 0, 0⟩,
   ⟨"PMC_SHD_HI_i", 0x1104004, 1280, 8, 1, 0, 0, 0, 0, 0⟩,
   ⟨"PMC_BW_LAST_k", 0x1108000, 128, 0x10, 1, 0, 0, 0, 0, 0⟩,
   ⟨"PMC_BW_PEAK_k", 0x1108004, 128, 0x10, 1, 0, 0, 0, 0, 0⟩,
   ⟨"PMC_BW_SLAST_k", 0x1108008, 128, 0x10, 1, 0, 0, 0, 0, 0⟩,
   ⟨"PMC_BW_SPEAK_k", 0x110800c, 128, 0x10, 1, 0, 0, 0, 0, 0⟩]

def dmcRows : List RegRow :=
  [⟨"DMC_CTRL", 0x1200000, 1, 0, 1, 0, 1, 0, 0, 1⟩,
   ⟨"DMC_STATUS", 0x1200004, 1, 0, 1, 0, 0, 0, 0xc00, 0⟩,
   ⟨"DMC_SCRUB_CFG", 0x1200008, 1, 0, 1, 0, 0xffff, 0, 0, 0x258⟩,
   ⟨"DMC_SCRUB_POS", 0x120000c, 1, 0, 1, 0, 0, 0, 0, 0⟩,
   ⟨"DMC_SHARE_p", 0x1200010, 4, 4, 1, 0, 0, 0x7f7f, 0, 0x4010⟩,
   ⟨"DMC_TEMP_d", 0x1200020, 4, 4, 1, 0, 0, 0, 0, 0⟩,
   ⟨"DMC_ERR_LOG", 0x1200040, 1, 0, 1, 0, 0, 0, 0x80000000, 0⟩,
   ⟨"DMC_ERR_ADDR_LO", 0x1200044, 1, 0, 1, 0, 0, 0, 0, 0⟩,
   ⟨"DMC_ERR_ADDR_HI", 0x1200048, 1, 0, 1, 0, 0, 0, 0, 0⟩,
   ⟨"DMC_FW_LOG", 0x1200050, 1, 0, 1, 0, 0, 0, 0x80000000, 0⟩,
   ⟨"DMC_FW_ADDR_LO", 0x1200054, 1, 0, 1, 0, 0, 0, 0, 0⟩,
   ⟨"DMC_FW_ADDR_HI", 0x1200058, 1, 0, 1, 0, 0, 0, 0, 0⟩,
   ⟨"CRC_ERR_CNT", 0x1200060, 1, 0, 1, 0, 0, 0, 0, 0⟩,
   ⟨"RESTORE_CNT", 0x1200064, 1, 0, 1, 0, 0, 0, 0, 0⟩,
   ⟨"PANTRY_LOST_CNT", 0x1200068, 1, 0, 1, 0, 0, 0, 0, 0⟩,
   ⟨"SCRUB_ERR_CNT", 0x120006c, 1, 0, 1, 0, 0, 0, 0, 0⟩,
   ⟨"FW_FAULT_CNT", 0x1200070, 1, 0, 1, 0, 0, 0, 0, 0⟩,
   ⟨"DMC_FLIT_REPLAY_CNT", 0x1200074, 1, 0, 1, 0, 0, 0, 0, 0⟩,
   ⟨"SCRUB_PASS_CNT", 0x1200078, 1, 0, 1, 0, 0, 0, 0, 0⟩,
   ⟨"DMC_FW_BASE_r", 0x1201000, 64, 0x10, 1, 0, 0, 0x7ffff, 0, 0⟩,
   ⟨"DMC_FW_LIMIT_r", 0x1201004, 64, 0x10, 1, 0, 0, 0x7ffff, 0, 0⟩,
   ⟨"DMC_FW_CFG_r", 0x1201008, 64, 0x10, 1, 0, 0, 0xb0ff000f, 0, 0⟩,
   ⟨"DMC_PANTRY_PRI_e", 0x1202000, 32, 0x10, 1, 0, 0x7ffff, 0, 0, 0⟩,
   ⟨"DMC_PANTRY_COPY_e", 0x1202004, 32, 0x10, 1, 0, 0xffffff, 0, 0, 0⟩,
   ⟨"DMC_PANTRY_SIZE_e", 0x1202008, 32, 0x10, 1, 0, 0x7ffff, 0, 0, 0⟩,
   ⟨"DMC_PANTRY_CFG_e", 0x120200c, 32, 0x10, 1, 0, 0xf000ffff, 0, 0, 0⟩]

def pciRows : List RegRow :=
  [⟨"PCI_LINK_STATUS", 0x1300000, 1, 0, 1, 0, 0, 0, 0, 0⟩,
   ⟨"PCI_BAR2_DRAM_BASE", 0x1300008, 1, 0, 1, 0, 0x1f, 0, 0, 0⟩,
   ⟨"PCI_OBH_BASE_LO", 0x1300010, 1, 0, 1, 0, 0xffffffff, 0, 0, 0⟩,
   ⟨"PCI_OBH_BASE_HI", 0x1300014, 1, 0, 1, 0, 0xffffffff, 0, 0, 0⟩,
   ⟨"PCI_OBP_BASE_LO", 0x1300018, 1, 0, 1, 0, 0xffffffff, 0, 0, 0⟩,
   ⟨"PCI_OBP_BASE_HI", 0x130001c, 1, 0, 1, 0, 0xffffffff, 0, 0, 0⟩,
   ⟨"PCI_PEER_RID_k", 0x1300020, 8, 4, 1, 0, 0x1ffff, 0, 0, 0⟩,
   ⟨"PCI_MGQ_SQ_LO", 0x1300040, 1, 0, 1, 0, 0xffffffff, 0, 0, 0⟩,
   ⟨"PCI_MGQ_SQ_HI", 0x1300044, 1, 0, 1, 0, 0xffffffff, 0, 0, 0⟩,
   ⟨"PCI_MGQ_CQ_LO", 0x1300048, 1, 0, 1, 0, 0xffffffff, 0, 0, 0⟩,
   ⟨"PCI_MGQ_CQ_HI", 0x130004c, 1, 0, 1, 0, 0xffffffff, 0, 0, 0⟩,
   ⟨"PCI_MGQ_CFG", 0x1300050, 1, 0, 1, 0, 0x8000000f, 0, 0, 0⟩,
   ⟨"PCI_MGQ_SQ_HEAD", 0x1300054, 1, 0, 1, 0, 0, 0, 0, 0⟩,
   ⟨"PCI_TELEM_CFG", 0x1300060, 1, 0, 1, 0, 0x800000ff, 0, 0, 0⟩,
   ⟨"PCI_SAFETY_NOTICE", 0x1300064, 1, 0, 1, 0, 0, 0, 0, 0⟩,
   ⟨"PCI_NEXT_SEQ", 0x1300068, 1, 0, 1, 0, 0, 0, 0, 1⟩,
   ⟨"PCI_POISON_CNT", 0x130006c, 1, 0, 1, 0, 0, 0, 0, 0⟩,
   ⟨"PCI_RQ_CFG_q", 0x1301000, 256, 0x20, 1, 0, 0xc0001f1f, 0, 0, 0⟩,
   ⟨"PCI_RQ_BASE_LO_q", 0x1301004, 256, 0x20, 1, 0, 0xffffffff, 0, 0, 0⟩,
   ⟨"PCI_RQ_BASE_HI_q", 0x1301008, 256, 0x20, 1, 0, 0xffffffff, 0, 0, 0⟩,
   ⟨"PCI_RQ_PBASE_LO_q", 0x130100c, 256, 0x20, 1, 0, 0xffffffff, 0, 0, 0⟩,
   ⟨"PCI_RQ_PBASE_HI_q", 0x1301010, 256, 0x20, 1, 0, 0xffffffff, 0, 0, 0⟩,
   ⟨"PCI_RQ_SHADOW_LO_q", 0x1301014, 256, 0x20, 1, 0, 0xffffffff, 0, 0, 0⟩,
   ⟨"PCI_RQ_SHADOW_HI_q", 0x1301018, 256, 0x20, 1, 0, 0xffffffff, 0, 0, 0⟩,
   ⟨"PCI_RQ_DROP_q", 0x130101c, 256, 0x20, 1, 0, 0, 0, 0, 0⟩,
   ⟨"SEC_STATUS", 0x1380000, 1, 0, 1, 0, 0, 0, 0, 0⟩,
   ⟨"SEC_IMAGE_VERSION", 0x1380004, 1, 0, 1, 0, 0, 0, 0, 0⟩,
   ⟨"SEC_BOOT_CTRL", 0x1380008, 1, 0, 1, 0, 0, 0, 0, 0⟩,
   ⟨"SEC_DEVICE_PUB_w", 0x1380040, 16, 4, 1, 0, 0, 0, 0, 0⟩]

/-- The rows of the block that holds offset `off` (01_architecture.md R32). -/
def rowsAt (off : Nat) : List RegRow :=
  if off < 0x100000 then smcRows
  else if off < 0x200000 then pmgRows
  else if off < 0x400000 then safRows
  else if off < 0x500000 then portRows
  else if off < 0x800000 then ispRows
  else if off < 0x900000 then fgsRows
  else if off < 0xa00000 then htsRows
  else if off < 0xc00000 then pipeRows
  else if off < 0xe00000 then ncRows
  else if off < 0xe80000 then tduRows
  else if off < 0xf00000 then spmRows
  else if off < 0x1000000 then dmaRows
  else if off < 0x1100000 then mbxRows
  else if off < 0x1200000 then pmcRows
  else if off < 0x1300000 then dmcRows
  else if off < 0x1400000 then pciRows
  else []

/-- The row of an offset; none where no register stands there (R14). -/
def regRow (off : Nat) : Option RegRow := (rowsAt off).find? (fun r => r.holds off)

/-- A banked register (one copy per partition or per agent) is held under its offset plus `bankStride` per bank, which is the size of BAR 0. -/
def bankStride : Nat := 0x4000000

/-- The key of bank `b` of the register at `off`. -/
def banked (off b : Nat) : Nat := off + (b + 1) * bankStride

/-- The value the spec's tables give the register at `off` on release of POR_N (R18); 0 where no register stands. -/
def regReset (off : Nat) : Word :=
  match regRow (off % bankStride) with
  | some r => BitVec.ofNat 32 r.reset
  | none => 0#32

end Sys2Proof.Machine
end

