-- ==== Sys2Proof/Machine/State.lean ====
section
/-! DEFINITION. The whole state of the block, as plain data; the state after reset; faults and refusals.
Registers stand in `regs`, keyed by their offset in BAR 0 (RegMap.lean names every one); the rest of the state is what the
rules name beside the registers. -/

namespace Sys2Proof.Machine

/-- What a bus access answers (R14, R29, R464, R499, R601, R618). -/
inductive Reply where
  | nothing
  | data (v : Word)
  | data64 (lo hi : Word)
  | bytes (bs : List Byte)
  | unsupportedRequest
  | completerAbort
  | requestRetry
  | accessFault
  | dropped
  | notAcknowledged
  | busError
  | integrityError
deriving DecidableEq, Repr

/-- One report to the SMC and the safety island (R26, R29): the agent concerned, the status and the partition. -/
structure Report where
  agent : Nat
  status : Nat
  part : Nat
deriving DecidableEq, Repr

/-- The high word latched for an agent in a register block (R17). -/
structure Latch where
  agent : Nat
  block : Nat
  pair : Nat
  high : Word
deriving DecidableEq, Repr

/-! ### Time (R43 to R45) -/

/-- The two counts, each in units of 2⁻³² ns, the slew that is still to be applied (same unit, signed), the local time
of the last update of the selected source, and until which local time a command whose PENDING bit lies in a register is in progress. -/
structure TimeSt where
  localCount : Nat
  devCount : Nat
  slew : Int
  lastUpdate : Nat
  busy : List (Nat × Nat)
deriving DecidableEq, Repr

/-! ### Pixel ports and landing -/

/-- Who a control command was sent for: software (R97, with its partition's bank) or setting request `r` of the stream (R92). -/
inductive CtlSource where
  | direct
  | request (r : Nat) (last : Bool)
deriving DecidableEq, Repr

/-- A command of the control return channel (R89); `seq` and `sent` (local ns) are given when it goes out. -/
structure CtlCmd where
  stream : Nat
  op : Nat
  addr : Nat
  data : Nat
  source : CtlSource
  seq : Nat
  sent : Nat
deriving DecidableEq, Repr

/-- One pixel port beside its registers: transfers in the ingest buffer (R72), the control channel's queue and outstanding
commands (R90), the next SEQ, the stream of the last direct command (R101), the local time of the last training gap (R596),
the µs the deskew is older than 1 s being counted once, and the frames sent on CTL_DO. -/
structure Port where
  bufUsed : Nat
  ctlQueue : List CtlCmd
  ctlOut : List CtlCmd
  ctlSeq : Nat
  directStream : Option Nat
  lastGap : Nat
  ctlDo : List (BitVec 56)
deriving DecidableEq, Repr

/-- State of a frame ring slot (R76). -/
inductive SlotState where
  | free
  | landing
  | landed
deriving DecidableEq, Repr

/-- One slot of a frame ring: state, hold count (R76), whether one of its holds is the shared pending hold (R159), the frame
number and capture time (device ns) of the frame in it, the marks of its landing record, and the local time at which it closed (R177). -/
structure RingSlot where
  state : SlotState
  hold : Nat
  pend : Bool
  frame : Nat
  fsTime : Nat
  marks : Nat
  closed : Nat
deriving DecidableEq, Repr

/-- The frame of a stream that is open (R79 to R86). -/
structure OpenFrame where
  slot : Nat
  frame : Nat
  fsTime : Nat
  fsLocal : Nat
  fsMissing : Bool
  active : List Nat
  emb : List Nat
  discarded : Nat
  crcLines : Nat
  dup : Bool
  firstBad : List Word
  earlyDone : Bool
  cutoffDone : Bool
deriving DecidableEq, Repr

/-- One stream of the landing unit: words 0 to 7 of its context (R93), its counters (words 9 to 14), LAST_FRAME_NUM and
whether any frame was opened, the owner fixed at the lock (R28), the ring, the open frame, a frame being discarded under
DISCARD_NEW, the pending drop count (R78), LANDING_SEQ and the ring position. -/
structure Stream where
  cfg : List Word
  counts : List Nat
  lastFrame : Nat
  opened : Bool
  lockedPart : Option Nat
  slots : List RingSlot
  openF : Option OpenFrame
  discarding : Option Nat
  drops : Nat
  landingSeq : Nat
  nextSlot : Nat
deriving DecidableEq, Repr

/-! ### Scheduler -/

/-- The states of a task entry (R198). -/
inductive TaskState where
  | free
  | waiting
  | delayed
  | ready
  | running
  | done
  | posting
deriving DecidableEq, Repr

/-- Who posted a task: software, node `node` of frame job `job`, or the island for entry `entry` of proof set `set` in the interval opened at `opened` (R535). -/
inductive TaskOwner where
  | software
  | node (job node : Nat)
  | proof (set entry opened : Nat)
deriving DecidableEq, Repr

/-- One task entry (R197, R198). `worker` is the agent ID it runs on; `progress`, `repeats` and `recomputed` are the work done
on it (R131, R257, R294, R371) of `total` in the unit of its COUNT, `started` says that its worker has read its
parameters, kept in `params`, and pinned the descriptors `pinned` (R392), of which it writes `outs`; `yielded` and
`moved` that it yielded and resumed on another engine, `bank` the engine whose state bank or save area holds it after a yield. `pos` is
the place its engine has come to, in the engine's own units (R243, R254, R291, R324); `poster` is the agent that posted it, and `yieldLevel` the
level of the task for which it was asked to yield (R225). -/
structure Task where
  state : TaskState
  gen : Nat
  part : Nat
  cls : Nat
  inst : Nat
  level : Nat
  modeAny : Bool
  holdDone : Bool
  ondone : Bool
  group : Option Nat
  mask : Word
  flags : Word
  delay : Nat
  timeout : Nat
  args : List Word
  ondoneTarget : Word
  ondoneFlags : Word
  owner : TaskOwner
  worker : Option Nat
  abortPending : Bool
  timedOut : Bool
  status : Nat
  progress : Nat
  repeats : Nat
  recomputed : Bool
  powerDelayed : Bool
  bank : Option Nat
  yieldAsked : Bool
  total : Nat
  started : Bool
  params : List Word
  pinned : List Nat
  outs : List Nat
  yielded : Bool
  moved : Bool
  pos : Nat
  poster : Nat
  yieldLevel : Nat
deriving DecidableEq, Repr

/-- A free entry of generation `g`. -/
def Task.freeOf (g : Nat) : Task :=
  ⟨.free, g, 0, 0, 0, 0, false, false, false, none, 0, 0, 0, 0, [], 0, 0, .software, none, false, false, 0, 0, 0, false, false,
    none, false, 0, false, [], [], [], false, false, 0, 0x38, 0⟩

/-- One post in the post queue (R223): a task entry with its GEN, or an event with its poster's agent ID, partition and exemption (R200). -/
inductive QPost where
  | task (idx gen : Nat)
  | event (target flags : Word) (agent part : Nat) (exempt : Bool)
deriving DecidableEq, Repr

/-- One entry of the delay list (R209): the task, whether it is its timeout, and the ticks left. -/
structure DelayEntry where
  idx : Nat
  isTimeout : Bool
  ticks : Nat
deriving DecidableEq, Repr

/-- One timer beside its registers: the next expiry instant in local µs (R212) and whether the previous expiry's event is
still undelivered (R213). -/
structure TimerSt where
  due : Option Nat
  undelivered : Bool
deriving DecidableEq, Repr

/-- A host core's face to the scheduler: a stalled read of HTS_TAKE_n with its deadline in local ns (R215), and the task that
waits under PREEMPT_PENDING (R216). -/
structure HcSched where
  takeUntil : Option Nat
  preempt : Option Nat
deriving DecidableEq, Repr

/-- The scheduler. The free list of R197 is the entries from `fresh` on in ascending order, then `freed`. `ended` lists the engines whose
job has committed in the present NOC_CLK cycle, with the job's partition (R52); `groupNow` holds, for each event group that an event or a
clear has touched in that cycle, its word as it would stand without the clears, and the flags that events have set (R201). -/
structure HtsSt where
  tasks : List (Nat × Task)
  fresh : Nat
  freed : List Nat
  ready : List Nat
  postq : List QPost
  delays : List DelayEntry
  tickUs : Nat
  timers : List TimerSt
  hcs : List HcSched
  ended : List (Nat × Nat)
  groupNow : List (Nat × Word × Word)
deriving DecidableEq, Repr

/-! ### Frame graphs -/

/-- A node of a graph image (R150). -/
structure NodeDesc where
  kind : Nat
  inst : Nat
  prio : Nat
  safeState : Bool
  streamIdx : Nat
  wdOpen : Nat
  wdClose : Nat
  param : Nat
  paramLen : Nat
  userTag : Word
  args : List Word
deriving DecidableEq, Repr

/-- An edge (R152). -/
structure EdgeDesc where
  src : Nat
  dst : Nat
  typ : Nat
  flag : Nat
  ring : Nat
deriving DecidableEq, Repr

/-- A ring table entry (R153) and the RING region the load gave it (R379). -/
structure RingDesc where
  memory : Nat
  offset : Nat
  slots : Nat
  slotKib : Nat
  timeoutUs : Nat
deriving DecidableEq, Repr

/-- A stream table entry (R153). -/
structure StreamRef where
  trigger : Bool
  stream : Nat
deriving DecidableEq, Repr

/-- A pending trigger (R158, R159): the stream table entry, stream and ring slot of its frame, the frame tag, input marks beside the
frame's own (R158, R160), the trigger time (local ns) and the reference time of R175 (device ns). -/
structure Trigger where
  entry : Option Nat
  stream : Option Nat
  slot : Option Nat
  tag : Word
  marks : Nat
  time : Nat
  ref : Nat
deriving DecidableEq, Repr

/-- The last instantiation of a graph, as CROSS_JOB edges see it (R170, R171): job, job slot, and per node the committed status
and output marks. -/
structure PriorJob where
  id : Nat
  slot : Nat
  status : List (Option Nat)
  marks : List Nat
deriving DecidableEq, Repr

/-- A segment that a resident graph's node names, as admission took it (R357, R362, R365): the node, the image, the eligible cores,
the scratch area (region ID, base, size) placed for the node, the scratch bytes counted, and the demand on NE_W and NE_E, in µs
per major cycle as numerator and denominator. -/
structure SegAdm where
  node : Nat
  addr : Nat
  cores : List Nat
  scratch : Option (Nat × Nat × Nat)
  bytes : Nat
  west : Nat × Nat
  east : Nat × Nat
deriving DecidableEq, Repr

/-- A resident graph (R154 to R160). `dropped` holds the trigger streams whose next job carries DROPPED_PREV (R160). -/
structure Graph where
  id : Nat
  part : Nat
  prio : Nat
  trigKind : Nat
  trigArg : Nat
  maxJobs : Nat
  nodeRecords : Bool
  timeoutUs : Nat
  userTag : Word
  addr : Nat
  nodes : List NodeDesc
  edges : List EdgeDesc
  streams : List StreamRef
  rings : List RingDesc
  ringRegions : List Nat
  segs : List SegAdm
  started : Bool
  pending : List Trigger
  dropped : List (Option Nat)
  last : Option PriorJob
deriving DecidableEq, Repr

/-- A node of a frame job: its task entry, whether that is posted, whether the node has committed with which status and output
marks, marks it raised itself before that, whether its window's close has passed (R183), whether it ran, and whether its rings
were granted (R169). -/
structure NodeSt where
  task : Option Nat
  posted : Bool
  committed : Bool
  status : Nat
  marks : Nat
  raised : Nat
  late : Bool
  ran : Bool
deriving DecidableEq, Repr

/-- The states of a frame job (R164). -/
inductive JobState where
  | posting
  | running
  | aborting
  | retiring
deriving DecidableEq, Repr

/-- A frame a JOIN took (R176): the JOIN's node, stream table entry, stream, ring slot, frame tag, capture time. -/
structure JoinFrame where
  join : Nat
  entry : Nat
  stream : Nat
  slot : Nat
  tag : Word
  fsTime : Nat
deriving DecidableEq, Repr

/-- A frame job (R162 to R173). `missing` holds the stream table entries a JOIN committed without, with that JOIN's node; `atAbort`
how many nodes had committed when it was aborted (R55). -/
structure Job where
  id : Nat
  graph : Nat
  part : Nat
  slot : Nat
  state : JobState
  trig : Trigger
  nodes : List NodeSt
  joined : List JoinFrame
  missing : List (Nat × Nat)
  abortSeen : Bool
  timedOut : Bool
  atAbort : Option Nat
  prior : Option PriorJob
deriving DecidableEq, Repr

/-- State of a slot of a slot ring (R186). -/
inductive RSlotState where
  | free
  | filling
  | full
  | draining
deriving DecidableEq, Repr

/-- One slot of a slot ring: state, tag, byte count and LAST (R186). -/
structure RSlot where
  state : RSlotState
  tag : Word
  bytes : Nat
  last : Bool
deriving DecidableEq, Repr

/-- A resident slot ring (R185 to R188): its graph and index, the job it serves and the first job it may serve next, its slots,
the slots committed and released so far for the present job, the local time since which each end has stalled, what the consumer has
taken from the ring's memory (R422), the bytes a neural producer has formed for the job's rows so far, and whether the last slot was
committed and released. -/
structure SlotRing where
  graph : Nat
  idx : Nat
  owner : Option Nat
  next : Nat
  slots : List RSlot
  prod : Nat
  cons : Nat
  prodStall : Option Nat
  consStall : Option Nat
  data : List Byte
  made : List (Option Byte)
  inDone : Bool
  outDone : Bool
deriving DecidableEq, Repr

/-- A record that waits for its graph completion queue (R193): the job and, for a node record, the node it is of, and the job it frees when
written. -/
structure WaitRec where
  words : List Word
  of_ : Nat × Option Nat
  frees : Option Nat
deriving DecidableEq, Repr

/-- A result record that waits for space in its host result queue (R180): queue, record words, payload, its job and node
(none for telemetry). -/
structure WaitEmit where
  queue : Nat
  words : List Word
  payload : List Byte
  node : Option (Nat × Nat)
  status : Nat
deriving DecidableEq, Repr

/-- The sequencer. `nextJob` numbers frame jobs in instantiation order; `cq` holds, per partition, the records that wait; `ended` lists the
frame jobs whose records were committed in the present NOC_CLK cycle: graph and frame tag (R52). -/
structure FgsSt where
  graphs : List Graph
  jobs : List Job
  nextJob : Nat
  rings : List SlotRing
  cq : List (List WaitRec)
  ended : List (Nat × Word)
deriving DecidableEq, Repr


/-! ### DRAM (R488 to R511) -/

/-- The DRAM stack: its bytes, the 64-byte blocks whose check fails, the lost pantry blocks already counted (R508), the
entries whose rewrite the SMC has been told of, the agents whose network
links are out of service (R502), and the next block to be scrubbed (R509). -/
structure DramSt where
  mem : List Host.Cell
  bad : List Nat
  lost : List Nat
  reload : List Nat
  linksDown : List Nat
  scrubBlk : Nat
deriving DecidableEq, Repr

/-! ### Safety island (R514 to R547) -/

/-- One valid proof set in the present interval (R533 to R535): the set, its proof graph, the local time its interval opened, whether
the graph's job has retired, the entries whose compares are still to be posted, the compares that agreed and all of them, and the outcome
(0 none yet, 1 PASS, 2 FAIL, 3 MISSED). -/
structure ProofRun where
  set : Nat
  graph : Nat
  opened : Nat
  retired : Bool
  left : List Nat
  agreed : Nat
  total : Nat
  outcome : Nat
deriving DecidableEq, Repr

/-- The island beside its registers: SAFE_OK, SAFE_OFF_N and their deadlines (local ns), the retention memory (R546; empty
when no record is held) and its boot count, the policy histories (newest first), the heartbeat, the proof window and the
verdicts on their way (R528: policy, verdict, whether the taster judged TRIP). -/
structure SafSt where
  okToggling : Bool
  offN : Bool
  decided : Option Nat
  lockstep : Bool
  retention : List Word
  bootSeq : Nat
  hist : List (List Bool)
  heartbeat : Option Nat
  windowOpen : Bool
  nextInterval : Option Nat
  windowClose : Nat
  proofs : List ProofRun
  verdicts : List (Nat × Bool)
  wdEvents : List (Nat × Nat × Bool)
deriving DecidableEq, Repr

/-! ### Host cores, mailboxes, locks (R460 to R483) -/

/-- One mailbox (R470 to R476): FULL, SEQ, the 16 words of the slot and the read window. -/
structure Mailbox where
  full : Bool
  seq : Nat
  words : List Word
  window : List Word
deriving DecidableEq, Repr

/-- Host-side state: whether the SMC holds the cores in reset (R487), the home partition each running core has (R461), the
mailboxes, each lock's owner and last granted ID (R479, R481), the APLIC sources pending and the MSIs raised (R469), the
APLIC target registers, and the engines' wake requests not yet served (R477). -/
structure HostSt where
  inReset : Bool
  home : List Nat
  mbox : List Mailbox
  lockOwner : List (Option Nat)
  lockLast : List Nat
  irq : List Nat
  msi : List (Nat × Nat)
  aplicTarget : List (Nat × Word)
  aclint : List Byte
deriving DecidableEq, Repr


/-! ### Counters, crumb trail, telemetry (R630 to R642) -/

/-- The performance counter block beside its registers: the 48-bit event counters and their shadow, the bytes of each
bandwidth monitor in the present window, whether FREEZE touched the window, a WINDOW_US not yet in force, the window in force,
the local time (ns) the present window ends, a CLEAR_PEAK waiting for that, the buffered crumb records, the latest telemetry record, the record latched by SMBus
command 0x20, TELEM_SEQ, and the local time (ns) of the next sample. -/
structure PmcSt where
  cnt : List (Nat × BitVec 48)
  shadow : List (Nat × BitVec 48)
  bytes : List (Nat × Nat)
  touched : Bool
  newWindow : Option Nat
  windowUs : Nat
  winEnd : Nat
  clearPeak : Bool
  crumbs : List (List Word)
  telem : List Word
  telemLatch : List Word
  telemSeq : Nat
  telemAt : Nat
deriving DecidableEq, Repr

/-- A record of the flash log that is still held (R597, R642): KIND, device time (ns) and body words. -/
structure LogRec where
  kind : Nat
  time : Nat
  body : List Word
deriving DecidableEq, Repr

/-! ### PCI Express (R600, R617 to R626) -/

/-- An outbound posted write: host (false) or peer (true) address space, address and bytes (R619, R625). -/
structure OutWrite where
  peer : Bool
  addr : Nat
  data : List Byte
deriving DecidableEq, Repr

/-- The endpoint beside its registers: PERST_N low, the local time (ns) of its last release (R601), Bus Master Enable, the configuration
registers written, BAR 4 (doorbells and MSI-X table, R618), the TAILs of the record and payload rings, PREV_SEQ per queue, the
MSI-X vectors raised, the outbound writes made, and the result records that wait (R180). -/
structure PciSt where
  perst : Bool
  perstAt : Nat
  busMaster : Bool
  cfg : List (Nat × Word)
  bar4 : List (Nat × Word)
  rqTail : List (Nat × Nat)
  rqPay : List (Nat × Nat)
  rqPrev : List (Nat × Nat)
  vectors : List Nat
  outbound : List OutWrite
  waiting : List WaitEmit
deriving DecidableEq, Repr


/-! ### Power (R573 to R594) -/

/-- Credits an agent holds or waits for (R582, R583): agent ID, partition, units, the local time of the request. -/
structure Credit where
  agent : Nat
  part : Nat
  units : Nat
  since : Nat
deriving DecidableEq, Repr

/-- The power arbiter beside its registers: credits held, requests waiting in arrival order, domains whose wake arrived during
a power-down (R578), the local time each domain was last busy (R577), the samples that BASE is filtered from (µW, newest first), rail
voltages (mV) and currents (mA) last read, consecutive reads of each rail outside its limit (R588), and the junction temperatures of the
ten domain sensors (codes of Q13.3). -/
structure PowerSt where
  held : List Credit
  waiting : List Credit
  wakeAfterOff : List Nat
  lastBusy : List Nat
  baseSamples : List Nat
  rails : List (Nat × Nat)
  railBad : List Nat
  tj : List Nat
deriving DecidableEq, Repr



/-! ### DMA (R433 to R458) -/

/-- A read in flight: its channel, source address, length, the written position it extends (bytes of the chain before it), how often it
failed (3: it fails for good, R449), and the bytes it returned, held until they extend the written prefix. -/
structure DmaRead where
  chan : Nat
  addr : Nat
  len : Nat
  pos : Nat
  tries : Nat
  data : Option (List Byte)
deriving DecidableEq, Repr

/-- A channel beside its registers: the task it runs (R445), the address of the next descriptor, the 16 words of the current one (empty
before it is fetched), its position in the chain, the bytes whose reads were issued, the bytes of the descriptors before it, the
head's USER_TAG and FRAME_TAG, the DETAIL flags, whether a credit grant was delayed, whether an abort waits for the drain, and the
state before a stop and before a pause, and where the sources and destinations of its descriptors so far lie (R437). -/
structure DmaChan where
  task : Option Nat
  next : Nat
  desc : List Word
  idx : Nat
  issued : Nat
  total : Nat
  headUser : Word
  headTag : Word
  retried : Bool
  merged : Bool
  paced : Bool
  delayed : Bool
  aborting : Bool
  before : Nat
  beforePause : Nat
  srcs : List (Nat × Int × Int)
  dsts : List (Nat × Int × Int)
deriving DecidableEq, Repr

/-- A bus error whose drain is not over (R450, R451): space and address of the access, whether the address is valid, and the channel of
a write error. -/
structure DmaErr where
  space : Nat
  addr : Nat
  valid : Bool
  chan : Option Nat
deriving DecidableEq, Repr

/-- One engine: channels, reads in flight in issue order, the channel that issued last, the bus error being drained, and the records that
wait for queue space with the channel each one frees (none for the error record). -/
structure DmaEng where
  chans : List DmaChan
  reads : List DmaRead
  last : Nat
  err : Option DmaErr
  cqWait : List (List Word × Option Nat)
deriving DecidableEq, Repr

def DmaChan.reset : DmaChan := ⟨none, 0, [], 0, 0, 0, 0, 0, false, false, false, false, false, 0, 0, [], []⟩
def DmaEng.reset : DmaEng := ⟨List.replicate 16 DmaChan.reset, [], 15, none, []⟩




/-! ### Image signal pipelines (R102 to R147) -/

/-- An accepted setting request (R134 to R138): its serial number, REQUEST_ID, values, targets, the frame whose cutoff is its
deadline, whether it was acknowledged in time and whether its frames are marked SETTINGS_UNCERTAIN. -/
structure SetReq where
  serial : Nat
  id : Word
  exposure : Word
  gain : Nat
  wb : Option (Word × Word)
  expTarget : Nat
  gainTarget : Nat
  deadline : Nat
  acked : Bool
  uncertain : Bool
deriving DecidableEq, Repr

/-- The values a stream's sensor setting model holds for a frame (R136): exposure, gain code, REQUEST_ID of the gain, the words
WB0 and WB1. -/
structure Settings where
  exposure : Word
  gain : Nat
  reqId : Word
  wb0 : Word
  wb1 : Word
deriving DecidableEq, Repr

/-- A stream of the ISP: the installed context (R123), the model's values before its requests (none after a reset, R124), the
requests in order of acceptance, and the task of the first frame that an instance started after the reset. -/
structure IspStream where
  ctx : Option Nat
  base : Option Settings
  reqs : List SetReq
  starter : Option Nat
deriving DecidableEq, Repr

/-- A frame an instance has started and not finished: its task, the instance that runs it (none while it waits after a yield), the
context it was started with (its address), the 65,536 bytes loaded of it (none before the load completes), its stream and ring slot,
whether the instance's own hold is counted on that slot (R128), the DETAIL flag EARLY, and, once the stream's model has been reset, the
settings that were in effect for the frame and whether they were uncertain (R124, R138). -/
structure IspFrame where
  task : Nat
  inst : Option Nat
  ctx : Nat
  data : List Byte
  stream : Nat
  slot : Nat
  held : Bool
  early : Bool
  kept : Option (Settings × Bool)
deriving DecidableEq, Repr

/-- The image signal pipelines: the tasks in the frame queue in order of entry (R125), the streams, the frames started, and the
serial number of the next request. -/
structure IspSt where
  queue : List Nat
  streams : List (Nat × IspStream)
  frames : List IspFrame
  serial : Nat
deriving DecidableEq, Repr



/-! ### Tensor descriptors and scratchpads (R377 to R432) -/

/-- A region in use (R377, R378); `mem` is the scratchpad memory it lies in, none for DRAM and PEER. -/
structure Region where
  kind : Nat
  base : Nat
  size : Nat
  owner : Nat
  share : Nat
  writeOk : Bool
  mem : Option Nat
deriving DecidableEq, Repr

/-- A descriptor in use: its 16 words, or 32 with a shard extension (R383, R401), and how many operations pin it (R392). -/
structure Desc where
  words : List Word
  pins : Nat
deriving DecidableEq, Repr

/-- The handle table of one partition (R381, R382): entries in use by index, the first index never used, and the entries freed since,
in order. -/
structure HandleTable where
  used : List (Nat × Desc)
  fresh : Nat
  freed : List Nat
deriving DecidableEq, Repr

/-- The tensor descriptor unit: regions by ID and one handle table per partition. -/
structure TduSt where
  regions : List (Nat × Region)
  tables : List HandleTable
deriving DecidableEq, Repr

/-- A 64-bit word whose parity fails (R428): memory, word number from the start of the memory, and the parity bits that fail. -/
structure SpmBad where
  mem : Nat
  lane : Nat
  pbits : Nat
deriving DecidableEq, Repr

/-- An ownership change whose zero-fill runs (R424, R425). -/
structure SpmFill where
  mem : Nat
  first : Nat
  count : Nat
  owner : Nat
deriving DecidableEq, Repr

/-- An access of one bank word: agent, partition, full authority, memory, byte offset, length, the bytes to write with their mask
(none for a read), and whether the region of the descriptor it goes through gives read access (R419). -/
structure SpmAcc where
  agent : Nat
  part : Nat
  full : Bool
  mem : Nat
  off : Nat
  len : Nat
  data : Option (List (Option Byte))
  shared : Bool
deriving DecidableEq, Repr

/-- Scratchpads and slot memory. Memory 3c, 3c + 1, 3c + 2 are WM, AM, PM of core c, memory 24 is slot memory. Bytes of each, the
64-bit words that fail, the fill in progress, the accesses that wait for it, the next word the scrubber reads in each of the 352 banks
(R430), and the words of weight memory (memory, 64-bit word) that it found failing, whose segment is loaded again before its next run. -/
structure SpmSt where
  mem : List (List Host.Cell)
  bad : List SpmBad
  fill : Option SpmFill
  waiting : List SpmAcc
  scrub : List Nat
  found : List (Nat × Nat)
deriving DecidableEq, Repr

/-- No region in use; every handle free in ascending order (R382). -/
def TduSt.reset : TduSt := ⟨[], List.replicate 4 ⟨[], 0, []⟩⟩

/-- Every scratchpad zero (R427). -/
def SpmSt.reset : SpmSt := ⟨List.replicate 25 [], [], none, [], List.replicate 352 0, []⟩




/-! ### Feature engine (R320) -/

/-- A resident pair table of FTE0: the address of its image, its 256 words and its owner. -/
structure PairTable where
  addr : Nat
  words : List Word
  owner : Nat
deriving DecidableEq, Repr




/-! ### Neural cores (R330 to R376) -/

/-- A glaze set (R343): its header, the SCALE and OFFSET pairs and the table points it holds. -/
structure GlazeSet where
  head : List Word
  pairs : List Word
  points : List Word
deriving DecidableEq, Repr

/-- The residency of a segment (R354 to R357): partition, image, eligible cores, the nodes (graph, node) that name it, header words,
commands as decrypted, glaze sets, the handles of its tensor table per core, the regions admission made, and per memory its area
(memory, offset, size). `stream` is the region of its streamed weights, `scratch` the DRAM area that its descriptors of region code 3 lie in
(region, base, size). -/
structure Segment where
  part : Nat
  addr : Nat
  cores : List Nat
  users : List (Nat × Nat)
  head : List Word
  cmds : List (List Word)
  glaze : List GlazeSet
  handles : List (Nat × List Nat)
  regions : List Nat
  areas : List (Nat × Nat × Nat)
  stream : Option Nat
  scratch : Option (Nat × Nat × Nat)
deriving DecidableEq, Repr

/-- A command in flight (R348): its place in the stream, and whether it met a hazard that no flag expresses (R349). -/
structure NcFly where
  idx : Nat
  raced : Bool
deriving DecidableEq, Repr

/-- A run on a core or in its bank (R360, R361): its task and core, the next command, the commands in flight in issue order, per
local flag the last command of the stream that set it (R348), the TILE_END after which a yield stops it, what its record will say, the local
time since which the core executes it, and the MAC_CLK cycles it has taken before that, in units of 1 / 32,000 (R368). -/
structure NcRun where
  task : Nat
  core : Nat
  pc : Nat
  fly : List NcFly
  flagBy : List (Option Nat)
  stop : Option Nat
  accSat : Bool
  outSat : Bool
  nanSeen : Bool
  sparse : Bool
  oobR : Bool
  oobW : Bool
  legacy : Bool
  since : Nat
  spent : Nat
deriving DecidableEq, Repr

/-- The neural cores: resident segments, runs, and the model key the SMC holds for encrypted segments (R613). -/
structure NcSt where
  segs : List Segment
  runs : List NcRun
  key : Option (List Byte)
deriving DecidableEq, Repr



/-! ### GPIO, JTAG and console (R616, R662 to R665) -/

/-- The GPIO pins beside their registers: the level that the outside gives each ball, and the local time (ns) at which a strobe pulse
ends. -/
structure GpioSt where
  ext : List Bool
  strobe : List (Option Nat)
deriving DecidableEq, Repr

/-- The JTAG port (R665): the instruction selected, what Capture-DR of its data register returns (bytes, least significant first), and
the statuses of the debug registers. -/
structure JtagSt where
  ir : Nat
  dr : List Byte
  chalStatus : Nat
  respStatus : Nat
deriving DecidableEq, Repr

/-! ### Boot, security and management (R600 to R616, R626, R627) -/

/-- The fuses (R610); an owner hash that is not enrolled is none. -/
structure Fuses where
  deviceKey : List Byte
  devicePub : List Byte
  aqnHash : List Byte
  owner0 : Option (List Byte)
  owner1 : Option (List Byte)
  revoke0 : Bool
  rb : Nat
  debugOff : Bool
deriving DecidableEq, Repr

/-- The last debug challenge issued (R616): its 68 bytes, scope, local time, and whether a response has used it. -/
structure Challenge where
  bytes : List Byte
  scope : Nat
  issued : Nat
  used : Bool
deriving DecidableEq, Repr

/-- Boot, security and the management queue: POR_N low; rails removed; the flash (an unlisted byte reads erased, 0xFF); the fuses; the
last step of R600 completed; the slot that runs; the settings of CONFIG (R609); the chain of R615; the debug state of R616; console
characters taken; the log's next address, LOG_SEQ, and the bytes appended in an hour (R597) with erases per block; the management
commands read and not yet answered, responses that wait, the completion ring's tail (R626), and the pantry entry of each host-admitted graph (R627). -/
structure SecSt where
  por : Bool
  railsOff : Bool
  flash : List (Nat × Byte)
  fuses : Fuses
  step : Nat
  slot : Option Nat
  fuseOps : Nat
  pmbus : Option Nat
  smbus : Option Nat
  chain : List Byte
  challenge : Option Challenge
  fails : Nat
  scope : Nat
  console : List Byte
  logAddr : Nat
  logSeq : Nat
  logHour : Nat
  logBytes : Nat
  erases : List (Nat × Nat)
  cmds : List (List Word)
  answers : List (List Word)
  cqTail : Nat
  admits : List (Nat × Nat)
deriving DecidableEq, Repr

/-! ### Ageing (R585 to R594) -/

/-- What the SMC keeps for re-planning: per domain the local time since which its slack has stayed at 65 ps or more (R591); the domain that
needs a derate step and the local time at which that is due (R592); per domain the local time since which slack has been below 0 at the
end of life; the graphs over budget (R593); the domains that skip MAC_CLK pulses (R585); the local time of the last valid PMBus
reading (R588); and per day of device time the highest of margin plus 20 mV per step (R594). -/
structure AgeSt where
  good : List (Option Nat)
  need : Option (Nat × Nat)
  negSince : List (Option Nat)
  ovr : List Nat
  droop : List Nat
  lastRead : Option Nat
  days : List (Nat × Nat)
deriving DecidableEq, Repr


/-- Why the block stops: no command stops it (every error the spec describes is a status, a counter, a log entry, a notice
or a safety cause, and a next state), so the type has no constructor that a meaning raises but one kept for the interface. -/
inductive Fault where
  /-- Raised by no meaning: it stands for an access to storage outside every range the spec gives. Safe. -/
  | noStorage
deriving DecidableEq, Repr

/-- Why a command is refused. -/
inductive Refusal where
  /-- A command whose meaning is not written yet, rejected by name in exec. Safe: nothing is claimed of it. -/
  | notModelled (mnemonic : String)
deriving DecidableEq, Repr

/-- The whole state of the block. -/
structure State where
  /-- Commands that wait, first in, first out. -/
  pending : List Instr
  /-- The register file: (offset in BAR 0, value), unlisted registers at their reset value. -/
  regs : List (Nat × Word)
  /-- The model's own counter: the free values already drawn (never the spec's). -/
  freeCtr : Nat
  /-- Local count and device time. -/
  tm : TimeSt
  /-- The answer of the last bus access. -/
  reply : Reply
  /-- Reports made to the SMC and the safety island, oldest first. -/
  reports : List Report
  /-- High words latched per agent and block. -/
  latches : List Latch
  /-- Pixel ports TPP0 to TPP7. -/
  ports : List Port
  /-- Landing contexts and rings; an unlisted stream is Stream.reset. -/
  streams : List (Nat × Stream)
  /-- The DMA engines. -/
  dma : List DmaEng
  /-- The image signal pipelines. -/
  isp : IspSt
  /-- The hardware task scheduler. -/
  hts : HtsSt
  /-- The frame-graph sequencer. -/
  fgs : FgsSt
  /-- The tensor descriptor unit. -/
  tdu : TduSt
  /-- Scratchpads and slot memory. -/
  spm : SpmSt
  /-- The pair tables of FTE0. -/
  fte : List (Option PairTable)
  /-- The neural cores. -/
  nc : NcSt
  /-- The DRAM stack. -/
  dram : DramSt
  /-- The safety island. -/
  saf : SafSt
  /-- Performance counters, crumb trail and telemetry. -/
  pmc : PmcSt
  /-- Flash log records still held. -/
  flashLog : List LogRec
  /-- The PCI Express endpoint. -/
  pci : PciSt
  /-- The power arbiter. -/
  power : PowerSt
  /-- GPIO pins. -/
  gpio : GpioSt
  /-- The JTAG port. -/
  jtag : JtagSt
  /-- Boot, security and the management queue. -/
  sec : SecSt
  /-- Ageing. -/
  age : AgeSt
  /-- Host cores, mailboxes and locks. -/
  host : HostSt
deriving DecidableEq, Repr

/-- A port after reset. -/
def Port.reset : Port := ⟨0, [], [], 0, none, 0, []⟩

/-- A stream whose context was never written: every word 0 (R93). (DESIGN CHOICE, log 96) -/
def Stream.reset : Stream :=
  ⟨List.replicate 8 0, List.replicate 6 0, 0, false, none, List.replicate 8 ⟨.free, 0, false, 0, 0, 0, 0⟩, none, none, 0, 0, 0⟩

/-- The scheduler after reset: every entry FREE in ascending order (R197), TICK_US 50. (DESIGN CHOICE, log 9) -/
def HtsSt.reset : HtsSt :=
  ⟨[], 0, [], [], [], [], 50, List.replicate 32 ⟨none, false⟩, List.replicate 8 ⟨none, none⟩, [], []⟩

def FgsSt.reset : FgsSt := ⟨[], [], 0, [], [[], [], [], []], []⟩

/-- The island after reset: BOOT, SAFE_OK static low, SAFE_OFF_N high (R542). (DESIGN CHOICE, log 9) -/
def SafSt.reset : SafSt :=
  ⟨false, true, none, false, [], 0, List.replicate 16 [], none, false, none, 0, [], [], []⟩

/-- The endpoint after reset: link down, Bus Master Enable 0. (DESIGN CHOICE, log 9) -/
def PciSt.reset : PciSt := ⟨false, 0, false, [], [], [], [], [], [], [], []⟩

/-- The arbiter after reset: nothing held, nothing waiting. (DESIGN CHOICE, log 9) -/
def PowerSt.reset : PowerSt :=
  ⟨[], [], [], List.replicate 10 0, [], List.replicate 11 (0, 0), List.replicate 11 0, List.replicate 10 0⟩

/-- Blank fuses: all zeros, no owner, debug AUTH. (DESIGN CHOICE, log 8) -/
def Fuses.blank : Fuses := ⟨List.replicate 32 0, List.replicate 64 0, List.replicate 32 0, none, none, false, 0, false⟩

/-- Nothing booted; the flash erased. (UNVERIFIED, log 6, DESIGN CHOICE, log 8) -/
def SecSt.reset : SecSt :=
  ⟨false, false, [], Fuses.blank, 0, none, 0, none, none, List.replicate 32 0, none, 0, 0, [], 0x1E000000, 0, 0, 0, [], [], [], 0, []⟩

/-- Host cores held in reset; every mailbox empty, every lock free with last grant 0xFF (R481). (DESIGN CHOICE, log 9) -/
def HostSt.reset : HostSt :=
  ⟨true, List.replicate 8 0, List.replicate 64 ⟨false, 0, List.replicate 16 0, List.replicate 16 0⟩,
    List.replicate 64 none, List.replicate 64 0xFF, [], [], [], []⟩

/-- The block right after POR_N release, before its boot: every register at the value of its table (the register file lists nothing), every memory empty, nothing waiting (R18). Values the spec does not give are named in the assumption log. (DESIGN CHOICE, log 4, DESIGN CHOICE, log 9, DESIGN CHOICE, log 66, DESIGN CHOICE, log 96) -/
def State.reset : State where
  pending := []
  regs := []
  freeCtr := 0
  tm := ⟨0, 0, 0, 0, []⟩
  reply := .nothing
  reports := []
  latches := []
  ports := List.replicate 8 Port.reset
  streams := []
  dma := List.replicate 4 DmaEng.reset
  isp := ⟨[], [], [], 0⟩
  hts := HtsSt.reset
  fgs := FgsSt.reset
  tdu := TduSt.reset
  spm := SpmSt.reset
  fte := List.replicate 4 none
  nc := ⟨[], [], none⟩
  dram := ⟨[], [], [], [], [], 0⟩
  saf := SafSt.reset
  pmc := ⟨[], [], [], false, none, 1000, 1000000, false, [], [], [], 0, 1000000000⟩
  flashLog := []
  pci := PciSt.reset
  power := PowerSt.reset
  gpio := ⟨List.replicate 16 false, List.replicate 16 none⟩
  jtag := ⟨2, [], 0, 0⟩
  sec := SecSt.reset
  age := ⟨List.replicate 10 none, none, List.replicate 10 none, [], [], none, []⟩
  host := HostSt.reset

end Sys2Proof.Machine
end

