-- ==== Sys2Proof/Machine/Ops.lean ====
section
/-! DEFINITION. The named operations every meaning is built from: registers, counters, reports, time, interrupts, completion
records. -/

namespace Sys2Proof.Machine

/-! ### Registers -/

/-- The value of the register at `off`. -/
def State.reg (s : State) (off : Nat) : Word := Store.get regReset s.regs off

/-- The register at `off` set to `v`. -/
def State.setReg (s : State) (off : Nat) (v : Word) : State := { s with regs := Store.put regReset off v s.regs }

/-- Field [hi:lo] of the register at `off`. -/
def State.fld (s : State) (off hi lo : Nat) : Nat := bits (s.reg off) hi lo

/-- Bit `i` of the register at `off`. -/
def State.flag (s : State) (off i : Nat) : Bool := bit (s.reg off) i

/-- Field [hi:lo] of the register at `off` set to `n`. -/
def State.setFld (s : State) (off hi lo n : Nat) : State := s.setReg off (setBits (s.reg off) hi lo n)

/-- Bit `i` of the register at `off` set or cleared. -/
def State.setFlag (s : State) (off i : Nat) (b : Bool) : State := s.setFld off i i (b2n b)

/-- A 64-bit quantity over a low and a high register (R17). -/
def State.reg64 (s : State) (lo hi : Nat) : Nat := (s.reg lo).toNat + 2 ^ 32 * (s.reg hi).toNat

/-- The partition configuration lock (R28, R520). -/
def State.locked (s : State) : Bool := s.flag R.SAF_STATUS 4

/-! ### Power and reset (R18, R654, R658) -/

/-- The logic is powered and out of reset. (DEDUCED, log 3) -/
def State.awake (s : State) : Bool := !s.sec.por && !s.sec.railsOff

/-- What a command leaves: `t`, or nothing changed while the device is held in reset or has no rails. (DEDUCED, log 3) -/
def awakeNext (s t : State) : Host.Outcome State Fault Refusal := .next (if s.awake then t else s)

/-! ### Time (R43) -/

/-- The local count in ns. -/
def State.now (s : State) : Nat := s.tm.localCount / 2 ^ 32 % 2 ^ 64

/-- Device time in ns. -/
def State.devNow (s : State) : Nat := s.tm.devCount / 2 ^ 32 % 2 ^ 64

/-- The local count in whole µs. -/
def State.nowUs (s : State) : Nat := s.now / 1000

/-! ### Commands in progress (R99, R146, R147, R195, R329, R407, R432) -/

/-- The command whose PENDING bit lies in the register at `off` is in progress. (DESIGN CHOICE, log 85) -/
def State.cmdBusy (s : State) (off : Nat) : Bool :=
  match s.tm.busy.find? (fun e => e.1 == off) with
  | some e => decide (s.now < e.2)
  | none => false

/-- A command is accepted: its effect is complete at once, and PENDING stays for a time of at most `bound` ns. (DESIGN CHOICE, log 85) -/
def State.cmdBegin (s : State) (off bound : Nat) : State :=
  { s with tm.busy := (off, s.now + min (Config.cmdTime off s.now) bound) :: s.tm.busy.filter (fun e => e.1 != off) }

/-! ### Counters (R630 to R634) -/

/-- The index of the 48-bit event counter of a block's 32-bit counter register (the catalogue of R634). (DEDUCED, log 72) -/
def evOf (off : Nat) : Option Nat :=
  let o := off % 0x10000
  if 0x100040 ≤ off ∧ off ≤ 0x100054 then some ((off - 0x100040) / 4)
  else if 0x200040 ≤ off ∧ off ≤ 0x200050 then some (64 + (off - 0x200040) / 4)
  else if 0x400000 ≤ off ∧ off < 0x480000 ∧ 0x10 ≤ o ∧ o ≤ 0x28 then
    some (128 + (off - 0x400000) / 0x10000 * 16 + (o - 0x10) / 4)
  else if 0x500010 ≤ off ∧ off ≤ 0x500018 then some (320 + (off - 0x500010) / 4)
  else if 0x600010 ≤ off ∧ off ≤ 0x600018 then some (352 + (off - 0x600010) / 4)
  else if 0x800040 ≤ off ∧ off ≤ 0x80005C then some (768 + (off - 0x800040) / 4)
  else if 0x900040 ≤ off ∧ off ≤ 0x90005C then some (832 + (off - 0x900040) / 4)
  else if 0xA00000 ≤ off ∧ off < 0xA80000 ∧ 0x10 ≤ o ∧ o ≤ 0x30 then
    some (384 + (off - 0xA00000) / 0x10000 * 16 + (o - 0x10) / 4)
  else if 0xC00000 ≤ off ∧ off < 0xE00000 ∧ 0x10 ≤ off % 0x40000 ∧ off % 0x40000 ≤ 0x28 then
    some (512 + (off - 0xC00000) / 0x40000 * 32 + (off % 0x40000 - 0x10) / 4)
  else if 0xE00000 ≤ off ∧ off < 0xE00400 ∧ (off % 0x100 = 0x14 ∨ off % 0x100 = 0x18) then
    some (896 + (off - 0xE00000) / 0x100 * 8 + (off % 0x100 - 0x14) / 4)
  else if 0xE80050 ≤ off ∧ off ≤ 0xE80060 then some (928 + (off - 0xE80050) / 4)
  else if 0xF00000 ≤ off ∧ off < 0x1000000 ∧ 0x40 ≤ off % 0x40000 ∧ off % 0x40000 ≤ 0x50 then
    some (960 + (off - 0xF00000) / 0x40000 * 16 + (off % 0x40000 - 0x40) / 4)
  else if off = 0x1004210 then some 1024
  else if off = 0x100600C then some 1025
  else if 0x1200060 ≤ off ∧ off ≤ 0x1200078 then some (1056 + (off - 0x1200060) / 4)
  else if off = 0x130006C then some 1216
  else none

/-- `n` events counted by 48-bit counter `i`, unless FREEZE; a wrap sets its overflow bit (R631, R633). (DEDUCED, log 72, DEDUCED, log 81) -/
def State.count (s : State) (i n : Nat) : State :=
  if s.flag R.PMC_CTRL 1 then s
  else
    let c := (Store.get (fun _ => 0) s.pmc.cnt i).toNat + n
    let s := { s with pmc.cnt := Store.put (fun _ => 0) i (BitVec.ofNat 48 c) s.pmc.cnt }
    if c < 2 ^ 48 then s else s.setFlag (R.PMC_OVF (i / 32)) (i % 32) true

/-- A 32-bit counter register raised by `n`; it saturates at 0xFFFF_FFFF. -/
def State.incReg (s : State) (off n : Nat) : State :=
  s.setReg off (BitVec.ofNat 32 (min ((s.reg off).toNat + n) 0xFFFFFFFF))

/-- `n` events of a block counter: the saturating register and its 48-bit counter (R632, R634). -/
def State.bumpN (s : State) (off n : Nat) : State :=
  let s := s.incReg off n
  match evOf off with
  | some i => s.count i n
  | none => s

/-- One event of a block counter. -/
def State.bump (s : State) (off : Nat) : State := s.bumpN off 1

/-- Registers zeroed (a CLEAR_COUNTS; the 48-bit counters keep their values, R632). -/
def State.zeroRegs (s : State) (offs : List Nat) : State := offs.foldl (fun s o => s.setReg o 0) s

/-- `n` bytes counted by bandwidth monitor `k` in the present window (R635, R636). (DESIGN CHOICE, log 78) -/
def State.bwCount (s : State) (k n : Nat) : State :=
  if s.flag R.PMC_CTRL 1 then s
  else { s with pmc.bytes := Store.put (fun _ => 0) k (Store.get (fun _ => 0) s.pmc.bytes k + n) s.pmc.bytes }

/-! ### Reports, interrupts, replies -/

/-- A report to the SMC and the safety island (R26, R29). (DEDUCED, log 82) -/
def State.report (s : State) (agent status part : Nat) : State :=
  { s with reports := s.reports ++ [⟨agent, status, part⟩] }

/-- An event of an APLIC source: the source pends, and its MSI goes to the target that its target register names, or to its core (R469). -/
def State.irqRaise (s : State) (src : Nat) : State :=
  let tgt := Store.get (fun _ => 0#32) s.host.aplicTarget src
  let core := if 1 ≤ src ∧ src ≤ 8 then src - 1 else if 9 ≤ src ∧ src ≤ 16 then src - 9 else bits tgt 31 18
  { s with host.irq := if s.host.irq.contains src then s.host.irq else s.host.irq ++ [src], host.msi := s.host.msi ++ [(src, core)] }

/-- The source's condition has gone. -/
def State.irqDrop (s : State) (src : Nat) : State := { s with host.irq := s.host.irq.filter (· != src) }

/-- A source whose condition is `b`: its MSI goes out as the condition begins. (DEDUCED, log 54) -/
def State.irqSet (s : State) (src : Nat) (b : Bool) : State :=
  if b then (if s.host.irq.contains src then s else s.irqRaise src) else s.irqDrop src

/-- The answer of a bus access. (DEDUCED, log 82) -/
def State.answer (s : State) (r : Reply) : State := { s with reply := r }

/-- A record that the SMC is to append to the flash log (R597). -/
def State.logRec (s : State) (kind : Nat) (body : List Word) : State := { s with flashLog := s.flashLog ++ [⟨kind, s.devNow, body⟩] }

/-- The word of event group `g` with the events of the present NOC_CLK cycle and without its clears, and the flags that those events have
set (R201). -/
def State.groupCycle (s : State) (g : Nat) : Word × Word :=
  match s.hts.groupNow.find? (·.1 == g) with
  | some e => e.2
  | none => (s.reg (R.HTS_GROUP_FLAGS g), 0)

/-- What the present cycle has done to group `g`. -/
def State.groupNote (s : State) (g : Nat) (x : Word × Word) : State :=
  { s with hts.groupNow := s.hts.groupNow.filter (·.1 != g) ++ [(g, x)] }

/-- Flags `v` of group `g` cleared: a flag that an event has set in the same cycle stays set (R201). -/
def State.groupClear (s : State) (g : Nat) (v : Word) : State :=
  let x := s.groupCycle g
  (s.groupNote g x).setReg (R.HTS_GROUP_FLAGS g) ((s.reg (R.HTS_GROUP_FLAGS g) &&& ~~~v) ||| (s.reg (R.HTS_GROUP_FLAGS g) &&& x.2))

/-- An MSI-X vector raised (R620). -/
def State.vector (s : State) (v : Nat) : State := { s with pci.vectors := s.pci.vectors ++ [v] }

/-- A fresh free value of the model: the counter is advanced, and the value is the opaque constant at it. (DESIGN CHOICE, log 5) -/
def State.draw (s : State) : Nat × State := (s.freeCtr, { s with freeCtr := s.freeCtr + 1 })

/-- `n` free values in a row, numbered from the first. (DESIGN CHOICE, log 5) -/
def State.drawMany (s : State) (n : Nat) : Nat × State := (s.freeCtr, { s with freeCtr := s.freeCtr + n })

/-! ### Completion records (R46) -/

/-- The fields of a completion record. -/
structure Rec where
  status : Nat
  agent : Nat
  kind : Nat
  part : Nat
  flags : Nat
  userTag : Word
  time : Nat
  tag : Word
  marks : Nat
  detail : Nat
  count : Nat
deriving DecidableEq, Repr

/-- Words 0 to 6 of a record followed by CHECK (R46, R47). -/
def Rec.words (r : Rec) : List Word :=
  let w0 := BitVec.ofNat 32 (r.status % 256 * 2 ^ 24 + r.agent % 256 * 2 ^ 16 + r.kind % 256 * 256 + r.part % 4 * 64 + r.flags % 32)
  let ws := [w0, r.userTag, BitVec.ofNat 32 r.time, BitVec.ofNat 32 (r.time / 2 ^ 32), r.tag,
    BitVec.ofNat 32 (r.marks % 65536 * 65536 + r.detail % 65536), BitVec.ofNat 32 r.count]
  ws ++ [crc32c (wordBytes ws)]

/-- Flag bits [4:0] of word 0: POWER_DELAYED, LEGACY, ABORT_SEEN, OOB_WRITE, OOB_READ. -/
def recFlags (power legacy abort oobW oobR : Bool) : Nat := b2n power * 16 + b2n legacy * 8 + b2n abort * 4 + b2n oobW * 2 + b2n oobR

end Sys2Proof.Machine
end

