-- ==== Sys2Proof/Machine/Operands.lean ====
section
/-! DEFINITION. The agents that commands name as operands: their IDs, the partition an access carries, and the authorities that rules
ask for (01_architecture.md R27, R30). -/

namespace Sys2Proof.Machine

/-! ### Agents and partitions (R27, R30) -/

/-- The agent IDs of R30. -/
def agentId : Agent → Nat
  | .hc n => n.val
  | .nc n => 0x10 + n.val
  | .isp n => 0x20 + n.val
  | .pge n => 0x22 + n.val
  | .wpe n => 0x24 + n.val
  | .ofe n => 0x26 + n.val
  | .sge => 0x28
  | .fte => 0x29
  | .lnd => 0x2C
  | .dmae n => 0x30 + n.val
  | .fgs => 0x38
  | .hts => 0x39
  | .tdu => 0x3A
  | .smc => 0x3C
  | .safety => 0x3D
  | .pcieHost => 0x40
  | .pciePeer => 0x41
  | .noAgent => 0xFF

/-- A task entry (R197); an entry that was never used is FREE with GEN 1. -/
def State.task (s : State) (i : Nat) : Task := Store.get (fun _ => Task.freeOf 1) s.hts.tasks i

/-- The task entry running on a worker. -/
def State.runningOn (s : State) (id : Nat) : Option Nat :=
  (s.hts.tasks.find? (fun e => e.2.state == .running && e.2.worker == some id)).map (·.1)

/-- The partition an agent's accesses carry: a host core's home partition (R461), a DMA engine's own (R433), P2 for the host
and peers (R618), else the partition of the task it runs; an agent without a task counts as P3, the least privileged. (DEDUCED, log 15) -/
def State.partOf (s : State) : Agent → Nat
  | .hc n => s.host.home.getD n.val 3
  | .dmae n => n.val
  | .pcieHost => 2
  | .pciePeer => 2
  | a =>
    match s.runningOn (agentId a) with
    | some i => (s.task i).part
    | none => 3

/-- The SMC and the safety island carry full authority. -/
def isFull : Agent → Bool
  | .smc => true
  | .safety => true
  | _ => false

/-- The agent belongs to partition `p` or carries full authority. (DEDUCED, log 15) -/
def State.ofPart (s : State) (a : Agent) (p : Nat) : Bool := isFull a || s.partOf a == p

/-- P3 agents and full authority (R146, R261). -/
def State.p3OrFull (s : State) (ag : Agent) : Bool := isFull ag || s.partOf ag == 3

/-- P3 agents until the lock, full authority always (R101, R146, R195 and their likes). -/
def State.p3UntilLock (s : State) (a : Agent) : Bool := isFull a || (s.partOf a == 3 && !s.locked)

end Sys2Proof.Machine
end

