-- ==== Sys2Proof/Machine/SafOps.lean ====
section
/-! DEFINITION. What every mechanism asks of the safety island: notices and causes (15_functional_safety.md R540 to R546), and the
reports of refused accesses (01_architecture.md R29). -/

namespace Sys2Proof.Machine

/-- Island states (R542). -/
abbrev Island.boot : Nat := 0
abbrev Island.lockedSt : Nat := 1
abbrev Island.lockedFailed : Nat := 2
abbrev Island.run : Nat := 3
abbrev Island.safe : Nat := 4
abbrev Island.off : Nat := 5

/-- The island's state (R542). -/
def State.island (s : State) : Nat := s.fld R.SAF_STATUS 2 0

/-- The island has decided on the safe state (R543). -/
def State.isSafe (s : State) : Bool := s.island == Island.safe || s.island == Island.off

/-- A notice sets its bit, is counted (R634) and pends source 25 (R541). (DEDUCED, log 81) -/
def State.notice (s : State) (b : Nat) : State := ((s.setFlag R.SAF_NOTICE_PEND b true).count (69 + b) 1).irqRaise 25

/-- FAULT_N is low (R541). -/
def State.faultNLow (s : State) : Bool :=
  (s.reg R.SAF_NOTICE_PEND &&& BitVec.ofNat 32 (s.fld R.SAF_REACT 15 8)) != 0 || s.island == Island.lockedFailed || s.isSafe

/-- Words 0 to 6 of a cause record with its CHECK (R546). (DEDUCED, log 61) -/
def causeRecord (code agent part : Nat) (info : Word) (time further boot : Nat) : List Word :=
  let ws := [BitVec.ofNat 32 (0x01 * 2 ^ 24 + code % 256 * 2 ^ 16 + agent % 256 * 256 + part % 4), info,
    BitVec.ofNat 32 time, BitVec.ofNat 32 (time / 2 ^ 32), BitVec.ofNat 32 further, BitVec.ofNat 32 boot, 0]
  ws ++ [crc32c (wordBytes ws)]

/-- A later cause joins the record's FURTHER mask (R545). -/
def addFurther (rec : List Word) (code : Nat) : List Word :=
  let ws := modAt (rec.take 7) 4 (fun f => f ||| BitVec.ofNat 32 (2 ^ (code - 1)))
  ws ++ [crc32c (wordBytes ws)]

/-- A safe-state cause (R540, R543, R545): the first decides the safe state, stops SAFE_OK, writes the cause record and, with
the link up, raises the PCI Express safety notice (R621), whose register holds the cause in any case; a later one is only added to FURTHER; in OFF nothing happens. (DEDUCED, log 61) -/
def State.cause (s : State) (code agent part : Nat) (info : Word) : State :=
  if s.island = Island.off then s
  else if s.island = Island.safe then { s with saf.retention := addFurther s.saf.retention code }
  else
    let s := s.setFld R.SAF_STATUS 2 0 Island.safe
    let s := { s with
      saf.okToggling := false
      saf.decided := some s.now
      saf.lockstep := decide (code = Cause.lockstep)
      saf.retention := causeRecord code agent part info s.devNow 0 s.saf.bootSeq }
    let s := s.setFld R.PCI_SAFETY_NOTICE 7 0 code
    if s.flag R.PCI_LINK_STATUS 8 then s.vector 1 else s

/-- An access of agent `a` to a resource that partition `owner` holds is refused and reported; a P0 resource also sets the
notice P0_REFUSED (R29, R548). (DEDUCED, log 82) -/
def State.refuse (s : State) (a : Agent) (owner : Nat) : State :=
  let s := s.report (agentId a) St.partitionFault (s.partOf a)
  if owner = 0 then s.notice Notice.p0Refused else s

/-- An access that a register's access rule does not accept is reported (R29); the register belongs to no partition. (DEDUCED, log 82) -/
def State.refuseSys (s : State) (a : Agent) : State := s.report (agentId a) St.partitionFault (s.partOf a)

/-- A field that the SMC and the island alone write, and only before the lock (R231). -/
def State.systemWrite (s : State) (ag : Agent) (f : State → State) : State :=
  if !isFull ag then s.refuseSys ag else if s.locked then s else f s

/-! ### Proof intervals (R533 to R536) -/

/-- SAFE_OK toggles from now on when the island is LOCKED, ARMED, and an interval has passed (R542). -/
def State.maybeRun (s : State) : State :=
  if s.island == Island.lockedSt && s.flag R.SAF_STATUS 5 && s.flag R.SAF_STATUS 6 then
    { s.setFld R.SAF_STATUS 2 0 Island.run with saf.okToggling := true }
  else s

/-- The interval's result by the outcomes of its sets (R536): FAIL before MISSED before PASS. -/
def intervalResult (outs : List Nat) : Nat := if outs.contains 2 then 2 else if outs.contains 3 then 3 else 1

/-- An interval passed (R536, R542). -/
def State.intervalPass (s : State) : State :=
  State.maybeRun (((s.setFld R.SAF_PROOF_STATUS 3 2 0).bump R.SAF_PROOF_PASS_CNT).setFlag R.SAF_STATUS 6 true)

/-- An interval was missed: a notice, and the second in a row the cause PROOF_MISSED (R536). -/
def State.intervalMissed (s : State) : State :=
  let n : Nat := min (s.fld R.SAF_PROOF_STATUS 3 2 + 1) 2
  let s := ((s.setFld R.SAF_PROOF_STATUS 3 2 n).bump R.SAF_PROOF_MISS_CNT).notice Notice.proofMissed
  if n = 2 then s.cause Cause.proofMissed 0xFF 0 0 else s

/-- The interval is judged once every valid set has its outcome (R536). FAIL was a cause when its compare committed. (DEDUCED, log 59) -/
def State.judgeInterval (s : State) : State :=
  if !s.saf.windowOpen || s.saf.proofs.any (fun r => r.outcome == 0) then s
  else
    let last : Nat := intervalResult (s.saf.proofs.map (fun r => r.outcome))
    let n : Nat := s.fld R.SAF_PROOF_STATUS 31 16 + 1
    let t : State := { s with saf := { s.saf with windowOpen := false, proofs := [] } }
    let t : State := (t.setFld R.SAF_PROOF_STATUS 31 16 n).setFld R.SAF_PROOF_STATUS 1 0 last
    if last = 1 then t.intervalPass else if last = 3 then t.intervalMissed else t

/-- A set's outcome (R535): the first one stands; `check` is its first failing entry, or 0xFF. -/
def State.proofOutcome (s : State) (set outcome check : Nat) : State :=
  if s.saf.proofs.any (fun r => r.set == set && r.outcome == 0) then
    let s := { s with saf.proofs := s.saf.proofs.map (fun (r : ProofRun) =>
      if r.set = set then { r with outcome := outcome, left := [] } else r) }
    ((s.setFld (R.SAF_PS_STATUS set) 1 0 outcome).setFld (R.SAF_PS_STATUS set) 15 8 check).judgeInterval
  else s

end Sys2Proof.Machine
end

