-- ==== Sys2Proof/Machine/PowerOps.lean ====
section
/-! DEFINITION. Power domains and power credits as other blocks use them (17_power_clocks_ageing.md R576 to R583). -/

namespace Sys2Proof.Machine

/-- Domain states (PMG_DOM_STATUS_d.STATE). -/
abbrev Dom.on : Nat := 0
abbrev Dom.poweringOff : Nat := 1
abbrev Dom.off : Nat := 2
abbrev Dom.waking : Nat := 3

/-- A domain's state. -/
def State.domState (s : State) (d : Nat) : Nat := s.fld (R.PMG_DOM_STATUS d) 2 0

/-- The domain of an agent's engine (01_architecture.md R24). -/
def domainOf (id : Nat) : Nat :=
  if id ≤ 0x03 then 7 else if id ≤ 0x07 then 8
  else if 0x10 ≤ id ∧ id ≤ 0x13 then 3 else if 0x14 ≤ id ∧ id ≤ 0x17 then 4
  else if id = 0x20 ∨ id = 0x21 then 1 else if 0x22 ≤ id ∧ id ≤ 0x29 then 2
  else if id = 0x2C then 0 else if 0x30 ≤ id ∧ id ≤ 0x33 then 6
  else if id = 0x38 ∨ id = 0x39 ∨ id = 0x3A then 5 else 9

/-- A cause to wake reaches domain `d` (R578): OFF passes to WAKING and the wake is counted; during a power-down the wake
follows it; a domain that is on or waking is left as it is. (DEDUCED, log 18, DEDUCED, log 81) -/
def State.wakeDomain (s : State) (d : Nat) : State :=
  if s.domState d = Dom.off then
    let s := s.setFld (R.PMG_DOM_STATUS d) 2 0 Dom.waking
    let s := s.setFld (R.PMG_DOM_STATUS d) 31 16 (min (s.fld (R.PMG_DOM_STATUS d) 31 16 + 1) 0xFFFF)
    s.count (7 + d) 1
  else if s.domState d = Dom.poweringOff then
    { s with power.wakeAfterOff := s.power.wakeAfterOff.filter (· != d) ++ [d] }
  else s

/-- The derate step (PMG_CLK_STATUS). -/
def State.derate (s : State) : Nat := s.fld R.PMG_CLK_STATUS 3 0

/-- Credits of an engine at step 0 (R582). -/
def creditBase (id : Nat) : Nat :=
  if id = 0x20 ∨ id = 0x21 then 12 else if id = 0x22 ∨ id = 0x23 then 4 else if id = 0x24 ∨ id = 0x25 then 6
  else if id = 0x26 ∨ id = 0x27 then 16 else if id = 0x28 then 40 else if id = 0x29 then 6
  else if 0x10 ≤ id ∧ id ≤ 0x17 then 64 else if 0x30 ≤ id ∧ id ≤ 0x33 then 4 else 0

/-- Credits of an engine at the present derate step: ⌈C × (32 − s) / 32⌉ (R582). -/
def State.creditUnits (s : State) (id : Nat) : Nat := ceilDiv (creditBase id * (32 - s.derate)) 32

/-- U and U₀ (R583). -/
def State.creditsUsed (s : State) : Nat := (s.power.held.map (·.units)).sum
def State.creditsUsedP0 (s : State) : Nat := ((s.power.held.filter (·.part == 0)).map (·.units)).sum

/-- The effective budget: min(PMG_BUDGET_LIMIT capped at PMG_BUDGET_MAX, THERM_CAP) (R580). -/
def State.budgetEff (s : State) : Nat :=
  min (min (s.fld R.PMG_BUDGET_LIMIT 9 0) (s.fld R.PMG_BUDGET_MAX 9 0)) (s.fld R.PMG_BUDGET_EFF 25 16)

/-- The credit pool: the effective budget minus BASE (R581). -/
def State.creditPool (s : State) : Nat := s.budgetEff - s.fld R.PMG_BASE 9 0

/-- Whether a request fits (R583). -/
def State.creditFits (s : State) (part q : Nat) : Bool :=
  if part = 0 then decide (s.creditsUsed + q ≤ s.creditPool)
  else decide (s.creditsUsed + q + (s.fld R.PMG_P0_RESERVE 9 0 - s.creditsUsedP0) ≤ s.creditPool)

/-- Whether the request of agent `id` is next to be served: the first P0 request, or, with none waiting, the first of all (R583). -/
def State.creditNext (s : State) (c : Credit) : Bool :=
  match s.power.waiting.find? (·.part == 0) with
  | some f => f == c
  | none => s.power.waiting.head? == some c

/-- An engine requests its credits (R582): granted at once when nothing goes before it and it fits, else it waits. The Bool says
that it waits. -/
def State.creditRequest (s : State) (id part : Nat) : State × Bool :=
  let q := s.creditUnits id
  let c : Credit := ⟨id, part, q, s.now⟩
  if q = 0 then (s, false)
  else
    let ahead := if part = 0 then s.power.waiting.any (·.part == 0) else !s.power.waiting.isEmpty
    if !ahead && s.creditFits part q then ({ s with power.held := s.power.held ++ [c] }, false)
    else ({ s with power.waiting := s.power.waiting ++ [c] }, true)

/-- An engine releases its credits (R582). -/
def State.creditRelease (s : State) (id : Nat) : State :=
  { s with power.held := s.power.held.filter (·.agent != id), power.waiting := s.power.waiting.filter (·.agent != id) }

/-- The engine waits for credits. -/
def State.creditWaits (s : State) (id : Nat) : Bool := s.power.waiting.any (·.agent == id)

/-- An engine of the domain is busy now (the idle time of R577 restarts). -/
def State.domBusy (s : State) (d : Nat) : State := { s with power.lastBusy := setAt s.power.lastBusy d s.now }

end Sys2Proof.Machine
end

