-- ==== Sys2Proof/Machine/DmaTrig.lean ====
section
/-! DEFINITION. DMA channels and their triggers (12_dma.md R439 to R443), as timers, GPIO edges, event groups, other channels and the
scheduler reach them. -/

namespace Sys2Proof.Machine

/-- Channel states (DMA_CH_STATUS_c.STATE, R443). -/
abbrev Ch.disabled : Nat := 0
abbrev Ch.armed : Nat := 1
abbrev Ch.running : Nat := 2
abbrev Ch.waitTrig : Nat := 3
abbrev Ch.draining : Nat := 4
abbrev Ch.paused : Nat := 5
abbrev Ch.stopped : Nat := 6
abbrev Ch.heldCq : Nat := 7

/-- Trigger sources (R439). -/
abbrev TrigSrc.timer : Nat := 1
abbrev TrigSrc.gpio : Nat := 2
abbrev TrigSrc.event : Nat := 3
abbrev TrigSrc.channel : Nat := 4
abbrev TrigSrc.task : Nat := 5

/-- Engine `e`. -/
def State.eng (s : State) (e : Nat) : DmaEng := s.dma.getD e DmaEng.reset

/-- Engine `e` replaced. -/
def State.setEng (s : State) (e : Nat) (x : DmaEng) : State := { s with dma := setAt s.dma e x }

/-- Channel `c` of engine `e`. -/
def State.chan (s : State) (e c : Nat) : DmaChan := (s.eng e).chans.getD c DmaChan.reset

/-- Channel `c` of engine `e` changed. -/
def State.modChan (s : State) (e c : Nat) (f : DmaChan → DmaChan) : State :=
  s.setEng e { s.eng e with chans := modAt (s.eng e).chans c f }

def State.chState (s : State) (e c : Nat) : Nat := s.fld (R.DMA_CH_STATUS e c) 2 0
def State.setChState (s : State) (e c st : Nat) : State := s.setFld (R.DMA_CH_STATUS e c) 2 0 st
def State.trigSrc (s : State) (e c : Nat) : Nat := s.fld (R.DMA_CH_CFG e c) 31 29
def State.trigArg (s : State) (e c : Nat) : Nat := s.fld (R.DMA_CH_CFG e c) 28 21
def State.trigPending (s : State) (e c : Nat) : Bool := s.flag (R.DMA_CH_STATUS e c) 4

/-- The address of the chain head of a channel. -/
def State.chHead (s : State) (e c : Nat) : Nat :=
  (s.reg (R.DMA_CH_HEAD_LO e c)).toNat + 2 ^ 32 * s.fld (R.DMA_CH_HEAD_HI e c) 7 0

/-- The chain starts at `head`, as software's chain or as task `task` (R442, R445). -/
def State.chStart (s : State) (e c head : Nat) (task : Option Nat) : State :=
  let s := s.modChan e c (fun x =>
    { x with task := task, next := head, desc := [], idx := 0, issued := 0, total := 0, headUser := 0, headTag := 0,
             retried := false, paced := false, delayed := false, aborting := false, srcs := [], dsts := [] })
  (s.setReg (R.DMA_CH_DONE_BYTES e c) 0).setChState e c Ch.running

/-- A trigger is taken: ARMED starts the chain, WAIT_TRIG lets its descriptor run (R442, R443). With DMA_CTRL.ENABLE = 0 no
chain starts (R456), and the trigger stays pending. -/
def State.chTake (s : State) (e c : Nat) : State :=
  if s.chState e c = Ch.armed then
    if s.flag (R.DMA_CTRL e) 0 then s.chStart e c (s.chHead e c) none else s.setFlag (R.DMA_CH_STATUS e c) 4 true
  else if s.chState e c = Ch.waitTrig then s.setChState e c Ch.running
  else s

/-- A trigger reaches a channel (R440): taken at once in ARMED or WAIT_TRIG, else pending, else merged. A DISABLED channel
takes none. -/
def State.chTrigger (s : State) (e c : Nat) : State :=
  let st := s.chState e c
  if st = Ch.disabled then s
  else if s.trigPending e c then (s.bump (R.DMA_TRIG_MERGE_CNT e)).modChan e c (fun x => { x with merged := true })
  else if st = Ch.armed ∨ st = Ch.waitTrig then s.chTake e c
  else s.setFlag (R.DMA_CH_STATUS e c) 4 true

/-- The channel has entered ARMED or WAIT_TRIG: a pending trigger is taken at once (R440). -/
def State.chEnter (s : State) (e c : Nat) : State :=
  if s.trigPending e c && decide (s.chState e c = Ch.armed ∨ s.chState e c = Ch.waitTrig) &&
      (decide (s.chState e c = Ch.waitTrig) || s.flag (R.DMA_CTRL e) 0) then
    (s.setFlag (R.DMA_CH_STATUS e c) 4 false).chTake e c
  else s

/-- Every channel of every engine, in order. -/
def allChans : List (Nat × Nat) := (List.range 4).flatMap (fun e => (List.range 16).map (fun c => (e, c)))

/-- Where the operands of the chains in flight lie, by engine and channel (R437). -/
def State.chainSpans (s : State) : List ((Nat × Nat) × (Nat × Int × Int)) :=
  allChans.flatMap (fun k =>
    let x := s.chan k.1 k.2
    if x.srcs.isEmpty || s.chState k.1 k.2 == Ch.disabled || s.chState k.1 k.2 == Ch.armed || s.chState k.1 k.2 == Ch.heldCq then []
    else (x.srcs ++ x.dsts).map (fun p => (k, p)))

/-- Every channel that `sel` selects receives a trigger. -/
def State.trigWhere (s : State) (sel : State → Nat → Nat → Bool) : State :=
  allChans.foldl (fun s ec => if sel s ec.1 ec.2 then s.chTrigger ec.1 ec.2 else s) s

/-- TIMn expires (R439). -/
def State.dmaTimer (s : State) (n : Nat) : State :=
  s.trigWhere (fun s e c => s.trigSrc e c == TrigSrc.timer && s.trigArg e c % 32 == n)

/-- An edge at GPIO `n` (R439). -/
def State.dmaGpio (s : State) (n : Nat) (rising : Bool) : State :=
  s.trigWhere (fun s e c => s.trigSrc e c == TrigSrc.gpio && s.trigArg e c % 16 == n
    && (let edge := s.fld (R.DMA_CH_CFG e c) 20 19; edge == 3 || edge == (if rising then 1 else 2)))

/-- The flag word of group `g` has changed: every EVENT channel that watches it fires when its mask meets the word, and clears
the mask's bits (R201, R441). -/
def State.dmaEvent (s : State) (g : Nat) : State :=
  let fires (s : State) (e c : Nat) : Bool :=
    s.trigSrc e c == TrigSrc.event && s.trigArg e c == g && s.chState e c != Ch.disabled
      && (s.reg (R.HTS_GROUP_FLAGS g) &&& s.reg (R.DMA_CH_EVT_MASK e c)) != 0
  let hit := allChans.filter (fun ec => fires s ec.1 ec.2)
  let clear := hit.foldl (fun m ec => m ||| s.reg (R.DMA_CH_EVT_MASK ec.1 ec.2)) (0 : Word)
  let s := hit.foldl (fun s ec => s.chTrigger ec.1 ec.2) s
  (s.groupNote g (s.groupCycle g)).setReg (R.HTS_GROUP_FLAGS g) (s.reg (R.HTS_GROUP_FLAGS g) &&& ~~~clear)

/-- An EVENT channel enabled while the flag word of its group meets its mask fires at once and clears those bits (R441). -/
def State.dmaWatch (s : State) (e c : Nat) : State :=
  let g := s.trigArg e c
  let m := s.reg (R.DMA_CH_EVT_MASK e c)
  if s.trigSrc e c = TrigSrc.event ∧ (s.reg (R.HTS_GROUP_FLAGS g) &&& m) ≠ 0 then
    (s.chTrigger e c).groupClear g m
  else s

/-- The lowest-numbered ARMED channel with TRIG_SRC = TASK of engine `e` (R445). -/
def State.taskChan (s : State) (e : Nat) : Option Nat :=
  if !s.flag (R.DMA_CTRL e) 0 then none
  else (List.range 16).find? (fun c => s.trigSrc e c == TrigSrc.task && s.chState e c == Ch.armed)

/-- The channel that runs task `i`. -/
def State.chanOfTask (s : State) (i : Nat) : Option (Nat × Nat) :=
  allChans.find? (fun ec => (s.chan ec.1 ec.2).task == some i)

/-- DETAIL of a DMA_TRANSFER record (R448). -/
def State.dmaDetail (s : State) (e c : Nat) : Nat :=
  let x := s.chan e c
  256 * min x.idx 255 + b2n x.retried * 64 + b2n x.merged * 32 + b2n x.paced * 16 + c % 16

/-- The engine releases its credits when no channel is RUNNING (R582). (DEDUCED, log 62) -/
def State.dmaCredits (s : State) (e : Nat) : State :=
  if (List.range 16).any (fun c => s.chState e c == Ch.running) then s else s.creditRelease (0x30 + e)

/-- A channel's chain is over: reads dropped, ARMED with REARM = 1 and ENABLE still 1, else DISABLED with its pending trigger
discarded (R442). -/
def State.chEnd (s : State) (e c : Nat) : State :=
  let s := s.setEng e { s.eng e with reads := (s.eng e).reads.filter (·.chan != c) }
  let s := s.modChan e c (fun x => { x with task := none, desc := [], merged := false, aborting := false })
  if s.flag (R.DMA_CH_CFG e c) 18 && s.flag (R.DMA_CH_CFG e c) 0 then (s.setChState e c Ch.armed).chEnter e c
  else ((s.setFlag (R.DMA_CH_CFG e c) 0 false).setFlag (R.DMA_CH_STATUS e c) 4 false).setChState e c Ch.disabled

end Sys2Proof.Machine
end

