-- ==== Sys2Proof/Machine/HostOps.lean ====
section
/-! DEFINITION. Mailbox deliveries, their wakes, and locks (13_host_cores.md R470 to R483). -/

namespace Sys2Proof.Machine

/-- The bank of a sender's staging buffer (R470): HC0 to HC7, the SMC, the island, PCIE_HOST, PCIE_PEER. -/
def senderBank : Agent → Option Nat
  | .hc n => some n.val
  | .smc => some 8
  | .safety => some 9
  | .pcieHost => some 10
  | .pciePeer => some 11
  | _ => none

/-- Mailbox `m`. -/
def State.mailbox (s : State) (m : Nat) : Mailbox := s.host.mbox.getD m ⟨false, 0, List.replicate 16 0, List.replicate 16 0⟩

/-- Mailbox `m` replaced. -/
def State.setMailbox (s : State) (m : Nat) (b : Mailbox) : State := { s with host.mbox := setAt s.host.mbox m b }

/-- The wake event of mailbox `m` (R477). -/
def State.wakeMailbox (s : State) (m : Nat) : State :=
  let w := s.fld (R.MBX_CFG m) 7 0
  if w ≤ 7 then (s.wakeDomain (domainOf w)).irqRaise (9 + w)
  else if 0x10 ≤ w ∧ w ≤ 0x17 then s.wakeDomain (domainOf w)
  else if w = 0x40 then s.vector (264 + m)
  else s

/-- A delivery to mailbox `m` (R471, R472, R475): SEQ is 1 more than the previous, 0 skipped; a FULL slot is overwritten. -/
def State.deliver (s : State) (m sender kind : Nat) (payload : List Word) : State × Nat :=
  let b := s.mailbox m
  let seq := if b.seq % 65536 = 65535 then 1 else b.seq % 65536 + 1
  let w0 := BitVec.ofNat 32 (sender % 256 * 2 ^ 24 + kind % 256 * 2 ^ 16 + seq)
  let s := if b.full then ((s.setFlag (R.MBX_STATE m) 1 true).incReg (R.MBX_LOST m) 1).count 1027 1 else s
  let s := s.setMailbox m { b with full := true, seq := seq, words := w0 :: payload }
  ((s.count 1026 1).wakeMailbox m, seq)

/-- The owner of mailbox `m` (R486). -/
def State.mbxOwner (s : State) (m : Nat) : Nat := s.fld (R.MBX_CFG m) 29 28

/-- The owner partition of lock `n` (R479). -/
def State.lockPart (s : State) (n : Nat) : Nat := bits (s.reg (R.LCK_PART (n / 16))) (2 * (n % 16) + 1) (2 * (n % 16))

/-- What a read of lock `n` by agent `id` returns when it changes nothing (R479, R483). (DESIGN CHOICE, log 17) -/
def lockView (owner : Option Nat) (id : Nat) : Word :=
  match owner with
  | none => BitVec.ofNat 32 0
  | some o => if o = id then BitVec.ofNat 32 (2 ^ 31 + id) else BitVec.ofNat 32 o

end Sys2Proof.Machine
end

