-- ==== Sys2Proof/Machine/DramOps.lean ====
section
/-! DEFINITION. DRAM accesses: interleave, firewall, check values, pantry copies (14_dram_integrity.md R488 to R508). -/

namespace Sys2Proof.Machine

/-- One past the last DRAM address (R488). -/
abbrev dramEnd : Nat := 0x600000000

/-- Who accesses DRAM: agent ID, partition, and by which permission (0 partition masks, 1 full authority, 2 host, 3 peer; R498). -/
structure Who where
  agent : Nat
  part : Nat
  kind : Nat
deriving DecidableEq, Repr

/-- An agent's own access. -/
def State.whoOf (s : State) (a : Agent) : Who :=
  ⟨agentId a, s.partOf a, match a with | .smc => 1 | .safety => 1 | .pcieHost => 2 | .pciePeer => 3 | _ => 0⟩

/-- An engine's access on behalf of a partition. -/
def whoPart (agent part : Nat) : Who := ⟨agent, part, 0⟩

/-- Channel and die of an address (R489). -/
def dramChannel (a : Nat) : Nat := a / 256 % 32
def dramDie (a : Nat) : Nat := a / 2048 % 4

/-- The lowest-numbered valid region that holds the address (R498). -/
def State.fwRegion (s : State) (a : Nat) : Option Nat :=
  (List.range 64).find? (fun r => s.flag (R.DMC_FW_CFG r) 31 && decide (s.fld (R.DMC_FW_BASE r) 18 0 ≤ a / 65536)
    && decide (a / 65536 ≤ s.fld (R.DMC_FW_LIMIT r) 18 0))

/-- The firewall's decision on one address (R498): the deciding region's masks alone grant. -/
def State.fwAllows (s : State) (w : Who) (wr : Bool) (a : Nat) : Bool :=
  w.kind == 1 ||
  match s.fwRegion a with
  | none => false
  | some r =>
    match w.kind with
    | 0 => s.flag (R.DMC_FW_CFG r) ((if wr then 16 else 20) + w.part)
    | 2 => s.flag (R.DMC_FW_CFG r) (if wr then 2 else 3)
    | _ => s.flag (R.DMC_FW_CFG r) (if wr then 0 else 1)

/-- A refused access: counted, the first one logged, reported; a region owned by P0 sets the notice (R499, R29). -/
def State.fwRefuse (s : State) (w : Who) (wr : Bool) (a : Nat) : State :=
  let r := s.fwRegion a
  let s := s.bump R.FW_FAULT_CNT
  let s := if s.flag R.DMC_FW_LOG 31 then s
    else
      let v := 2 ^ 31 + 2 ^ 30 * b2n wr + 2 ^ 24 * (r.getD 63) + w.agent % 256 * 65536 + 32768 * b2n r.isNone + w.part % 4
      (((s.setReg R.DMC_FW_LOG (BitVec.ofNat 32 v)).setReg R.DMC_FW_ADDR_LO (BitVec.ofNat 32 a)).setReg R.DMC_FW_ADDR_HI
        (BitVec.ofNat 32 (a / 2 ^ 32 % 256))).irqRaise 44
  let s := s.report w.agent St.partitionFault w.part
  match r with
  | some r => if s.fld (R.DMC_FW_CFG r) 29 28 = 0 then s.notice Notice.p0Refused else s
  | none => s

/-- The first address of each 64 KiB unit that [a, a + n) meets. -/
def unitsOf (a n : Nat) : List Nat :=
  if n = 0 then [] else (List.range ((a + n - 1) / 65536 + 1 - a / 65536)).map (fun i => if i = 0 then a else 65536 * (a / 65536 + i))

/-- What the firewall and the address range say of an access to [a, a + n): nothing wrong, or a status and the address (R490, R499). -/
def State.dramCheck (s : State) (w : Who) (wr : Bool) (a n : Nat) : Option (Nat × Nat) :=
  if s.dram.linksDown.contains w.agent then some (St.busError, a)
  else if dramEnd < a + n then some (St.rangeFault, a)
  else ((unitsOf a n).find? (fun u => !s.fwAllows w wr u)).map (fun u => (St.partitionFault, u))

/-- [a, a + n) cut at the bounds of the 64 KiB units: addresses and lengths. (DEDUCED, log 99) -/
def piecesOf (a n : Nat) : List (Nat × Nat) := (unitsOf a n).map (fun u => (u, min (a + n) (65536 * (u / 65536 + 1)) - u))

/-- The accesses to the unit of `u` take place (R490, R498). (DEDUCED, log 99) -/
def State.unitOk (s : State) (w : Who) (wr : Bool) (u : Nat) : Bool := decide (u < dramEnd) && s.fwAllows w wr u

/-! ### Pantry entries (R506 to R508) -/

/-- First block, block count and first copy block of entry `e`. -/
def State.pantryPri (s : State) (e : Nat) : Nat := 1024 * s.fld (R.DMC_PANTRY_PRI e) 18 0
def State.pantryLen (s : State) (e : Nat) : Nat := 1024 * s.fld (R.DMC_PANTRY_SIZE e) 18 0
def State.pantryCopy (s : State) (e : Nat) : Nat := s.fld (R.DMC_PANTRY_COPY e) 23 0 * 32
def State.pantryValid (s : State) (e : Nat) : Bool := s.flag (R.DMC_PANTRY_CFG e) 31

/-- The valid entry whose primary range holds block `b`, and the block's twin. -/
def State.pantryOf (s : State) (b : Nat) : Option (Nat × Nat) :=
  ((List.range 32).find? (fun e => s.pantryValid e && decide (s.pantryPri e ≤ b) && decide (b < s.pantryPri e + s.pantryLen e))).map
    (fun e => (e, s.pantryCopy e + (b - s.pantryPri e)))

/-- The valid entry whose copy range holds block `b`, and the primary block. -/
def State.copyOf (s : State) (b : Nat) : Option (Nat × Nat) :=
  ((List.range 32).find? (fun e => s.pantryValid e && decide (s.pantryCopy e ≤ b) && decide (b < s.pantryCopy e + s.pantryLen e))).map
    (fun e => (e, s.pantryPri e + (b - s.pantryCopy e)))

/-- Whether [a, a + n) lies in ranges covered by valid entries of partition `p` (R531). -/
def State.pantryCovers (s : State) (p a n : Nat) : Bool :=
  (List.range (if n = 0 then 0 else (a + n - 1) / 65536 + 1 - a / 65536)).all (fun i =>
    match s.pantryOf (1024 * (a / 65536 + i)) with
    | some (e, _) => s.fld (R.DMC_PANTRY_CFG e) 29 28 == p
    | none => false)

/-! ### Bytes -/

/-- Unlisted DRAM reads zero: initialisation wrote every block with zeros (R492). (DESIGN CHOICE, log 4) -/
def dramZero : Nat → Byte := fun _ => 0

/-- One byte of DRAM. -/
def State.dramByte (s : State) (a : Nat) : Byte := Store.get dramZero s.dram.mem a

/-- `n` bytes of DRAM. -/
def State.dramBytes (s : State) (a n : Nat) : List Byte := Store.getList dramZero s.dram.mem a n

/-- Bytes stored in DRAM. -/
def State.dramStore (s : State) (a : Nat) (bs : List Byte) : State := { s with dram.mem := Store.putList dramZero a bs s.dram.mem }

/-- The first integrity error is logged (DMC_ERR_LOG, R504). -/
def State.dramLog (s : State) (w : Who) (blk : Nat) (scrub restored both merge : Bool) : State :=
  if s.flag R.DMC_ERR_LOG 31 then s
  else
    let a := blk * 64
    let v := 2 ^ 31 + 2 ^ 30 * b2n scrub + 2 ^ 29 * b2n restored + 2 ^ 28 * b2n both + 2 ^ 27 * b2n merge
      + 65536 * (if scrub then 0xFF else w.agent % 256) + 256 * dramChannel a + w.part % 4
    let s := ((s.setReg R.DMC_ERR_LOG (BitVec.ofNat 32 v)).setReg R.DMC_ERR_ADDR_LO (BitVec.ofNat 32 a)).setReg R.DMC_ERR_ADDR_HI
      (BitVec.ofNat 32 (a / 2 ^ 32 % 256))
    (s.irqRaise 44).logRec 5 [s.reg R.DMC_ERR_LOG, s.reg R.DMC_ERR_ADDR_LO, s.reg R.DMC_ERR_ADDR_HI]

/-- Block `dst` restored from block `src` (R507). -/
def State.restore (s : State) (dst src : Nat) : State :=
  let s := s.dramStore (dst * 64) (s.dramBytes (src * 64) 64)
  let s := { s with dram.bad := s.dram.bad.filter (· != dst), dram.lost := s.dram.lost.filter (· != dst) }
  s.bump R.RESTORE_CNT

/-- Both copies of a block fail: it is lost, and its loss counted once (R508, R540). -/
def State.loseBlock (s : State) (e blk : Nat) : State :=
  if s.dram.lost.contains blk then s
  else
    let s := { s with dram.lost := s.dram.lost ++ [blk] }
    let s := s.bump R.PANTRY_LOST_CNT
    let p := s.fld (R.DMC_PANTRY_CFG e) 29 28
    let s := s.report 0x3C St.integrity p
    let s := if s.flag (R.DMC_PANTRY_CFG e) 30 && !s.dram.reload.contains e then { s with dram.reload := s.dram.reload ++ [e] } else s
    if p = 0 ∨ (p = 1 ∧ s.flag R.SAF_REACT 1) then s.cause Cause.pantryLost 0xFF p (BitVec.ofNat 32 e)
    else s.notice Notice.pantryLost

/-- A read meets a block whose check fails (R504, R507, R508, R509). (DESIGN CHOICE, log 56) -/
def State.badBlock (s : State) (w : Who) (blk : Nat) (scrub : Bool) : State :=
  let s := s.bump (if scrub then R.SCRUB_ERR_CNT else R.CRC_ERR_CNT)
  match s.pantryOf blk with
  | some (e, c) =>
    if s.dram.bad.contains c then (s.dramLog w blk scrub false true false).loseBlock e blk
    else (s.dramLog w blk scrub true false false).restore blk c
  | none =>
    match s.copyOf blk with
    | some (e, p) =>
      if !scrub then s.dramLog w blk scrub false false false
      else if s.dram.bad.contains p then (s.dramLog w blk scrub false true false).loseBlock e p
      else (s.dramLog w blk scrub true false false).restore blk p
    | none => s.dramLog w blk scrub false false false

/-- The 64-byte blocks that [a, a + n) meets. -/
def blocksOf (a n : Nat) : List Nat :=
  if n = 0 then [] else (List.range ((a + n - 1) / 64 + 1 - a / 64)).map (fun i => a / 64 + i)

/-- Event counters and monitors of the channels and of the agent's port (R634, R635). -/
def State.dramTraffic (s : State) (w : Who) (wr : Bool) (a n : Nat) : State :=
  let s := (blocksOf a n).foldl (fun s b =>
    (s.count (1088 + 4 * dramChannel (b * 64) + b2n wr) 1).bwCount (dramChannel (b * 64)) 64) s
  if w.agent ≤ 0x3D then s.bwCount (64 + w.agent) n else s

/-- Every 64-byte access to [a, a + n) is refused, counted and reported (R499). (DEDUCED, log 99) -/
def State.fwRefuseAll (s : State) (w : Who) (wr : Bool) (a n : Nat) : State :=
  (blocksOf a n).foldl (fun s b => s.fwRefuse w wr (max a (64 * b))) s

/-- The blocks of [a, a + n) are read: those whose check fails (R504). -/
def State.readBlocks (s : State) (w : Who) (a n : Nat) : State :=
  ((blocksOf a n).filter (fun b => s.dram.bad.contains b)).foldl (fun s b => s.badBlock w b false) (s.dramTraffic w false a n)

/-- One piece of a read of which some part does not take place (R490, R499). (DEDUCED, log 99) -/
def State.readPiece (s : State) (w : Who) (p : Nat × Nat) : State :=
  if s.unitOk w false p.1 then s.readBlocks w p.1 p.2
  else if p.1 < dramEnd then s.fwRefuseAll w false p.1 p.2 else s

/-- A checked read of [a, a + n): the state after it, the status (DONE, RANGE_FAULT beyond DRAM, PARTITION_FAULT,
BUS_ERROR, INTEGRITY_DETECTED) and the bytes; nothing is returned as good that is damaged (R504). (DESIGN CHOICE, log 56, DEDUCED, log 99) -/
def State.dramRead (s : State) (w : Who) (a n : Nat) : State × Nat × List Byte :=
  match s.dramCheck w false a n with
  | some (st, _) => (if st = St.busError then s else (piecesOf a n).foldl (fun s p => s.readPiece w p) s, st, [])
  | none =>
    if (blocksOf a n).any (fun b => s.dram.bad.contains b) then (s.readBlocks w a n, St.integrity, [])
    else (s.dramTraffic w false a n, St.done, s.dramBytes a n)

/-- One block's part of a write (R503, R507): a whole block stores a valid check value; a masked write over a failing block
merges after a restore, or leaves the block failing, and lost where its copy fails too (R508); a pantry primary is written to its copy too; a copy range takes no write
of any agent. -/
def State.dramPutBlock (s : State) (w : Who) (a : Nat) (bs : List Byte) : State :=
  let blk := a / 64
  let whole := decide (64 ≤ bs.length)
  match s.copyOf blk with
  | some (e, _) =>
    let s := s.report w.agent St.partitionFault w.part
    if s.fld (R.DMC_PANTRY_CFG e) 29 28 = 0 then s.notice Notice.p0Refused else s
  | none =>
    let s :=
      if !whole && s.dram.bad.contains blk then
        match s.pantryOf blk with
        | some (e, c) => if s.dram.bad.contains c then (s.dramLog w blk false false true true).loseBlock e blk else s.restore blk c
        | none => s.dramLog w blk false false false true
      else s
    let s := s.dramStore a bs
    let s := match s.pantryOf blk with
      | some (_, c) =>
        let s := s.dramStore (c * 64 + a % 64) bs
        if whole then { s with dram.bad := s.dram.bad.filter (· != c) } else s
      | none => s
    if whole then
      { s with dram.bad := s.dram.bad.filter (· != blk), dram.lost := s.dram.lost.filter (· != blk) }
    else s

/-- The blocks of a write, one after the other; `fuel` bounds their number. -/
def State.dramPut (s : State) (w : Who) : Nat → Nat → List Byte → State
  | 0, _, _ => s
  | fuel + 1, a, bs =>
    match bs with
    | [] => s
    | _ => State.dramPut (s.dramPutBlock w a (bs.take (64 - a % 64))) w fuel (a / 64 * 64 + 64) (bs.drop (64 - a % 64))

/-- Bytes written to permitted blocks. -/
def State.writeBlocks (s : State) (w : Who) (a : Nat) (bs : List Byte) : State :=
  (s.dramTraffic w true a bs.length).dramPut w (bs.length / 64 + 2) a bs

/-- One piece of a write from `a` on of which some part does not take place (R490, R499). (DEDUCED, log 99) -/
def State.writePiece (s : State) (w : Who) (a : Nat) (bs : List Byte) (p : Nat × Nat) : State :=
  if s.unitOk w true p.1 then s.writeBlocks w p.1 ((bs.drop (p.1 - a)).take p.2)
  else if p.1 < dramEnd then s.fwRefuseAll w true p.1 p.2 else s

/-- A checked write of bytes at `a`: the state after it and the status. (DEDUCED, log 99) -/
def State.dramWrite (s : State) (w : Who) (a : Nat) (bs : List Byte) : State × Nat :=
  match s.dramCheck w true a bs.length with
  | some (st, _) => (if st = St.busError then s else (piecesOf a bs.length).foldl (fun s p => s.writePiece w a bs p) s, st)
  | none => (s.writeBlocks w a bs, St.done)

/-- The DRAM controller holds every access because a die is in STOP (R511). (DEDUCED, log 55) -/
def State.dramStopped (s : State) : Bool := s.flag R.DMC_STATUS 8

end Sys2Proof.Machine
end

