-- ==== Sys2Proof/Machine/LandOps.lean ====
section
/-! DEFINITION. Landing contexts, frame ring slots and their holds (02_pixel_ports.md R75 to R86, R93, R94). -/

namespace Sys2Proof.Machine

/-- A stream; one whose context was never written is Stream.reset. -/
def State.stream (s : State) (i : Nat) : Stream := Store.get (fun _ => Stream.reset) s.streams i

/-- A stream replaced. -/
def State.setStream (s : State) (i : Nat) (x : Stream) : State :=
  { s with streams := Store.put (fun _ => Stream.reset) i x s.streams }

/-! Fields of words 0 to 7 of the landing context (R93). -/
def Stream.enabled (x : Stream) : Bool := bit (wd x.cfg 0) 31
def Stream.port (x : Stream) : Nat := bits (wd x.cfg 0) 30 28
def Stream.part (x : Stream) : Nat := bits (wd x.cfg 0) 27 26
def Stream.priority (x : Stream) : Nat := bits (wd x.cfg 0) 25 20
def Stream.packing (x : Stream) : Nat := bits (wd x.cfg 0) 19 18
def Stream.policy (x : Stream) : Nat := bits (wd x.cfg 0) 17 16
def Stream.depth (x : Stream) : Nat := bits (wd x.cfg 0) 15 12 + 1
def Stream.ringFrames (x : Stream) : Nat := bits (wd x.cfg 0) 11 8
def Stream.height (x : Stream) : Nat := bits (wd x.cfg 1) 29 16
def Stream.width (x : Stream) : Nat := bits (wd x.cfg 1) 13 0
def Stream.earlyLines (x : Stream) : Nat := bits (wd x.cfg 2) 29 16
def Stream.embLines (x : Stream) : Nat := bits (wd x.cfg 2) 3 0
def Stream.lateUs (x : Stream) : Nat := (wd x.cfg 3).toNat
def Stream.ringBase (x : Stream) : Nat := (wd x.cfg 4).toNat + 2 ^ 32 * bits (wd x.cfg 5) 7 0
def Stream.frameStride (x : Stream) : Nat := (wd x.cfg 6).toNat
def Stream.lineStride (x : Stream) : Nat := bits (wd x.cfg 7) 23 0

/-- The owner partition the access rules see (R28, R101): as held at the lock once it is set, else the present PART. (DEDUCED, log 23) -/
def State.streamOwner (s : State) (x : Stream) : Nat := if s.locked then x.lockedPart.getD 0 else x.part

/-- Pixels per transfer of a packing (R60). -/
def pixelsPer (packing : Nat) : Nat := if packing = 0 then 2 else if packing = 1 then 3 else 4

/-- Payload length in 64-byte blocks of a row of `w` pixels (R68). -/
def payLen (packing w : Nat) : Nat := ceilDiv (ceilDiv w (pixelsPer packing)) 16

/-- Address of slot `k` and of a row in it (R75). -/
def Stream.slotAddr (x : Stream) (k : Nat) : Nat := x.ringBase + k * x.frameStride
def Stream.embAddr (x : Stream) (k e : Nat) : Nat := x.slotAddr k + 64 + e * x.lineStride
def Stream.rowAddr (x : Stream) (k r : Nat) : Nat := x.slotAddr k + 64 + (x.embLines + r) * x.lineStride

/-- A slot of the ring. -/
def Stream.slot (x : Stream) (k : Nat) : RingSlot := x.slots.getD k ⟨.free, 0, false, 0, 0, 0, 0⟩

/-- A slot changed. -/
def Stream.modSlot (x : Stream) (k : Nat) (f : RingSlot → RingSlot) : Stream := { x with slots := modAt x.slots k f }

/-- A counter of words 9 to 14 (index 0 to 5) raised; it saturates. -/
def Stream.inc (x : Stream) (i : Nat) : Stream := { x with counts := modAt x.counts i (fun c => min (c + 1) 0xFFFFFFFF) }

/-- The same counter with its event counter, summed over all streams (R634). (DEDUCED, log 72) -/
def State.streamInc (s : State) (st i : Nat) : State := (s.setStream st ((s.stream st).inc i)).count (256 + i) 1

/-- A hold placed on a slot (R76, R159, R162); a count of 15 takes no more. (DEDUCED, log 22) -/
def State.holdSlot (s : State) (st k : Nat) : State :=
  s.setStream st ((s.stream st).modSlot k (fun x => { x with hold := min (x.hold + 1) 15 }))

/-- A hold released (R76, R85): a LANDED slot whose count reaches 0 returns to FREE. -/
def State.releaseSlot (s : State) (st k : Nat) : State :=
  s.setStream st ((s.stream st).modSlot k (fun x =>
    let h := x.hold - 1
    { x with hold := h, state := if h = 0 ∧ x.hold ≠ 0 ∧ x.state = .landed then .free else x.state }))

/-- The pending hold of a frame's slot, shared by every graph with a pending trigger for it (R159); a slot that already has 15 holds takes none. (DEDUCED, log 22) -/
def State.pendHold (s : State) (st k : Nat) : State :=
  if ((s.stream st).slot k).pend ∨ 15 ≤ ((s.stream st).slot k).hold then s
  else (s.holdSlot st k).setStream st (((s.holdSlot st k).stream st).modSlot k (fun x => { x with pend := true }))

/-- The pending hold released. -/
def State.pendRelease (s : State) (st k : Nat) : State :=
  if ((s.stream st).slot k).pend then
    let s := s.setStream st ((s.stream st).modSlot k (fun x => { x with pend := false }))
    s.releaseSlot st k
  else s

/-- Word 8 of the context (R93). -/
def Stream.word8 (x : Stream) : Word :=
  BitVec.ofNat 32 (2 ^ 20 * b2n x.openF.isSome + 65536 * (match x.openF with | some f => f.slot % 8 | none => 0) + x.lastFrame % 65536)

/-- The 16 words of the context (R93). -/
def Stream.words (x : Stream) : List Word :=
  x.cfg.take 8 ++ [x.word8] ++ (x.counts.map (fun c => BitVec.ofNat 32 c)) ++ [0]

/-- The bank of the landing staging words (R101): one per partition, the SMC's and the island's. -/
def State.lndBank (s : State) (a : Agent) : Nat :=
  match a with
  | .smc => 4
  | .safety => 5
  | a => s.partOf a

/-- The checks of a context write (R94) in table order; `cfg` are staging words 0 to 7. (DEDUCED, log 23) -/
def State.ctxCheck (s : State) (st : Nat) (cfg : List Word) : Nat :=
  let x : Stream := { Stream.reset with cfg := cfg }
  let old := s.stream st
  let blocks := payLen x.packing x.width
  let depthMax := if x.packing = 0 then 16 else if x.packing = 1 then 10 else 8
  let reserved := bits (wd cfg 0) 7 0 ≠ 0 ∨ bits (wd cfg 1) 31 30 ≠ 0 ∨ bits (wd cfg 1) 15 14 ≠ 0 ∨ bits (wd cfg 2) 31 30 ≠ 0
    ∨ bits (wd cfg 2) 15 4 ≠ 0 ∨ bits (wd cfg 5) 31 8 ≠ 0 ∨ bits (wd cfg 7) 31 24 ≠ 0
  if reserved ∨ x.packing = 3 ∨ 1 < x.policy ∨ x.depth < 8 ∨ depthMax < x.depth ∨ x.ringFrames < 2 ∨ 8 < x.ringFrames
      ∨ x.height = 0 ∨ x.width = 0 ∨ 16320 < x.width ∨ 255 < blocks
      ∨ x.lateUs < 100 ∨ 1000000 < x.lateUs then St.descInvalid
  else if x.ringBase % 64 ≠ 0 ∨ x.frameStride % 64 ≠ 0 ∨ x.lineStride % 64 ≠ 0 then St.alignFault
  else if x.lineStride < 64 * blocks ∨ x.frameStride < 64 + (x.embLines + x.height) * x.lineStride
      ∨ dramEnd < x.ringBase + x.ringFrames * x.frameStride then St.rangeFault
  else if (s.dramCheck (whoPart 0x2C x.part) true x.ringBase (x.ringFrames * x.frameStride)).isSome
      ∨ (s.locked ∧ old.lockedPart.getD 0 ≠ x.part) then St.partitionFault
  else if old.enabled ∧ (cfg.drop 1 ≠ (old.cfg.drop 1).take 7 ∨ (x.enabled ∧ x.port ≠ old.port)) then St.busy
  else St.done

end Sys2Proof.Machine
end

