-- ==== Sys2Proof/Machine/SpmOps.lean ====
section
/-! DEFINITION. Scratchpads and slot memory: geometry, ownership, parity, accesses (11_scratchpads.md R408 to R430). -/

namespace Sys2Proof.Machine

/-! ### Geometry (R408, R409) -/

/-- The memory of a kind (0 WM, 1 AM, 2 PM, 3 slot memory) of a core. -/
def spmMem (kind core : Nat) : Nat := if kind = 3 then 24 else 3 * core + kind
def spmKind (m : Nat) : Nat := if m = 24 then 3 else m % 3
def spmCore (m : Nat) : Nat := if m = 24 then 0 else m / 3

/-- Capacity in bytes, and bytes of an ownership granule. -/
def spmSize (m : Nat) : Nat := match spmKind m with | 0 => 0x400000 | 1 => 0x300000 | 2 => 0x100000 | _ => 0x1000000
def granuleSize (m : Nat) : Nat := if m = 24 then 0x100000 else 0x10000
def granules (m : Nat) : Nat := spmSize m / granuleSize m

/-- Banks of a memory, and bank words of one bank. -/
def spmBanks (m : Nat) : Nat := match spmKind m with | 0 => 16 | 1 => 12 | 2 => 8 | _ => 64
def bankWords (m : Nat) : Nat := if spmKind m = 2 then 2048 else 4096

/-- The bank, and the word within it, of byte offset `a`. -/
def spmBank (m a : Nat) : Nat :=
  match spmKind m with
  | 0 => a / 64 % 16
  | 2 => a / 64 % 8
  | _ => 4 * (a / 0x100000) + a / 64 % 4
def spmWord (m a : Nat) : Nat :=
  match spmKind m with
  | 0 => a / 1024
  | 2 => a / 512
  | _ => a % 0x100000 / 256

/-- The offset of a bank's word. -/
def spmOffset (m bank word : Nat) : Nat :=
  match spmKind m with
  | 0 => 1024 * word + bank * 64
  | 2 => 512 * word + bank * 64
  | _ => bank / 4 * 0x100000 + 256 * word + bank % 4 * 64

/-- The place of a memory's first bank among the 352 banks. -/
def bankBase (m : Nat) : Nat :=
  if m = 24 then 288 else spmCore m * 36 + (match spmKind m with | 0 => 0 | 1 => 16 | _ => 28)

/-! ### Ownership (R418, R419) -/

/-- The register and the bit position of a granule's owner. -/
def ownerReg (m g : Nat) : Nat :=
  match spmKind m with
  | 0 => R.SPM_OWN_NC (spmCore m) (g / 16)
  | 1 => R.SPM_OWN_NC (spmCore m) (4 + g / 16)
  | 2 => R.SPM_OWN_NC (spmCore m) 7
  | _ => R.SPM_OWN_SLOT

/-- The owner of granule `g` of memory `m`. -/
def State.granuleOwner (s : State) (m g : Nat) : Nat := s.fld (ownerReg m g) (2 * (g % 16) + 1) (2 * (g % 16))
def State.setGranuleOwner (s : State) (m g p : Nat) : State := s.setFld (ownerReg m g) (2 * (g % 16) + 1) (2 * (g % 16)) p

/-- The bank words that [off, off + n) meets: an access takes effect on one of them (R412). -/
def wordsIn (off n : Nat) : List Nat := if n = 0 then [] else (List.range ((off + n - 1) / 64 + 1 - off / 64)).map (fun i => off / 64 + i)

/-- The granules that [off, off + n) meets. -/
def granulesIn (m off n : Nat) : List Nat :=
  if n = 0 then [] else (List.range ((off + n - 1) / granuleSize m + 1 - off / granuleSize m)).map (fun i => off / granuleSize m + i)

/-- The granule is being filled and belongs to no partition (R425). -/
def State.inFill (s : State) (m g : Nat) : Bool :=
  match s.spm.fill with
  | some f => f.mem == m && decide (f.first ≤ g) && decide (g < f.first + f.count)
  | none => false

/-- Granules of memory `m` that partition `p` owns; one that is being filled is nobody's (R420, R425). -/
def State.granulesOf (s : State) (m p : Nat) : Nat := ((List.range (granules m)).filter (fun g => s.granuleOwner m g == p && !s.inFill m g)).length

/-- The banks of a memory are busy with a fill (R425): those of the core's memory, or the groups named. -/
def State.fillHolds (s : State) (m g : Nat) : Bool :=
  match s.spm.fill with
  | some f => f.mem == m && (m != 24 || s.inFill m g)
  | none => false

/-- An access to granule `g`, which is not named, waits for the fill of its banks (R411, R425). -/
def State.fillWaits (s : State) (m g : Nat) : Bool := s.fillHolds m g && !s.inFill m g

/-- Some access to [off, off + n) waits for a fill. -/
def State.spmWaits (s : State) (m off n : Nat) : Bool := (granulesIn m off n).any (s.fillWaits m)

/-- Whether an access of partition `part` to granule `g` takes place (R419). -/
def State.spmAllows (s : State) (part : Nat) (full wr shared : Bool) (m g : Nat) : Bool :=
  !s.inFill m g && (full || s.granuleOwner m g == part || (!wr && shared))

/-! ### Bytes and parity (R428, R429) -/

/-- Unwritten scratchpad bytes are zero (R427). (DESIGN CHOICE, log 4) -/
def spmZero : Nat → Byte := fun _ => 0

/-- `n` bytes of a memory. -/
def State.spmBytes (s : State) (m off n : Nat) : List Byte := Store.getList spmZero (s.spm.mem.getD m []) off n

def State.modSpm (s : State) (m : Nat) (f : List Host.Cell → List Host.Cell) : State :=
  { s with spm.mem := modAt s.spm.mem m f }

/-- Bytes stored; those under `none` keep their value. A 64-bit word written whole stores good parity (R428). -/
def State.spmStore (s : State) (m off : Nat) (bs : List (Option Byte)) : State :=
  let s := s.modSpm m (fun l => (bs.zipIdx).foldl (fun l e => match e.1 with
    | some b => Store.put spmZero (off + e.2) b l
    | none => l) l)
  let whole (lane : Nat) : Bool :=
    (List.range 8).all (fun k => decide (off ≤ lane * 8 + k) && (match bs[lane * 8 + k - off]? with | some (some _) => true | _ => false))
  { s with spm.bad := s.spm.bad.filter (fun b => !(b.mem == m && whole b.lane)) }

/-- Bytes stored without a mask. -/
def State.spmPut (s : State) (m off : Nat) (bs : List Byte) : State := s.spmStore m off (bs.map some)

/-- The failing words that [off, off + n) meets. -/
def State.spmBadIn (s : State) (m off n : Nat) : List SpmBad :=
  s.spm.bad.filter (fun b => b.mem == m && decide (b.lane * 8 + 8 > off) && decide (b.lane * 8 < off + n))

/-- SPM_ERR_LOG (R429, R430) when it holds no valid entry; interrupt source 44 (R469). -/
def State.spmLog (s : State) (b : SpmBad) (scrub : Bool) : State :=
  if s.flag R.SPM_ERR_LOG 31 then s
  else
    let a := b.lane * 8
    let v := 2 ^ 31 + 2 ^ 30 * b2n scrub + 2 ^ 28 * spmKind b.mem + 2 ^ 25 * spmCore b.mem + 2 ^ 19 * spmBank b.mem a
      + spmWord b.mem a * 2 ^ 7 + a % 64 / 8 * 16 + b.pbits % 4 * 4
    ((s.setReg R.SPM_ERR_LOG (BitVec.ofNat 32 v)).irqRaise 44).logRec 5 [BitVec.ofNat 32 v]

/-- A refused access (R29, R419): counted and reported. -/
def State.spmRefuse (s : State) (agent part m g : Nat) : State :=
  let s := (s.bump R.SPM_PART_FAULT_CNT).report agent St.partitionFault part
  if s.granuleOwner m g = 0 && !s.inFill m g then s.notice Notice.p0Refused else s

/-- The bank words of [off, off + n) whose accesses do not take place (R419). -/
def State.spmRefused (s : State) (part : Nat) (full wr shared : Bool) (m off n : Nat) : List Nat :=
  (wordsIn off n).filter (fun k => !s.spmAllows part full wr shared m (64 * k / granuleSize m))

/-- Each refused access is counted and reported. -/
def State.spmRefuseAll (s : State) (agent part m : Nat) (ws : List Nat) : State :=
  ws.foldl (fun s k => s.spmRefuse agent part m (64 * k / granuleSize m)) s

/-- A read of [off, off + n): status and bytes, zeros where it is refused; a parity error returns its data with an integrity error (R419, R429). (DEDUCED, log 45) -/
def State.spmRead (s : State) (agent part : Nat) (full shared : Bool) (m off n : Nat) : State × Nat × List Byte :=
  match s.spmRefused part full false shared m off n with
  | [] =>
    match s.spmBadIn m off n with
    | [] => (s, St.done, s.spmBytes m off n)
    | b :: _ => ((s.bump R.SPM_PARITY_CNT).spmLog b false, St.integrity, s.spmBytes m off n)
  | no =>
    let bs := ((s.spmBytes m off n).zipIdx).map (fun e => if no.contains ((off + e.2) / 64) then 0 else e.1)
    let t := s.spmRefuseAll agent part m no
    match (s.spmBadIn m off n).filter (fun b => !no.contains (b.lane / 8)) with
    | [] => (t, St.partitionFault, bs)
    | b :: _ => ((t.bump R.SPM_PARITY_CNT).spmLog b false, St.partitionFault, bs)

/-- Bytes under refused accesses are dropped. -/
def dropRefused (no : List Nat) (off : Nat) (bs : List (Option Byte)) : List (Option Byte) :=
  (bs.zipIdx).map (fun e => if no.contains ((off + e.2) / 64) then none else e.1)

/-- A write of bytes from `off` on: status. -/
def State.spmWrite (s : State) (agent part : Nat) (full : Bool) (m off : Nat) (bs : List (Option Byte)) : State × Nat :=
  match s.spmRefused part full true false m off bs.length with
  | [] => (s.spmStore m off bs, St.done)
  | no => ((s.spmRefuseAll agent part m no).spmStore m off (dropRefused no off bs), St.partitionFault)

/-- An access of one bank word takes effect whole (R412): its answer. -/
def State.spmTake (s : State) (x : SpmAcc) : State × Reply :=
  match x.data with
  | none =>
    let (s, st, bs) := s.spmRead x.agent x.part x.full x.shared x.mem x.off x.len
    (s, if st = St.integrity then .integrityError else .bytes bs)
  | some bs =>
    let (s, st) := s.spmWrite x.agent x.part x.full x.mem x.off bs
    (s, if st = St.done then .nothing else .dropped)

/-- One access: it waits while a fill holds its banks and its granule is not named (R425); an offset beyond the memory answers a
bus error. (DEDUCED, log 45) -/
def State.spmAccess (s : State) (x : SpmAcc) : State :=
  if 24 < x.mem ∨ spmSize x.mem < x.off + x.len then s.answer .busError
  else
    let g := x.off / granuleSize x.mem
    if s.fillWaits x.mem g then { s with spm.waiting := s.spm.waiting ++ [x] }
    else
      let (s, r) := s.spmTake x
      s.answer r

/-- Every byte of a memory zero with good parity (R426). -/
def State.spmZeroMem (s : State) (m : Nat) : State :=
  { s.modSpm m (fun _ => []) with spm.bad := s.spm.bad.filter (·.mem != m) }

end Sys2Proof.Machine
end

