-- ==== Sys2Proof/Machine/TduOps.lean ====
section
/-! DEFINITION. Regions and tensor descriptors: fields, checks, addresses, out-of-bounds elements (10_tensor_descriptors.md R377 to R403). -/

namespace Sys2Proof.Machine

/-! ### Regions -/

abbrev RK.dram : Nat := 0
abbrev RK.peer : Nat := 1
abbrev RK.slot : Nat := 2
abbrev RK.am : Nat := 3
abbrev RK.wm : Nat := 4
abbrev RK.pm : Nat := 5
abbrev RK.ring : Nat := 6

def State.region? (s : State) (id : Nat) : Option Region := (s.tdu.regions.find? (fun e => e.1 == id)).map (·.2)

/-- The four staging words of a region (R378). -/
def Region.words (r : Region) : List Word :=
  let core := match r.mem with | some m => if 3 ≤ r.kind ∧ r.kind ≤ 5 then spmCore m else 0 | none => 0
  [BitVec.ofNat 32 r.base,
   BitVec.ofNat 32 (r.share % 16 * 2 ^ 20 + 2 ^ 19 * b2n r.writeOk + r.owner % 4 * 2 ^ 16 + 2 ^ 12 * core + r.kind % 16 * 256 + r.base / 2 ^ 32 % 256),
   BitVec.ofNat 32 r.size, BitVec.ofNat 32 (r.size / 2 ^ 32 % 256)]

/-- A region described by staging words. -/
def regionOf (ws : List Word) : Region :=
  ⟨bits (wd ws 1) 11 8, (wd ws 0).toNat + 2 ^ 32 * bits (wd ws 1) 7 0, (wd ws 2).toNat + 2 ^ 32 * bits (wd ws 3) 7 0,
   bits (wd ws 1) 17 16, bits (wd ws 1) 23 20, bit (wd ws 1) 19, none⟩

/-- The lowest region ID that is free; none when all 4,096 are in use. (DEDUCED, log 44) -/
def State.freeRegion (s : State) : Option Nat := (List.range 4096).find? (fun i => (s.region? i).isNone)

/-- TDU_REG_STATUS after a command (R406). -/
def State.regionStatus (s : State) (st : Nat) : State :=
  let n := s.tdu.regions.length
  s.setReg R.TDU_REG_STATUS (BitVec.ofNat 32 (2 ^ 24 * st + 2 ^ 13 * b2n (decide (4096 ≤ n)) + n % 4096 * 2))

/-- USED and FULL after a region came or went otherwise. -/
def State.regionUsed (s : State) : State := s.regionStatus (s.fld R.TDU_REG_STATUS 31 24)

def State.addRegion (s : State) (id : Nat) (r : Region) : State :=
  ({ s with tdu.regions := s.tdu.regions ++ [(id, r)] }).regionUsed
def State.dropRegion (s : State) (id : Nat) : State :=
  ({ s with tdu.regions := s.tdu.regions.filter (fun e => e.1 != id) }).regionUsed

/-- The size of the outbound peer window, 0xC0_0000_0000 to 0xFF_FFFF_FFFF of the host cores' map (R463, R379). -/
abbrev peerSize : Nat := 0x4000000000

/-- Whether the region may be read, or written, by partition `p` (R380, R381). -/
def Region.readable (r : Region) (p : Nat) : Bool := r.owner == p || bit (BitVec.ofNat 32 r.share) p
def Region.writable (r : Region) (p : Nat) : Bool := r.owner == p && r.writeOk

/-! ### Descriptors (R383, R384) -/

def Desc.region (d : Desc) : Nat := bits (wd d.words 0) 31 20
def Desc.elem (d : Desc) : Nat := bits (wd d.words 0) 19 16
def Desc.rank (d : Desc) : Nat := bits (wd d.words 0) 15 13
def Desc.layout (d : Desc) : Nat := bits (wd d.words 0) 12 10
def Desc.canWrite (d : Desc) : Bool := bit (wd d.words 0) 9
def Desc.accum (d : Desc) : Bool := bit (wd d.words 0) 8
def Desc.legacy (d : Desc) : Bool := bit (wd d.words 0) 7
def Desc.shard (d : Desc) : Bool := bit (wd d.words 0) 6
def Desc.offset (d : Desc) : Nat := (wd d.words 1).toNat + 2 ^ 32 * bits (wd d.words 2) 7 0
def Desc.companion (d : Desc) : Nat := bits (wd d.words 3) 31 16
def Desc.fill (d : Desc) : Word := wd d.words 4
def Desc.size (d : Desc) (k : Nat) : Nat := (wd d.words (5 + k)).toNat
def Desc.origin (d : Desc) (k : Nat) : Int := sext 32 (wd d.words (16 + k)).toNat
def Desc.gshape (d : Desc) (k : Nat) : Nat := (wd d.words (22 + k)).toNat

/-- Bits [39:32] of stride `k`, 1 to 5. -/
def Desc.strideHi (d : Desc) (k : Nat) : Nat :=
  if k ≤ 3 then bits (wd d.words 2) (8 * k + 7) (8 * k) else bits (wd d.words 3) (8 * (k - 4) + 7) (8 * (k - 4))

/-- Stride `k`, 1 to 5: a signed 40-bit byte count. -/
def Desc.stride (d : Desc) (k : Nat) : Int := sext 40 (2 ^ 32 * d.strideHi k + (wd d.words (10 + k)).toNat)

/-- Element types (R331). -/
abbrev El.int8 : Nat := 0
abbrev El.uint8 : Nat := 1
abbrev El.int16 : Nat := 2
abbrev El.uint16 : Nat := 3
abbrev El.int32 : Nat := 4
abbrev El.int4 : Nat := 5
abbrev El.e4m3 : Nat := 6
abbrev El.e5m2 : Nat := 7
abbrev El.se8 : Nat := 8
abbrev El.bf16 : Nat := 9
abbrev El.fp16 : Nat := 10
abbrev El.fp32 : Nat := 11

/-- Bits of an element. -/
def elemBits (e : Nat) : Nat :=
  if e = El.int4 then 4 else if e = 2 ∨ e = 3 ∨ e = 9 ∨ e = 10 then 16 else if e = 4 ∨ e = 11 then 32 else 8

/-- The element size in bytes; 1 for INT4, whose elements are half a byte (R384, R386). -/
def elemSize (e : Nat) : Nat := (elemBits e + 7) / 8

/-- The stride of dimension 0 and the bytes of its run (R384, R388). -/
def Desc.stride0 (d : Desc) : Nat := elemSize d.elem
def Desc.run0 (d : Desc) : Nat := if d.elem = El.int4 then ceilDiv (d.size 0) 2 else d.size 0 * elemSize d.elem

/-- Dimensions 1 to RANK − 1. -/
def Desc.outer (d : Desc) : List Nat := (List.range d.rank).drop 1

/-- Dimensions of the contiguous run (R386): dimension 0 and every following one whose stride is the bytes before it. -/
def Desc.contiguous (d : Desc) : Nat := go d.run0 1 (d.rank - 1)
where
  go (span k : Nat) : Nat → Nat
    | 0 => k
    | n + 1 => if d.stride k = (span : Int) then go (span * d.size k) (k + 1) n else k

/-- The reach of a descriptor over the dimensions `ds` (R389): lowest and highest byte. -/
def Desc.reachOver (d : Desc) (ds : List Nat) : Int × Int :=
  let span (k : Nat) : Int := ((d.size k : Int) - 1) * d.stride k
  ((d.offset : Int) + (ds.map (fun k => min 0 (span k))).sum,
   (d.offset : Int) + (ds.map (fun k => max 0 (span k))).sum + (d.run0 : Int) - 1)
def Desc.reach (d : Desc) : Int × Int := d.reachOver d.outer

/-- The sort of R388: by |stride|, ascending. -/
def sortStrides : List (Nat × Nat) → List (Nat × Nat)
  | [] => []
  | x :: t => ins x (sortStrides t)
where
  ins (x : Nat × Nat) : List (Nat × Nat) → List (Nat × Nat)
    | [] => [x]
    | y :: t => if x.1 ≤ y.1 then x :: y :: t else y :: ins x t

/-- The test of R388: no two indices of a writable descriptor reach one address. The answer names the dimension that fails. -/
def Desc.aliasDim (d : Desc) : Option Nat :=
  let d0 := if d.elem = El.int4 then (1, ceilDiv (d.size 0) 2) else (elemSize d.elem, d.size 0)
  let dims := (List.range d.rank).filter (fun k =>
    decide (1 < d.size k) && !(d.accum && k != 0 && d.stride k == 0))
  let entries := dims.map (fun k => (if k = 0 then d0.1 else (d.stride k).natAbs, k))
  let step (acc : Nat × Option Nat) (e : Nat × Nat) : Nat × Option Nat :=
    match acc.2 with
    | some k => (acc.1, some k)
    | none =>
      if e.1 < acc.1 + elemSize d.elem then (acc.1, some e.2)
      else (acc.1 + ((if e.2 = 0 then d0.2 else d.size e.2) - 1) * e.1, none)
  -- the first entry meets a span of 0 and needs only its own element size
  ((sortStrides entries).foldl step (0, none)).2

/-! ### Handles (R381, R382) -/

def State.table (s : State) (p : Nat) : HandleTable := s.tdu.tables.getD p ⟨[], 0, []⟩
def State.setTable (s : State) (p : Nat) (t : HandleTable) : State := { s with tdu.tables := setAt s.tdu.tables p t }

/-- The descriptor a handle names in the table of partition `p`; none for a stale or reserved handle. -/
def State.desc? (s : State) (p h : Nat) : Option Desc := ((s.table p).used.find? (fun e => e.1 == h)).map (·.2)

/-- The entry a create takes. (DEDUCED, log 44) -/
def HandleTable.head (t : HandleTable) : Option Nat := if t.fresh < 16384 then some t.fresh else t.freed.head?

/-- A descriptor pinned, or unpinned, by one operation (R392). -/
def State.pinBy (s : State) (p h : Nat) (f : Nat → Nat) : State :=
  s.setTable p { s.table p with used := (s.table p).used.map (fun e => if e.1 = h then (h, { e.2 with pins := f e.2.pins }) else e) }
def State.pin (s : State) (p h : Nat) : State := s.pinBy p h (· + 1)
def State.unpin (s : State) (p h : Nat) : State := s.pinBy p h (· - 1)

/-! ### The checks of a create (R391) -/

/-- The companion of an SE8 descriptor breaks R390, or a descriptor of another type names one: the dimension concerned, or 15. -/
def State.badCompanion (s : State) (p : Nat) (d : Desc) : Option Nat :=
  if d.elem = El.se8 then
    match s.desc? p d.companion with
    | none => some 15
    | some c =>
      if c.elem ≠ El.uint8 ∨ c.layout ≠ 0 ∨ c.rank ≠ d.rank ∨ c.canWrite ≠ d.canWrite then some 15
      else ((List.range 6).find? (fun k => c.size k != (if k = 0 then d.size 0 / 16 else d.size k)))
  else if d.companion ≠ 0xFFFF then some 15 else none

/-- Size and layout rules of row 1: the dimension concerned, or 15. -/
def State.row1 (s : State) (p : Nat) (d : Desc) : Option Nat :=
  let w0 := wd d.words 0
  let dims := List.range 6
  if bits w0 5 0 ≠ 0 ∨ 11 < d.elem ∨ 4 < d.layout ∨ (d.shard ∧ (List.range 4).any (fun k => wd d.words (28 + k) != 0)) then some 15
  else if d.rank = 0 ∨ 6 < d.rank then some 15
  else if d.elem ≠ El.se8 ∧ elemBits d.elem < 32 ∧ 2 ^ elemBits d.elem ≤ d.fill.toNat then some 15
  else if d.elem = El.se8 ∧ 2 ^ 16 ≤ d.fill.toNat then some 15
  else match dims.find? (fun k => decide (d.size k = 0)) with
  | some k => some k
  | none =>
    match (dims.drop d.rank).find? (fun k => decide (d.size k ≠ 1) || (k != 0 && d.stride k != 0)) with
    | some k => some k
    | none =>
      if (d.elem = El.int4 ∧ d.size 0 % 2 = 1) ∨ (d.elem = El.se8 ∧ d.size 0 % 16 ≠ 0) then some 0
      else match s.badCompanion p d with
      | some k => some k
      | none =>
      if (d.layout = 1 ∧ d.rank < 3) ∨ (d.layout = 4 ∧ d.rank < 2) then some 15
      else if (d.layout = 2 ∨ d.layout = 3) ∧ d.rank < 2 then some 15
      else if (d.layout = 2 ∧ d.size 0 ≠ 16) ∨ (d.layout = 3 ∧ d.size 0 ≠ 64) then some 0
      else none

/-- Row 3: the stride rules of R387 and the test of R388. -/
def Desc.row3 (d : Desc) : Option Nat :=
  if !d.canWrite then (if d.accum then some 15 else none)
  else
    match d.outer.find? (fun k => decide (1 < d.size k) && d.stride k == 0 && !d.accum) with
    | some k => some k
    | none => d.aliasDim

/-- Row 4: alignment (R386). -/
def Desc.row4 (d : Desc) (base : Nat) : Option Nat :=
  if d.legacy then
    let e : Int := if d.elem = El.int4 ∨ d.elem = El.se8 then 1 else elemSize d.elem
    if ((base + d.offset : Nat) : Int) % e ≠ 0 then some 15 else d.outer.find? (fun k => d.stride k % e != 0)
  else if (base + d.offset) % 64 ≠ 0 then some 15
  else ((List.range d.rank).drop d.contiguous).find? (fun k => d.stride k % 64 != 0)

/-- Bytes of a ring slot of the region's ring: the smallest slot is 1 KiB; a region that is no ring has none (R153, R389). -/
def State.ringSlotBytes (s : State) (id : Nat) : Option Nat :=
  s.fgs.graphs.findSome? (fun g => (g.ringRegions.zip g.rings).findSome? (fun e => if e.1 = id then some (1024 * e.2.slotKib) else none))

/-- Row 5: the reach (R389); for a ring the reach of one row in its slot. -/
def State.row5 (s : State) (d : Desc) (r : Region) : Option Nat :=
  if r.kind = RK.ring then
    let rowDim := d.rank - 1
    let (lo, hi) : Int × Int := if rowDim = 0 then (0, (d.stride0 : Int) - 1) else d.reachOver ((List.range rowDim).drop 1)
    if d.offset ≠ 0 then some 15
    else if rowDim ≠ 0 ∧ d.stride rowDim < 0 then some rowDim
    else if lo < 0 ∨ ((s.ringSlotBytes d.region).getD 0 : Int) ≤ hi then some 15
    else none
  else
    let (lo, hi) := d.reach
    if lo < 0 ∨ (r.size : Int) ≤ hi then some 15 else none

/-- Row 7: the shard extension (R401, R402). -/
def Desc.row7 (d : Desc) : Option Nat :=
  if !d.shard then none
  else if d.layout ≠ 0 then some 15
  else (List.range 6).find? (fun k =>
    if k < d.rank then decide (d.origin k < 0) || decide ((d.gshape k : Int) < d.origin k + d.size k)
    else d.origin k != 0 || d.gshape k != 1)

/-- The first failing check of a create by `ag` in partition `p`: row, dimension, status (R391). -/
def State.createCheck (s : State) (ag : Agent) (p : Nat) (d : Desc) : Option (Nat × Nat × Nat) :=
  match s.row1 p d with
  | some k => some (1, k, St.descInvalid)
  | none =>
    match s.region? d.region with
    | none => some (2, 15, St.descInvalid)
    | some r =>
      match d.row3 with
      | some k => some (3, k, St.descInvalid)
      | none =>
        match d.row4 r.base with
        | some k => some (4, k, St.alignFault)
        | none =>
          match s.row5 d r with
          | some k => some (5, k, St.rangeFault)
          | none =>
            if !r.readable p || (d.canWrite && !r.writable p) || (s.locked && decide (p ≤ 1) && ag != .safety) then
              some (6, 15, St.partitionFault)
            else
              match d.row7 with
              | some k => some (7, k, St.descInvalid)
              | none => if (s.table p).head.isNone then some (8, 15, St.busy) else none

/-! ### Out of bounds (R395) -/

/-- `n` out-of-bounds elements of an operation of partition `p`, the first with its handle, dimension and index. -/
def State.oob (s : State) (p : Nat) (wr : Bool) (n : Nat) (h dim : Nat) (idx : Int) (global : Bool) : State :=
  if n = 0 then s
  else
    let s := s.bumpN (if wr then R.TDU_OOB_WRITE_CNT p else R.TDU_OOB_READ_CNT p) n
    if s.flag (R.TDU_OOB_LOG p) 31 then s
    else
      (s.setReg (R.TDU_OOB_LOG p) (BitVec.ofNat 32 (2 ^ 31 + 2 ^ 30 * b2n wr + 2 ^ 29 * b2n global + dim % 8 * 2 ^ 26 + h % 65536))).setReg
        (R.TDU_OOB_INDEX p) (BitVec.ofNat 32 (unsext 32 idx))

/-! ### Where operands lie (R236, R437) -/

/-- Where a descriptor's elements lie: memory (0 DRAM, 1 peer, 2 + m scratchpad m), first and last byte. (DEDUCED, log 83) -/
def State.span (s : State) (p h : Nat) : Option (Nat × Int × Int) :=
  match s.desc? p h with
  | none => none
  | some d => match s.region? d.region with
    | none => none
    | some r =>
      if r.kind = RK.ring then none
      else
        let m := match r.mem with | some m => 2 + m | none => r.kind
        some (m, (r.base : Int) + d.reach.1, (r.base : Int) + d.reach.2)

/-- Whether two spans meet. -/
def spansMeet (a b : Option (Nat × Int × Int)) : Bool :=
  match a, b with
  | some (m, l, h), some (n, l', h') => m == n && decide (l ≤ h') && decide (l' ≤ h)
  | _, _ => false

end Sys2Proof.Machine
end

