-- ==== Sys2Proof/Machine/HtsOps.lean ====
section
/-! DEFINITION. The task scheduler (05_task_scheduler.md): entries and handles, event flags, ready lists, time windows, the delay
list, host cores and the crumb trail, as every other block reaches them. -/

namespace Sys2Proof.Machine

/-! ### Entries (R196 to R198) -/

def State.setTask (s : State) (i : Nat) (t : Task) : State :=
  { s with hts.tasks := Store.put (fun _ => Task.freeOf 1) i t s.hts.tasks }

def State.modTask (s : State) (i : Nat) (f : Task → Task) : State := s.setTask i (f (s.task i))

/-- Entries a partition holds (R196). -/
def State.quotaUsed (s : State) (p : Nat) : Nat := (s.hts.tasks.filter (fun e => e.2.state != .free && e.2.part == p)).length

/-- Free entries of a partition's quota. -/
def State.quotaLeft (s : State) (p : Nat) : Nat := s.fld (R.HTS_QUOTA p) 13 0 - s.quotaUsed p

/-- The entry at the head of the free list: first the entries never used, in ascending order, then those released (R197). -/
def State.freeHead (s : State) : Option Nat := if s.hts.fresh < 8192 then some s.hts.fresh else s.hts.freed.head?

/-- The head of the free list taken with the fields of `t` (its generation stays the entry's). -/
def State.allocTask (s : State) (t : Task) : State × Option Nat :=
  match s.freeHead with
  | none => (s, none)
  | some i =>
    let s := if s.hts.fresh < 8192 then { s with hts.fresh := s.hts.fresh + 1 } else { s with hts.freed := s.hts.freed.drop 1 }
    (s.setTask i { t with gen := (s.task i).gen, state := .posting }, some i)

/-- The handle of an entry (R197). -/
def State.handle (s : State) (i : Nat) : Word := BitVec.ofNat 32 (2 ^ 24 * (s.task i).gen + i)

/-- The entry a handle names, unless it is stale (R197, R200). -/
def State.named (s : State) (h : Word) : Option Nat :=
  if bits h 23 13 = 0 ∧ bits h 31 24 ≠ 0 ∧ (s.task (bits h 12 0)).gen = bits h 31 24 ∧ (s.task (bits h 12 0)).state ≠ .free then
    some (bits h 12 0) else none

/-- DONE → FREE: the generation advances and the entry joins the tail of the free list (R197, R198). -/
def State.releaseTask (s : State) (i : Nat) : State :=
  let g := (s.task i).gen
  { s.setTask i (Task.freeOf (if g = 255 then 1 else g + 1)) with hts.freed := s.hts.freed ++ [i] }

/-- The priority level a posted level gives (R202). -/
def floorLevel (part level : Nat) : Nat := if 2 ≤ part then max level 16 else level

/-! ### Crumb trail (R225, R226, R637) -/

/-- PMC_CT_SIZE holds a usable size: a power of two (R637). -/
def State.ctSizeOk (s : State) : Bool :=
  let z := (s.reg R.PMC_CT_SIZE).toNat
  isPow2 z && decide (256 ≤ z) && decide (z ≤ 16777216)

/-- A decision is recorded when the filter selects it; a full buffer of 256 drops the record (R226, R637). -/
def State.crumb (s : State) (kind part level cls agent detail : Nat) (task : Word) : State :=
  if s.flag R.PMC_CT_CTRL 0 && s.ctSizeOk && bit (s.reg R.HTS_CT_FILTER) (16 + (kind - 1)) && bit (s.reg R.HTS_CT_FILTER) part
      && decide (level ≤ s.fld R.HTS_CT_FILTER 9 4) then
    if 256 ≤ s.pmc.crumbs.length then (s.incReg R.PMC_CT_DROP_CNT 1).count 841 1
    else
      let w0 := BitVec.ofNat 32 (2 ^ 28 * kind + part % 4 * 2 ^ 26 + level % 64 * 2 ^ 20 + cls % 16 * 2 ^ 16 + agent % 256 * 256 + detail % 256)
      { s with pmc.crumbs := s.pmc.crumbs ++ [[w0, task, BitVec.ofNat 32 s.devNow, BitVec.ofNat 32 (s.devNow / 2 ^ 32)]] }
  else s

/-- The same for a task. -/
def State.crumbTask (s : State) (kind i agent detail : Nat) : State :=
  let t := s.task i
  s.crumb kind t.part t.level t.cls agent detail (s.handle i)

/-! ### Workers (R151, R203) -/

/-- The EMIT unit stands under the sequencer's agent ID, the taster under the island's (R46, R526). -/
abbrev emitUnit : Nat := 0x38
abbrev tasterUnit : Nat := 0x3D

/-- The home partition a host core runs in (R461). -/
def State.homeOf (s : State) (n : Nat) : Nat := s.host.home.getD n 3

/-- Engines with one state bank per partition (R291, R327, R368): OFE, SGE, FTE and the neural cores. -/
def bankedEngine (id : Nat) : Bool := decide (0x26 ≤ id ∧ id ≤ 0x29) || decide (0x10 ≤ id ∧ id ≤ 0x17)

/-- A yielded job resumes only on the instance that holds its bank, and that instance takes no other task of its partition (R291,
R292). -/
def State.bankOk (s : State) (id : Nat) (t : Task) : Bool :=
  match t.bank with
  | some b => !bankedEngine b || b == id
  | none => !(bankedEngine id && s.hts.tasks.any (fun e => e.2.state == .ready && e.2.bank == some id && e.2.part == t.part))

/-- Whether worker `id` serves the class and instance of a task of partition `part` (R151, R203, R292, R461). -/
def State.servesTask (s : State) (id : Nat) (t : Task) : Bool :=
  let any := t.inst == 15
  s.bankOk id t &&
  if id ≤ 7 then
    (t.inst == id || any) && s.homeOf id == t.part
      && ((t.cls == 9 && s.flag (R.HTS_HC_CFG id) 4) || (decide (13 ≤ t.cls ∧ t.cls ≤ 15) && s.flag (R.HTS_HC_CFG id) (5 + (t.cls - 13))))
  else if 0x10 ≤ id ∧ id ≤ 0x17 then
    let n := id - 0x10
    (t.cls == (if n < 4 then 6 else 7) && (t.inst == n || t.inst == (if n < 4 then 8 else 9))) || (t.cls == 8 && any)
  else if id = 0x20 ∨ id = 0x21 then t.cls == 0
  else if id = 0x22 ∨ id = 0x23 then t.cls == 1 && (t.inst == id - 0x22 || any)
  else if id = 0x24 ∨ id = 0x25 then t.cls == 2 && (t.inst == id - 0x24 || any)
  else if id = 0x26 ∨ id = 0x27 then t.cls == 3 && (t.inst == id - 0x26 || any)
  else if id = 0x28 then t.cls == 4
  else if id = 0x29 then t.cls == 5
  else if 0x30 ≤ id ∧ id ≤ 0x33 then t.cls == 10 && t.part == id - 0x30
  else if id = tasterUnit then t.cls == 11
  else if id = emitUnit then t.cls == 12
  else false

/-- Every worker. -/
def workers : List Nat :=
  (List.range 8) ++ (List.range 8).map (0x10 + ·) ++ [0x20, 0x21, 0x22, 0x23, 0x24, 0x25, 0x26, 0x27, 0x28, 0x29,
    0x30, 0x31, 0x32, 0x33, tasterUnit, emitUnit]

/-- The window table of an engine (R205): 0 ISP, 1 PGE, 2 WPE, 3 OFE, 4 SGE, 5 FTE, 6 NE_W, 7 NE_E. -/
def tableOf (id : Nat) : Option Nat :=
  if id = 0x20 ∨ id = 0x21 then some 0 else if id = 0x22 ∨ id = 0x23 then some 1 else if id = 0x24 ∨ id = 0x25 then some 2
  else if id = 0x26 ∨ id = 0x27 then some 3 else if id = 0x28 then some 4 else if id = 0x29 then some 5
  else if 0x10 ≤ id ∧ id ≤ 0x13 then some 6 else if 0x14 ≤ id ∧ id ≤ 0x17 then some 7 else none

/-- The valid entries of table `t` in order: partition and length in ns; entries after the first invalid one are ignored. -/
def State.windows (s : State) (t : Nat) : List (Nat × Nat) :=
  ((List.range 8).takeWhile (fun e => s.flag (R.HTS_WIN t e) 31)).map
    (fun e => (s.fld (R.HTS_WIN t e) 29 28, 10000 * s.fld (R.HTS_WIN t e) 16 0))

/-- The major cycle in ns (R205). -/
def State.majorNs (s : State) : Nat := 1000000 * s.fld R.HTS_MAJOR_CYCLE 9 0

/-- The partition of the window that holds an offset in the cycle; none in unreserved time. -/
def windowAt : List (Nat × Nat) → Nat → Option Nat
  | [], _ => none
  | (p, l) :: t, x => if x < l then some p else windowAt t (x - l)

/-- The partition whose window is open on table `t` now (R205). -/
def State.openWindow (s : State) (t : Nat) : Option Nat :=
  if s.majorNs = 0 then none else windowAt (s.windows t) (s.now % s.majorNs)

/-- The partition whose window is open for an engine now. -/
def State.windowOf (s : State) (id : Nat) : Option Nat := (tableOf id).bind s.openWindow

/-- The first of the lowest level among READY tasks, in READY order (R203). (DEDUCED, log 38) -/
def State.bestOf (s : State) (l : List Nat) : Option Nat :=
  l.foldl (fun b i => match b with
    | none => some i
    | some j => if (s.task i).level < (s.task j).level then some i else some j) none

/-- The register that holds ENABLE of an engine's control register; none for a worker without one. -/
def ctrlOf (id : Nat) : Option Nat :=
  if id = 0x20 ∨ id = 0x21 then some (R.ISP_CTRL (id - 0x20))
  else if 0x22 ≤ id ∧ id ≤ 0x29 then some (R.ENG_CTRL (id - 0x22))
  else if 0x10 ≤ id ∧ id ≤ 0x17 then some (R.NC_CTRL (id - 0x10))
  else none

/-- A neural core with a granule being filled takes no task (R425). -/
def State.coreFills (s : State) (id : Nat) : Bool :=
  decide (0x10 ≤ id ∧ id ≤ 0x17) && s.spm.fill.any (fun f => decide (f.mem < 24) && f.mem / 3 == id - 0x10)

/-- ENABLE of the engine lets it take the task; a yielded job resumes whatever ENABLE says (R292). -/
def State.mayTake (s : State) (id : Nat) (t : Task) : Bool :=
  s.servesTask id t && !s.coreFills id && ((match ctrlOf id with | some r => s.flag r 0 | none => true) || (bankedEngine id && t.bank == some id))

/-- The task a free worker takes (R203, R206): in a window of p a task of p first. (DEDUCED, log 38) -/
def State.selectFor (s : State) (id : Nat) : Option Nat :=
  let l := s.hts.ready.filter (fun i => s.mayTake id (s.task i))
  match s.windowOf id with
  | some p =>
    match s.bestOf (l.filter (fun i => (s.task i).part == p)) with
    | some i => some i
    | none => s.bestOf l
  | none => s.bestOf l

/-- A worker that has no task. -/
def State.workerFree (s : State) (id : Nat) : Bool :=
  (if 0x30 ≤ id ∧ id ≤ 0x33 then (s.taskChan (id - 0x30)).isSome
        else if id = emitUnit then true
        else (s.runningOn id).isNone)

/-! ### Yield requests and pre-emption (R207, R216) -/

def IspStream.reset : IspStream := ⟨none, none, [], none⟩
def State.ispStream (s : State) (st : Nat) : IspStream := Store.get (fun _ => IspStream.reset) s.isp.streams st

/-- Word `w` of the installed context of a stream (R122). -/
def State.ctxWord (s : State) (ctx w : Nat) : Word := wordAt (s.dramBytes (ctx + 4 * w) 4) 0

/-- Stream and ring slot of the frame a node argument names (R168). -/
def Task.frame (t : Task) : Option (Nat × Nat) :=
  if bit (wd t.args 2) 31 then some (bits (wd t.args 1) 25 16, bits (wd t.args 2) 2 0) else none

/-- A queued frame may be started (R126, R127): it has closed, or EARLY_START = 1 and 64 active rows from row 0 have landed, or it
yielded. A task that names no frame may be taken at once, to be refused (R670). (DESIGN CHOICE, log 29) -/
def State.startable (s : State) (i : Nat) : Bool :=
  s.isp.frames.any (·.task == i) ||
  match (s.task i).frame with
  | none => true
  | some (st, k) =>
    let x := s.stream st
    (x.slot k).state != .landing ||
    (match (s.ispStream st).ctx, x.openF with
     | some c, some f => bit (s.ctxWord c 0) 19 && f.slot == k && (List.range 64).all (fun r => f.active.contains r)
     | _, _ => false)

/-- READY tasks that wait for an engine: those on the ready lists and the startable frames of the ISP frame queue (R130, R204). (DEDUCED, log 38) -/
def State.readyAll (s : State) : List Nat :=
  s.isp.queue.filter s.startable ++ s.hts.ready.filter (fun i => (s.task i).cls != 0)

/-- The frame of task `i` leaves its instance, which releases its own hold (R128). -/
def State.ispDrop (s : State) (i : Nat) : State :=
  match s.isp.frames.find? (·.task == i) with
  | none => s
  | some f =>
    let s := { s with isp.frames := s.isp.frames.filter (·.task != i) }
    if f.held then s.releaseSlot f.stream f.slot else s

/-- The key a queued frame is chosen by (R126): deadline, partition, stream priority, place in the queue, stream. -/
def State.ispKey (s : State) (i : Nat) : List Nat :=
  let t := s.task i
  match t.frame with
  | none => [0, t.part, 0]
  | some (st, k) =>
    let x := s.stream st
    let ctx := match s.isp.frames.find? (·.task == i) with | some f => some f.ctx | none => (s.ispStream st).ctx
    let us := match ctx with | some c => (s.ctxWord c 1).toNat | none => 0
    [(x.slot k).fsTime + 1000 * us, t.part, x.priority]

/-- Lexicographic order. -/
def lexLt : List Nat → List Nat → Bool
  | a :: s, b :: t => decide (a < b) || (a == b && lexLt s t)
  | _, _ => false

/-- The queued frame a free instance takes (R126). -/
def State.ispSelect (s : State) (n : Nat) : Option Nat :=
  let id := 0x20 + n
  let l := s.isp.queue.filter (fun i => s.startable i && s.mayTake id (s.task i))
  let first (l : List Nat) : Option Nat := l.foldl (fun b i => match b with
    | none => some i
    | some k => if lexLt (s.ispKey i) (s.ispKey k) then some i else some k) none
  match s.windowOf id with
  | some p =>
    match first (l.filter (fun i => (s.task i).part == p)) with
    | some i => some i
    | none => first l
  | none => first l

/-- Engine `w` is free, powered, and takes task `i` next: nothing has to yield for it. (DEDUCED, log 38) -/
def State.takesNow (s : State) (w i : Nat) : Bool :=
  s.workerFree w && s.flag R.HTS_CTRL 0 && s.domState (domainOf w) == Dom.on
    && (if w = 0x20 ∨ w = 0x21 then s.ispSelect (w - 0x20) == some i else s.selectFor w == some i)

/-- One engine is asked to yield for each READY task of an open window's partition that no free engine takes now; tasks that name an
instance first (R207). `claimed` holds the engines already spoken for. -/
def State.askList (s : State) : List Nat → List Nat → State
  | [], _ => s
  | i :: t, claimed =>
    let tk := s.task i
    let cand := workers.filter (fun w => (tableOf w).isSome && s.mayTake w tk && !claimed.contains w)
    match cand.find? (fun w => s.takesNow w i) with
    | some w => s.askList t (w :: claimed)
    | none =>
      let run := cand.filter (fun w => s.windowOf w == some tk.part
        && (match s.runningOn w with | some j => (s.task j).part != tk.part | none => false))
      let asked (w : Nat) : Bool := match s.runningOn w with | some j => (s.task j).yieldAsked | none => false
      match run.find? asked with
      | some w => s.askList t (w :: claimed)
      | none =>
        match run with
        | [] => s.askList t claimed
        | w :: _ =>
          match s.runningOn w with
          | some j => State.askList (s.modTask j (fun x => { x with yieldAsked := true, yieldLevel := tk.level })) t (w :: claimed)
          | none => s.askList t claimed

/-- The scheduler's yield requests brought up to date (R207). -/
def State.askYields (s : State) : State :=
  let l := s.readyAll.filter (fun i => decide ((s.task i).cls ≤ 8))
  let tgt := l.filter (fun i => decide ((s.task i).inst ≤ 7))
  s.askList (tgt ++ l.filter (fun i => !decide ((s.task i).inst ≤ 7))) []

/-- Host core `n` is in TAKE mode (R214). -/
def State.takeMode (s : State) (n : Nat) : Bool := s.flag (R.HTS_HC_CFG n) 0

def State.hcs (s : State) (n : Nat) : HcSched := s.hts.hcs.getD n ⟨none, none⟩

def State.setHcs (s : State) (n : Nat) (h : HcSched) : State := { s with hts.hcs := setAt s.hts.hcs n h }

/-- PREEMPT_PENDING of core `n` brought up to date: set, with the scheduler interrupt, while a READY task of a lower level than
the RUNNING one waits for a core in INTERRUPT mode (R216). -/
def State.checkPreempt (s : State) (n : Nat) : State :=
  if s.takeMode n then s
  else
    match s.runningOn n with
    | none => if (s.hcs n).preempt.isSome then s.setHcs n { s.hcs n with preempt := none } else s
    | some r =>
      match s.selectFor n with
      | some i =>
        if (s.task i).level < (s.task r).level then
          let s := if (s.hcs n).preempt.isNone then s.irqRaise (n + 1) else s
          s.setHcs n { s.hcs n with preempt := some i }
        else s.setHcs n { s.hcs n with preempt := none }
      | none => s.setHcs n { s.hcs n with preempt := none }

def State.checkPreempts (s : State) : State := (List.range 8).foldl (fun s n => s.checkPreempt n) s

/-! ### Event flags (R199 to R201) -/

/-- The flag word of group `g`, and its owner (R201). -/
def State.groupFlags (s : State) (g : Nat) : Word := s.reg (R.HTS_GROUP_FLAGS g)
def State.groupPart (s : State) (g : Nat) : Nat := bits (s.reg (R.HTS_GROUP_PART (g / 16))) (2 * (g % 16) + 1) (2 * (g % 16))

/-- Whether a task's mask is satisfied (R199) when its group's word is `w`. -/
def Task.satisfiedBy (t : Task) (w : Word) : Bool :=
  let f := t.flags ||| w
  if t.modeAny then f &&& t.mask != 0 else f &&& t.mask == t.mask

/-- Whether a task's mask is satisfied (R199). -/
def State.satisfied (s : State) (t : Task) : Bool := t.satisfiedBy (match t.group with | some g => s.groupFlags g | none => 0)

/-- A task becomes READY (R198): it joins the tail of its list, leaves the delay list, and wakes every domain that has an engine
for it (R578). -/
def State.makeReady (s : State) (i poster : Nat) (timedOut : Bool) : State :=
  let s := s.modTask i (fun t => { t with state := .ready, timedOut := timedOut, worker := none })
  let s := { s with hts.ready := s.hts.ready ++ [i], hts.delays := s.hts.delays.filter (·.idx != i) }
  let s := s.crumbTask 1 i poster (b2n timedOut)
  let s := (workers.filter (fun w => s.servesTask w (s.task i))).foldl (fun s w => (s.wakeDomain (domainOf w)).domBusy (domainOf w)) s
  (s.askYields).checkPreempts

/-- A WAITING task is judged (R199); a DELAYED one keeps its flags until its delay ends (R211). -/
def State.judge (s : State) (i poster : Nat) : State :=
  let t := s.task i
  if t.state == .waiting && s.satisfied t then s.makeReady i poster false else s

/-- Flags ORed into a POSTING, WAITING or DELAYED task (R200); a later state counts a late event. -/
def State.eventTask (s : State) (i : Nat) (flags : Word) (poster : Nat) : State :=
  let t := s.task i
  if t.state == .posting || t.state == .waiting || t.state == .delayed then
    (s.modTask i (fun t => { t with flags := t.flags ||| flags })).judge i poster
  else s.bump R.HTS_LATE_EVENT_CNT

/-- Flags ORed into a group (R201): every WAITING or DELAYED task bound to it is evaluated with the word as it then stands, before any clear
of the same NOC_CLK cycle, and an EVENT channel that watches it fires (R441). A DELAYED task that the word satisfies keeps it. -/
def State.eventGroup (s : State) (g : Nat) (flags : Word) (poster : Nat) : State :=
  let x := s.groupCycle g
  let w := x.1 ||| flags
  let s := (s.groupNote g (w, x.2 ||| flags)).setReg (R.HTS_GROUP_FLAGS g) (s.groupFlags g ||| flags)
  let bound := (s.hts.tasks.filter (fun e => e.2.group == some g && (e.2.state == .waiting || e.2.state == .delayed))).map (·.1)
  let s := bound.foldl (fun s i =>
    let t := s.task i
    if !t.satisfiedBy w then s
    else if t.state == .delayed then s.modTask i (fun t => { t with flags := t.flags ||| w })
    else if t.state == .waiting then s.makeReady i poster false
    else s) s
  s.dmaEvent g

/-- An event to a target word by an agent of partition `part`; the SMC and the island are exempt from the partition rule
(R197, R200, R201). -/
def State.deliverEvent (s : State) (target flags : Word) (agent part : Nat) (exempt : Bool) : State :=
  if bit target 23 then
    if bits target 31 24 ≠ 0 ∨ bits target 22 8 ≠ 0 then s.bump R.HTS_STALE_EVENT_CNT
    else
      let g := bits target 7 0
      if exempt || s.groupPart g == part then s.eventGroup g flags agent
      else
        let s := s.report agent St.partitionFault part
        if s.groupPart g = 0 then s.notice Notice.p0Refused else s
  else if bits target 22 13 ≠ 0 then s.bump R.HTS_STALE_EVENT_CNT
  else
    match s.named target with
    | none => s.bump R.HTS_STALE_EVENT_CNT
    | some i =>
      if exempt || (s.task i).part == part then s.eventTask i flags agent
      else
        let s := s.report agent St.partitionFault part
        if (s.task i).part = 0 then s.notice Notice.p0Refused else s

/-! ### The post queue (R198, R209, R223) -/

/-- The post queue holds 512 posts; a hardware post beyond them is held in order until there is space. -/
abbrev postqSize : Nat := 512

def State.postqFull (s : State) : Bool := decide (postqSize ≤ s.hts.postq.length)

/-- A post is accepted into the queue (R227). -/
def State.enqueue (s : State) (q : QPost) : State :=
  State.bump { s with hts.postq := s.hts.postq ++ [q] } R.HTS_POSTS_CNT

/-- The post of task entry `i`. -/
def State.taskPost (s : State) (i : Nat) : QPost := .task i (s.task i).gen

/-- A post of hardware agent `agent` of partition `part`, at the level and class of its task: held when the queue is full (R223). (DEDUCED, log 37) -/
def State.hwPost (s : State) (q : QPost) (agent part level cls : Nat) : State :=
  let s := if s.postqFull then s.crumb 6 part level cls agent 1 0 else s
  s.enqueue q

/-- A task enters WAITING, on the delay list when it has a timeout (R198). -/
def State.enterWaiting (s : State) (i : Nat) : State :=
  let s := s.modTask i (fun t => { t with state := .waiting })
  let t := s.task i
  let s := s.crumbTask 5 i t.poster 0
  if t.timeout = 0 then s else { s with hts.delays := s.hts.delays ++ [⟨i, true, t.timeout⟩] }

/-- The post of a task is taken from the queue (R198, R209): it is DELAYED, READY or WAITING. The post of an entry that has been aborted or
given to another task does nothing. (DEDUCED, log 37) -/
def State.takeTaskPost (s : State) (i gen : Nat) : State :=
  let t := s.task i
  if t.state != .posting || t.gen != gen then s
  else if t.delay ≠ 0 then
    let s := s.modTask i (fun t => { t with state := .delayed })
    State.crumbTask { s with hts.delays := s.hts.delays ++ [⟨i, false, t.delay⟩] } 5 i t.poster 1
  else if s.satisfied t then s.makeReady i 0x39 false
  else s.enterWaiting i

/-! ### Running, yielding, committing (R198, R203, R216) -/

/-- The task becomes RUNNING on a worker: the decision record of R225 says whether the time was reclaimed or unreserved. -/
def State.startOn (s : State) (i id : Nat) : State :=
  let t := s.task i
  let detail := match tableOf id with
    | none => 0
    | some _ => match s.windowOf id with
      | some p => if p = t.part then 0 else 1
      | none => 2
  let s := s.modTask i (fun t =>
    { t with state := .running, worker := some id, yieldAsked := false, bank := none,
             moved := t.moved || (t.bank.isSome && t.bank != some id) })
  let s := { s with hts.ready := s.hts.ready.filter (· != i), isp.queue := s.isp.queue.filter (· != i) }
  (((s.crumbTask 2 i id detail).domBusy (domainOf id)).askYields).checkPreempts

/-- RUNNING → READY at the head of its ready list (R198, R216); the crumb names the level of the task that caused it. -/
def State.yieldTask (s : State) (i causeLevel : Nat) : State :=
  let id := (s.task i).worker.getD 0xFF
  let s := s.crumbTask 3 i id causeLevel
  let s := s.modTask i (fun t => { t with state := .ready, worker := none, yieldAsked := false, yielded := true })
  let s := { s with hts.ready := i :: s.hts.ready }
  ((s.bump R.HTS_PREEMPT_CNT).domBusy (domainOf id)).creditRelease id

/-- A task reaches DONE with a status (R198): it leaves every list, its worker's credits return (R582), and its descriptors are
pinned no more (R392). -/
def State.endTask (s : State) (i status : Nat) : State :=
  let s := if (s.task i).state == .ready then
      (workers.filter (fun w => s.servesTask w (s.task i))).foldl (fun s w => s.domBusy (domainOf w)) s
    else s
  let s := (s.task i).pinned.foldl (fun s h => s.unpin (s.task i).part h) s
  let s := s.ispDrop i
  let s := match (s.task i).worker with
    | some id => if 0x30 ≤ id ∧ id ≤ 0x33 then s else (s.creditRelease id).domBusy (domainOf id)
    | none => s
  let s := { s with hts.ready := s.hts.ready.filter (· != i), hts.delays := s.hts.delays.filter (·.idx != i),
                    isp.queue := s.isp.queue.filter (· != i),
                    nc.runs := s.nc.runs.filter (·.task != i) }
  (s.modTask i (fun t => { t with state := .done, status := status, worker := none, abortPending := false, yieldAsked := false,
                                  bank := none, params := [], pinned := [], outs := [] })).checkPreempts

/-- A software task commits (R198, R220): its completion event is posted, and it is released unless HOLD_DONE. -/
def State.commitSoftware (s : State) (i status : Nat) : State :=
  let t := s.task i
  let s := s.endTask i status
  let s := if t.ondone then s.hwPost (.event t.ondoneTarget t.ondoneFlags 0x39 t.part false) 0x39 t.part t.level t.cls else s
  if t.holdDone then s else s.releaseTask i

/-! ### Host cores (R215, R216) -/

/-- The handle and argument registers of a core show its RUNNING task (R229). -/
def State.showTask (s : State) (n i : Nat) : State :=
  let a := (s.task i).args
  let s := s.setReg (R.HTS_CUR n) (s.handle i)
  (List.range 4).foldl (fun s k => s.setReg (R.HTS_ARG n k) (wd a k)) s

/-- In INTERRUPT mode the selected task is assigned to the core, and its interrupt raised (R216). -/
def State.assignCore (s : State) (n i : Nat) : State :=
  let s := s.setHcs n { s.hcs n with preempt := none }
  ((s.startOn i n).showTask n i).irqRaise (n + 1)

/-- A free core in INTERRUPT mode receives the task that waits for it, if any. -/
def State.offerCore (s : State) (n : Nat) : State :=
  if s.takeMode n || !s.flag R.HTS_CTRL 0 || (s.runningOn n).isSome then s
  else match s.selectFor n with
    | some i => s.assignCore n i
    | none => s

/-- A core has no RUNNING task any more. -/
def State.clearCore (s : State) (n : Nat) : State :=
  ((s.setReg (R.HTS_CUR n) 0).setHcs n { s.hcs n with preempt := none }).irqDrop (n + 1)

end Sys2Proof.Machine
end

