-- ==== Sys2Proof/Machine/PciOps.lean ====
section
/-! DEFINITION. Outbound writes and host result queues (18_boot_security_pcie.md R602, R619 to R625). -/

namespace Sys2Proof.Machine

/-- The link is up (PCI_LINK_STATUS.UP). -/
def State.linkUp (s : State) : Bool := s.flag R.PCI_LINK_STATUS 8

/-- Outbound requests are possible: the link is up and Bus Master Enable is 1 (R602, R621). -/
def State.outOk (s : State) : Bool := s.linkUp && s.pci.busMaster

/-- A posted write of bytes; they are counted by monitor 41 (R635). -/
def State.outWrite (s : State) (peer : Bool) (addr : Nat) (bs : List Byte) : State :=
  State.bwCount { s with pci.outbound := s.pci.outbound ++ [⟨peer, addr, bs⟩] } 41 bs.length

/-- A count of a store keyed by queue. -/
def natAt (l : List (Nat × Nat)) (k : Nat) : Nat := Store.get (fun _ => 0) l k
def natPut (l : List (Nat × Nat)) (k v : Nat) : List (Nat × Nat) := Store.put (fun _ => 0) k v l

/-- A doubleword of BAR 4 (R618). -/
def State.bar4 (s : State) (off : Nat) : Word := Store.get (fun _ => 0#32) s.pci.bar4 off

/-- Queue `q` is configured: ENABLE with usable sizes (R628). -/
def State.rqOn (s : State) (q : Nat) : Bool :=
  let c := s.reg (R.PCI_RQ_CFG q)
  bit c 31 && decide (4 ≤ bits c 4 0 ∧ bits c 4 0 ≤ 16) && decide (12 ≤ bits c 12 8 ∧ bits c 12 8 ≤ 30)

/-- Where a payload of `n` bytes starts in the payload ring, and the bytes it uses with those skipped (R622). -/
def State.rqPlace (s : State) (q n : Nat) : Nat × Nat :=
  let z := 2 ^ s.fld (R.PCI_RQ_CFG q) 12 8
  let need := ceilDiv n 64 * 64
  let pos := natAt s.pci.rqPay q % z
  if pos + need ≤ z then (pos, need) else (0, z - pos + need)

/-- The queue has no room for a record with a payload of `n` bytes (R602, R622). -/
def State.rqFull (s : State) (q n : Nat) : Bool :=
  let c := s.reg (R.PCI_RQ_CFG q)
  !s.rqOn q || !s.pci.busMaster
    || decide ((2 ^ 32 + natAt s.pci.rqTail q - (s.bar4 (8 * q)).toNat) % 2 ^ 32 = 2 ^ bits c 4 0)
    || (n != 0 && decide (2 ^ bits c 12 8 < (2 ^ 32 + natAt s.pci.rqPay q - (s.bar4 (8 * q + 4)).toNat) % 2 ^ 32 + (s.rqPlace q n).2))

/-- A 64-bit base of two registers. -/
def State.base64 (s : State) (lo hi : Nat) : Nat := s.reg64 lo hi

/-- A result record is created: it takes the next SEQ and names its predecessor in the queue (R624). Words 2, 3, 9 and 15 are
filled when it is written. (DEDUCED, log 81) -/
def State.newResult (s : State) (q : Nat) (w0 tag frame : Word) (w5 payBytes fsTime : Nat) : State × List Word :=
  let seq := (s.reg R.PCI_NEXT_SEQ).toNat
  let prev := natAt s.pci.rqPrev q
  let s := s.setReg R.PCI_NEXT_SEQ (BitVec.ofNat 32 (if seq + 1 = 2 ^ 32 then 1 else seq + 1))
  let s := { s with pci.rqPrev := natPut s.pci.rqPrev q seq }
  (s, [w0, tag, 0, 0, frame, BitVec.ofNat 32 w5, BitVec.ofNat 32 seq, BitVec.ofNat 32 prev, BitVec.ofNat 32 payBytes, 0,
       BitVec.ofNat 32 fsTime, BitVec.ofNat 32 (fsTime / 2 ^ 32), 0, 0, 0])

/-- A result record is written (R625): payload, record, shadow block, then the vector. -/
def State.writeResult (s : State) (e : WaitEmit) : State :=
  let q := e.queue
  let n := e.payload.length
  let (pos, used) := if n = 0 then (natAt s.pci.rqPay q % 2 ^ s.fld (R.PCI_RQ_CFG q) 12 8, 0) else s.rqPlace q n
  let t := s.devNow
  let ws := (((e.words.set 2 (BitVec.ofNat 32 t)).set 3 (BitVec.ofNat 32 (t / 2 ^ 32))).set 9
    (BitVec.ofNat 32 (if n = 0 then 0 else pos))).take 15
  let ws := ws ++ [crc32c (wordBytes ws ++ e.payload)]
  let tail := natAt s.pci.rqTail q
  let s := if n = 0 then s else s.outWrite false (s.base64 (R.PCI_RQ_PBASE_LO q) (R.PCI_RQ_PBASE_HI q) + pos) e.payload
  let s := s.outWrite false (s.base64 (R.PCI_RQ_BASE_LO q) (R.PCI_RQ_BASE_HI q) + 64 * (tail % 2 ^ s.fld (R.PCI_RQ_CFG q) 4 0)) (wordBytes ws)
  let tail' := (tail + 1) % 2 ^ 32
  let pay' := (natAt s.pci.rqPay q + used) % 2 ^ 32
  let s := { s with pci.rqTail := natPut s.pci.rqTail q tail', pci.rqPay := natPut s.pci.rqPay q pay' }
  let s := s.outWrite false (s.base64 (R.PCI_RQ_SHADOW_LO q) (R.PCI_RQ_SHADOW_HI q)) (leBytes 4 tail' ++ leBytes 4 pay')
  let s := s.count 1218 1
  if s.flag (R.PCI_RQ_CFG q) 30 then s.vector (8 + q) else s

/-- A result record that is never written (R180). -/
def State.dropResult (s : State) (q : Nat) : State := (s.incReg (R.PCI_RQ_DROP q) 1).count 1217 1

end Sys2Proof.Machine
end

