-- ==== Sys2Proof/Machine/TensorOps.lean ====
section
/-! DEFINITION. The bytes of tensors: rows, elements, and accesses to the memory a region lies in (10_tensor_descriptors.md R384,
R389, R393; 06_pyramid_warp.md R235). -/

namespace Sys2Proof.Machine

/-- Every combination of indices of the dimensions with the sizes given, first dimension fastest. -/
def indices : List Nat → List (List Nat)
  | [] => [[]]
  | n :: t => (indices t).flatMap (fun r => (List.range n).map (fun i => i :: r))

/-- The byte offset from the region's base of the start of a row: outer indices (i₁, …). -/
def Desc.rowOff (d : Desc) (outer : List Nat) : Int :=
  (d.offset : Int) + ((outer.zipIdx 1).map (fun e => (e.1 : Int) * d.stride e.2)).sum

/-- The outer index combinations of a descriptor, dimension 1 fastest. -/
def Desc.rows (d : Desc) : List (List Nat) := indices (d.outer.map d.size)

/-- Bytes of a tensor's elements in all. -/
def Desc.bytes (d : Desc) : Nat := d.run0 * (d.outer.map d.size).foldl (· * ·) 1

/-- Bytes of the row a ring carries: its reach without the row dimension (R389). -/
def Desc.ringRow (d : Desc) : Nat :=
  if d.rank ≤ 1 then d.stride0
  else ((d.reachOver ((List.range (d.rank - 1)).drop 1)).2 + 1 - (d.reachOver ((List.range (d.rank - 1)).drop 1)).1).toNat

/-- The slot ring that a RING region names, and the graph's entry. -/
def State.ringOf (s : State) (id : Nat) : Option SlotRing :=
  s.fgs.graphs.findSome? (fun g => ((g.ringRegions.zipIdx).find? (fun e => e.1 == id)).bind (fun e =>
    s.fgs.rings.find? (fun x => x.graph == g.id && x.idx == e.2)))

/-- The slot at one end of a ring. -/
def SlotRing.at_ (x : SlotRing) (n : Nat) : RSlot := x.slots.getD (n % x.slots.length) ⟨.full, 0, 0, false⟩
def SlotRing.put (x : SlotRing) (n : Nat) (r : RSlot) : SlotRing := { x with slots := setAt x.slots (n % x.slots.length) r }

/-- Bytes of a slot of the ring that a RING region is. -/
def SlotRing.slotSize (x : SlotRing) (r : Region) : Nat := r.size / x.slots.length

/-- What the ring's memory holds of the rows committed for the present job: what the consumer has taken, then the slots it has not. -/
def State.ringData (s : State) (x : SlotRing) (r : Region) : List Byte :=
  x.data ++ (List.range (x.prod - x.cons)).flatMap (fun k =>
    s.spmBytes (r.mem.getD 24) (r.base + (x.cons + k) % x.slots.length * x.slotSize r) (x.at_ (x.cons + k)).bytes)

/-- Where a row's bytes stand among the rows of a ring in job order. -/
def Desc.ringOff (d : Desc) (outer : List Nat) : Nat :=
  outer.getLastD 0 * d.ringRow + (((outer.dropLast.zipIdx 1).map (fun e => (e.1 : Int) * d.stride e.2)).sum : Int).toNat

/-- Bytes put into a list that may not reach so far yet. -/
def putOpt (l : List (Option Byte)) (off : Nat) (bs : List Byte) : List (Option Byte) :=
  (l ++ List.replicate (off - l.length) none).take off ++ bs.map some ++ l.drop (off + bs.length)

/-- `n` bytes at byte `off` of a region, read by `agent` of partition `p`. -/
def State.memRead (s : State) (agent p : Nat) (r : Region) (off n : Nat) : State × Nat × List Byte :=
  if r.kind = RK.dram then s.dramRead (whoPart agent p) (r.base + off) n
  else if r.kind = RK.peer then
    if s.outOk then
      let (k, s) := s.draw
      (s.bwCount 40 n, St.done, (List.range n).map (Config.freeByte k))
    else (s, St.busError, [])
  else match r.mem with
    | some m => s.spmRead agent p false (r.readable p) m (r.base + off) n
    | none => (s, St.internal, [])

/-- Bytes written at byte `off` of a region. -/
def State.memWrite (s : State) (agent p : Nat) (r : Region) (off : Nat) (bs : List Byte) : State × Nat :=
  if r.kind = RK.dram then s.dramWrite (whoPart agent p) (r.base + off) bs
  else if r.kind = RK.peer then
    if s.outOk then (s.outWrite true (s.base64 R.PCI_OBP_BASE_LO R.PCI_OBP_BASE_HI + r.base + off) bs, St.done) else (s, St.busError)
  else match r.mem with
    | some m => s.spmWrite agent p false m (r.base + off) (bs.map some)
    | none => (s, St.internal)

/-- Accesses to the tensor of handle `h` wait for a fill of their banks (R411, R425). -/
def State.descWaits (s : State) (p h : Nat) : Bool :=
  match s.desc? p h with
  | none => false
  | some d => match s.region? d.region with
    | none => false
    | some r => match r.mem with
      | none => false
      | some m => s.spmWaits m r.base r.size

/-- The first status that is not DONE. -/
def firstBad (a b : Nat) : Nat := if a = St.done then b else a

/-- The bytes of one row of a tensor. A ring's rows are those committed for the present job, as its consumer finds them in the ring's
memory, in order (R421, R422). -/
def State.rowRead (s : State) (agent p : Nat) (d : Desc) (r : Region) (outer : List Nat) : State × Nat × List Byte :=
  if r.kind = RK.ring then
    match s.ringOf d.region with
    | some x => (s, St.done, ((s.ringData x r).drop (d.ringOff outer)).take d.run0)
    | none => (s, St.internal, [])
  else s.memRead agent p r (d.rowOff outer).toNat d.run0

/-- Every row of a tensor, in the order of Desc.rows: the state, the first bad status and the rows' bytes. -/
def State.tensorRead (s : State) (agent p : Nat) (d : Desc) : State × Nat × List (List Byte) :=
  match s.region? d.region with
  | none => (s, St.descInvalid, [])
  | some r => go r s St.done [] d.rows
where
  go (r : Region) (s : State) (st : Nat) (acc : List (List Byte)) : List (List Nat) → State × Nat × List (List Byte)
    | [] => (s, st, acc.reverse)
    | o :: t =>
      let (s, st', bs) := s.rowRead agent p d r o
      go r s (firstBad st st') (bs :: acc) t

/-- Bytes written from byte `first` of a row. A ring's producer forms its rows here; they reach the ring's memory when a slot is committed. -/
def State.rowWrite (s : State) (agent p : Nat) (d : Desc) (r : Region) (outer : List Nat) (first : Nat) (bs : List Byte) : State × Nat :=
  if r.kind = RK.ring then
    match s.ringOf d.region with
    | some x => ({ s with fgs.rings := s.fgs.rings.map (fun y =>
        if y.graph = x.graph ∧ y.idx = x.idx then { y with made := putOpt y.made (d.ringOff outer + first) bs } else y) }, St.done)
    | none => (s, St.internal)
  else s.memWrite agent p r ((d.rowOff outer).toNat + first) bs

/-- Rows written at outer indices; bytes beyond a row's run are not. -/
def State.tensorWrite (s : State) (agent p : Nat) (d : Desc) (rows : List (List Nat × List Byte)) : State × Nat :=
  match s.region? d.region with
  | none => (s, St.descInvalid)
  | some r => rows.foldl (fun (acc : State × Nat) e =>
      let (s, st) := acc.1.rowWrite agent p d r e.1 0 (e.2.take d.run0)
      (s, firstBad acc.2 st)) (s, St.done)

/-- Bytes of a region that an operation leaves undefined become free values, where its writes are let through. What lies in a slot of a ring
is known when the slot is committed, and what a peer holds is beyond the model. -/
def State.memFree (s : State) (agent p : Nat) (r : Region) (off n q : Nat) : State :=
  let bs := (List.range n).map (Config.freeByte q)
  if r.kind = RK.dram then
    (piecesOf (r.base + off) n).foldl (fun s x =>
      if s.dram.linksDown.contains agent || !s.unitOk (whoPart agent p) true x.1 then s
      else s.dramPut (whoPart agent p) (x.2 / 64 + 2) x.1 ((bs.drop (x.1 - (r.base + off))).take x.2)) s
  else if r.kind = RK.peer ∨ r.kind = RK.ring then s
  else match r.mem with
    | some m => s.spmStore m (r.base + off) (dropRefused (s.spmRefused p false true false m (r.base + off) n) (r.base + off) (bs.map some))
    | none => s

/-! ### Logical dimensions (R393) -/

/-- Logical rank. -/
def Desc.lrank (d : Desc) : Nat := if d.layout = 2 ∨ d.layout = 3 then d.rank - 1 else d.rank

/-- Logical size of dimension `k`; 1 beyond the logical rank. -/
def Desc.lsize (d : Desc) (k : Nat) : Nat :=
  if d.lrank ≤ k then 1
  else match d.layout with
    | 1 => if k = 0 then d.size 2 else if k ≤ 2 then d.size (k - 1) else d.size k
    | 2 => if k = 0 then 16 * d.size (d.rank - 1) else d.size k
    | 3 => if k = 0 then 64 * d.size (d.rank - 1) else d.size k
    | 4 => if k = 0 then d.size 1 else if k = 1 then d.size 0 else d.size k
    | _ => d.size k
def Desc.lshape (d : Desc) : List Nat := (List.range d.lrank).map d.lsize

/-- The descriptor index of a logical index (R393). -/
def Desc.toDesc (d : Desc) (l : List Nat) : List Nat :=
  match d.layout, l with
  | 1, a :: b :: c :: t => b :: c :: a :: t
  | 2, a :: t => a % 16 :: t ++ [a / 16]
  | 3, a :: t => a % 64 :: t ++ [a / 64]
  | 4, a :: b :: t => b :: a :: t
  | _, l => l

/-- The byte offset of a descriptor index, and for INT4 its nibble (R332, R384). -/
def Desc.elemOff (d : Desc) (idx : List Nat) : Int × Nat :=
  match idx with
  | [] => ((d.offset : Int), 0)
  | i :: t => if d.elem = El.int4 then (d.rowOff t + (i / 2 : Nat), i % 2) else (d.rowOff t + (i * elemSize d.elem : Nat), 0)

end Sys2Proof.Machine
end

