-- ==== Sys2Proof/Machine/FgsOps.lean ====
section
/-! DEFINITION. The frame-graph sequencer (04_frame_graphs.md): triggers, frame jobs, node commits, skips and aborts, JOIN, completion
queues, slot rings, as every other block reaches them. -/

namespace Sys2Proof.Machine

/-! ### Lookup -/

def State.graph? (s : State) (g : Nat) : Option Graph := s.fgs.graphs.find? (·.id == g)
def State.modGraph (s : State) (g : Nat) (f : Graph → Graph) : State :=
  { s with fgs.graphs := s.fgs.graphs.map (fun x => if x.id = g then f x else x) }
def State.job? (s : State) (j : Nat) : Option Job := s.fgs.jobs.find? (·.id == j)
def State.modJob (s : State) (j : Nat) (f : Job → Job) : State :=
  { s with fgs.jobs := s.fgs.jobs.map (fun x => if x.id = j then f x else x) }
def State.modNode (s : State) (j n : Nat) (f : NodeSt → NodeSt) : State :=
  s.modJob j (fun x => { x with nodes := modAt x.nodes n f })

def NodeDesc.none : NodeDesc := ⟨15, 0, 0, false, 0xFE, 0, 0, 0, 0, 0, []⟩
def NodeSt.none : NodeSt := ⟨Option.none, false, false, 0, 0, 0, false, false⟩
def Graph.node (g : Graph) (n : Nat) : NodeDesc := g.nodes.getD n NodeDesc.none
def Job.node (j : Job) (n : Nat) : NodeSt := j.nodes.getD n NodeSt.none
def Graph.ins (g : Graph) (n : Nat) : List EdgeDesc := g.edges.filter (·.dst == n)
def Graph.outs (g : Graph) (n : Nat) : List EdgeDesc := g.edges.filter (·.src == n)

/-- Node kinds (R151). -/
abbrev NK.isp : Nat := 0
abbrev NK.nc : Nat := 6
abbrev NK.host : Nat := 7
abbrev NK.dma : Nat := 8
abbrev NK.taster : Nat := 9
abbrev NK.join : Nat := 10
abbrev NK.emit : Nat := 11

/-- Edge types (R152). -/
abbrev Edge.dram : Nat := 0
abbrev Edge.ring : Nat := 1
abbrev Edge.cross : Nat := 2

/-- Worker class of a node (R151). -/
def nodeClass (nd : NodeDesc) : Nat :=
  if nd.kind ≤ 5 then nd.kind
  else if nd.kind = 6 then (if nd.inst ≤ 3 ∨ nd.inst = 8 then 6 else if nd.inst ≤ 7 ∨ nd.inst = 9 then 7 else 8)
  else nd.kind + (if nd.kind = 11 then 1 else if nd.kind = 10 then 0 else 2)

/-- A required input of the job's node: an edge of TYPE DRAM or SLOT_RING (R173). -/
def EdgeDesc.required (e : EdgeDesc) : Bool := e.typ == Edge.dram || e.typ == Edge.ring

/-- A committed node whose output is usable (R172): every skipped node's is not. -/
def NodeSt.ok (n : NodeSt) : Bool := n.committed && n.ran && usable n.status

/-- A committed node whose output is not usable. -/
def NodeSt.bad (n : NodeSt) : Bool := n.committed && !(n.ran && usable n.status)

/-- Nodes reached backwards from `n` along edges of TYPE 0 and 1, in at most `fuel` edges. -/
def Graph.ancestors (g : Graph) (n : Nat) : Nat → List Nat
  | 0 => []
  | fuel + 1 =>
    let l := g.ancestors n fuel
    let more := g.edges.filter (fun e => e.required && (e.dst == n || l.contains e.dst) && !l.contains e.src)
    more.foldl (fun l e => if l.contains e.src then l else l ++ [e.src]) l

/-! ### Frames and marks (R158, R168, R176) -/

/-- The frame of a node: tag, ring slot, capture time. -/
structure NodeFrame where
  tag : Word
  slot : Option (Nat × Nat)
  extra : Nat
  fsTime : Nat
deriving DecidableEq, Repr

def NodeFrame.none : NodeFrame := ⟨0, Option.none, 0, 0⟩

/-- The primary frame of a job. -/
def Job.primary (j : Job) : NodeFrame :=
  ⟨j.trig.tag, (match j.trig.stream, j.trig.slot with | some st, some k => some (st, k) | _, _ => Option.none), j.trig.marks, j.trig.ref⟩

/-- The job has a primary frame (R158). -/
def Job.hasPrimary (j : Job) : Bool := bit j.trig.tag 31

/-- The frame a node takes (R158): the primary frame, the frame that a JOIN among its ancestors took for its entry, or none. -/
def nodeFrame (g : Graph) (j : Job) (n : Nat) : NodeFrame :=
  let x := (g.node n).streamIdx
  if x = 0xFE then NodeFrame.none
  else if x = 0xFF ∨ j.trig.entry = some x then j.primary
  else
    let up := g.ancestors n g.nodes.length
    match j.joined.find? (fun f => f.entry == x && up.contains f.join) with
    | some f => ⟨f.tag, some (f.stream, f.slot), 0, f.fsTime⟩
    | Option.none => NodeFrame.none

/-- The marks of a frame: those of its ring slot, and those its trigger carries. (DEDUCED, log 33) -/
def State.frameMarks (s : State) (f : NodeFrame) : Nat :=
  f.extra ||| (match f.slot with | some (st, k) => ((s.stream st).slot k).marks | none => 0)

/-- The frames of JOIN `n`: the primary frame and every frame it took (R177). -/
def State.joinMarks (s : State) (j : Job) (n : Nat) : Nat :=
  (j.joined.filter (·.join == n)).foldl (fun m f => m ||| ((s.stream f.stream).slot f.slot).marks) (s.frameMarks j.primary)

/-- The marks of a node's own frame. The marks a frameless trigger carries enter the nodes that take no frame (R158). (DEDUCED, log 33) -/
def State.ownMarks (s : State) (g : Graph) (j : Job) (n : Nat) : Nat :=
  if (g.node n).kind = NK.join then s.joinMarks j n
  else if (g.node n).streamIdx = 0xFE ∧ 2 ≤ g.trigKind then j.trig.marks
  else s.frameMarks (nodeFrame g j n)

/-- A CROSS_JOB input of the job is usable (R171). (DEDUCED, log 33) -/
def Job.priorOk (j : Job) (src : Nat) : Bool :=
  match j.prior with
  | none => false
  | some p => match p.status.getD src none with | some st => usable st | none => false

/-- IN_MARKS of a node (R42, R168, R672): its frame's marks and those of every predecessor's output; of a SLOT_RING producer that has
not committed, its own IN_MARKS. `fuel` bounds the chain of rings. (DEDUCED, log 33) -/
def State.inMarks (s : State) (g : Graph) (j : Job) : Nat → Nat → Nat
  | 0, _ => 0
  | fuel + 1, n =>
    (g.ins n).foldl (fun m e =>
      let p := j.node e.src
      if e.typ = Edge.cross then
        (if j.priorOk e.src then m ||| (match j.prior with | some q => q.marks.getD e.src 0 | none => 0) else m)
      else if p.committed then m ||| p.marks
      else if e.typ = Edge.ring then m ||| s.inMarks g j fuel e.src
      else m) (s.ownMarks g j n)

/-- The node argument of R168. -/
def State.nodeArg (s : State) (g : Graph) (j : Job) (n : Nat) : List Word :=
  let f := nodeFrame g j n
  let cross := (g.ins n).filter (·.typ == Edge.cross)
  let absent := cross.any (fun e => !j.priorOk e.src)
  let prior := if cross.isEmpty then 0 else match j.prior with | some p => p.slot | none => 0
  [BitVec.ofNat 32 (2 ^ 24 * g.id + 2 ^ 17 * n + 2 ^ 15 * j.slot + 2 ^ 13 * prior + 2 ^ 12 * b2n absent), f.tag,
   (match f.slot with | some (_, k) => BitVec.ofNat 32 (2 ^ 31 + k) | none => 0),
   BitVec.ofNat 32 (s.inMarks g j 130 n % 65536)]

/-- Parameter block of a node in a job (R167). -/
def paramAddr (g : Graph) (j : Job) (n : Nat) : Nat := (g.node n).param + j.slot * (g.node n).paramLen

/-! ### Completion queues (R193) -/

/-- The queue has no room: disabled, full, or records already wait. -/
def State.fgsCqFull (s : State) (p : Nat) : Bool :=
  let z := (s.reg (R.FGS_CQ_SIZE p)).toNat
  !(isPow2 z && decide (16 ≤ z) && decide (z ≤ 65536))
    || decide ((2 ^ 32 + (s.reg (R.FGS_CQ_TAIL p)).toNat - (s.reg (R.FGS_CQ_HEAD p)).toNat) % 2 ^ 32 = z)

/-- Source 17 + p pends while the queue is not empty (R469). -/
def State.fgsCqIrq (s : State) (p : Nat) : State := s.irqSet (17 + p) (s.reg (R.FGS_CQ_TAIL p) != s.reg (R.FGS_CQ_HEAD p))

/-- One record written at TAIL; a refused write, or one beyond DRAM, is not made (R193). The Bool says that it was written. -/
def State.fgsCqWrite (s : State) (p : Nat) (ws : List Word) : State × Bool :=
  let base := (s.reg (R.FGS_CQ_BASE_LO p)).toNat + 2 ^ 32 * s.fld (R.FGS_CQ_BASE_HI p) 7 0
  let z := (s.reg (R.FGS_CQ_SIZE p)).toNat
  let (s, st) := s.dramWrite (whoPart 0x38 p) (base + 32 * ((s.reg (R.FGS_CQ_TAIL p)).toNat % z)) (wordBytes ws)
  if st = St.done then ((s.setReg (R.FGS_CQ_TAIL p) (s.reg (R.FGS_CQ_TAIL p) + 1)).fgsCqIrq p, true)
  else ((s.setFlag (R.FGS_CQ_STATUS p) 2 true).setFlag (R.FGS_CQ_STATUS p) 1 true, false)

/-- A job whose record is written is FREE: its tasks are released (R164, R198). -/
def State.freeJob (s : State) (j : Nat) : State :=
  match s.job? j with
  | none => s
  | some x =>
    let s := x.nodes.foldl (fun s n => match n.task with | some i => s.releaseTask i | none => s) s
    { s with fgs.jobs := s.fgs.jobs.filter (·.id != j) }

def State.cqWaiting (s : State) (p : Nat) : List WaitRec := s.fgs.cq.getD p []
def State.setCqWaiting (s : State) (p : Nat) (l : List WaitRec) : State := { s with fgs.cq := setAt s.fgs.cq p l }

/-- A record is due at the queue of partition `p`: written, or held behind those that wait (R193). -/
def State.cqPush (s : State) (p : Nat) (r : WaitRec) : State :=
  let wait (s : State) : State := (s.setFlag (R.FGS_CQ_STATUS p) 1 true).setCqWaiting p (s.cqWaiting p ++ [r])
  if s.fgsCqFull p || !(s.cqWaiting p).isEmpty then wait s
  else
    let (s, ok) := s.fgsCqWrite p r.words
    if ok then (match r.frees with | some j => s.freeJob j | none => s) else wait s

/-- Held records are written while there is room (R193). -/
def State.cqRetry (s : State) (p : Nat) : Nat → State
  | 0 => s
  | fuel + 1 =>
    match s.cqWaiting p with
    | [] => s
    | r :: t =>
      if s.fgsCqFull p then s
      else
        let (s, ok) := s.fgsCqWrite p r.words
        if ok then
          let s := s.setCqWaiting p t
          State.cqRetry (match r.frees with | some j => s.freeJob j | none => s) p fuel
        else s

/-! ### Triggers (R158 to R160) -/

/-- Some graph has a pending trigger for the frame in ring slot `k` of stream `st`. -/
def State.pendingFor (s : State) (st k : Nat) : Bool :=
  s.fgs.graphs.any (fun g => g.pending.any (fun t => t.stream == some st && t.slot == some k))

/-- The pending hold of a frame ends when no pending trigger names it any more (R159). -/
def State.dropPend (s : State) (t : Trigger) : State :=
  match t.stream, t.slot with
  | some st, some k => if s.pendingFor st k then s else s.pendRelease st k
  | _, _ => s

/-- A trigger of graph `g` (R158 to R160): ignored while the sequencer is disabled or the graph is not started. -/
def State.fireTrigger (s : State) (gid : Nat) (t : Trigger) : State :=
  match s.graph? gid with
  | none => s
  | some g =>
    if !s.flag R.FGS_CTRL 0 || !g.started then s
    else
      let s := s.bump R.FGS_TRIGGER_CNT
      let s := match t.stream, t.slot with | some st, some k => s.pendHold st k | _, _ => s
      match g.pending.find? (·.entry == t.entry) with
      | none => s.modGraph gid (fun g => { g with pending := g.pending ++ [t] })
      | some old =>
        let keepOld := match t.entry, t.stream with
          | some _, some st => (s.stream st).policy == 1
          | _, _ => false
        let s := s.bump R.FGS_SUPERSEDED_CNT
        let s := s.modGraph gid (fun g =>
          { g with dropped := g.dropped.filter (· != t.entry) ++ [t.entry],
                   pending := if keepOld then g.pending else g.pending.filter (·.entry != t.entry) ++ [t] })
        s.dropPend (if keepOld then t else old)

/-- Every graph of trigger kind `kind` that `sel` selects receives its trigger. -/
def State.fireWhere (s : State) (kind : Nat) (sel : Graph → Bool) (t : Graph → Trigger) : State :=
  (s.fgs.graphs.filter (fun g => g.trigKind == kind && sel g)).foldl (fun s g => s.fireTrigger g.id (t g)) s

/-- A trigger without a frame. -/
def State.plainTrigger (s : State) : Trigger := ⟨none, none, none, 0, 0, s.now, s.devNow⟩

/-- TIMn expires (R158). -/
def State.fgsTimer (s : State) (n : Nat) : State := s.fireWhere 2 (fun g => g.trigArg % 32 == n) (fun _ => s.plainTrigger)

/-- An edge at GPIO n (R158). -/
def State.fgsGpio (s : State) (n : Nat) (rising : Bool) : State :=
  s.fireWhere 4 (fun g => g.trigArg % 16 == n && (let e := g.trigArg / 16 % 4; e == 3 || e == (if rising then 1 else 2)))
    (fun _ => s.plainTrigger)

/-- The stream table entry of `st` in a graph, when it is marked TRIGGER. -/
def Graph.trigEntry (g : Graph) (st : Nat) : Option Nat := g.streams.findIdx? (fun r => r.trigger && r.stream == st)

/-- A frame of stream `st` in ring slot `k` reaches a LANDED (kind 0) or LINES (kind 1) trigger (R158). -/
def State.fgsFrame (s : State) (kind st k : Nat) : State :=
  let x := (s.stream st).slot k
  s.fireWhere kind (fun g => (g.trigEntry st).isSome)
    (fun g => ⟨g.trigEntry st, some st, some k, frameTag st x.frame, 0, s.now, x.fsTime⟩)

/-! ### Watchdog windows (R181 to R183) -/

/-- The window's close of a node has passed. -/
def State.pastClose (s : State) (nd : NodeDesc) (j : Job) : Bool := nd.wdClose != 0 && decide (j.trig.time + 10000 * nd.wdClose < s.now)

/-- A watchdog event of a P0 node on its way to the island (R538): INFO of R546, EARLY rather than LATE, WD_REACTION. -/
def State.wdReport (s : State) (g : Graph) (n : Nat) (early : Bool) : State :=
  let s := s.bump (if early then R.FGS_WD_EARLY_CNT else R.FGS_WD_LATE_CNT)
  if g.part = 0 then { s with saf.wdEvents := s.saf.wdEvents ++ [(256 * g.id + n, b2n early, (g.node n).safeState)] } else s

/-- LATE is raised for a node that has not committed (R183). -/
def State.raiseLate (s : State) (g : Graph) (jid n : Nat) : State :=
  match s.job? jid with
  | none => s
  | some j =>
    if (j.node n).late || (j.node n).committed then s
    else (s.modNode jid n (fun x => { x with late := true, raised := x.raised ||| Mark.late })).wdReport g n false

/-! ### Taster outcomes (R527 to R529) -/

/-- A verdict sets out for the island (R527, R528); one of a policy that is not valid goes nowhere. -/
def State.tasterVerdict (s : State) (policy : Nat) (v : Bool) : State :=
  if s.flag (R.SAF_TP_CFG policy) 31 then { s with saf.verdicts := s.saf.verdicts ++ [(policy, v)] } else s

/-- The verdict of a TASTER node's record (R527). -/
def State.tasterOutcome (s : State) (nd : NodeDesc) (status detail : Nat) (ran skipped byTaster : Bool) : State :=
  let p := bits (wd nd.args 3) 3 0
  if byTaster && ran then s.tasterVerdict p (nbits detail 15 15 == 1)
  else if skipped && status == St.inputMarked then s
  else s.tasterVerdict p true

/-! ### Proof compares (R535) -/

/-- The task of a compare: class 11, level 0, P0. -/
def proofTask (r : ProofRun) (entry : Nat) : Task :=
  { Task.freeOf 1 with cls := 11, part := 0, level := 0, owner := .proof r.set entry r.opened, poster := 0x3D }

/-- The compares that remain are posted, in entry order, while P0 has entries (R534, R535). (DEDUCED, log 59) -/
def State.postProofs (s : State) : State :=
  s.saf.proofs.foldl (fun s r =>
    r.left.foldl (fun s e =>
      if 1 ≤ s.quotaLeft 0 then
        match s.allocTask (proofTask r e) with
        | (s, some i) =>
          let rest (x : ProofRun) : ProofRun := if x.set = r.set then { x with left := x.left.filter (· != e) } else x
          State.hwPost { s with saf.proofs := s.saf.proofs.map rest } (s.taskPost i) 0x3D 0 0 11
        | (s, none) => s
      else s) s) s

/-- Entries of proof set `set` (R530). -/
def State.proofSetAddr (s : State) (set : Nat) : Nat :=
  (s.reg (R.SAF_PS_ADDR_LO set)).toNat + 2 ^ 32 * s.fld (R.SAF_PS_ADDR_HI set) 7 0
def State.proofChecks (s : State) (set : Nat) : Nat := bits (wordAt (s.dramBytes (s.proofSetAddr set) 64) 0) 7 0

/-- A frame job of graph `g` has retired with a status and marks (R535): the set whose graph it is has its compares posted, or is MISSED. -/
def State.proofRetired (s : State) (g status marks : Nat) : State :=
  let bad := !(status == St.done || status == St.inputMarked)
    || (marks &&& (0xFFFF - Mark.proof - Mark.recomputed - Mark.degraded) != 0)
  match s.saf.proofs.find? (fun r => r.graph == g && r.outcome == 0 && !r.retired) with
  | none => s
  | some r =>
    let s := s.setFld (R.SAF_PS_STATUS r.set) 31 24 status
    let s := { s with saf.proofs := s.saf.proofs.map (fun (x : ProofRun) =>
      if x.set = r.set then { x with retired := true, left := List.range (s.proofChecks r.set), total := s.proofChecks r.set } else x) }
    if bad then s.proofOutcome r.set 3 0xFF else s.postProofs

/-! ### Commits (R164 to R173, R182 to R192) -/

/-- What a node ends with. -/
structure Commit where
  status : Nat
  agent : Nat
  kind : Nat
  detail : Nat
  count : Nat
  raised : Nat
  flags : Nat
  skipped : Bool
  ran : Bool
deriving DecidableEq, Repr

/-- Flags reach a node's task (R169, R170). -/
def State.nodeFlags (s : State) (j : Job) (n : Nat) (f : Word) : State :=
  match (j.node n).task with
  | none => s
  | some i => s.eventTask i f 0x38

/-! ### Slot rings (R185 to R188) -/

/-- Bytes of a ring, and the memory it lies in. -/
def RingDesc.size (r : RingDesc) : Nat := r.slots * r.slotKib * 1024
def RingDesc.mem (r : RingDesc) : Nat := if r.memory = 0 then 24 else spmMem 1 (r.memory - 8)

/-- Where slot `n` of a ring lies. -/
def Graph.slotPlace (g : Graph) (r n : Nat) : Nat × Nat × Nat :=
  let d := g.rings.getD r ⟨0, 0, 1, 1, 1⟩
  (d.mem, d.offset + n % d.slots * (1024 * d.slotKib), 1024 * d.slotKib)

/-- The ring of graph `g` with index `r`. -/
def State.ring? (s : State) (g r : Nat) : Option SlotRing := s.fgs.rings.find? (fun x => x.graph == g && x.idx == r)
def State.modRing (s : State) (g r : Nat) (f : SlotRing → SlotRing) : State :=
  { s with fgs.rings := s.fgs.rings.map (fun x => if x.graph = g ∧ x.idx = r then f x else x) }

/-- A ring is released: every slot FREE (R185, R186), its bytes as they were (R422). -/
def SlotRing.released (x : SlotRing) : SlotRing :=
  { x with owner := none, slots := x.slots.map (fun _ => ⟨.free, 0, 0, false⟩), prod := 0, cons := 0, prodStall := none,
           consStall := none, data := [], made := [], inDone := false, outDone := false }

/-- The producer opens its next slot, or stalls (R186, R188). -/
def SlotRing.openProd (x : SlotRing) (tag : Word) (now : Nat) : SlotRing :=
  if x.inDone then { x with prodStall := none }
  else match (x.at_ x.prod).state with
    | .free => { x.put x.prod ⟨.filling, tag, 0, false⟩ with prodStall := none }
    | .filling => x
    | _ => { x with prodStall := some (x.prodStall.getD now) }

/-- The consumer opens its next slot, or stalls. -/
def SlotRing.openCons (x : SlotRing) (now : Nat) : SlotRing :=
  if x.outDone then { x with consStall := none }
  else match (x.at_ x.cons).state with
    | .full => { x.put x.cons { x.at_ x.cons with state := .draining } with consStall := none }
    | .draining => x
    | _ => { x with consStall := some (x.consStall.getD now) }

/-- The node of a job runs now. -/
def State.nodeTaskRunning (s : State) (j : Job) (n : Nat) : Option Nat :=
  match (j.node n).task with
  | some i => if (s.task i).state == .running then some i else none
  | none => none

/-- Ring `r` of graph `g` with the job it serves and its edge. -/
def State.ringJob (s : State) (g r : Nat) : Option (SlotRing × Graph × Job × EdgeDesc) :=
  match s.ring? g r, s.graph? g with
  | some x, some gr =>
    match x.owner.bind s.job?, gr.edges.find? (fun e => e.typ == Edge.ring && e.ring == r) with
    | some j, some e => some (x, gr, j, e)
    | _, _ => none
  | _, _ => none

/-- The task at an end of a ring and its descriptor there: the node's task runs, and one of its operands lies in the ring. A node without
such an operand, such as a host core's, neither opens nor commits a slot (R421). (DEDUCED, log 36) -/
def State.ringEnd (s : State) (g : Graph) (r : Nat) (j : Job) (n : Nat) : Option (Nat × Desc) :=
  match s.nodeTaskRunning j n, g.ringRegions[r]? with
  | some i, some id =>
    ((s.task i).pinned.findSome? (fun h => (s.desc? (s.task i).part h).bind (fun d => if d.region = id then some d else none))).map (fun d => (i, d))
  | _, _ => none

/-- Rows of a descriptor that one slot of `z` bytes carries (R235). -/
def Desc.slotRows (d : Desc) (z : Nat) : Nat := if d.ringRow = 0 then 0 else z / d.ringRow

/-- Both ends of a ring that run open the slots they have come to. The slot that a producer fills is partly filled until it is committed
(R421): the bytes of its rows are free values until then. -/
def State.ringOpen (s : State) (g r : Nat) : State :=
  match s.ringJob g r with
  | none => s
  | some (x, gr, j, e) =>
    let s := match s.ringEnd gr r j e.src with
      | some (_, d) =>
        let (m, o, z) := gr.slotPlace r x.prod
        let s :=
          if x.inDone || (x.at_ x.prod).state != RSlotState.free then s
          else
            let (q, s) := s.draw
            s.spmPut m o ((List.range (d.slotRows z * d.ringRow)).map (Config.freeByte q))
        s.modRing g r (fun x => x.openProd j.trig.tag s.now)
      | none => s
    match s.ringEnd gr r j e.dst with
    | some _ => s.modRing g r (fun x => x.openCons s.now)
    | none => s

/-- The SLOT_RING edges of a node. -/
def Graph.ringsOf (g : Graph) (n : Nat) : List EdgeDesc := g.edges.filter (fun e => e.typ == Edge.ring && (e.src == n || e.dst == n))

/-- The rings of a task's node open the slots it has come to. -/
def State.ringsOpen (s : State) (i : Nat) : State :=
  match (s.task i).owner with
  | .node jid n =>
    match (s.job? jid).bind (fun j => s.graph? j.graph) with
    | none => s
    | some g => (g.ringsOf n).foldl (fun s e => s.ringOpen g.id e.ring) s
  | _ => s

/-- A node's task has been dispatched (R170, R186): its SLOT_RING edges set their flags, unless it resumes after a yield, and its rings open
their next slots. (DEDUCED, log 36) -/
def State.ringsAtDispatch (s : State) (i : Nat) : State :=
  match (s.task i).owner with
  | .node jid n =>
    match s.job? jid with
    | none => s
    | some j => match s.graph? j.graph with
      | none => s
      | some g =>
        if (s.task i).yielded then s.ringsOpen i
        else (((g.outs n).filter (·.typ == Edge.ring)).foldl (fun s e => s.nodeFlags j e.dst (BitVec.ofNat 32 (2 ^ e.flag))) s).ringsOpen i
  | _ => s

/-- A node's task runs no more: what it stalled on in its rings is over (R188). -/
def State.ringsQuiet (s : State) (g : Graph) (jid n : Nat) : State :=
  (g.ringsOf n).foldl (fun s e => s.modRing g.id e.ring (fun x =>
    if x.owner ≠ some jid then x else if e.src = n then { x with prodStall := none } else { x with consStall := none })) s

/-- A task that yields stalls on no ring. -/
def State.ringsLeft (s : State) (i : Nat) : State :=
  match (s.task i).owner with
  | .node jid n => match (s.job? jid).bind (fun j => s.graph? j.graph) with | some g => s.ringsQuiet g jid n | none => s
  | _ => s

/-! ### What an engine ends with -/

/-- Whether a worker runs the node's task now. -/
def State.nodeRunning (s : State) (j : Job) (n : Nat) : Bool :=
  match (j.node n).task with
  | some i => (s.task i).state == .running
  | none => false

/-- Record kind of an engine (R46). -/
def kindOf (id : Nat) : Nat :=
  if 0x10 ≤ id ∧ id ≤ 0x17 then Kind.segment else if 0x30 ≤ id ∧ id ≤ 0x33 then Kind.dma
  else if id ≤ 7 ∨ id = emitUnit then Kind.node else Kind.pipeline

/-- Frame number a is not later than b (R40). -/
def notLater (a b : Nat) : Bool := !laterThan a b

/-- The later and the earlier of a request's two targets. -/
def SetReq.lateTarget (r : SetReq) : Nat := if laterThan r.expTarget r.gainTarget then r.expTarget else r.gainTarget
def SetReq.earlyTarget (r : SetReq) : Nat := if laterThan r.expTarget r.gainTarget then r.gainTarget else r.expTarget

/-- Frame `m` carries SETTINGS_UNCERTAIN (R138). -/
def uncertainAt (l : List SetReq) (m : Nat) : Bool :=
  l.any (fun r => r.uncertain && notLater r.earlyTarget m && notLater m r.lateTarget)

/-- The frame in flight carries SETTINGS_UNCERTAIN (R138). -/
def State.uncertain (s : State) (f : IspFrame) : Bool :=
  match f.kept with
  | some k => k.2
  | none => uncertainAt (s.ispStream f.stream).reqs ((s.stream f.stream).slot f.slot).frame

/-- SETTINGS_UNCERTAIN, which the frame that an ISP task develops carries whatever its end (R133, R138). -/
def State.settingsMark (s : State) (i : Nat) : Nat :=
  match s.isp.frames.find? (·.task == i) with
  | none => 0
  | some f => if s.uncertain f then Mark.settings else 0

/-- The marks that a task has raised itself (R131, R133, R138, R257). -/
def State.taskMarks (s : State) (i : Nat) : Nat := (if (s.task i).recomputed then Mark.recomputed else 0) ||| s.settingsMark i

/-- The TRACK_ID `n` issues after `id` (R313): 0xFFFF_FFFF is followed by 1, and 0 is never issued. -/
def nextTrackId (id n : Nat) : Nat := (id + (2 ^ 32 - 2) + n) % (2 ^ 32 - 1) + 1

/-- An FTE job that ends early or starts again may have taken IDs of its track set, which are not issued again (R313): how many
is a free value up to the keypoints a job can have. (DEDUCED, log 48) -/
def State.dropIds (s : State) (i : Nat) : State :=
  let t := s.task i
  if t.cls = 5 ∧ t.started ∧ bit (wd t.params 0) 25 then
    let (q, s) := s.draw
    let r := R.FTE_TS_NEXT_ID (bits (wd t.params 7) 31 28)
    s.setReg r (BitVec.ofNat 32 (nextTrackId (s.reg r).toNat ((Config.freeWord q).toNat % 16385)))
  else s

/-- The counter of committed jobs of an engine (R260, R298, R328, R374). -/
def jobsCntOf (id : Nat) : Option Nat :=
  if 0x22 ≤ id ∧ id ≤ 0x29 then some (R.ENG_JOBS_CNT (id - 0x22)) else if 0x10 ≤ id ∧ id ≤ 0x17 then some (R.NC_RUNS_CNT (id - 0x10)) else none

/-- A RUNNING task on an engine stops (R51, R455): its channel, its wait for a result queue. -/
def State.stopEngine (s : State) (i : Nat) : State :=
  let s := match s.chanOfTask i with | some (e, c) => (s.chEnd e c).dmaCredits e | none => s
  match (s.task i).owner with
  | .node j n => { s with pci.waiting := s.pci.waiting.filter (fun w => w.node != some (j, n)) }
  | _ => s

end Sys2Proof.Machine
end

