-- ==== Sys2Proof/Machine/Float.lean ====
section
/-! DEFINITION. Rounding and floating-point formats (03_image_pipeline.md R104, 06_pyramid_warp.md R245, 09_neural_cores.md R331 to
R335, R338 to R342). -/

namespace Sys2Proof.Machine

/-! ### Rounding to nearest, ties to even -/

/-- round(n / d) for naturals; d > 0. -/
def rneDiv (n d : Nat) : Nat :=
  let q := n / d
  let r := n % d
  if 2 * r < d then q else if d < 2 * r then q + 1 else if q % 2 = 0 then q else q + 1

/-- round(n / d) for an integer n and d > 0. -/
def rneDivI (n : Int) (d : Nat) : Int := if 0 ≤ n then (rneDiv n.natAbs d : Int) else -(rneDiv n.natAbs d : Int)

/-! ### Values -/

/-- A floating-point value: NaN, an infinity, or (−1)^neg × m × 2^e. -/
inductive Fp where
  | nan
  | inf (neg : Bool)
  | fin (neg : Bool) (m : Nat) (e : Int)
deriving DecidableEq, Repr

/-- A binary format: exponent bits, mantissa bits, and whether it has infinities (R333). -/
structure Fmt where
  eb : Nat
  mb : Nat
  hasInf : Bool
deriving DecidableEq, Repr

abbrev Fmt.fp32 : Fmt := ⟨8, 23, true⟩
abbrev Fmt.fp16 : Fmt := ⟨5, 10, true⟩
abbrev Fmt.bf16 : Fmt := ⟨8, 7, true⟩
abbrev Fmt.e5m2 : Fmt := ⟨5, 2, true⟩
abbrev Fmt.e4m3 : Fmt := ⟨4, 3, false⟩

def Fmt.bias (f : Fmt) : Nat := 2 ^ (f.eb - 1) - 1

/-- The value of a bit pattern. -/
def Fmt.decode (f : Fmt) (v : Nat) : Fp :=
  let m := v % 2 ^ f.mb
  let e := v / 2 ^ f.mb % 2 ^ f.eb
  let s := v / 2 ^ (f.mb + f.eb) % 2 == 1
  if f.hasInf ∧ e = 2 ^ f.eb - 1 then (if m = 0 then .inf s else .nan)
  else if !f.hasInf ∧ e = 2 ^ f.eb - 1 ∧ m = 2 ^ f.mb - 1 then .nan
  else if e = 0 then .fin s m (1 - (f.bias : Int) - f.mb)
  else .fin s (2 ^ f.mb + m) ((e : Int) - f.bias - f.mb)

/-- The NaN of a format (R342). -/
def Fmt.nanCode (f : Fmt) : Nat :=
  if f.hasInf then (2 ^ f.eb - 1) * 2 ^ f.mb + 2 ^ (f.mb - 1) else 2 ^ (f.eb + f.mb) - 1

/-- The largest finite magnitude's code, without a sign. -/
def Fmt.maxCode (f : Fmt) : Nat := if f.hasInf then (2 ^ f.eb - 1) * 2 ^ f.mb - 1 else 2 ^ (f.eb + f.mb) - 2

/-- 2^k × n as a pair (numerator factor, denominator factor) for an integer k. -/
def scaleUp (n : Nat) (k : Int) : Nat := n * 2 ^ k.toNat
def scaleDown (d : Nat) (k : Int) : Nat := d * 2 ^ (-k).toNat

/-- ⌊log₂ (n / d)⌋ for n, d > 0. -/
def log2Ratio (n d : Nat) : Int :=
  let e : Int := (Nat.log2 n : Int) - Nat.log2 d
  -- 2^(e−1) < n / d < 2^(e+1)
  if scaleUp d e ≤ scaleUp n (-e) then e else e - 1

/-- The code of (n / d) × 2^x rounded to nearest even, without its sign; overflow gives infinity or, with `sat`, the largest finite
magnitude. The Bool says that it overflowed. -/
def Fmt.encodeMag (f : Fmt) (sat : Bool) (n d : Nat) (x : Int) : Nat × Bool :=
  if n = 0 then (0, false)
  else
    let top : Int := log2Ratio n d + x
    let low : Int := 1 - (f.bias : Int)
    let u : Int := (if top < low then low else top) - f.mb
    let q := rneDiv (scaleUp n (x - u)) (scaleDown d (x - u))
    -- q is below 2^(mb+1), or exactly that after a carry
    let code : Nat :=
      if q < 2 ^ f.mb then q
      else
        let e : Int := u + f.mb + f.bias
        if q < 2 ^ (f.mb + 1) then e.toNat * 2 ^ f.mb + (q - 2 ^ f.mb) else (e.toNat + 1) * 2 ^ f.mb
    if f.maxCode < code then (if sat || !f.hasInf then (f.maxCode, true) else ((2 ^ f.eb - 1) * 2 ^ f.mb, true)) else (code, false)

/-- A rational value rounded to a format: sign, numerator, denominator, exponent. -/
def Fmt.round (f : Fmt) (neg : Bool) (n d : Nat) (x : Int) : Fp :=
  f.decode (b2n neg * 2 ^ (f.eb + f.mb) + (f.encodeMag false n d x).1)

/-- The code of a value in a format; `sat` saturates a finite overflow (R342). The Bool says that it saturated. -/
def Fmt.encode (f : Fmt) (sat : Bool) : Fp → Nat × Bool
  | .nan => (f.nanCode, false)
  | .inf s => if f.hasInf then (b2n s * 2 ^ (f.eb + f.mb) + (2 ^ f.eb - 1) * 2 ^ f.mb, false) else (b2n s * 2 ^ (f.eb + f.mb) + f.maxCode, true)
  | .fin s m e =>
    let (c, o) := f.encodeMag sat m 1 e
    (b2n s * 2 ^ (f.eb + f.mb) + c, o && (sat || !f.hasInf))

/-! ### FP32 operations: exact, then rounded once -/

/-- A word as FP32, and back (NaN is 0x7FC0_0000). -/
def fpOf (w : Nat) : Fp := Fmt.fp32.decode w
def Fp.bits (x : Fp) : Nat := (Fmt.fp32.encode false x).1

/-- FP32, finite and at least 0 (R522). −0 is at least 0. -/
def tolOk (w : BitVec 32) : Bool :=
  match fpOf w.toNat with
  | .fin s m _ => !s || m == 0
  | _ => false

/-- A finite value as an integer at exponent `e`, at most its own. -/
def Fp.at (x : Fp) (e : Int) : Int :=
  match x with
  | .fin s m x => let v : Int := m * 2 ^ (x - e).toNat; if s then -v else v
  | _ => 0

def Fp.neg : Fp → Fp
  | .nan => .nan
  | .inf s => .inf (!s)
  | .fin s m e => .fin (!s) m e

/-- The exact sum of two finite values. An exact zero is +0 unless both are −0. -/
def Fp.addExact : Fp → Fp → Fp
  | .nan, _ => .nan
  | _, .nan => .nan
  | .inf a, .inf b => if a = b then .inf a else .nan
  | .inf a, _ => .inf a
  | _, .inf b => .inf b
  | .fin s m x, .fin t n y =>
    let e := min x y
    let v := Fp.at (.fin s m x) e + Fp.at (.fin t n y) e
    if v = 0 then .fin (s && t) 0 e else .fin (decide (v < 0)) v.natAbs e

/-- The exact product. -/
def Fp.mulExact : Fp → Fp → Fp
  | .nan, _ => .nan
  | _, .nan => .nan
  | .inf a, .inf b => .inf (a != b)
  | .inf a, .fin s m _ => if m = 0 then .nan else .inf (a != s)
  | .fin s m _, .inf b => if m = 0 then .nan else .inf (b != s)
  | .fin s m x, .fin t n y => .fin (s != t) (m * n) (x + y)

/-- A value rounded to FP32. -/
def Fp.r32 : Fp → Fp
  | .fin s m e => Fmt.fp32.round s m 1 e
  | x => x

def fadd (a b : Fp) : Fp := (a.addExact b).r32
def fsub (a b : Fp) : Fp := fadd a b.neg
def fmul (a b : Fp) : Fp := (a.mulExact b).r32
/-- Fused a × b + c, rounded once. -/
def fma (a b c : Fp) : Fp := ((a.mulExact b).addExact c).r32

def fdiv : Fp → Fp → Fp
  | .nan, _ => .nan
  | _, .nan => .nan
  | .inf _, .inf _ => .nan
  | .inf a, .fin s _ _ => .inf (a != s)
  | .fin s _ _, .inf b => .fin (s != b) 0 0
  | .fin s m x, .fin t n y =>
    if n = 0 then (if m = 0 then .nan else .inf (s != t)) else Fmt.fp32.round (s != t) m n (x - y)

/-- a < b; false when either is NaN; +0 and −0 compare equal. -/
def Fp.lt : Fp → Fp → Bool
  | .nan, _ => false
  | _, .nan => false
  | .inf a, .inf b => a && !b
  | .inf a, _ => a
  | _, .inf b => !b
  | .fin s m x, .fin t n y => let e := min x y; decide (Fp.at (.fin s m x) e < Fp.at (.fin t n y) e)

def Fp.isNan : Fp → Bool
  | .nan => true
  | _ => false

/-- The larger and the smaller; NaN when either is NaN. -/
def fmax (a b : Fp) : Fp := if a.isNan || b.isNan then .nan else if a.lt b then b else a
def fmin (a b : Fp) : Fp := if a.isNan || b.isNan then .nan else if b.lt a then b else a
def fabs : Fp → Fp
  | .fin _ m e => .fin false m e
  | .inf _ => .inf false
  | .nan => .nan

/-- An integer as FP32, rounded to nearest even. -/
def fofInt (v : Int) : Fp := Fmt.fp32.round (decide (v < 0)) v.natAbs 1 0

/-- An exact power of two. -/
def fpow2 (e : Int) : Fp := .fin false 1 e

/-- ⌊x⌋ of a finite value; none for NaN and infinity. -/
def Fp.floor : Fp → Option Int
  | .fin s m e => some (if 0 ≤ e then Fp.at (.fin s m e) 0 else (Fp.at (.fin s m e) e) / ((2 : Int) ^ (-e).toNat))
  | _ => none

/-- round(x × 2^k) to nearest even, as an integer; none for NaN and infinity. -/
def Fp.toInt (x : Fp) (k : Nat) : Option Int :=
  match x with
  | .fin s m e =>
    let e := e + k
    let v := if 0 ≤ e then m * 2 ^ e.toNat else rneDiv m (2 ^ (-e).toNat)
    some (if s then -(v : Int) else v)
  | _ => none

/-- A value as a number for the opaque constants. -/
def Fp.key : Fp → Nat
  | .nan => 0
  | .inf s => 1 + b2n s
  | .fin s m e => 3 + b2n s + 2 * ((e + 1024).toNat + 4096 * m)

/-- A finite value with an odd significand. -/
def Fp.odd : Fp → Fp
  | .fin s m e => let k := Nat.log2 (Nat.gcd m (2 ^ 256)); .fin s (m / 2 ^ k) (e + k)
  | x => x

/-- Every partial sum of finite values, in any order, is exact in FP32: they are multiples of one unit, their magnitudes sum to
at most 2²⁴ of it, and no such sum lies beyond the format. (UNVERIFIED, log 40) -/
def exactSums (l : List Fp) : Bool :=
  let l := (l.filter (fun v => match v with | .fin _ m _ => m != 0 | _ => false)).map Fp.odd
  match l.filterMap (fun v => match v with | .fin _ _ e => some e | _ => none) with
  | [] => true
  | e :: t =>
    let low := t.foldl min e
    decide (-149 ≤ low ∧ low ≤ 103) && decide (((l.map (fun v => (v.at low).natAbs)).sum) ≤ 2 ^ 24)

/-- The FP32 sum of a start and exact terms (R338): where the order of the additions cannot matter it is what every order gives; else
a value the spec leaves open. (UNVERIFIED, log 40) -/
def fpSum (use : Nat) (start : Fp) (terms : List Fp) : Fp :=
  let l := start :: terms
  let fin := l.filter (fun v => match v with | .fin .. => true | _ => false)
  let plus := l.any (fun v => v == .inf false)
  let minus := l.any (fun v => v == .inf true)
  if l.any Fp.isNan || (plus && minus) then .nan
  else match terms with
    | [] => start
    | [t] => (start.addExact t).r32
    | _ =>
      let small := ((fin.map fabs).foldl Fp.addExact (.fin false 0 0)).lt (fpow2 127)
      if plus && small then .inf false
      else if minus && small then .inf true
      else if exactSums fin && !plus && !minus then fin.foldl Fp.addExact (.fin true 0 0)
      else fpOf (Config.fp32Sum use (l.map Fp.key))

/-- An exact value times 2^−k. -/
def Fp.down (x : Fp) (k : Nat) : Fp :=
  match x with
  | .fin s m e => .fin s m (e - k)
  | x => x

/-- An integer as an exact value. -/
def fpExact (v : Int) : Fp := .fin (decide (v < 0)) v.natAbs 0

end Sys2Proof.Machine
end

