-- ==== Sys2Proof/Machine/PipeOps.lean ====
section
/-! DEFINITION. What the fixed pipelines share: parameter blocks, operand checks, images, repeats, the end of a job
(06_pyramid_warp.md R232 to R236, R257 to R259). -/

namespace Sys2Proof.Machine

/-- The first condition that holds decides the status. -/
def chk : List (Bool × Nat) → Nat
  | [] => St.done
  | (b, st) :: t => if b then st else chk t

/-- The half word `[15:0]` or `[31:16]` of a parameter word. -/
def half (ws : List Word) (w : Nat) (hi : Bool) : Nat := if hi then bits (wd ws w) 31 16 else bits (wd ws w) 15 0

/-- A 40-bit address in two words. -/
def addrOf (ws : List Word) (w : Nat) : Nat := (wd ws w).toNat + 2 ^ 32 * bits (wd ws (w + 1)) 7 0

/-- No operand. -/
abbrev noHandle : Nat := 0xFFFF

/-! ### Dispatch -/

/-- A checked read is repeated at most twice after an integrity error (R505). -/
def State.readAgain (s : State) (w : Who) (a n : Nat) : Nat → State × Nat × List Byte
  | 0 => s.dramRead w a n
  | k + 1 =>
    let (s, st, bs) := s.dramRead w a n
    if st = St.integrity then s.readAgain w a n k else (s, st, bs)

/-- The parameter block of a node's task (R167, R232): `n` bytes for the engine of agent `id`; a PARAM_LEN below `n` is DESC_INVALID,
a block that stays bad RETRY_EXHAUSTED. -/
def State.readParams (s : State) (id i n : Nat) : State × Nat × List Word :=
  match (s.task i).owner with
  | .node jid nd =>
    match s.job? jid with
    | none => (s, St.internal, [])
    | some j =>
      match s.graph? j.graph with
      | none => (s, St.internal, [])
      | some g =>
        if (g.node nd).paramLen < n then (s, St.descInvalid, [])
        else
          let (s, st, bs) := s.readAgain (whoPart id g.part) (paramAddr g j nd) n 2
          (s, if st = St.integrity then St.retryExhausted else st, (List.range (n / 4)).map (wordAt bs))
  | _ => (s, St.internal, [])

/-- The task has read its parameters and pins its operands, of which it writes `outs` (R392). -/
def State.startTask (s : State) (i : Nat) (ps : List Word) (hs outs : List Nat) (total : Nat) : State :=
  let p := (s.task i).part
  let s := s.modTask i (fun t => { t with started := true, params := ps, pinned := hs, outs := outs, total := total })
  hs.foldl (fun s h => s.pin p h) s

/-- Marks that a job raises itself. -/
def Task.marks (t : Task) : Nat := if t.recomputed then Mark.recomputed else 0

/-! ### Operands (R233, R234) -/

/-- Element type of ELEM; reserved 3 gives none. -/
def elemOf (e : Nat) : Option Nat := match e with | 0 => some El.uint8 | 1 => some El.uint16 | 2 => some El.fp16 | _ => none

/-- Whether the descriptor is a LINEAR image of `c` channels, `w` × `h`, of element type `e`. -/
def Desc.isImage (d : Desc) (e c w h : Nat) : Bool :=
  d.layout == 0 && d.elem == e &&
    (if c = 1 then d.rank == 2 && d.size 0 == w && d.size 1 == h
     else d.rank == 3 && d.size 0 == c && d.size 1 == w && d.size 2 == h)

/-- Width and height of an image of `c` channels. -/
def Desc.imageW (d : Desc) (c : Nat) : Nat := if c = 1 then d.size 0 else d.size 1
def Desc.imageH (d : Desc) (c : Nat) : Nat := if c = 1 then d.size 1 else d.size 2

/-- A handle that names a descriptor satisfying `f`. -/
def State.descIs (s : State) (p h : Nat) (f : Desc → Bool) : Bool := match s.desc? p h with | some d => f d | none => false

/-- A handle of another partition (R381): its region may not be read, or for an output not be written. -/
def State.foreign (s : State) (p h : Nat) (wr : Bool) : Bool :=
  match s.desc? p h with
  | none => false
  | some d => match s.region? d.region with
    | none => false
    | some r => if wr then r.owner != p else !r.readable p

/-- The descriptor lies in a slot ring. -/
def State.isRing (s : State) (p h : Nat) : Bool :=
  s.descIs p h (fun d => match s.region? d.region with | some r => r.kind == RK.ring | none => false)

/-- A save area of `need` bytes (R234): its status. -/
def State.saveCheck (s : State) (p a need : Nat) : List (Bool × Nat) :=
  [(a % 64 != 0, St.alignFault), (decide (dramEnd < a + need), St.rangeFault),
   (a % 64 == 0 && decide (a + need ≤ dramEnd) && (s.dramCheck (whoPart 0x38 p) true a need).isSome, St.partitionFault)]

/-- Whether an operand uses LEGACY_ALIGN (R46 bit 3). -/
def State.anyLegacy (s : State) (p : Nat) (hs : List Nat) : Bool := hs.any (fun h => s.descIs p h (·.legacy))

/-! ### Overlap (R236) -/

/-- The span of an area of `n` bytes in DRAM. -/
def areaSpan (a : Nat × Nat) : Option (Nat × Int × Int) := if a.2 = 0 then none else some (RK.dram, (a.1 : Int), (a.1 : Int) + a.2 - 1)

/-- The save area of a PGE job, the scratch area of an SGE job (R241, R289): address and bytes; the engine keeps its size behind the words
of the parameter block. -/
def Task.area (t : Task) : Nat × Nat :=
  if t.cls = 1 ∨ t.cls = 4 then (addrOf t.params 6, (wd t.params 32).toNat + 2 ^ 32 * (wd t.params 33).toNat) else (0, 0)

/-- The two words that keep the size of such an area. -/
def areaWords (n : Nat) : List Word := [BitVec.ofNat 32 n, BitVec.ofNat 32 (n / 2 ^ 32)]

/-- Jobs in flight beside job `i`: they run, or have yielded. -/
def State.inFlight (s : State) (i : Nat) : List Task :=
  (s.hts.tasks.filter (fun e => e.1 != i && (e.2.state == .running || (e.2.state == .ready && e.2.started)))).map (·.2)

/-- A span of job `i` overlaps an operand or an area of another job, or of a DMA chain, in flight. (DEDUCED, log 83) -/
def State.meetsOthers (s : State) (i : Nat) (me : Option (Nat × Int × Int)) : Bool :=
  s.chainSpans.any (fun e => spansMeet me (some e.2))
    || (s.inFlight i).any (fun t => spansMeet me (areaSpan t.area) || t.pinned.any (fun h => spansMeet me (s.span t.part h)))

/-- Output `k` of a job overlaps another operand or the area of the job, or what another job in flight uses. (DEDUCED, log 83) -/
def State.outOverlaps (s : State) (i : Nat) (ops : List Nat) (k : Nat) : Bool :=
  let p := (s.task i).part
  let me := s.span p (ops.getD k noHandle)
  (ops.zipIdx).any (fun e => e.2 != k && spansMeet me (s.span p e.1)) || spansMeet me (areaSpan (s.task i).area) || s.meetsOthers i me

/-- The area of a job overlaps an operand of the job, or what another job in flight uses. (DEDUCED, log 83) -/
def State.areaOverlaps (s : State) (i : Nat) (ops : List Nat) : Bool :=
  let me := areaSpan (s.task i).area
  ops.any (fun h => spansMeet me (s.span (s.task i).part h)) || s.meetsOthers i me

/-! ### Images -/

/-- A pixel's code by channel, column and row. -/
abbrev Img := Nat → Nat → Nat → Nat

/-- An image of `c` channels and width `w` from its rows' bytes. -/
def imgOf (c w esize : Nat) (rows : List (List Byte)) : Img :=
  if c = 1 then fun _ x y => leNat (((rows.getD y []).drop (x * esize)).take esize)
  else fun k x y => leNat (((rows.getD (y * w + x) []).drop (k * esize)).take esize)

/-- The rows of an image to be written: outer indices and bytes. -/
def imgRows (c w h esize : Nat) (f : Img) : List (List Nat × List Byte) :=
  if c = 1 then (List.range h).map (fun y => ([y], (List.range w).flatMap (fun x => leBytes esize (f 0 x y))))
  else (List.range h).flatMap (fun y => (List.range w).map (fun x => ([x, y], (List.range c).flatMap (fun k => leBytes esize (f k x y)))))

/-- The reflection of R105 about the edge pixels of 0 … n − 1. -/
def reflect (n : Nat) (x : Int) : Nat :=
  let r (x : Int) : Int := if x < 0 then -x else if (n : Int) - 1 < x then 2 * ((n : Int) - 1) - x else x
  (clampI 0 ((n : Int) - 1) (r (r (r x)))).toNat

/-- A coordinate clamped to 0 … n − 1. -/
def clampN (n : Nat) (x : Int) : Nat := (clampI 0 ((n : Int) - 1) x).toNat

/-- The images a job reads, repeated while an error shows (R257, R505): the state, the status and each one's rows. At most two
repeats; RECOMPUTED is set when one was needed. -/
def State.readTensors (s : State) (id i : Nat) (hs : List Nat) : Nat → State × Nat × List (List (List Byte))
  | 0 => go s St.done [] hs
  | k + 1 =>
    let (s', st, r) := go s St.done [] hs
    if st = St.integrity then
      (s'.modTask i (fun t => { t with repeats := t.repeats + 1, recomputed := true })).readTensors id i hs k
    else (s', st, r)
where
  go (s : State) (st : Nat) (acc : List (List (List Byte))) : List Nat → State × Nat × List (List (List Byte))
    | [] => (s, st, acc.reverse)
    | h :: t =>
      match s.desc? (s.task i).part h with
      | none => go s (firstBad st St.descInvalid) ([] :: acc) t
      | some d =>
        let (s, st', rows) := s.tensorRead id (s.task i).part d
        go s (firstBad st st') (rows :: acc) t

/-- Whether a job's repeat is still allowed (R257): fewer than two so far, its deadline not passed, no ring input consumed and no
ring slot committed. (DEDUCED, log 50) -/
def State.mayRepeat (s : State) (i : Nat) : Bool :=
  decide ((s.task i).repeats < 2) &&
  (match (s.task i).owner with
   | .node jid n => match s.job? jid with
     | none => false
     | some j => match s.graph? j.graph with
       | none => false
       | some g =>
         (if (g.node n).wdClose ≠ 0 then !s.pastClose (g.node n) j else decide (s.now < j.trig.time + 1000 * g.timeoutUs))
           && (g.edges.filter (fun e => e.typ == Edge.ring && (e.src == n || e.dst == n))).all (fun e =>
             match s.ring? g.id e.ring with
             | some x => if e.src = n then x.prod == 0 && !x.inDone else x.cons == 0 && !x.outDone && x.slots.all (·.state != .draining)
             | none => true)
   | _ => false)

/-- The repeats a read may still take. (DEDUCED, log 50) -/
def State.readBudget (s : State) (i : Nat) : Nat := if s.mayRepeat i then 2 - (s.task i).repeats else 0

/-- An error that persists ends a job with RETRY_EXHAUSTED. (DEDUCED, log 50) -/
def exhausted (st : Nat) : Nat := if st = St.integrity then St.retryExhausted else st

/-! ### What an engine makes of a job -/

/-- A run of bytes in one row of an output: the operand among the job's operands, the COUNT with which it is complete, the rows of a ring
input it is made from, the outer index of the row, its first byte in the row. -/
structure OutPiece where
  op : Nat
  at_ : Nat
  need : Nat
  outer : List Nat
  first : Nat
  bytes : List Byte
deriving DecidableEq, Repr

/-- What an engine makes of a job (R51, R258, R295, R325): the operands; the pieces of its outputs; the values that COUNT takes, rising
from 0; the amounts by which counters rise with the COUNT that brings them; the DETAIL bits that results set, with that COUNT; the DETAIL
bits that the job as such has; the levels of a pyramid, 0 for other jobs; what is written when the job is done: registers, areas of DRAM,
and the DETAIL bits those areas set; the marks it raises. -/
structure EngOut where
  ops : List Nat
  pieces : List OutPiece
  counts : List Nat
  adds : List (Nat × Nat × Nat)
  bits : List (Nat × Nat)
  fixed : Nat
  levels : Nat
  sets : List (Nat × Word)
  areas : List (Nat × List Byte)
  areaBits : Nat
  raised : Nat
deriving DecidableEq, Repr

/-- A job of which nothing is known but its operands and the values of its COUNT. -/
def EngOut.blank (ops counts : List Nat) : EngOut := ⟨ops, [], counts, [], [], 0, 0, [], [], 0, 0⟩

/-- COUNT of the job when it is done. -/
def EngOut.whole (o : EngOut) : Nat := o.counts.getLastD 0

/-- The pieces of an image: COUNT and ring rows by row. -/
def imgPieces (op c w h esize : Nat) (f : Img) (at_ need : Nat → Nat) : List OutPiece :=
  (imgRows c w h esize f).map (fun r => ⟨op, at_ (r.1.getLastD 0), need (r.1.getLastD 0), r.1, 0, r.2⟩)

/-- Bytes from byte `start` of a descriptor's rows in order, as pieces. -/
def Desc.cutAt (d : Desc) (op at_ start : Nat) (bs : List Byte) : List OutPiece :=
  if d.run0 = 0 then []
  else
    let z := start % d.run0
    (List.range (ceilDiv (z + bs.length) d.run0)).map (fun j =>
      let lo := if j = 0 then z else 0
      ⟨op, at_, 0, d.rows.getD (start / d.run0 + j) [], lo, (bs.drop (j * d.run0 + lo - z)).take (d.run0 - lo)⟩)

/-- The DETAIL bits of the results of a job that has come to COUNT `n`: what later results would have set is free. (DEDUCED, log 34) -/
def EngOut.detail (o : EngOut) (n q : Nat) : Nat :=
  let free := (Config.freeWord q).toNat
  let bits := o.bits.foldl (fun d b => d ||| (if b.1 ≤ n then b.2 else b.2 &&& free)) o.fixed
  bits ||| (if o.levels = 0 then 0 else if o.whole ≤ n then o.levels else free / 65536 % o.levels)

/-- The counters of a job that has come to COUNT `n` (R250, R253, R275, R288): what later results would have added is free. (DEDUCED, log 34) -/
def State.engCount (s : State) (o : EngOut) (n q : Nat) : State :=
  o.adds.zipIdx.foldl (fun s a =>
    s.bumpN a.1.2.1 (if a.1.1 ≤ n then a.1.2.2 else (Config.freeWord (q + a.2)).toNat % (a.1.2.2 + 1))) s

/-- A piece written; its bytes are free values where its output overlaps another operand (R236). -/
def State.pieceWrite (s : State) (id p : Nat) (o : EngOut) (free : List (Nat × Nat)) (e : OutPiece × Nat) : State × Nat :=
  match s.desc? p (o.ops.getD e.1.op noHandle) with
  | none => (s, St.done)
  | some d => match s.region? d.region with
    | none => (s, St.descInvalid)
    | some r =>
      let bs := match free.find? (·.1 == e.1.op) with
        | some (_, q) => (List.range e.1.bytes.length).map (fun b => Config.freeByte q (65536 * e.2 + b))
        | none => e.1.bytes
      s.rowWrite id p d r e.1.outer e.1.first (bs.take (d.run0 - e.1.first))

/-- The outputs of a job that overlap another operand, each with a free value of its own. -/
def State.freeOuts (s : State) (i : Nat) (o : EngOut) : State × List (Nat × Nat) :=
  (List.range o.ops.length).foldl (fun (a : State × List (Nat × Nat)) k =>
    if (o.pieces.any (·.op == k)) && a.1.outOverlaps i o.ops k then
      let (q, s) := a.1.draw
      (s, a.2 ++ [(k, q)])
    else a) (s, [])

/-- The pieces of a job complete at COUNT `n` are written: the state, the first bad status in order of COUNT, and the COUNT of its piece. -/
def State.writePieces (s : State) (id i : Nat) (o : EngOut) (n : Nat) : State × Nat × Nat :=
  let (s, free) := s.freeOuts i o
  ((o.pieces.zipIdx).filter (fun e => decide (e.1.at_ ≤ n))).foldl (fun (a : State × Nat × Nat) e =>
    let (s, st) := a.1.pieceWrite id (s.task i).part o free e
    if st = St.done ∨ (a.2.1 ≠ St.done ∧ a.2.2 ≤ e.1.at_) then (s, a.2) else (s, st, e.1.at_)) (s, St.done, 0)

/-- The outputs of a job beyond COUNT `n` are undefined (R51): their bytes are free values. (DEDUCED, log 50) -/
def State.freePieces (s : State) (id i : Nat) (o : EngOut) (n : Nat) : State :=
  let p := (s.task i).part
  (o.pieces.filter (fun e => decide (n < e.at_))).foldl (fun s e =>
    match s.desc? p (o.ops.getD e.op noHandle) with
    | none => s
    | some d => match s.region? d.region with
      | none => s
      | some r =>
        let (q, s) := s.draw
        s.memFree id p r ((d.rowOff e.outer).toNat + e.first) (min e.bytes.length (d.run0 - e.first)) q) s

/-- Every byte of a job's outputs is undefined (R51). (DESIGN CHOICE, log 5, DEDUCED, log 50) -/
def State.spoil (s : State) (i : Nat) : State :=
  let t := s.task i
  t.outs.foldl (fun s h =>
    match s.desc? t.part h with
    | none => s
    | some d => match s.region? d.region with
      | none => s
      | some r => d.rows.foldl (fun s o =>
          let (q, s) := s.draw
          s.memFree (t.worker.getD 0x38) t.part r (d.rowOff o).toNat d.run0 q) s) s

/-- The scratch area of a job holds what the engine left there, which no rule describes. -/
def State.freeArea (s : State) (id p : Nat) (a : Nat × Nat) : State :=
  if a.2 = 0 then s
  else
    let (q, s) := s.draw
    s.memFree id p ⟨RK.dram, a.1, a.2, p, 0, true, none⟩ 0 a.2 q

/-! ### Rings of a job -/

/-- The rings that a job's operands lie in, at both ends of whose edges its node stands: the edge and the descriptor. -/
def State.jobRings (s : State) (i : Nat) : List (Nat × EdgeDesc × Desc) :=
  match (s.task i).owner with
  | .node jid n => match s.job? jid with
    | none => []
    | some j => match s.graph? j.graph with
      | none => []
      | some g => (g.ringsOf n).filterMap (fun e => (s.ringEnd g e.ring j n).map (fun d => (g.id, e, d.2)))
  | _ => []

/-- The job's node is the producer of the edge. -/
def State.produces (s : State) (i : Nat) (e : EdgeDesc) : Bool := match (s.task i).owner with | .node _ n => e.src == n | _ => false

/-- Both ends of every ring of the job are done with their part: input taken whole, output committed whole. -/
def State.ringsDone (s : State) (i : Nat) : Bool :=
  (s.jobRings i).all (fun x => match s.ring? x.1 x.2.1.ring with
    | some y => if s.produces i x.2.1 then y.inDone else y.outDone
    | none => true)

/-- The rows of the job's ring input that have been committed; none when it has no ring input. -/
def State.ringRows (s : State) (i : Nat) : Option Nat :=
  ((s.jobRings i).find? (fun x => !s.produces i x.2.1)).bind (fun x =>
    (s.ring? x.1 x.2.1.ring).bind (fun y => (s.region? x.2.2.region).map (fun r =>
      if x.2.2.ringRow = 0 then 0 else (s.ringData y r).length / x.2.2.ringRow)))

/-- A row of one of the job's ring operands does not fit in a slot (R235). -/
def State.ringTooNarrow (s : State) (p : Nat) (ops : List Nat) : Bool :=
  ops.any (fun h => match s.desc? p h with
    | none => false
    | some d => match s.region? d.region with
      | none => false
      | some r => r.kind == RK.ring && (match s.ringOf d.region with
        | some x => decide (x.slotSize r < d.ringRow)
        | none => false))

/-- An operand of the job lies in banks that a fill takes: its accesses wait (R411, R425). (DEDUCED, log 45) -/
def State.jobWaits (s : State) (i : Nat) : Bool := (s.task i).pinned.any (s.descWaits (s.task i).part)

/-- The task that engine `id` can finish now: RUNNING with its credits, its rings done, no operand held by a fill. -/
def State.jobOn (s : State) (id : Nat) : Option Nat :=
  match s.runningOn id with
  | some i => if s.creditWaits id || !s.ringsDone i || s.jobWaits i then none else some i
  | none => none

end Sys2Proof.Machine
end

