-- ==== Sys2Proof/Machine/Pyramid.lean ====
section
/-! DEFINITION. The pyramid and warp engines (06_pyramid_warp.md). -/

namespace Sys2Proof.Machine

/-! ### Sampling (R238, R248 to R250) -/

/-- An element's code from an exact integer, saturated; the Bool says that it saturated. -/
def satU (e : Nat) (v : Int) : Nat × Bool :=
  let hi : Int := if e = El.uint8 then 255 else 65535
  ((clampI 0 hi v).toNat, decide (v < 0 ∨ hi < v))

/-- The exact terms of a weighted sum of FP16 codes, divided by 2^k. -/
def fp16Terms (k : Nat) (l : List (Int × Nat)) : List Fp := l.map (fun x => ((fpExact x.1).mulExact (Fmt.fp16.decode x.2)).down k)

/-- A weighted sum of FP16 codes, divided by 2^k, formed in FP32: where the order of the additions cannot show it is what every order
gives (R238 to R240, R248). (UNVERIFIED, log 40) -/
def fp16Sum (use k : Nat) (l : List (Int × Nat)) : Fp := fpSum use (.fin true 0 0) (fp16Terms k l)

/-- A weighted sum of taps (weight, code), divided by 2^k, in element type `e` (R238, R248). -/
def weigh (use e k : Nat) (l : List (Int × Nat)) : Nat × Bool :=
  if e = El.fp16 then Fmt.fp16.encode false (fp16Sum use k l)
  else satU e (rneDivI ((l.map (fun x => x.1 * (x.2 : Int))).sum) (2 ^ k))

/-- The bicubic sum: held exactly, rounded once and saturated (R249). (DEDUCED, log 46) -/
def weighExact (e k : Nat) (l : List (Int × Nat)) : Nat :=
  if e = El.fp16 then (Fmt.fp16.encode true ((fp16Terms k l).foldl Fp.addExact (.fin true 0 0))).1
  else (satU e (rneDivI ((l.map (fun x => x.1 * (x.2 : Int))).sum) (2 ^ k))).1

/-- The four bilinear taps and weights of a position in Q24.8 (R248). -/
def bilinearTaps (X Y : Int) : List (Int × Int × Int) :=
  let x := X / 256
  let y := Y / 256
  let fx := X % 256
  let fy := Y % 256
  [(x, y, (256 - fx) * (256 - fy)), (x + 1, y, fx * (256 - fy)), (x, y + 1, (256 - fx) * fy), (x + 1, y + 1, fx * fy)]

/-- The Keys coefficients of phase `p` of 64 in Q2.12 for offsets −1 to 2 (R249). (DEDUCED, log 46) -/
def keys (p : Nat) : List Int :=
  let t : Int := p
  let c := [rneDivI (-(t * t * t) + 128 * t * t - 4096 * t) 128, rneDivI (3 * t * t * t - 320 * t * t + 2 * 262144) 128,
    rneDivI (-(3 * t * t * t) + 256 * t * t + 4096 * t) 128, rneDivI (t * t * t - 64 * t * t) 128]
  let d := 4096 - c.sum
  if p ≤ 32 then modAt c 1 (· + d) else modAt c 2 (· + d)

/-- The sixteen bicubic taps and weights (R249). (DEDUCED, log 46) -/
def bicubicTaps (X Y : Int) : List (Int × Int × Int) :=
  let cx := keys ((X % 256).toNat / 4)
  let cy := keys ((Y % 256).toNat / 4)
  (List.range 4).flatMap (fun (j : Nat) => (List.range 4).map (fun (i : Nat) =>
    (X / 256 - 1 + (i : Int), Y / 256 - 1 + (j : Int), cy.getD j 0 * cx.getD i 0)))

/-! ### Pyramid (R237 to R241) -/

def pgeMode (w : List Word) : Nat := bits (wd w 0) 31 28
def pgeLevels (w : List Word) : Nat := bits (wd w 0) 27 24
def pgeElem (w : List Word) : Nat := bits (wd w 0) 23 22
def pgeCh (w : List Word) : Nat := bits (wd w 0) 21 20 + 1
def pgeFrac (w : List Word) : Bool := bit (wd w 0) 19
def pgeFactor (w : List Word) : Nat := bits (wd w 2) 15 0
def pgeIn (w : List Word) : Nat := half w 1 true

/-- Filter coefficients c0 to c4, Q2.12. -/
def pgeCoef (w : List Word) (j : Nat) : Int := sext 16 (half w (3 + j / 2) (j % 2 == 1))

/-- Gaussian output handle of level k (1 to 9) and Laplacian handle of level k (0 to 8). -/
def pgeG (w : List Word) (k : Nat) : Nat := half w (8 + (k - 1) / 2) ((k - 1) % 2 == 1)
def pgeL (w : List Word) (k : Nat) : Nat := half w (13 + k / 2) (k % 2 == 1)

/-- The size of level `k` from that of level 0 (R237). -/
def pgeSize (w : List Word) (n : Nat) : Nat → Nat
  | 0 => n
  | k + 1 =>
    let m := pgeSize w n k
    if pgeFrac w then (if pgeFactor w = 0 then 0 else 16384 * m / pgeFactor w) else (m + 1) / 2

/-- Whether the job writes Gaussian level `k`, Laplacian level `k`, when its handle names an output (R240, R241). -/
def pgeWritesG (w : List Word) (k : Nat) : Bool := decide (1 ≤ k ∧ k < pgeLevels w) && (pgeMode w != 1 || k + 1 == pgeLevels w)
def pgeWritesL (w : List Word) (k : Nat) : Bool := decide (k + 1 < pgeLevels w) && pgeMode w != 0

/-- Bytes the save area must hold (R243). -/
def pgeSave (w : List Word) (w0 : Nat) : Nat :=
  64 * ceilDiv ((if pgeMode w = 0 then 16 else 24) * pgeCh w * ((List.range (pgeLevels w - 1)).map (pgeSize w w0)).sum + 256) 64

/-- The operands of a job: input, Gaussian handles 1 to 9, Laplacian handles 0 to 8, without those that name nothing. -/
def pgeOuts (w : List Word) : List Nat :=
  ((List.range 10).filter (fun k => pgeWritesG w k && pgeG w k != noHandle)).map (pgeG w)
    ++ ((List.range 9).filter (fun k => pgeWritesL w k && pgeL w k != noHandle)).map (pgeL w)

/-- The checks of R234 for a PGE job of partition `p`. -/
def State.pgeCheck (s : State) (p : Nat) (w : List Word) : Nat :=
  let c := pgeCh w
  let L := pgeLevels w
  let reserved := bits (wd w 0) 18 0 != 0 || half w 1 false != 0 || bits (wd w 2) 31 16 != 0 || bits (wd w 5) 31 16 != 0
    || bits (wd w 7) 31 8 != 0 || bits (wd w 12) 31 16 != 0 || bits (wd w 17) 31 16 != 0
    || (List.range 14).any (fun k => wd w (18 + k) != 0)
    || decide (2 < pgeMode w) || decide (L < 2 ∨ 10 < L)
    || (pgeFrac w && decide (pgeFactor w < 0x4001 ∨ 0x8000 < pgeFactor w))
  match elemOf (pgeElem w) with
  | none => St.descInvalid
  | some e =>
    let le := if e = El.fp16 then El.fp16 else El.int16
    let W := match s.desc? p (pgeIn w) with | some d => d.imageW c | none => 0
    let H := match s.desc? p (pgeIn w) with | some d => d.imageH c | none => 0
    let isOut (h e k : Nat) : Bool := s.descIs p h (fun d => d.isImage e c (pgeSize w W k) (pgeSize w H k) && d.canWrite && !d.accum)
    let badG := (List.range 10).drop 1 |>.any (fun k => pgeG w k != noHandle && !(pgeWritesG w k && isOut (pgeG w k) e k))
    let badL := (List.range 9).any (fun k => pgeL w k != noHandle && !(pgeWritesL w k && isOut (pgeL w k) le k))
    let small := (List.range L).any (fun k => decide (pgeSize w W k < 4 ∨ pgeSize w H k < 4))
    chk ([(reserved, St.descInvalid), (!s.descIs p (pgeIn w) (fun d => d.isImage e c (d.imageW c) (d.imageH c)), St.descInvalid),
        (badG || badL || small || s.ringTooNarrow p (pgeIn w :: pgeOuts w), St.descInvalid)]
      ++ (s.saveCheck p (addrOf w 6) (pgeSave w W)).take 2
      ++ [(s.foreign p (pgeIn w) false || (pgeOuts w).any (fun h => s.foreign p h true), St.partitionFault)]
      ++ (s.saveCheck p (addrOf w 6) (pgeSave w W)).drop 2)

/-- The filtered level (R238): code and whether it saturated. (DEDUCED, log 46) -/
def pgeFilter (w : List Word) (e W H : Nat) (f : Img) (k x y : Nat) : Nat × Bool :=
  weigh 1 e 24 ((List.range 5).flatMap (fun (j : Nat) => (List.range 5).map (fun (i : Nat) =>
    (pgeCoef w j * pgeCoef w i, f k (reflect W ((x : Int) - 2 + i)) (reflect H ((y : Int) - 2 + j))))))

/-- A bilinear sample with clamped taps (R239, R240). -/
def sampleClamped (e W H : Nat) (f : Img) (k : Nat) (X Y : Int) : Nat × Bool :=
  weigh 2 e 16 ((bilinearTaps X Y).map (fun t => (t.2.2, f k (clampN W t.1) (clampN H t.2.1))))

/-- Level k + 1 from level k of size W × H (R239). -/
def pgeNext (w : List Word) (e W H : Nat) (f : Img) (k u v : Nat) : Nat × Bool :=
  if pgeFrac w then
    let g : Img := fun k x y => (pgeFilter w e W H f k x y).1
    let pos (u : Nat) : Int := rneDivI ((2 * (u : Int) + 1) * pgeFactor w - 16384) 128
    sampleClamped e W H g k (pos u) (pos v)
  else pgeFilter w e W H f k (2 * u) (2 * v)

/-- E_k: level k + 1 (W' × H') expanded to level k (W × H) (R240), as an integer or an FP16 code. -/
def pgeExpand (w : List Word) (e W H W' H' : Nat) (g : Img) (k x y : Nat) : Int :=
  if pgeFrac w then
    let pos (x : Nat) : Int := rneDivI ((16384 * (2 * (x : Int) + 1) - pgeFactor w) * 128) (pgeFactor w)
    ((sampleClamped e W' H' g k (pos x) (pos y)).1 : Int)
  else
    let taps := (List.range 5).flatMap (fun (j : Nat) => (List.range 5).filterMap (fun (i : Nat) =>
      let px := reflect W ((x : Int) - 2 + i)
      let py := reflect H ((y : Int) - 2 + j)
      if px % 2 = 0 ∧ py % 2 = 0 then some (4 * pgeCoef w j * pgeCoef w i, g k (px / 2) (py / 2)) else none))
    if e = El.fp16 then ((Fmt.fp16.encode false (fp16Sum 3 24 taps)).1 : Int)
    else rneDivI ((taps.map (fun t => t.1 * (t.2 : Int))).sum) (2 ^ 24)

/-- L_k = G_k − E_k (R240): code and saturation. -/
def pgeLap (e : Nat) (g : Nat) (x : Int) : Nat × Bool :=
  if e = El.fp16 then
    Fmt.fp16.encode false ((Fmt.fp16.decode g).addExact (Fmt.fp16.decode x.toNat).neg)
  else
    let v := (g : Int) - x
    (unsext 16 (clampI (-32768) 32767 v), decide (v < -32768 ∨ 32767 < v))

/-- An image held as codes, so that each level is formed once, and the rows in which a value saturated. -/
def freeze (c W H : Nat) (f : Nat → Nat → Nat → Nat × Bool) : Img × List Nat :=
  let rows := (List.range H).map (fun y => (List.range c).map (fun k => (List.range W).map (fun x => f k x y)))
  ((fun k x y => (((rows.getD y []).getD k []).getD x (0, false)).1),
    (List.range H).filter (fun y => (rows.getD y []).any (fun r => r.any (·.2))))

/-- Levels 0 … of the pyramid, each with its rows in which a value saturated. (DEDUCED, log 46) -/
def pgePyramid (w : List Word) (e W H : Nat) (f : Img) : Nat → List (Img × List Nat)
  | 0 => [(f, [])]
  | n + 1 =>
    let l := pgePyramid w e W H f n
    let g := (l.getD n (f, [])).1
    l ++ [freeze (pgeCh w) (pgeSize w W (n + 1)) (pgeSize w H (n + 1)) (pgeNext w e (pgeSize w W n) (pgeSize w H n) g)]

/-- The last level-0 row that row `y` of Gaussian level `k` is made from (R238, R239). -/
def pgeLast (w : List Word) (H : Nat) : Nat → Nat → Nat
  | 0, y => y
  | k + 1, y =>
    let n := pgeSize w H k
    let v := if pgeFrac w then min (n - 1) (rneDivI ((2 * (y : Int) + 1) * pgeFactor w - 16384) 128 / 256 + 1).toNat else 2 * y
    pgeLast w H k (min (n - 1) (v + 2))

/-- The last level-0 row that row `y` of Laplacian level `k` is made from (R240). -/
def pgeLapLast (w : List Word) (H k y : Nat) : Nat :=
  let v := if pgeFrac w then (rneDivI ((16384 * (2 * (y : Int) + 1) - pgeFactor w) * 128) (pgeFactor w) / 256 + 1).toNat else (y + 2) / 2
  max (pgeLast w H k y) (pgeLast w H (k + 1) (min (pgeSize w H (k + 1) - 1) v))

/-- The COUNT with which row `y` of level `k` is complete (R258). -/
def pgeAt (w : List Word) (H k y : Nat) : Nat := ceilDiv ((y + 1) * H) (max 1 (pgeSize w H k))

/-- The largest COUNT a job can have that has read `rows` rows of level 0 (R258). -/
def pgeBound (w : List Word) (H rows : Nat) : Nat :=
  let ready (n : Nat) : Bool := (List.range (pgeLevels w)).all (fun k =>
    let m := n * pgeSize w H k / max 1 H
    m == 0 || (decide (pgeLast w H k (m - 1) < rows) && (pgeMode w == 0 || k + 1 == pgeLevels w || decide (pgeLapLast w H k (m - 1) < rows))))
  ((List.range (H + 1)).takeWhile ready).getLastD 0

/-- Start of a PGE job (R232, R234): a status other than DONE ends it at once. -/
def State.pgeStart (s : State) (id i : Nat) : State × Nat :=
  let (s, st, w) := s.readParams id i 128
  if st ≠ St.done then (s, st)
  else
    let p := (s.task i).part
    let st := s.pgeCheck p w
    if st ≠ St.done then (s, st)
    else
      let (W, H) := match s.desc? p (pgeIn w) with | some d => (d.imageW (pgeCh w), d.imageH (pgeCh w)) | none => (0, 0)
      (s.startTask i (w ++ areaWords (pgeSave w W)) (pgeIn w :: pgeOuts w) (pgeOuts w) H, St.done)

/-- A PGE job as such (R258, R259): COUNT, and that a value may saturate. -/
def pgeShape (w : List Word) (H : Nat) : EngOut :=
  { EngOut.blank (pgeIn w :: pgeOuts w) (List.range (H + 1)) with bits := [(H + 1, 0x20)], levels := pgeLevels w }

/-- What a PGE job makes of its base image (R237 to R241, R258). -/
def pgeOut (w : List Word) (e W H : Nat) (f : Img) : EngOut :=
  let c := pgeCh w
  let sz := pgeSize w
  let lv := pgePyramid w e W H f (pgeLevels w - 1)
  let at_ (k : Nat) : Img := (lv.getD k (f, [])).1
  let laps := (List.range (pgeLevels w - 1)).map (fun k =>
    if pgeMode w = 0 then (at_ k, [])
    else freeze c (sz W k) (sz H k) (fun ch x y =>
      pgeLap e (at_ k ch x y) (pgeExpand w e (sz W k) (sz H k) (sz W (k + 1)) (sz H (k + 1)) (at_ (k + 1)) ch x y)))
  let gs := (List.range 10).filter (fun k => pgeWritesG w k && pgeG w k != noHandle)
  let ls := (List.range 9).filter (fun k => pgeWritesL w k && pgeL w k != noHandle)
  { pgeShape w H with
    pieces := (gs.zipIdx 1).flatMap (fun k => imgPieces k.2 c (sz W k.1) (sz H k.1) (elemSize e) (at_ k.1) (pgeAt w H k.1)
        (fun y => pgeLast w H k.1 y + 1))
      ++ (ls.zipIdx (1 + gs.length)).flatMap (fun k => imgPieces k.2 c (sz W k.1) (sz H k.1) 2 (laps.getD k.1 (f, [])).1 (pgeAt w H k.1)
        (fun y => pgeLapLast w H k.1 y + 1))
    bits := (lv ++ laps).zipIdx.flatMap (fun l =>
      l.1.2.map (fun y => (pgeAt w H (if l.2 < lv.length then l.2 else l.2 - lv.length) y, 0x20))) }

/-- A PGE job run on its operands, with `b` repeats of a failing read allowed. -/
def State.pgeRun (s : State) (id i b : Nat) : State × Nat × EngOut :=
  let w := (s.task i).params
  match s.desc? (s.task i).part (pgeIn w) with
  | none => (s, St.descInvalid, pgeShape w 0)
  | some d =>
    let c := pgeCh w
    let e := (elemOf (pgeElem w)).getD El.uint8
    let (s, st, ims) := s.readTensors id i [pgeIn w] b
    (s, st, if st = St.done then pgeOut w e (d.imageW c) (d.imageH c) (imgOf c (d.imageW c) (elemSize e) (ims.getD 0 [])) else pgeShape w (d.imageH c))

/-- Whether a job may yield with `pos` pixels of level 0 behind it, in raster order (R243). -/
def pgeYieldPoint (W H pos : Nat) : Bool :=
  decide (pos ≤ W * H) && (let x := pos % W; if x = 0 then pos / W % 2 == 0 else x % 2048 == 0)

/-! ### Warp (R244 to R255) -/

def wpeKind (w : List Word) : Nat := bits (wd w 0) 31 28
def wpeInterp (w : List Word) : Nat := bits (wd w 0) 27 26
def wpeReplicate (w : List Word) : Bool := bit (wd w 0) 25
def wpeElem (w : List Word) : Nat := bits (wd w 0) 24 23
def wpeCh (w : List Word) : Nat := bits (wd w 0) 22 21 + 1
def wpeFmt (w : List Word) : Nat := bits (wd w 0) 20 19
def wpeStep (w : List Word) : Nat := bits (wd w 0) 18 16
def wpeIn (w : List Word) : Nat := half w 1 true
def wpeOut (w : List Word) : Nat := half w 1 false
def wpeMap (w : List Word) : Nat := half w 2 true
def wpeH (w : List Word) (k : Nat) : Fp := fpOf (wd w (4 + k)).toNat

/-- Nodes of a grid along one axis of `n` output pixels (R246). -/
def gridOf (step n : Nat) : Nat := ceilDiv (n - 1) (2 ^ step) + 1

/-- The operands of a warp job. -/
def wpeOps (w : List Word) : List Nat := wpeIn w :: wpeOut w :: (if wpeMap w = noHandle then [] else [wpeMap w])

/-- Element type and bytes of a map sample's component (R246, R247). -/
def wpeMapElem (w : List Word) : Nat :=
  if wpeKind w = 2 then El.int32 else match wpeFmt w with | 0 => El.int32 | 1 => El.int16 | _ => El.fp16

/-- The checks of R234 for a WPE job. -/
def State.wpeCheck (s : State) (p : Nat) (w : List Word) : Nat :=
  let c := wpeCh w
  let grid := decide (2 ≤ wpeKind w)
  match elemOf (wpeElem w) with
  | none => St.descInvalid
  | some e =>
    let W := match s.desc? p (wpeOut w) with | some d => d.imageW c | none => 0
    let H := match s.desc? p (wpeOut w) with | some d => d.imageH c | none => 0
    let reserved := bits (wd w 0) 15 0 != 0 || half w 2 false != 0 || (List.range 19).any (fun k => wd w (13 + k) != 0)
      || decide (3 < wpeKind w) || decide (1 < wpeInterp w) || decide (2 ^ (if e = El.uint8 then 8 else 16) ≤ (wd w 3).toNat)
      || (wpeKind w != 3 && wpeFmt w != 0) || wpeFmt w == 3
      || (if wpeKind w = 2 then decide (wpeStep w < 3 ∨ 6 < wpeStep w) else if wpeKind w = 3 then decide (2 < wpeStep w) else wpeStep w != 0)
    let badMap :=
      if grid then !s.descIs p (wpeMap w) (fun d => d.isImage (wpeMapElem w) 2 (gridOf (wpeStep w) W) (gridOf (wpeStep w) H))
      else wpeMap w != noHandle
    chk [(reserved, St.descInvalid),
      (!s.descIs p (wpeIn w) (fun d => d.isImage e c (d.imageW c) (d.imageH c)) || s.isRing p (wpeIn w), St.descInvalid),
      (!s.descIs p (wpeOut w) (fun d => d.isImage e c W H && d.canWrite && !d.accum), St.descInvalid),
      (badMap || s.ringTooNarrow p (wpeOps w), St.descInvalid),
      (s.foreign p (wpeIn w) false || s.foreign p (wpeOut w) true || (grid && s.foreign p (wpeMap w) false), St.partitionFault)]

/-- An FP32 position as Q24.8, or none when it is not a number or beyond the range (R244, R245). -/
def toQ8 (x : Fp) : Option Int :=
  match x.toInt 8 with
  | some v => if -2147483648 ≤ v ∧ v ≤ 2147483647 then some v else none
  | none => none

/-- The interpolated grid value along one axis `k` at output pixel (u, v) (R246); FP16 samples sum in an open order. -/
def gridAt (w : List Word) (GX GY : Nat) (m : Img) (k u v : Nat) : Int :=
  let S := 2 ^ wpeStep w
  let i := u / S
  let j := v / S
  let a : Int := u % S
  let b : Int := v % S
  let N (i j : Nat) : Nat := m k (min i (GX - 1)) (min j (GY - 1))
  let taps : List (Int × Nat) := [((S - a) * (S - b), N i j), (a * (S - b), N (i + 1) j), ((S - a) * b, N i (j + 1)), (a * b, N (i + 1) (j + 1))]
  match wpeMapElem w with
  | 4 => rneDivI ((taps.map (fun t => t.1 * sext 32 t.2)).sum) (S * S)
  | 2 => rneDivI ((taps.map (fun t => t.1 * sext 16 t.2)).sum) (S * S)
  | _ => if a = 0 ∧ b = 0 then ((Fmt.fp16.decode (N i j)).bits : Int) else ((fp16Sum 4 (2 * wpeStep w) taps).bits : Int)

/-- The source position of output pixel (u, v) (R244 to R247); none when it is invalid. (DEDUCED, log 46) -/
def wpePos (w : List Word) (GX GY : Nat) (m : Img) (u v : Nat) : Option (Int × Int) :=
  let both (x y : Option Int) : Option (Int × Int) := match x, y with | some x, some y => some (x, y) | _, _ => none
  if wpeKind w ≤ 1 then
    let fu := fofInt u
    let fv := fofInt v
    let lin (r : Nat) : Fp := fadd (fadd (fmul (wpeH w (3 * r)) fu) (fmul (wpeH w (3 * r + 1)) fv)) (wpeH w (3 * r + 2))
    let den := if wpeKind w = 0 then fofInt 1 else lin 2
    if wpeKind w = 1 ∧ !((fpow2 (-24)).lt den) then none
    else both (toQ8 (fdiv (lin 0) den)) (toQ8 (fdiv (lin 1) den))
  else
    let g (k : Nat) : Int := gridAt w GX GY m k u v
    let range (x : Int) : Option Int := if -2147483648 ≤ x ∧ x ≤ 2147483647 then some x else none
    if wpeKind w = 2 ∨ wpeFmt w = 0 then both (range (g 0)) (range (g 1))
    else if wpeFmt w = 1 then both (range (256 * (u : Int) + g 0 * 16)) (range (256 * (v : Int) + g 1 * 16))
    else both (toQ8 (fadd (fofInt u) (fpOf (g 0).toNat))) (toQ8 (fadd (fofInt v) (fpOf (g 1).toNat)))

/-- The taps of a position under the job's interpolation. -/
def wpeTaps (w : List Word) (q : Int × Int) : List (Int × Int × Int) := if wpeInterp w = 0 then bilinearTaps q.1 q.2 else bicubicTaps q.1 q.2

/-- Whether a tap lies outside a W × H source. -/
def tapOut (W H : Nat) (t : Int × Int × Int) : Bool := decide (t.1 < 0 ∨ (W : Int) ≤ t.1 ∨ t.2.1 < 0 ∨ (H : Int) ≤ t.2.1)

/-- An output value of channel `k` at a position (R248 to R250). -/
def wpeValue (w : List Word) (e W H : Nat) (f : Img) (k : Nat) (q : Option (Int × Int)) : Nat :=
  match q with
  | none => (wd w 3).toNat
  | some q =>
    let taps := (wpeTaps w q).map (fun t => (t.2.2, if tapOut W H t && !wpeReplicate w then (wd w 3).toNat else f k (clampN W t.1) (clampN H t.2.1)))
    if wpeInterp w = 0 then (weigh 5 e 16 taps).1 else weighExact e 24 taps

/-- Splits of a tile (R253) whose positions `pos` gives: the bounding box of its taps against 64 KiB; `fuel` bounds the depth. (DEDUCED, log 46) -/
def wpeSplits (w : List Word) (bytes W H : Nat) (pos : Nat → Nat → Option (Int × Int)) (tw th : Nat) : Nat → Nat → Nat → Nat
  | 0, _, _ => 0
  | fuel + 1, u0, v0 =>
    let pts := (List.range th).flatMap (fun y => (List.range tw).filterMap (fun x =>
      if u0 + x < W ∧ v0 + y < H then pos (u0 + x) (v0 + y) else none))
    match pts.flatMap (wpeTaps w) with
    | [] => 0
    | t :: r =>
      let (x0, x1, y0, y1) := r.foldl (fun (b : Int × Int × Int × Int) t =>
        (min b.1 t.1, max b.2.1 t.1, min b.2.2.1 t.2.1, max b.2.2.2 t.2.1)) (t.1, t.1, t.2.1, t.2.1)
      if (x1 - x0 + 1) * (y1 - y0 + 1) * (bytes : Int) ≤ 65536 ∨ tw ≤ 8 then 0
      else
        let q := wpeSplits w bytes W H pos (tw / 2) (th / 2) fuel
        1 + q u0 v0 + q (u0 + tw / 2) v0 + q u0 (v0 + th / 2) + q (u0 + tw / 2) (v0 + th / 2)

/-- The output's size. -/
def State.wpeSize (s : State) (p : Nat) (w : List Word) : Nat × Nat :=
  match s.desc? p (wpeOut w) with | some d => (d.imageW (wpeCh w), d.imageH (wpeCh w)) | none => (0, 0)

/-- Start of a WPE job. -/
def State.wpeStart (s : State) (id i : Nat) : State × Nat :=
  let (s, st, w) := s.readParams id i 128
  if st ≠ St.done then (s, st)
  else
    let p := (s.task i).part
    let st := s.wpeCheck p w
    if st ≠ St.done then (s, st) else (s.startTask i w (wpeOps w) [wpeOut w] (s.wpeSize p w).2, St.done)

/-- The rows of a job's output that are complete with those of its first `b` bands (R252). -/
def wpeRows (H b : Nat) : Nat := min H (16 * b)

/-- The values of COUNT: whole bands (R258). -/
def wpeCounts (H : Nat) : List Nat := (List.range (ceilDiv H 16 + 1)).map (wpeRows H)

/-- The rows of a mesh or map that band `b` needs (R255). -/
def wpeNeed (w : List Word) (GY b : Nat) : Nat := min ((16 * b + 15) / 2 ^ wpeStep w + 1) (GY - 1) + 1

/-- A WPE job as such: COUNT, and what its `W × H` pixels and their tiles may add to the counters (R250, R253, R259). -/
def wpeShape (w : List Word) (n W H : Nat) : EngOut :=
  { EngOut.blank (wpeOps w) (wpeCounts H) with
    bits := [(H + 1, 0x70)]
    adds := [(H + 1, R.WPE_BORDER_CNT n, W * H), (H + 1, R.WPE_INVALID_CNT n, W * H),
      (H + 1, R.WPE_SPLIT_CNT n, 21 * (ceilDiv W 64 * ceilDiv H 16))] }

/-- What a WPE job of engine `n` makes of its source of size W × H and its mesh or map (R244 to R253, R258). -/
def wpeOutOf (w : List Word) (n e W H WO HO : Nat) (f m : Img) : EngOut :=
  let c := wpeCh w
  let pos := wpePos w (gridOf (wpeStep w) WO) (gridOf (wpeStep w) HO) m
  let bands := List.range (ceilDiv HO 16)
  let px (b : Nat) : List (Option (Int × Int)) := (List.range (wpeRows HO (b + 1) - 16 * b)).flatMap (fun y =>
    (List.range WO).map (fun u => pos u (16 * b + y)))
  let sums := bands.map (fun b =>
    let l := px b
    (wpeRows HO (b + 1), (l.filter (fun q => match q with | some q => (wpeTaps w q).any (tapOut W H) | none => false)).length,
      (l.filter (·.isNone)).length,
      ((List.range (ceilDiv WO 64)).map (fun a => wpeSplits w (c * elemSize e) WO HO pos 64 16 4 (64 * a) (16 * b))).sum))
  { EngOut.blank (wpeOps w) (wpeCounts HO) with
    pieces := imgPieces 1 c WO HO (elemSize e) (freeze c WO HO (fun k u v => (wpeValue w e W H f k (pos u v), false))).1
      (fun y => wpeRows HO (y / 16 + 1)) (fun y => if wpeKind w ≤ 1 then 0 else wpeNeed w (gridOf (wpeStep w) HO) (y / 16))
    adds := sums.flatMap (fun x => [(x.1, R.WPE_BORDER_CNT n, x.2.1), (x.1, R.WPE_INVALID_CNT n, x.2.2.1), (x.1, R.WPE_SPLIT_CNT n, x.2.2.2)])
    bits := sums.map (fun x => (x.1, (if x.2.2.2 = 0 then 0 else 0x40) ||| (if x.2.2.1 = 0 then 0 else 0x20) ||| (if x.2.1 = 0 then 0 else 0x10))) }

/-- A WPE job run on its operands. -/
def State.wpeRun (s : State) (id i b : Nat) : State × Nat × EngOut :=
  let w := (s.task i).params
  let p := (s.task i).part
  let (WO, HO) := s.wpeSize p w
  match s.desc? p (wpeIn w) with
  | none => (s, St.descInvalid, wpeShape w (id - 0x24) WO HO)
  | some d =>
    let c := wpeCh w
    let e := (elemOf (wpeElem w)).getD El.uint8
    let (s, st, ims) := s.readTensors id i (wpeIn w :: (wpeOps w).drop 2) b
    (s, st, if st = St.done then
        wpeOutOf w (id - 0x24) e (d.imageW c) (d.imageH c) WO HO (imgOf c (d.imageW c) (elemSize e) (ims.getD 0 []))
          (imgOf 2 (gridOf (wpeStep w) WO) (elemSize (wpeMapElem w)) (ims.getD 1 []))
      else wpeShape w (id - 0x24) WO HO)

/-- Whether a job may yield at place `pos`, counted in 64ths of a tile in the order of the tiles (R252, R254): a tile boundary, or within a
tile that is split the boundary of an 8 × 2 sub-tile. -/
def wpeYieldPoint (W H pos : Nat) (split : Nat → Nat → Bool) : Bool :=
  let a := ceilDiv W 64
  decide (pos ≤ 64 * (a * ceilDiv H 16)) && (pos % 64 == 0 || (a != 0 && split (64 * (pos / 64 % a)) (16 * (pos / 64 / a))))

/-- Bands complete at a place. -/
def wpeBandsAt (W pos : Nat) : Nat := pos / (64 * max 1 (ceilDiv W 64))

end Sys2Proof.Machine
end

