-- ==== Sys2Proof/Machine/FlowStereo.lean ====
section
/-! DEFINITION. The optical flow and stereo engines (07_flow_stereo.md). -/

namespace Sys2Proof.Machine

/-! ### Costs and paths (R266 to R272) -/

/-- Half width and half height of a census window (R266). -/
def censusWin (c : Nat) : Nat × Nat := match c with | 0 => (2, 2) | 1 => (3, 3) | _ => (4, 3)

/-- The census signature of a pixel, in raster order without the centre. -/
def census (c W H : Nat) (f : Nat → Nat → Nat) (x y : Nat) : List Bool :=
  let (hw, hh) := censusWin c
  (List.range (2 * hh + 1)).flatMap (fun (j : Nat) => (List.range (2 * hw + 1)).filterMap (fun (i : Nat) =>
    if i = hw ∧ j = hh then none
    else some (decide (f (reflect W ((x : Int) + i - hw)) (reflect H ((y : Int) + j - hh)) < f x y))))

/-- The number of differing bits. -/
def hamming (a b : List Bool) : Nat := ((a.zip b).filter (fun e => e.1 != e.2)).length

/-- Path costs and sums saturate at 65,535. -/
def sat16 (n : Nat) : Nat := min n 65535

/-- The smallest of a list; `d` of an empty one. -/
def minOf (d : Nat) (l : List Nat) : Nat := l.foldl min (l.headD d)

/-- The sub-pixel offset in sixteenths of a winner's cost `w` between its neighbours `a` and `b` (R271). -/
def subPixel (a w b : Option Nat) : Int :=
  match a, w, b with
  | some a, some w, some b =>
    let den : Int := 2 * ((a : Int) - 2 * w + b)
    if den ≤ 0 then 0 else clampI (-8) 8 (rneDivI (16 * ((a : Int) - b)) den.toNat)
  | _, _, _ => 0

/-- Confidence (R272). -/
def confidence (ref w scale : Nat) : Nat := min 255 ((ref - w) * scale / 16)

/-! ### Optical flow (R273 to R280) -/

def ofeLevels (w : List Word) : Nat := bits (wd w 0) 31 28
def ofeElem (w : List Word) : Nat := bits (wd w 0) 27 26
def ofeBlock4 (w : List Word) : Bool := bit (wd w 0) 25
def ofeCensus (w : List Word) : Nat := bits (wd w 0) 24 23
def ofePrior (w : List Word) : Nat := bits (wd w 0) 22 21
def ofeZeroToo (w : List Word) : Bool := bit (wd w 0) 20
def ofeTop (w : List Word) : Nat := bits (wd w 0) 19 16
def ofeRefine (w : List Word) : Nat := bits (wd w 0) 15 14
def ofeRef (w : List Word) (k : Nat) : Nat := half w (1 + k / 2) (k % 2 == 1)
def ofeSrc (w : List Word) (k : Nat) : Nat := half w (5 + k / 2) (k % 2 == 1)
def ofeOut (w : List Word) : Nat := half w 9 true
def ofeConf (w : List Word) : Nat := half w 9 false
def ofePriorH (w : List Word) : Nat := half w 10 true
def ofeConfMin (w : List Word) : Nat := bits (wd w 11) 31 24
def ofeScale (w : List Word) : Nat := bits (wd w 11) 23 16
def ofeP2 (w : List Word) : Nat := bits (wd w 11) 15 8
def ofeP1 (w : List Word) : Nat := bits (wd w 11) 7 0

/-- The prior's handle as the engine resolved it at dispatch, kept behind the 32 words; 0xFFFF when no prior is used. -/
def ofeUsedPrior (w : List Word) : Nat := (wd w 32).toNat

/-- An axis of the vector output (R278). -/
def ofeGrid (w : List Word) (n : Nat) : Nat := if ofeBlock4 w then ceilDiv (n - 1) 4 + 1 else n

/-- A level size under the factor-2 rule. -/
def halfSize (n : Nat) : Nat → Nat
  | 0 => n
  | k + 1 => (halfSize n k + 1) / 2

/-- A handle of the DRAM, not of a ring or a scratchpad (R264). -/
def State.inDram (s : State) (p h : Nat) : Bool :=
  s.descIs p h (fun d => match s.region? d.region with | some r => r.kind == RK.dram | none => false)

/-- Width and height of the job's level 0. -/
def State.ofeSize (s : State) (p : Nat) (w : List Word) : Nat × Nat :=
  match s.desc? p (ofeRef w 0) with | some d => (d.size 0, d.size 1) | none => (0, 0)

/-- The operands: levels of REF and SRC, vector output, confidence output, prior. -/
def ofeOps (w : List Word) : List Nat :=
  (List.range (ofeLevels w)).map (ofeRef w) ++ (List.range (ofeLevels w)).map (ofeSrc w) ++ [ofeOut w]
    ++ (if ofeConf w = noHandle then [] else [ofeConf w]) ++ (if ofeUsedPrior w = noHandle then [] else [ofeUsedPrior w])

/-- A vector field of the job's output shape. -/
def ofeField (w : List Word) (W H : Nat) (d : Desc) : Bool := d.isImage El.int16 2 (ofeGrid w W) (ofeGrid w H)

/-- The checks of R234, R263 to R265 for an OFE job. -/
def State.ofeCheck (s : State) (p : Nat) (w : List Word) : Nat :=
  let L := ofeLevels w
  let (W, H) := s.ofeSize p w
  let e := if ofeElem w = 0 then El.uint8 else El.uint16
  let reserved := bits (wd w 0) 13 0 != 0 || half w 10 false != 0 || (List.range 20).any (fun k => wd w (12 + k) != 0)
    || decide (L < 2 ∨ 8 < L) || decide (1 < ofeElem w) || decide (1 < ofeCensus w) || ofePrior w == 3
    || decide (ofeTop w < 1 ∨ 8 < ofeTop w) || decide (ofeRefine w < 1 ∨ 2 < ofeRefine w) || decide (ofeP2 w < ofeP1 w)
    || (ofePrior w != 2 && ofePriorH w != noHandle) || s.ringTooNarrow p [ofeOut w, ofeConf w]
    || (List.range 8).any (fun k => decide (L ≤ k) && (ofeRef w k != noHandle || ofeSrc w k != noHandle))
  let badImg := (List.range L).any (fun k =>
    let ok (h : Nat) : Bool := s.inDram p h && s.descIs p h (fun d => d.isImage e 1 (halfSize W k) (halfSize H k))
    !ok (ofeRef w k) || !ok (ofeSrc w k) || decide (halfSize W k < 16 ∨ halfSize H k < 16 ∨ 8192 < halfSize W k ∨ 8192 < halfSize H k))
  let badOut := !s.descIs p (ofeOut w) (fun d => ofeField w W H d && d.canWrite && !d.accum)
    || (ofeConf w != noHandle && !s.descIs p (ofeConf w) (fun d => d.isImage El.uint8 1 (ofeGrid w W) (ofeGrid w H) && d.canWrite && !d.accum))
  let badPrior := ofePrior w == 2 && !(s.inDram p (ofePriorH w) && s.descIs p (ofePriorH w) (ofeField w W H))
  chk [(reserved || badImg || badOut || badPrior, St.descInvalid),
    ((List.range L).any (fun k => s.foreign p (ofeRef w k) false || s.foreign p (ofeSrc w k) false) || s.foreign p (ofeOut w) true
      || s.foreign p (ofeConf w) true || (ofePrior w == 2 && s.foreign p (ofePriorH w) false), St.partitionFault)]

/-- A vector candidate. -/
abbrev Vec := Int × Int

/-- The candidates within ±r of a centre. -/
def window (r : Nat) (c : Vec) : List Vec :=
  (List.range (2 * r + 1)).flatMap (fun (j : Nat) => (List.range (2 * r + 1)).map (fun (i : Nat) => (c.1 - r + i, c.2 - r + j)))

/-- The order of R270 among equal costs. -/
def vecBefore (a b : Vec) : Bool :=
  let n (v : Vec) : Nat := v.1.natAbs + v.2.natAbs
  decide (n a < n b) || (n a == n b && (decide (a.2 < b.2) || (a.2 == b.2 && decide (a.1 < b.1))))

/-- One step of a path over candidate lists (R269). -/
def pathStep (p1 p2 : Nat) (prev : Option (List (Vec × Nat))) (cur : List (Vec × Nat)) : List (Vec × Nat) :=
  match prev with
  | none => cur
  | some l =>
    let m := minOf 0 (l.map (·.2))
    cur.map (fun e =>
      let near := (l.filter (fun q => decide ((q.1.1 - e.1.1).natAbs ≤ 1 ∧ (q.1.2 - e.1.2).natAbs ≤ 1))).map
        (fun q => if q.1 = e.1 then q.2 else q.2 + p1)
      (e.1, sat16 (e.2 + minOf (m + p2) ((m + p2) :: near) - m)))

/-- The pixels of a path along one axis inside a tile of `t` pixels, from 8 pixels before it to `x`, among `n` (R278). -/
def pathFrom (t n x : Nat) (up : Bool) : List Nat :=
  let t0 := x / t * t
  if up then (let a := t0 - 8; (List.range (x + 1 - a)).map (a + ·))
  else (let b := min (n - 1) (t0 + t - 1 + 8); (List.range (b + 1 - x)).map (b - ·))

/-- The path cost at the end of a path. -/
def alongPath (p1 p2 : Nat) (l : List (List (Vec × Nat))) : List (Vec × Nat) :=
  (l.foldl (fun prev cur => some (pathStep p1 p2 prev cur)) (none : Option (List (Vec × Nat)))).getD []

/-- The aggregated costs of a pixel over the four paths (R270, R278). (DEDUCED, log 47) -/
def ofeSum (w : List Word) (W H : Nat) (cost : Nat → Nat → List (Vec × Nat)) (x y : Nat) : List (Vec × Nat) :=
  let p (l : List (List (Vec × Nat))) : List (Vec × Nat) := alongPath (ofeP1 w) (ofeP2 w) l
  let all := [p ((pathFrom 64 W x true).map (fun i => cost i y)), p ((pathFrom 64 W x false).map (fun i => cost i y)),
    p ((pathFrom 32 H y true).map (fun j => cost x j)), p ((pathFrom 32 H y false).map (fun j => cost x j))]
  (cost x y).zipIdx.map (fun e => (e.1.1, sat16 ((all.map (fun l => (l.getD e.2 (e.1.1, 0)).2)).sum)))

/-- The evaluated candidate with the lowest sum (R270). (DEDUCED, log 47) -/
def vecWinner (l : List (Vec × Nat)) : Option (Vec × Nat) :=
  l.foldl (fun b e => match b with
    | none => some e
    | some m => if e.2 < m.2 ∨ (e.2 = m.2 ∧ vecBefore e.1 m.1) then some e else some m) none

/-- A level's result per pixel: winner, sums, and whether R275 removed a candidate of it or of a pixel it descends from. -/
structure FlowPix where
  win : Vec
  sums : List (Vec × Nat)
  cut : Bool

/-- A plane of results. -/
def planeOf {α : Type} (W H : Nat) (f : Nat → Nat → α) : List (List α) :=
  (List.range H).map (fun y => (List.range W).map (fun x => f x y))

/-- One level (R274, R275): `cands` gives the candidates of a pixel before R275; `free` a winner where no candidate is left. (DEDUCED, log 47) -/
def ofeLevel (w : List Word) (k W H : Nat) (ref src : Nat → Nat → Nat) (cands : Nat → Nat → List Vec) (cutIn : Nat → Nat → Bool)
    (free : Nat → Nat → Vec) : List (List FlowPix) :=
  let c := ofeCensus w
  let sigR := planeOf W H (census c W H ref)
  let sigS := planeOf W H (census c W H src)
  let at_ (l : List (List (List Bool))) (x y : Nat) : List Bool := (l.getD y []).getD x []
  let keep (v : Vec) : Bool := decide (v.1.natAbs * 2 ^ k ≤ 512 ∧ v.2.natAbs * 2 ^ k ≤ 512)
  let cost := planeOf W H (fun x y => ((cands x y).filter keep).map (fun v =>
    let mx := (x : Int) + v.1
    let my := (y : Int) + v.2
    (v, if mx < 0 ∨ (W : Int) ≤ mx ∨ my < 0 ∨ (H : Int) ≤ my then 63 else hamming (at_ sigR x y) (at_ sigS mx.toNat my.toNat))))
  let costAt (x y : Nat) : List (Vec × Nat) := (cost.getD y []).getD x []
  planeOf W H (fun x y =>
    let sums := ofeSum w W H costAt x y
    ⟨match vecWinner sums with | some e => e.1 | none => free x y, sums, cutIn x y || (cands x y).any (fun v => !keep v)⟩)

/-- The candidates at the top level (R274, R276). -/
def ofeTopCands (w : List Word) (used : Bool) (centre : Nat → Nat → Vec) (x y : Nat) : List Vec :=
  let a := window (ofeTop w) (centre x y)
  if used && ofeZeroToo w then a ++ (window (ofeTop w) (0, 0)).filter (fun v => !a.contains v) else a

/-- The levels from the top (index `ofeLevels w − 1`) down to level 0; `fuel` counts the levels below the one at hand. -/
def ofeSearch (w : List Word) (W H : Nat) (ref src : Nat → Nat → Nat → Nat) (used : Bool) (centre : Nat → Nat → Vec)
    (free : Nat → Nat → Nat → Vec) : Nat → List (List FlowPix)
  | 0 =>
    let k := ofeLevels w - 1
    ofeLevel w k (halfSize W k) (halfSize H k) (ref k) (src k) (ofeTopCands w used centre) (fun _ _ => false) (free k)
  | n + 1 =>
    let up := ofeSearch w W H ref src used centre free n
    let k := ofeLevels w - 1 - (n + 1)
    let par (x y : Nat) : FlowPix := (up.getD (y / 2) []).getD (x / 2) ⟨(0, 0), [], false⟩
    ofeLevel w k (halfSize W k) (halfSize H k) (ref k) (src k)
      (fun x y => window (ofeRefine w) (2 * (par x y).win.1, 2 * (par x y).win.2)) (fun x y => (par x y).cut) (free k)

/-- A level-0 result (R271, R272, R275, R279): vector in Q11.4, confidence, reason of an invalid one (0 when valid), cut. -/
def ofeResult (w : List Word) (W H x y : Nat) (p : FlowPix) : Vec × Nat × Nat × Bool :=
  let s (v : Vec) : Option Nat := (p.sums.find? (fun e => e.1 == v)).map (·.2)
  let v := p.win
  let ox := subPixel (s (v.1 - 1, v.2)) (s v) (s (v.1 + 1, v.2))
  let oy := subPixel (s (v.1, v.2 - 1)) (s v) (s (v.1, v.2 + 1))
  let d : Vec := (clampI (-8192) 8192 (16 * v.1 + ox), clampI (-8192) 8192 (16 * v.2 + oy))
  let mean := if p.sums.isEmpty then 0 else (p.sums.map (·.2)).sum / p.sums.length
  let conf := confidence mean ((s v).getD 0) (ofeScale w)
  let px := 16 * (x : Int) + d.1
  let py := 16 * (y : Int) + d.2
  let reason := if px < 0 ∨ 16 * ((W : Int) - 1) < px ∨ py < 0 ∨ 16 * ((H : Int) - 1) < py then 4
    else if ofeConfMin w ≠ 0 ∧ conf < ofeConfMin w then 3 else 0
  (d, conf, reason, p.cut)

/-- The vector output that the parameter block of job slot PRIOR_SLOT names (R276), with the status of that read: noHandle where PRIOR_ABSENT
is set, or the output is stale, of another partition, of another type or shape, or lies outside DRAM (R264), and so cannot be used. -/
def State.ofeTemporal (s : State) (id i : Nat) (w : List Word) : State × Nat × Nat :=
  let p := (s.task i).part
  let (W, H) := s.ofeSize p w
  let arg0 := wd (s.task i).args 0
  match bit arg0 12, (s.task i).owner with
  | false, .node jid nd =>
    match (s.job? jid).bind (fun j => s.graph? j.graph) with
    | none => (s, St.done, noHandle)
    | some g =>
      let (s, st, bs) := s.readAgain (whoPart id p) ((g.node nd).param + bits arg0 14 13 * (g.node nd).paramLen) 128 2
      let h := bits (wordAt bs 9) 31 16
      (s, exhausted st, if s.descIs p h (ofeField w W H) && !s.foreign p h false && s.inDram p h then h else noHandle)
  | _, _ => (s, St.done, noHandle)

/-- Start of an OFE job (R262, R276): the prior is resolved here. (DEDUCED, log 47) -/
def State.ofeStart (s : State) (id i : Nat) : State × Nat :=
  let (s, st, w) := s.readParams id i 128
  if st ≠ St.done then (s, st)
  else
    let p := (s.task i).part
    let st := s.ofeCheck p w
    if st ≠ St.done then (s, st)
    else
      let (s, st, used) := if ofePrior w = 1 then s.ofeTemporal id i w else (s, St.done, if ofePrior w = 2 then ofePriorH w else noHandle)
      if st ≠ St.done then (s, st)
      else
        let s := if ofePrior w = 1 ∧ used = noHandle then s.bump (R.OFE_PRIOR_ABSENT_CNT (id - 0x26)) else s
        let w := w ++ [BitVec.ofNat 32 used]
        (s.startTask i w (ofeOps w) [ofeOut w, ofeConf w] (ofeGrid w (s.ofeSize p w).2), St.done)

/-- A value that the spec leaves open for a pixel, a function of the job's parameters, its operands and the place (R297). (DESIGN CHOICE, log 5) -/
def openPixel (use : Nat) (w : List Word) (ims : List (List (List Byte))) (l : List Nat) : Nat :=
  Config.fpOpen use (l ++ w.map (·.toNat) ++ ims.flatMap (fun im => im.flatMap (fun r => r.map (·.toNat))))

/-- The winner of a pixel whose candidates were all removed. (DEDUCED, log 47) -/
def freeVec (w : List Word) (ims : List (List (List Byte))) (k x y : Nat) : Vec :=
  (sext 8 (openPixel 16 w ims [k, x, y] % 256), sext 8 (openPixel 17 w ims [k, x, y] % 256))

/-- Output rows that a band of 32 level-0 rows brings (R278, R295). -/
def ofeBand (w : List Word) : Nat := if ofeBlock4 w then 8 else 32

/-- Output rows complete with the first `b` bands of a level 0 of H rows (R295). -/
def ofeRows (w : List Word) (H b : Nat) : Nat := if ceilDiv H 32 ≤ b then ofeGrid w H else ofeBand w * b
def ofeCounts (w : List Word) (H : Nat) : List Nat := (List.range (ceilDiv H 32 + 1)).map (ofeRows w H)

/-- The COUNT with which output row `y` is complete. -/
def ofeAt (w : List Word) (H y : Nat) : Nat := ofeRows w H (y / ofeBand w + 1)

/-- An OFE job as such (R295, R296): COUNT, PRIOR_USED, and what its results may set and count. -/
def ofeShape (w : List Word) (n W H : Nat) : EngOut :=
  let px := ofeGrid w W * ofeGrid w H
  { EngOut.blank (ofeOps w) (ofeCounts w H) with
    fixed := b2n (ofeUsedPrior w != noHandle) * 64
    bits := [(ofeGrid w H + 1, 0x30)]
    adds := [(ofeGrid w H + 1, R.OFE_INVALID_CNT n, px), (ofeGrid w H + 1, R.OFE_REACH_CNT n, px)] }

/-- The prior's centre for a top-level pixel (R276); `pr` is the prior's field. -/
def ofeCentre (w : List Word) (W H : Nat) (pr : Img) (u v : Nat) : Vec :=
  let T := ofeLevels w - 1
  if ofeUsedPrior w = noHandle then (0, 0)
  else
    let at_ (n c : Nat) : Nat := min (if ofeBlock4 w then (c * 2 ^ T + 1) / 4 else c * 2 ^ T) (ofeGrid w n - 1)
    let dx := pr 0 (at_ W u) (at_ H v)
    let dy := pr 1 (at_ W u) (at_ H v)
    if dx = 0x8000 ∧ dy = 0x8000 then (0, 0) else (rneDivI (sext 16 dx) (16 * 2 ^ T), rneDivI (sext 16 dy) (16 * 2 ^ T))

/-- What an OFE job of engine `n` makes of its operands' rows (R273 to R279, R295). -/
def ofeOutOf (w : List Word) (n W H : Nat) (ims : List (List (List Byte))) : EngOut :=
  let L := ofeLevels w
  let WO := ofeGrid w W
  let HO := ofeGrid w H
  let esz := if ofeElem w = 0 then 1 else 2
  let im (k : Nat) : Nat → Nat → Nat := imgOf 1 0 esz (ims.getD k []) 0
  let l0 := ofeSearch w W H im (fun k => im (L + k)) (ofeUsedPrior w != noHandle) (ofeCentre w W H (imgOf 2 WO 2 (ims.getD (2 * L) [])))
    (freeVec w ims) (L - 1)
  let res := planeOf W H (fun x y => ofeResult w W H x y ((l0.getD y []).getD x ⟨(0, 0), [], false⟩))
  let at_ (x y : Nat) : Vec × Nat × Nat × Bool := (res.getD y []).getD x ((0, 0), 0, 4, false)
  let pick (i j : Nat) : Vec × Nat × Nat × Bool :=
    if !ofeBlock4 w then at_ i j
    else
      let pts := (List.range 4).flatMap (fun b => (List.range 4).filterMap (fun a =>
        if 1 ≤ 4 * i + a ∧ 4 * i + a ≤ W ∧ 1 ≤ 4 * j + b ∧ 4 * j + b ≤ H then some (at_ (4 * i + a - 1) (4 * j + b - 1)) else none))
      (pts.foldl (fun (m : Option (Vec × Nat × Nat × Bool)) r => match m with
        | none => some r
        | some o => if o.2.1 < r.2.1 then some r else some o) none).getD ((0, 0), 0, 4, false)
  let out := planeOf WO HO pick
  let o (x y : Nat) : Vec × Nat × Nat × Bool := (out.getD y []).getD x ((0, 0), 0, 4, false)
  let vec : Img := fun k x y => if (o x y).2.2.1 ≠ 0 then 0x8000 else unsext 16 (if k = 0 then (o x y).1.1 else (o x y).1.2)
  let conf : Img := fun _ x y => if (o x y).2.2.1 ≠ 0 then (o x y).2.2.1 else (o x y).2.1
  let rows := out.zipIdx.map (fun r => (ofeAt w H r.2, (r.1.filter (fun q => q.2.2.1 != 0)).length, (r.1.filter (fun q => q.2.2.2)).length))
  let cuts := res.zipIdx.filter (fun r => r.1.any (·.2.2.2))
  { ofeShape w n W H with
    pieces := imgPieces (2 * L) 2 WO HO 2 vec (ofeAt w H) (fun _ => 0)
      ++ (if ofeConf w = noHandle then [] else imgPieces (2 * L + 1) 1 WO HO 1 conf (ofeAt w H) (fun _ => 0))
    adds := rows.flatMap (fun r => [(r.1, R.OFE_INVALID_CNT n, r.2.1), (r.1, R.OFE_REACH_CNT n, r.2.2)])
    bits := (rows.filter (·.2.1 != 0)).map (fun r => (r.1, 0x20)) ++ cuts.map (fun r => (ofeRows w H (r.2 / 32 + 1), 0x10)) }

/-- An OFE job run on its operands. -/
def State.ofeRun (s : State) (id i b : Nat) : State × Nat × EngOut :=
  let w := (s.task i).params
  let L := ofeLevels w
  let (W, H) := s.ofeSize (s.task i).part w
  let used := ofeUsedPrior w
  let ins := (List.range L).map (ofeRef w) ++ (List.range L).map (ofeSrc w) ++ (if used = noHandle then [] else [used])
  let (s, st, ims) := s.readTensors id i ins b
  (s, st, if st = St.done then ofeOutOf w (id - 0x26) W H ims else ofeShape w (id - 0x26) W H)

/-! ### Stereo (R282 to R290) -/

def sgeElem (w : List Word) : Nat := bits (wd w 0) 31 30
def sgeCost (w : List Word) : Nat := bits (wd w 0) 29 28
def sgeCensus (w : List Word) : Nat := bits (wd w 0) 27 26
def sgePaths8 (w : List Word) : Bool := bit (wd w 0) 25
def sgeLr (w : List Word) : Bool := bit (wd w 0) 24
def sgeEdge (w : List Word) : Bool := bit (wd w 0) 23
def sgeEdgeShift (w : List Word) : Nat := bits (wd w 0) 22 20
def sgeTol (w : List Word) : Nat := bits (wd w 0) 19 16
def sgeShift (w : List Word) : Nat := bits (wd w 0) 15 13
def sgeLeft (w : List Word) : Nat := half w 1 true
def sgeRight (w : List Word) : Nat := half w 1 false
def sgeOut (w : List Word) : Nat := half w 2 true
def sgeConf (w : List Word) : Nat := half w 2 false
def sgeMin (w : List Word) : Nat := half w 3 true
def sgeCount (w : List Word) : Nat := half w 3 false
def sgeConfMin (w : List Word) : Nat := bits (wd w 4) 31 24
def sgeScale (w : List Word) : Nat := bits (wd w 4) 23 16
def sgeP2 (w : List Word) : Nat := bits (wd w 4) 15 8
def sgeP1 (w : List Word) : Nat := bits (wd w 4) 7 0
def sgeClip (w : List Word) : Nat := bits (wd w 5) 13 8
def sgeAdShift (w : List Word) : Nat := bits (wd w 5) 3 0
def sgeOps (w : List Word) : List Nat := [sgeLeft w, sgeRight w, sgeOut w] ++ (if sgeConf w = noHandle then [] else [sgeConf w])

def State.sgeSize (s : State) (p : Nat) (w : List Word) : Nat × Nat :=
  match s.desc? p (sgeLeft w) with | some d => (d.size 0, d.size 1) | none => (0, 0)

/-- The checks of R234, R263 to R265, R282, R285 for an SGE job. -/
def State.sgeCheck (s : State) (p : Nat) (w : List Word) : Nat :=
  let (W, H) := s.sgeSize p w
  let e := if sgeElem w = 0 then El.uint8 else El.uint16
  let D := sgeCount w
  let reserved := bits (wd w 0) 12 0 != 0 || bits (wd w 5) 31 14 != 0 || bits (wd w 5) 7 4 != 0 || bits (wd w 7) 31 8 != 0
    || (List.range 24).any (fun k => wd w (8 + k) != 0)
    || decide (1 < sgeElem w) || decide (1 < sgeCost w) || sgeCensus w == 3 || decide (4 < sgeShift w) || decide (sgeP2 w < sgeP1 w)
    || decide (D < 16 ∨ 512 < D ∨ D % 16 ≠ 0 ∨ 4095 < sgeMin w + D)
    || (sgeCost w == 1 && decide (sgeClip w < 1 ∨ 8 < sgeAdShift w))
    || decide ((if sgePaths8 w then 262144 else 1048576) < W * D)
  let img (h e : Nat) (wr : Bool) : Bool := s.inDram p h && s.descIs p h (fun d => d.isImage e 1 W H && (!wr || (d.canWrite && !d.accum)))
  let bad := !img (sgeLeft w) e false || !img (sgeRight w) e false || !img (sgeOut w) El.uint16 true
    || (sgeConf w != noHandle && !img (sgeConf w) El.uint8 true) || decide (W < 16 ∨ H < 16 ∨ 8192 < W ∨ 8192 < H)
  let save := s.saveCheck p (addrOf w 6) (W * H * D / 2)
  chk ([(reserved || bad, St.descInvalid)] ++ save.take 2
    ++ [(s.foreign p (sgeLeft w) false || s.foreign p (sgeRight w) false || s.foreign p (sgeOut w) true || s.foreign p (sgeConf w) true,
        St.partitionFault)] ++ save.drop 2)

/-- One step of a path over disparities (R269, R282). -/
def dispStep (p1 p2 : Nat) (prev : Option (List Nat)) (cur : List Nat) : List Nat :=
  match prev with
  | none => cur
  | some l =>
    let m := minOf 0 l
    (cur.zipIdx).map (fun e =>
      let own := l.getD e.2 m
      let lo := if e.2 = 0 then [] else [l.getD (e.2 - 1) 0 + p1]
      let hi := match l[e.2 + 1]? with | some x => [x + p1] | none => []
      sat16 (e.1 + minOf own ([own, m + p2] ++ lo ++ hi) - m))

/-- One row of path costs in direction (rx, ±1) from the row before it, or along the row when `ry` is 0. -/
def dispRow (p1 : Nat) (p2 : Nat → Option Nat → Nat) (W : Nat) (rx : Int) (prevRow : Option (List (List Nat))) (row : List (List Nat)) : List (List Nat) :=
  (List.range W).map (fun (x : Nat) =>
    let q := (x : Int) - rx
    let prev := match prevRow with
      | some r => if q < 0 ∨ (W : Int) ≤ q then none else r[q.toNat]?
      | none => none
    dispStep p1 (p2 x (if q < 0 then none else some q.toNat)) prev (row.getD x []))

/-- Path costs over the whole image in direction (rx, ry): rows in the order the direction visits them (R283). (DEDUCED, log 47) -/
def dispPath (w : List Word) (W H : Nat) (g : Nat → Nat → Nat) (cost : List (List (List Nat))) (rx ry : Int) : List (List (List Nat)) :=
  let p2 (x y : Nat) (q : Int × Int) : Nat :=
    if sgeEdge w ∧ 0 ≤ q.1 ∧ q.1 < W ∧ 0 ≤ q.2 ∧ q.2 < H then
      max (sgeP1 w) (sgeP2 w - ((g x y : Int) - g q.1.toNat q.2.toNat).natAbs / 2 ^ sgeEdgeShift w)
    else sgeP2 w
  if ry = 0 then
    (cost.zipIdx).map (fun r =>
      let xs := if 0 < rx then List.range W else (List.range W).reverse
      let l := xs.foldl (fun (acc : List (List Nat) × Option (List Nat)) x =>
        let c := dispStep (sgeP1 w) (p2 x r.2 ((x : Int) - rx, (r.2 : Int))) acc.2 (r.1.getD x [])
        (c :: acc.1, some c)) ([], none)
      if 0 < rx then l.1.reverse else l.1)
  else
    let ys := if 0 < ry then List.range H else (List.range H).reverse
    let l := ys.foldl (fun (acc : List (List (List Nat)) × Option (List (List Nat))) y =>
      let r := dispRow (sgeP1 w) (fun x q => match q with | some q => p2 x y ((q : Int), (y : Int) - ry) | none => sgeP2 w) W rx acc.2 (cost.getD y [])
      (r :: acc.1, some r)) ([], none)
    if 0 < ry then l.1.reverse else l.1

/-- A partial sum as it is read back from the scratch area (R285). -/
def scratchSum (sh : Nat) (l : List Nat) : List Nat :=
  let m := minOf 0 l
  l.map (fun v => min 15 (rneDiv (v - m) (2 ^ sh)) * 2 ^ sh)

/-- The aggregated costs S of every pixel (R270, R283 to R285): in the upper half pipe A's sum was stored and pipe B's is live, in the
lower half the other way round. -/
def sgeSums (w : List Word) (W H : Nat) (g : Nat → Nat → Nat) (cost : List (List (List Nat))) : List (List (List Nat)) :=
  let path := dispPath w W H g cost
  let a := [path 1 0, path (-1) 0, path 0 1] ++ (if sgePaths8 w then [path 1 1, path (-1) 1] else [])
  let b := [path 0 (-1)] ++ (if sgePaths8 w then [path 1 (-1), path (-1) (-1)] else [])
  let sum (l : List (List (List (List Nat)))) (x y : Nat) : List Nat :=
    (List.range (sgeCount w)).map (fun k => sat16 ((l.map (fun q => (((q.getD y []).getD x []).getD k 0))).sum))
  planeOf W H (fun x y =>
    let pa := sum a x y
    let pb := sum b x y
    let (u, v) := if y < (H + 1) / 2 then (scratchSum (sgeShift w) pa, pb) else (pa, scratchSum (sgeShift w) pb)
    (u.zip v).map (fun e => sat16 (e.1 + e.2)))

/-- The place of the first lowest entry. -/
def argMin (l : List Nat) : Nat :=
  ((l.zipIdx).foldl (fun (b : Option (Nat × Nat)) e => match b with
    | none => some (e.1, e.2)
    | some m => if e.1 < m.1 then some (e.1, e.2) else some m) none).elim 0 (·.2)

/-- A result (R271, R272, R287, R288): disparity code, confidence code, reason. Where x − w lies left of the image the check of R287
has no right pixel: `free` answers. (DEDUCED, log 47) -/
def sgeResult (w : List Word) (W : Nat) (S : Nat → List Nat) (free : Bool) (x : Nat) : Nat × Nat × Nat :=
  let l := S x
  let k := argMin l
  let win := sgeMin w + k
  let o := if win = 0 then 0 else subPixel (if k = 0 then none else l[k - 1]?) l[k]? l[k + 1]?
  let ref := minOf 0 (((l.zipIdx).filter (fun e => decide (e.2 + 2 ≤ k ∨ k + 2 ≤ e.2))).map (·.1))
  let conf := confidence ref (l.getD k 0) (sgeScale w)
  let lrFail :=
    if !sgeLr w then false
    else if x < win then free
    else
      let xr := x - win
      let c := (List.range (sgeCount w)).filter (fun j => decide (xr + sgeMin w + j < W))
      let best := c.foldl (fun (b : Option (Nat × Nat)) j =>
        let v := (S (xr + sgeMin w + j)).getD j 0
        match b with
        | none => some (v, sgeMin w + j)
        | some m => if v < m.1 then some (v, sgeMin w + j) else some m) none
      match best with
      | some m => decide (sgeTol w < ((win : Int) - m.2).natAbs)
      | none => free
  let reason := if x < sgeMin w then 4
    else if k + 1 = sgeCount w ∨ (k = 0 ∧ 0 < sgeMin w) then 2
    else if lrFail then 1
    else if sgeConfMin w ≠ 0 ∧ conf < sgeConfMin w then 3 else 0
  if reason = 0 then (unsext 16 (16 * (win : Int) + o), conf, 0) else (0xFFFF, reason, reason)

/-- Bytes of the scratch area (R285). -/
def sgeScratch (w : List Word) (W H : Nat) : Nat := W * H * sgeCount w / 2

/-- Start of an SGE job. -/
def State.sgeStart (s : State) (id i : Nat) : State × Nat :=
  let (s, st, w) := s.readParams id i 128
  if st ≠ St.done then (s, st)
  else
    let p := (s.task i).part
    let st := s.sgeCheck p w
    if st ≠ St.done then (s, st)
    else
      let (W, H) := s.sgeSize p w
      (s.startTask i (w ++ areaWords (sgeScratch w W H)) (sgeOps w) [sgeOut w, sgeConf w] H, St.done)

/-- The finished rows after `f` finishing steps (R284, R295). -/
def sgeRows (H f : Nat) : Nat := min H (2 * f)
def sgeCounts (H : Nat) : List Nat := (List.range ((H + 1) / 2 + 1)).map (sgeRows H)

/-- The COUNT with which row `y` is finished: pipe A writes from H_top downwards, pipe B from H_top − 1 upwards (R284). -/
def sgeAt (H y : Nat) : Nat := let t := (H + 1) / 2; sgeRows H (if t ≤ y then y - t + 1 else t - y)

/-- An SGE job as such (R295, R296): COUNT, PATHS8, and what its results may set and count. -/
def sgeShape (w : List Word) (W H : Nat) : EngOut :=
  { EngOut.blank (sgeOps w) (sgeCounts H) with
    fixed := b2n (sgePaths8 w) * 8
    bits := [(H + 1, 0x30 + b2n (sgeLr w) * 64)]
    adds := [(H + 1, R.SGE_INVALID_CNT, W * H), (H + 1, R.SGE_LR_FAIL_CNT, b2n (sgeLr w) * (W * H)), (H + 1, R.SGE_RANGE_EDGE_CNT, W * H)] }

/-- What an SGE job makes of its two images (R282 to R288, R295). -/
def sgeOutOf (w : List Word) (W H : Nat) (ims : List (List (List Byte))) : EngOut :=
  let esz := if sgeElem w = 0 then 1 else 2
  let a := imgOf 1 0 esz (ims.getD 0 []) 0
  let b := imgOf 1 0 esz (ims.getD 1 []) 0
  let sigA := planeOf W H (census (sgeCensus w) W H a)
  let sigB := planeOf W H (census (sgeCensus w) W H b)
  let at_ (l : List (List (List Bool))) (x y : Nat) : List Bool := (l.getD y []).getD x []
  let cost := planeOf W H (fun x y => (List.range (sgeCount w)).map (fun k =>
    let d := sgeMin w + k
    if x < d then 63
    else if sgeCost w = 0 then hamming (at_ sigA x y) (at_ sigB (x - d) y)
    else min (sgeClip w) (((a x y : Int) - b (x - d) y).natAbs / 2 ^ sgeAdShift w)))
  let g (x y : Nat) : Nat := if sgeElem w = 0 then a x y else a x y / 256
  let S := sgeSums w W H g cost
  let res := planeOf W H (fun x y => sgeResult w W (fun x => (S.getD y []).getD x []) (openPixel 18 w ims [x, y] % 2 == 1) x)
  let o (x y : Nat) : Nat × Nat × Nat := (res.getD y []).getD x (0, 0, 0)
  let rows := res.zipIdx.map (fun r =>
    let cnt (f : Nat → Bool) : Nat := (r.1.filter (fun e => f e.2.2)).length
    (sgeAt H r.2, cnt (· != 0), cnt (· == 1), cnt (· == 2)))
  let bit (b n : Nat) : Nat := if n = 0 then 0 else b
  { sgeShape w W H with
    pieces := imgPieces 2 1 W H 2 (fun _ x y => (o x y).1) (sgeAt H) (fun _ => 0)
      ++ (if sgeConf w = noHandle then [] else imgPieces 3 1 W H 1 (fun _ x y => (o x y).2.1) (sgeAt H) (fun _ => 0))
    adds := rows.flatMap (fun r => [(r.1, R.SGE_INVALID_CNT, r.2.1), (r.1, R.SGE_LR_FAIL_CNT, r.2.2.1), (r.1, R.SGE_RANGE_EDGE_CNT, r.2.2.2)])
    bits := rows.map (fun r => (r.1, bit 0x20 r.2.1 ||| bit 0x40 r.2.2.1 ||| bit 0x10 r.2.2.2)) }

/-- An SGE job run on its operands. -/
def State.sgeRun (s : State) (id i b : Nat) : State × Nat × EngOut :=
  let w := (s.task i).params
  let (W, H) := s.sgeSize (s.task i).part w
  let (s, st, ims) := s.readTensors id i [sgeLeft w, sgeRight w] b
  (s, st, if st = St.done then sgeOutOf w W H ims else sgeShape w W H)

end Sys2Proof.Machine
end

