-- ==== Sys2Proof/Machine/Feature.lean ====
section
/-! DEFINITION. The feature engine (08_feature_engine.md): corners, descriptors, tracks, pair tables and track sets. -/

namespace Sys2Proof.Machine

/-! ### Parameter block (R319) -/

def fteLevels (w : List Word) : Nat := bits (wd w 0) 31 29 + 1
def fteElem (w : List Word) : Nat := bits (wd w 0) 28 27
def fteDescribe (w : List Word) : Bool := bit (wd w 0) 26
def fteMatch (w : List Word) : Bool := bit (wd w 0) 25
def fteOrient (w : List Word) : Bool := bit (wd w 0) 24
def fteSmooth (w : List Word) : Bool := bit (wd w 0) 23
def ftePt (w : List Word) : Nat := bits (wd w 0) 22 21
def fteArc (w : List Word) : Nat := bits (wd w 0) 20 16
def fteThresh (w : List Word) : Nat := bits (wd w 0) 15 8
def fteMargin (w : List Word) : Nat := bits (wd w 0) 7 0
def fteLevel (w : List Word) (k : Nat) : Nat := half w (1 + k / 2) (k % 2 == 1)
def fteGx (w : List Word) : Nat := bits (wd w 5) 31 26 + 1
def fteGy (w : List Word) : Nat := bits (wd w 5) 25 20 + 1
def ftePerCell (w : List Word) : Nat := bits (wd w 5) 19 14 + 1
def fteKp (w : List Word) : Nat := half w 6 true
def fteFlow (w : List Word) : Nat := half w 6 false
def fteSet (w : List Word) : Nat := bits (wd w 7) 31 28
def fteBlock4 (w : List Word) : Bool := bit (wd w 7) 27
def fteTol (w : List Word) : Nat := bits (wd w 7) 26 24
def fteWin (w : List Word) : Nat := bits (wd w 7) 23 16
def fteMaxDist (w : List Word) : Nat := bits (wd w 7) 15 8
def fteRatio (w : List Word) : Nat := bits (wd w 7) 7 0
def fteTt (w : List Word) : Nat := half w 8 true
def fteCap (w : List Word) : Nat := bits (wd w 9) 31 16 + 1
def fteMaxMisses (w : List Word) : Nat := bits (wd w 9) 15 12

/-- The operands: levels, keypoint list, track table, flow field. -/
def fteOps (w : List Word) : List Nat :=
  (List.range (fteLevels w)).map (fteLevel w) ++ [fteKp w] ++ (if fteMatch w then [fteTt w] else [])
    ++ (if fteFlow w = noHandle then [] else [fteFlow w])

/-- Keypoints a job can have. -/
def fteMaxKp (w : List Word) : Nat := fteGx w * fteGy w * ftePerCell w

/-- Width and height of level 0. -/
def State.fteSize (s : State) (p : Nat) (w : List Word) : Nat × Nat :=
  match s.desc? p (fteLevel w 0) with | some d => (d.size 0, d.size 1) | none => (0, 0)

/-- An axis of the flow field. -/
def fteGrid (w : List Word) (n : Nat) : Nat := if fteBlock4 w then ceilDiv (n - 1) 4 + 1 else n

/-- Pair table `k`. -/
def State.pairTable (s : State) (k : Nat) : Option PairTable := s.fte.getD k none

/-- The checks of R234, R300, R301 for an FTE job. -/
def State.fteCheck (s : State) (p : Nat) (w : List Word) : Nat :=
  let L := fteLevels w
  let (W, H) := s.fteSize p w
  let e := if fteElem w = 0 then El.uint8 else El.uint16
  let reserved := decide (1 < fteElem w) || decide (fteArc w < 9 ∨ 12 < fteArc w) || fteThresh w == 0
    || decide (fteMargin w < 3 ∨ 31 < fteMargin w) || (List.range 8).any (fun k => decide (L ≤ k) && fteLevel w k != noHandle)
    || bits (wd w 5) 13 0 != 0 || fteWin w == 0 || half w 8 false != 0 || bits (wd w 9) 11 0 != 0
    || (!fteMatch w && fteTt w != noHandle) || (List.range 22).any (fun k => wd w (10 + k) != 0)
  let table (h n : Nat) : Bool := s.inDram p h && s.descIs p h (fun d =>
    d.layout == 0 && d.elem == El.uint8 && d.rank == 1 && d.canWrite && !d.accum && decide (n ≤ d.size 0))
  let badImg := (List.range L).any (fun k =>
    !(s.inDram p (fteLevel w k) && s.descIs p (fteLevel w k) (fun d => d.isImage e 1 (halfSize W k) (halfSize H k)))
      || decide (halfSize W k < 16 ∨ halfSize H k < 16 ∨ 8192 < halfSize W k ∨ 8192 < halfSize H k))
  let badFlow := fteFlow w != noHandle
    && !(s.inDram p (fteFlow w) && s.descIs p (fteFlow w) (fun d => d.isImage El.int16 2 (fteGrid w W) (fteGrid w H)))
  let cfg := s.reg (R.FTE_TS_CFG (fteSet w))
  chk [(reserved || badImg || badFlow || (fteMatch w && !fteDescribe w) || decide (16384 < fteMaxKp w)
      || !table (fteKp w) (64 + 64 * fteMaxKp w) || (fteMatch w && !table (fteTt w) (64 + 64 * fteCap w))
      || (s.pairTable (ftePt w)).isNone || !bit cfg 0, St.descInvalid),
    ((List.range L).any (fun k => s.foreign p (fteLevel w k) false) || s.foreign p (fteKp w) true || s.foreign p (fteFlow w) false
      || (fteMatch w && s.foreign p (fteTt w) true) || bits cfg 31 30 != p
      || (match s.pairTable (ftePt w) with | some t => t.owner != p | none => false), St.partitionFault)]

/-- Start of an FTE job. -/
def State.fteStart (s : State) (id i : Nat) : State × Nat :=
  let (s, st, w) := s.readParams id i 128
  if st ≠ St.done then (s, st)
  else
    let st := s.fteCheck (s.task i).part w
    if st ≠ St.done then (s, st)
    else (s.startTask i w (fteOps w) (fteKp w :: (if fteMatch w then [fteTt w] else [])) (fteMaxKp w), St.done)

/-! ### Detection (R302 to R305) -/

/-- The test circle. -/
def fteCircle : List (Int × Int) :=
  [(0, -3), (1, -3), (2, -2), (3, -1), (3, 0), (3, 1), (2, 2), (1, 3), (0, 3), (-1, 3), (-2, 2), (-3, 1), (-3, 0), (-3, -1), (-2, -2), (-1, -3)]

/-- At least `n` circularly contiguous entries hold. -/
def arcOf (n : Nat) (l : List Bool) : Bool :=
  (List.range l.length).any (fun k => (List.range n).all (fun j => l.getD ((k + j) % l.length) false))

/-- The corner score of a pixel (R302): the sum of max(0, |g − c| − THRESH) over the circle pixels of the polarity that passes. -/
def cornerScore (arc th : Nat) (g : Nat → Nat → Nat) (x y : Nat) : Nat :=
  let c := g x y
  let ring := fteCircle.map (fun o => g ((x : Int) + o.1).toNat ((y : Int) + o.2).toNat)
  if arcOf arc (ring.map (fun v => decide (c + th < v))) then (ring.map (fun v => v - c - th)).sum
  else if arcOf arc (ring.map (fun v => decide (v + th < c))) then (ring.map (fun v => c - v - th)).sum
  else 0

/-- A keypoint: level, pixel of its level, score, level-0 position in UQ13.3 (R304). -/
structure Keypoint where
  level : Nat
  u : Nat
  v : Nat
  score : Nat
  x : Nat
  y : Nat
deriving DecidableEq, Repr

/-- The level-0 position of a coordinate in eighths, clamped (R304). -/
def level0 (k n u : Nat) : Nat := min (2 ^ k * (8 * u + 4) - 4) (8 * (n - 1))

/-- The candidates of a level in raster order (R303): strictly above the neighbours before it, at least those after it. (DEDUCED, log 48) -/
def fteCandidates (w : List Word) (W0 H0 k : Nat) (g : Nat → Nat → Nat) : List Keypoint :=
  let W := halfSize W0 k
  let H := halfSize H0 k
  let m := fteMargin w
  let sc := planeOf W H (fun x y =>
    if m ≤ x ∧ x + m < W ∧ m ≤ y ∧ y + m < H then cornerScore (fteArc w) (fteThresh w) g x y else 0)
  let at_ (x y : Int) : Nat := if x < 0 ∨ y < 0 then 0 else (sc.getD y.toNat []).getD x.toNat 0
  (List.range H).flatMap (fun (y : Nat) => (List.range W).filterMap (fun (x : Nat) =>
    let c := at_ x y
    let before := [at_ (x - 1) (y - 1), at_ x (y - 1), at_ (x + 1) (y - 1), at_ (x - 1) y]
    let after := [at_ (x + 1) y, at_ (x - 1) (y + 1), at_ x (y + 1), at_ (x + 1) (y + 1)]
    if c ≠ 0 ∧ before.all (fun v => decide (v < c)) ∧ after.all (fun v => decide (v ≤ c)) then
      some ⟨k, x, y, c, level0 k W0 x, level0 k H0 y⟩ else none))

/-- A keypoint put in its place among those of its cell: a higher score first, else after those already there (R305). -/
def kpInsert (a : Keypoint) : List Keypoint → List Keypoint
  | [] => [a]
  | b :: t => if b.score < a.score then a :: b :: t else b :: kpInsert a t

/-- The keypoints of the job in the order of its list (R304, R305). `all` is in order of level, then raster. (DEDUCED, log 48) -/
def fteSelect (w : List Word) (W0 H0 : Nat) (all : List Keypoint) : List Keypoint :=
  let cell (k : Keypoint) : Nat := k.y / 8 * fteGy w / H0 * fteGx w + k.x / 8 * fteGx w / W0
  (List.range (fteGx w * fteGy w)).flatMap (fun c =>
    ((all.filter (fun k => cell k == c)).foldl (fun l k => kpInsert k l) []).take (ftePerCell w))

/-! ### Orientation and descriptors (R306 to R308) -/

/-- round(cos(a × 2π / 64) × 2¹⁴) for a quarter turn. -/
def cosTable : List Int := [16384, 16305, 16069, 15679, 15137, 14449, 13623, 12665, 11585, 10394, 9102, 7723, 6270, 4756, 3196, 1606, 0]

/-- round(cos(a × 2π / 64) × 2⁸⁰) for a quarter turn: enough to tell the nearest bin of every moment (R306). -/
def cosFine : List Int :=
  [1208925819614629174706176, 1203104511360146332467513, 1185696648977439268413811, 1156869879697359015515708,
   1116901821066387782991457, 1066177387337905144460521, 1005185082537512458122801, 934512295902222861419482,
   854839645001009215068542, 766934421015551484640081, 671643199306713136413605, 569883686431030855087652,
   462635882124905661503633, 350932641371419020810022, 235849727442229801031474, 118495451709196174743783, 0]

/-- The cosine of bin `a` from a quarter-turn table. -/
def cosOf (t : List Int) (a : Nat) : Int :=
  let a := a % 64
  if a ≤ 16 then t.getD a 0 else if a ≤ 32 then -(t.getD (32 - a) 0) else if a ≤ 48 then -(t.getD (a - 32) 0) else t.getD (64 - a) 0
def sinOf (t : List Int) (a : Nat) : Int := cosOf t (a + 48)

/-- The orientation bin nearest to the direction of a moment (R306): the bin of the largest projection. No integer moment lies
exactly between two bins. -/
def orientBin (m10 m01 : Int) : Nat :=
  if m10 = 0 ∧ m01 = 0 then 0
  else
    let dot (a : Nat) : Int := m10 * cosOf cosFine a + m01 * sinOf cosFine a
    (List.range 64).foldl (fun b a => if dot b < dot a then a else b) 0

/-- The orientation of a keypoint over the disc of radius 15 at its level. (DEDUCED, log 48) -/
def fteBin (w : List Word) (W H : Nat) (g : Nat → Nat → Nat) (u v : Nat) : Nat :=
  if !fteOrient w then 0
  else
    let pts : List (Int × Int) := (List.range 31).flatMap (fun (j : Nat) => (List.range 31).filterMap (fun (i : Nat) =>
      let x := (i : Int) - 15
      let y := (j : Int) - 15
      if x * x + y * y ≤ 225 then some (x, y) else none))
    let at_ (o : Int × Int) : Int := g (reflect W ((u : Int) + o.1)) (reflect H ((v : Int) + o.2))
    orientBin ((pts.map (fun o => o.1 * at_ o)).sum) ((pts.map (fun o => o.2 * at_ o)).sum)

/-- A pair table offset rotated to bin `a` (R307). -/
def rotated (a : Nat) (x y : Int) : Int × Int :=
  (rneDivI (x * cosOf cosTable a - y * sinOf cosTable a) (2 ^ 14), rneDivI (x * sinOf cosTable a + y * cosOf cosTable a) (2 ^ 14))

/-- The sample a descriptor bit compares (R308). -/
def fteSample (w : List Word) (W H : Nat) (g : Nat → Nat → Nat) (x y : Int) : Nat :=
  let at_ (x y : Int) : Nat := g (reflect W x) (reflect H y)
  if fteSmooth w then
    rneDiv (((List.range 3).flatMap (fun (j : Nat) => (List.range 3).map (fun (i : Nat) => at_ (x + i - 1) (y + j - 1)))).sum) 9
  else at_ x y

/-- The 256 bits of a descriptor as eight words (R308). (DEDUCED, log 48) -/
def fteDesc (w : List Word) (pt : List Word) (W H : Nat) (g : Nat → Nat → Nat) (a u v : Nat) : List Word :=
  let b (i : Nat) : Bool :=
    let e := wd pt i
    let (x1, y1) := rotated a (sext 8 (bits e 7 0)) (sext 8 (bits e 15 8))
    let (x2, y2) := rotated a (sext 8 (bits e 23 16)) (sext 8 (bits e 31 24))
    decide (fteSample w W H g ((u : Int) + x1) ((v : Int) + y1) < fteSample w W H g ((u : Int) + x2) ((v : Int) + y2))
  (List.range 8).map (fun k => BitVec.ofNat 32 (((List.range 32).map (fun j => b2n (b (32 * k + j)) * 2 ^ j)).sum))

/-- Differing bits of two descriptors. -/
def wordsHamming (a b : List Word) : Nat :=
  ((a.zip b).map (fun e => ((List.range 32).filter (fun i => bit e.1 i != bit e.2 i)).length)).sum

/-! ### Tracks (R309 to R318) -/

/-- A query: a keypoint with its orientation bin and descriptor. -/
structure Query where
  kp : Keypoint
  bin : Nat
  desc : List Word
deriving DecidableEq, Repr

/-- An entry of a track table (R318). -/
structure Track where
  id : Word
  x : Nat
  y : Nat
  age : Nat
  misses : Nat
  level : Nat
  orient : Nat
  score : Nat
  lastTag : Word
  desc : List Word
deriving DecidableEq, Repr

/-- An entry read from its 16 words, and back. -/
def trackOf (ws : List Word) : Track :=
  ⟨wd ws 0, bits (wd ws 1) 31 16, bits (wd ws 1) 15 0, bits (wd ws 2) 31 16, bits (wd ws 2) 15 8, bits (wd ws 2) 7 5,
   bits (wd ws 3) 31 26, bits (wd ws 3) 15 0, wd ws 4, (List.range 8).map (fun k => wd ws (8 + k))⟩
def Track.words (t : Track) : List Word :=
  [t.id, BitVec.ofNat 32 (65536 * t.x + t.y), BitVec.ofNat 32 (65536 * t.age + t.misses % 256 * 256 + t.level % 8 * 32),
   BitVec.ofNat 32 (2 ^ 26 * t.orient + t.score), t.lastTag, 0, 0, 0] ++ t.desc

/-- A header of 15 words followed by its CHECK. -/
def withCheck (ws : List Word) : List Word :=
  let h := (ws ++ List.replicate 15 0).take 15
  h ++ [crc32c (wordBytes h)]

/-- A query's match (R310): the track's place and d1. -/
def fteBest (w : List Word) (q : Query) (px py : Int) (tracks : List Track) : Option (Nat × Nat) :=
  let near (t : Track) : Bool := decide (((t.x : Int) - px).natAbs ≤ 8 * fteWin w) && decide (((t.y : Int) - py).natAbs ≤ 8 * fteWin w)
    && decide (((t.level : Int) - q.kp.level).natAbs ≤ fteTol w)
  let l := ((tracks.zipIdx).filter (fun e => near e.1)).map (fun e => (e.2, wordsHamming q.desc e.1.desc))
  match l with
  | [] => none
  | e :: t =>
    let best := t.foldl (fun b c => if c.2 < b.2 then c else b) e
    let others := (l.filter (fun c => c.1 != best.1)).map (·.2)
    if best.2 ≤ fteMaxDist w ∧ (fteRatio w = 0 ∨ others = [] ∨ 256 * best.2 ≤ fteRatio w * minOf 0 others) then some best else none

/-- Which query keeps each track that several want (R311): the matches that stand. -/
def fteResolve (ms : List (Option (Nat × Nat))) : List (Option (Nat × Nat)) :=
  (ms.zipIdx).map (fun e => match e.1 with
    | none => none
    | some (t, d) =>
      if (ms.zipIdx).any (fun o => o.2 != e.2 && (match o.1 with
          | some (t', d') => t' == t && (decide (d' < d) || (d' == d && decide (o.2 < e.2)))
          | none => false)) then none else some (t, d))

/-- What matching and the table output give: the output table, and per query TRACK_ID, TABLE_FULL, NEW. -/
structure TrackOut where
  table : List Track
  marks : List (Word × Bool × Bool)
  nextId : Nat
  dropped : Nat
deriving DecidableEq, Repr

/-- The output table (R312 to R314). (DEDUCED, log 48) -/
def fteTable (w : List Word) (tag : Word) (tracks : List Track) (qs : List Query) (ms : List (Option (Nat × Nat))) (next : Nat) : TrackOut :=
  let hit (i : Nat) : Option Query := ((qs.zip ms).find? (fun e => match e.2 with | some (t, _) => t == i | none => false)).map (·.1)
  let kept := ((tracks.zipIdx).filterMap (fun e => match hit e.2 with
    | some q => some { e.1 with x := q.kp.x, y := q.kp.y, level := q.kp.level, orient := q.bin, score := q.kp.score, desc := q.desc,
                                age := min (e.1.age + 1) 65535, misses := 0, lastTag := tag }
    | none => if e.1.misses < fteMaxMisses w then some { e.1 with misses := e.1.misses + 1 } else none))
  (qs.zip ms).foldl (fun (o : TrackOut) e =>
    match e.2 with
    | some (t, _) => { o with marks := o.marks ++ [((tracks.getD t (trackOf [])).id, false, false)] }
    | none =>
      if o.table.length < fteCap w then
        let q := e.1
        { o with table := o.table ++ [⟨BitVec.ofNat 32 o.nextId, q.kp.x, q.kp.y, 0, 0, q.kp.level, q.bin, q.kp.score, tag, q.desc⟩],
                 marks := o.marks ++ [(BitVec.ofNat 32 o.nextId, false, true)], nextId := nextTrackId o.nextId 1 }
      else { o with marks := o.marks ++ [(0, true, false)] }) ⟨kept, [], next, tracks.length - kept.length⟩

/-- The predicted position of a query in eighths (R309), and whether a valid flow sample gave it. -/
def ftePredict (w : List Word) (W H : Nat) (flow : Option Img) (k : Keypoint) : Int × Int × Bool :=
  match flow with
  | none => (k.x, k.y, false)
  | some f =>
    let at_ (n c : Nat) : Nat := min (if fteBlock4 w then (c / 8 + 1) / 4 else c / 8) (fteGrid w n - 1)
    let dx := f 0 (at_ W k.x) (at_ H k.y)
    let dy := f 1 (at_ W k.x) (at_ H k.y)
    if dx = 0x8000 ∧ dy = 0x8000 then (k.x, k.y, false)
    else ((k.x : Int) + rneDivI (sext 16 dx) 2, (k.y : Int) + rneDivI (sext 16 dy) 2, true)

/-- The input track table of a job (R315), with the status of the read of the parameter block that names it: the entries, or none when the
job matches against none, and whether the table was lost. No read of the table is repeated. (DEDUCED, log 48) -/
def State.fteInput (s : State) (id i : Nat) (w : List Word) (tag : Word) : State × Nat × Option (List Track) × Bool :=
  let p := (s.task i).part
  let arg0 := wd (s.task i).args 0
  if bit arg0 12 then (s, St.done, none, false)
  else
    match (s.task i).owner with
    | .node jid nd =>
      match (s.job? jid).bind (fun j => s.graph? j.graph) with
      | none => (s, St.done, none, true)
      | some g =>
        let (s, st, bs) := s.readAgain (whoPart id p) ((g.node nd).param + bits arg0 14 13 * (g.node nd).paramLen) 128 2
        let h := bits (wordAt bs 8) 31 16
        if st ≠ St.done then (s, exhausted st, none, false)
        else match s.desc? p h with
          | none => (s, St.done, none, true)
          | some d =>
            match s.region? d.region with
            | none => (s, St.done, none, true)
            | some r =>
              if r.kind ≠ RK.dram ∨ d.rank ≠ 1 ∨ d.size 0 < 64 ∨ r.readable p = false then (s, St.done, none, true)
              else
                let a := r.base + d.offset
                let (s, st, hb) := s.dramRead (whoPart id p) a 64
                let hdr := (List.range 16).map (wordAt hb)
                let n := min (bits (wd hdr 1) 16 0) ((d.size 0 - 64) / 64)
                if st ≠ St.done ∨ wd hdr 15 ≠ crc32c (hb.take 60) ∨ bits (wd hdr 1) 31 28 ≠ fteSet w
                  ∨ laterThan (bits tag 15 0) (bits (wd hdr 0) 15 0) = false then (s, St.done, none, true)
                else
                  let (s, st, bs) := s.dramRead (whoPart id p) (a + 64) (64 * n)
                  if st ≠ St.done then (s, St.done, none, true)
                  else (s, St.done, some ((List.range n).map (fun k => trackOf ((List.range 16).map (fun q => wordAt bs (16 * k + q))))), false)
    | _ => (s, St.done, none, true)

/-- The keypoint list (R317). -/
def fteList (tag : Word) (qs : List Query) (ms : List (Option (Nat × Nat))) (o : TrackOut) : List Word :=
  let nm := (ms.filter (·.isSome)).length
  let nn := (o.marks.filter (fun m => m.2.2)).length
  withCheck [tag, BitVec.ofNat 32 qs.length, BitVec.ofNat 32 (65536 * nn + nm), BitVec.ofNat 32 o.table.length] ++
  ((qs.zip (ms.zip o.marks)).flatMap (fun e =>
    let (q, m, id, full, new) := e
    [BitVec.ofNat 32 (65536 * q.kp.x + q.kp.y), BitVec.ofNat 32 (65536 * q.kp.score + 1024 * q.bin + q.kp.level * 128), id,
     BitVec.ofNat 32 (65536 * (match m with | some (_, d) => d | none => 0xFFFF) + b2n full * 4 + b2n new * 2 + b2n m.isSome),
     0, 0, 0, 0] ++ q.desc))

/-- The output track table (R318). -/
def fteTracks (w : List Word) (tag : Word) (o : TrackOut) : List Word :=
  withCheck [tag, BitVec.ofNat 32 (2 ^ 28 * fteSet w + 2 ^ 24 + o.table.length)] ++ o.table.flatMap Track.words

/-- An FTE job as such (R325, R326): at most `n` keypoint records, and what its results may set and count. -/
def fteShape (w : List Word) (n : Nat) : EngOut :=
  let m := b2n (fteMatch w)
  { EngOut.blank (fteOps w) (List.range (n + 1)) with
    bits := [(n + 1, m * (0x70 + b2n (fteFlow w != noHandle) * 8))]
    adds := [(n + 1, R.FTE_KP_CNT, n), (n + 1, R.FTE_MATCH_CNT, m * n), (n + 1, R.FTE_NEW_TRACK_CNT, m * n), (n + 1, R.FTE_DROP_TRACK_CNT, m * 65536),
      (n + 1, R.FTE_TT_FULL_CNT, m * n), (n + 1, R.FTE_TABLE_LOST_CNT, m)] }

/-- What FTE0 makes of a job (R302 to R318, R325): the rows of its levels and flow field, its pair table, its input tracks, whether the
input table was lost, and the set's next ID. Its outputs are undefined until the job is done. -/
def fteOutOf (w : List Word) (tag : Word) (W H : Nat) (ims : List (List (List Byte))) (pt : List Word) (inp : Option (List Track)) (lost : Bool)
    (next : Nat) : EngOut :=
  let L := fteLevels w
  let esz := if fteElem w = 0 then 1 else 2
  let im (k x y : Nat) : Nat := let v := imgOf 1 0 esz (ims.getD k []) 0 x y; if fteElem w = 0 then v else v / 256
  let kps := fteSelect w W H ((List.range L).flatMap (fun k => fteCandidates w W H k (im k)))
  let qs := kps.map (fun k =>
    let a := fteBin w (halfSize W k.level) (halfSize H k.level) (im k.level) k.u k.v
    Query.mk k a (if fteDescribe w then fteDesc w pt (halfSize W k.level) (halfSize H k.level) (im k.level) a k.u k.v else List.replicate 8 0))
  let flow : Option Img := if fteMatch w && fteFlow w != noHandle then some (imgOf 2 (fteGrid w W) 2 (ims.getD L [])) else none
  let pred := qs.map (fun q => ftePredict w W H flow q.kp)
  let tracks := inp.getD []
  let ms := if fteMatch w then fteResolve ((qs.zip pred).map (fun e => fteBest w e.1 e.2.1 e.2.2.1 tracks)) else qs.map (fun _ => none)
  let o := if fteMatch w then fteTable w tag tracks qs ms next else ⟨[], qs.map (fun _ => (0, false, false)), next, 0⟩
  let n := qs.length
  let each (reg : Nat) (l : List Bool) : List (Nat × Nat × Nat) := (l.zipIdx 1).map (fun e => (e.2, reg, b2n e.1))
  { fteShape w n with
    pieces := ⟨L, n + 1, 0, [], 0, wordBytes (fteList tag qs ms o)⟩
      :: (if fteMatch w then [⟨L + 1, n + 1, 0, [], 0, wordBytes (fteTracks w tag o)⟩] else [])
    adds := each R.FTE_KP_CNT (qs.map (fun _ => true)) ++ each R.FTE_MATCH_CNT (ms.map (·.isSome)) ++ each R.FTE_NEW_TRACK_CNT (o.marks.map (·.2.2))
      ++ each R.FTE_TT_FULL_CNT (o.marks.map (·.2.1)) ++ [(1, R.FTE_TABLE_LOST_CNT, b2n lost), (n + 1, R.FTE_DROP_TRACK_CNT, o.dropped)]
    bits := [(1, b2n inp.isSome * 64 + b2n lost * 32)] ++ (o.marks.zipIdx 1).map (fun e => (e.2, b2n e.1.2.1 * 16))
      ++ (pred.zipIdx 1).map (fun e => (e.2, b2n (e.1.2.2 && fteMatch w) * 8))
    sets := if fteMatch w then [(R.FTE_TS_NEXT_ID (fteSet w), BitVec.ofNat 32 o.nextId)] else []
    raised := if lost then Mark.recomputed else 0 }

/-- An FTE job run on its operands. -/
def State.fteRun (s : State) (id i b : Nat) : State × Nat × EngOut :=
  let w := (s.task i).params
  let (W, H) := s.fteSize (s.task i).part w
  let tag := wd (s.task i).args 1
  let ins := (List.range (fteLevels w)).map (fteLevel w) ++ (if fteMatch w && fteFlow w != noHandle then [fteFlow w] else [])
  let (s, st, ims) := s.readTensors id i ins b
  if st ≠ St.done then (s, st, fteShape w (fteMaxKp w))
  else
    let pt := match s.pairTable (ftePt w) with | some t => t.words | none => []
    let (s, st, inp, lost) := if fteMatch w then s.fteInput id i w tag else (s, St.done, none, false)
    (s, st, fteOutOf w tag W H ims pt inp lost (s.reg (R.FTE_TS_NEXT_ID (fteSet w))).toNat)

/-- Rows of detection done at a boundary of 16 rows of a level (R324). -/
def fteRowPoint (H v : Nat) : Nat → Nat → Bool
  | 0, _ => v == 0
  | n + 1, k => let h := halfSize H k; if v ≤ h then v % 16 == 0 || v == h else fteRowPoint H (v - h) n (k + 1)

/-- Whether a job with `n` keypoints may yield at the place that FTE_PROGRESS `v` says (R324, R328). Matching also yields at a query boundary
that its cycles choose. -/
def fteYieldPoint (w : List Word) (H n v : Nat) : Bool :=
  let k := v % 2 ^ 30
  match v / 2 ^ 30 with
  | 0 => fteRowPoint H k (fteLevels w) 0
  | 1 => fteDescribe w && decide (k ≤ n) && (k % 64 == 0 || k == n)
  | 2 => decide (k ≤ n)
  | 3 => fteMatch w && decide (k ≤ fteCap w) && k % 1024 == 0
  | _ => false

/-! ### Pair tables (R320, R321) and track sets (R316, R329) -/

/-- A job that runs or has yielded uses a pair table or a track set. -/
def State.fteUses (s : State) (f : List Word → Bool) : Bool :=
  s.hts.tasks.any (fun e => e.2.cls == 5 && e.2.started && (e.2.state == .running || e.2.state == .ready) && f e.2.params)

/-- Every field of a pair table word lies within ±15. -/
def pairOk (v : Word) : Bool := (List.range 4).all (fun k => decide ((sext 8 (bits v (8 * k + 7) (8 * k))).natAbs ≤ 15))

/-- FTE_PT_STATUS after a load. -/
def State.ptStatus (s : State) (st : Nat) : State :=
  let res := ((List.range 4).map (fun k => b2n (s.pairTable k).isSome * 2 ^ k)).sum
  (s.setReg R.FTE_PT_STATUS (BitVec.ofNat 32 (2 ^ 24 * st + res * 16))).cmdBegin R.FTE_PT_STATUS 20000

/-- PAIR_TABLE_LOAD (R320, R329, R231): a write of FTE_PT_CMD. (DEDUCED, log 49, DESIGN CHOICE, log 85) -/
def pairTableLoadOp (ag : Agent) (v : Word) (s : State) : State :=
  let k := bits v 1 0
  let old := s.pairTable k
  let mayWrite := match old with | some t => s.ofPart ag t.owner | none => true
  if !mayWrite then s.refuse ag ((old.map (·.owner)).getD 3)
  else if bit v 31 && s.cmdBusy R.FTE_PT_STATUS then s
  else
    let s := s.setFld R.FTE_PT_CMD 1 0 k
    if !bit v 31 then s
    else
      let a := (s.reg R.FTE_PT_ADDR_LO).toNat + 2 ^ 32 * s.fld R.FTE_PT_ADDR_HI 7 0
      let own := match old with | some t => if isFull ag then t.owner else s.partOf ag | none => s.partOf ag
      let st := chk [(a % 64 != 0, St.alignFault), (s.fteUses (fun w => ftePt w == k), St.busy),
        (s.locked && decide (own ≤ 1) && ag != .safety, St.partitionFault)]
      if st ≠ St.done then s.ptStatus st
      else
        let (s, st, bs) := s.readAgain { s.whoOf ag with agent := 0x29 } a 1024 2
        if st ≠ St.done then s.ptStatus (exhausted st)
        else
          let ws := (List.range 256).map (wordAt bs)
          if !ws.all pairOk then s.ptStatus St.descInvalid
          else State.ptStatus { s with fte := setAt s.fte k (some ⟨a, ws, own⟩) } St.done

def execPairTableLoad (ag : Agent) (v : Word) (s : State) : Host.Outcome State Fault Refusal := awakeNext s (pairTableLoadOp ag v s)

/-- TRACK_SET_NEXT_ID_WRITE (R329, R231). -/
def trackSetOp (ag : Agent) (k : Nat) (v : Word) (s : State) : State :=
  let own := s.fld (R.FTE_TS_CFG k) 31 30
  if !s.ofPart ag own then s.refuse ag own
  else if v = 0 ∨ s.fteUses (fun w => fteSet w == k) then s
  else s.setReg (R.FTE_TS_NEXT_ID k) v

def execTrackSetNextIdWrite (ag : Agent) (k : Fin 16) (v : Word) (s : State) : Host.Outcome State Fault Refusal := awakeNext s (trackSetOp ag k v s)

end Sys2Proof.Machine
end

