-- ==== Sys2Proof/Machine/IspModel.lean ====
section
/-! DEFINITION. The sensor setting model of the image signal pipeline (03_image_pipeline.md R124, R134 to R139) and the control return
channel that carries its requests (02_pixel_ports.md R89 to R92). -/

namespace Sys2Proof.Machine

def State.setIspStream (s : State) (st : Nat) (x : IspStream) : State :=
  { s with isp.streams := Store.put (fun _ => IspStream.reset) st x s.isp.streams }
def State.modReqs (s : State) (st : Nat) (f : SetReq → SetReq) : State :=
  s.setIspStream st { s.ispStream st with reqs := (s.ispStream st).reqs.map f }

/-- Words 4 to 7 of a context as initial settings (R122, R124). -/
def State.ctxSettings (s : State) (ctx : Nat) : Settings :=
  ⟨s.ctxWord ctx 7, bits (s.ctxWord ctx 6) 31 16, 0, s.ctxWord ctx 4, s.ctxWord ctx 5⟩

/-- The settings in effect for frame `m` (R136, R137): from the latest-accepted request whose target is not later. -/
def settingsFor (b : Settings) (l : List SetReq) (m : Nat) : Settings :=
  l.foldl (fun x r =>
    let x := if notLater r.expTarget m then { x with exposure := r.exposure } else x
    if notLater r.gainTarget m then
      let x := { x with gain := r.gain, reqId := r.id }
      match r.wb with
      | some (a, c) => { x with wb0 := a, wb1 := c }
      | none => x
    else x) b

/-- Requests whose targets are not later than every frame of `ms` are folded into the model's base, oldest first. -/
def foldReqs (b : Settings) (ms : List Nat) : List SetReq → Settings × List SetReq
  | [] => (b, [])
  | r :: t =>
    if (r.acked || r.uncertain) && ms.all (fun m => notLater r.expTarget m && notLater r.gainTarget m && !(r.uncertain && notLater m r.lateTarget)) then
      foldReqs (settingsFor b [r] (ms.headD 0)) ms t
    else (b, r :: t)

/-- A frame of the stream opens: requests that no frame still in the ring can need separately are folded. -/
def State.modelOpen (s : State) (st f : Nat) : State :=
  let x := s.ispStream st
  match x.base with
  | none => s
  | some b =>
    let ring := ((s.stream st).slots.filter (fun k => k.state != .free)).map (·.frame)
    let (b, l) := foldReqs b (f :: ring) x.reqs
    s.setIspStream st { x with base := some b, reqs := l }

/-- The cutoff of frame `f` (R138): a request whose deadline it is and that has no ACK marks its frames. -/
def State.cutoff (s : State) (st f : Nat) : State :=
  s.modReqs st (fun r => if !r.acked && notLater r.deadline f then { r with uncertain := true } else r)

/-- The reply to a request's GROUP_END, or its timeout (R138): ACK acknowledges it unless its deadline has passed. -/
def State.groupReply (s : State) (st serial : Nat) (ack : Bool) : State :=
  s.modReqs st (fun r => if r.serial = serial ∧ !r.uncertain then (if ack then { r with acked := true } else { r with uncertain := true }) else r)

/-- The frame in flight whose context gives a stream's model its first values (R124): the first that an instance started after the reset. -/
def State.modelFrame (s : State) (st : Nat) : Option IspFrame :=
  (s.ispStream st).starter.bind (fun i => s.isp.frames.find? (fun f => f.task == i && f.stream == st))

/-- The settings of a frame in flight (R124, R136). One that was started before a reset keeps those it had; one whose stream has no first
values yet takes those of the context that will give them. (DEDUCED, log 28) -/
def State.frameSettings (s : State) (f : IspFrame) : Settings :=
  match f.kept with
  | some k => k.1
  | none =>
    let x := s.ispStream f.stream
    settingsFor (x.base.getD (s.ctxSettings ((s.modelFrame f.stream).getD f).ctx)) x.reqs ((s.stream f.stream).slot f.slot).frame

/-- An instance starts a frame of the stream (R124): the first after a reset will give the model its values. -/
def State.modelStart (s : State) (st i : Nat) : State :=
  let x := s.ispStream st
  if x.base.isSome || (s.modelFrame st).isSome then s else s.setIspStream st { x with starter := some i }

/-- The first frame's context has been loaded: words 4 to 7 are the model's first values (R124). -/
def State.modelLoad (s : State) (f : IspFrame) (first : Settings) : State :=
  let x := s.ispStream f.stream
  if x.base.isNone && x.starter == some f.task then s.setIspStream f.stream { x with base := some first } else s

/-- RESET_MODEL, or the landing context's ENABLE from 0 to 1 (R124). -/
def State.resetModel (s : State) (st : Nat) : State :=
  let fs := s.isp.frames.map (fun f => if f.stream = st then { f with kept := some (s.frameSettings f, s.uncertain f) } else f)
  State.setIspStream { s with isp.frames := fs } st { s.ispStream st with base := none, reqs := [], starter := none }

/-! ### The control return channel -/

def Port.none : Port := ⟨0, [], [], 0, Option.none, 0, []⟩
def State.port (s : State) (n : Nat) : Port := s.ports.getD n Port.none
def State.modPort (s : State) (n : Nat) (f : Port → Port) : State := { s with ports := modAt s.ports n f }

/-- Bits [55:8] of a frame: STREAM_ID, OP or RESULT, SEQ, address, data (R89). -/
def ctlBits (stream op seq addr data : Nat) : Nat :=
  2 ^ 38 * (stream % 1024) + op % 4 * 2 ^ 36 + seq % 16 * 2 ^ 32 + addr % 65536 * 2 ^ 16 + data % 65536

/-- A frame with its CRC-8, over bits [55:8], highest byte first (R89). (DESIGN CHOICE, log 24) -/
def ctlFrame (b : Nat) : BitVec 56 := BitVec.ofNat 56 (256 * b + crc8 ((leBytes 6 b).reverse))

/-- A command waits on the port (R90). -/
def State.ctlQueue (s : State) (n : Nat) (c : CtlCmd) : State := s.modPort n (fun p => { p with ctlQueue := p.ctlQueue ++ [c] })

/-- The commands of a setting request (R92): GROUP_START, the writes, GROUP_END. (DESIGN CHOICE, log 95) -/
def groupCmds (st serial : Nat) (ws : List Word) : List CtlCmd :=
  let c (op : Nat) (addr data : Nat) (last : Bool) : CtlCmd := ⟨st, op, addr, data, .request serial last, 0, 0⟩
  [c 2 0 0 false] ++ ws.map (fun w => c 0 (bits w 31 16) (bits w 15 0) false) ++ [c 3 0 0 true]

/-- A command has ended (R90, R91): a direct one leaves its reply in the RSP registers, a request's GROUP_END tells the model. -/
def State.ctlEnd (s : State) (n : Nat) (c : CtlCmd) (result addr data : Nat) : State :=
  let s := s.modPort n (fun p => { p with ctlOut := p.ctlOut.filter (· != c) })
  match c.source with
  | .direct =>
    (s.setReg (R.TPP_CTL_RSP0 n) (BitVec.ofNat 32 (2 ^ 31 + c.stream % 1024 * 65536 + result % 4 * 4096 + c.seq % 16 * 256))).setReg
      (R.TPP_CTL_RSP1 n) (BitVec.ofNat 32 (addr % 65536 * 65536 + data % 65536))
  | .request r last => if last then s.groupReply c.stream r (result == 0) else s

end Sys2Proof.Machine
end

