-- ==== Sys2Proof/Machine/IspPipe.lean ====
section
/-! DEFINITION. The stages of the image signal pipeline on one frame: working values, taps, outputs and statistics
(03_image_pipeline.md R102 to R122, R140 to R143). -/

namespace Sys2Proof.Machine

/-- A working value, or a plane of them, by column and row. -/
abbrev Plane := Nat → Nat → Nat

/-- A plane held as values, so that each is formed once. -/
def solid (W H : Nat) (f : Plane) : Plane :=
  let rows := (List.range H).map (fun y => (List.range W).map (fun x => f x y))
  fun x y => (rows.getD y []).getD x 0

/-- Saturation to a working value (R104). -/
def satI16 (x : Int) : Nat := (clampI 0 65535 x).toNat

/-- The reflection of R105 about the edge pixels of 0 … n − 1. -/
def mirror (n : Nat) (x : Int) : Nat :=
  let a : Int := if x < 0 then -x else x
  (if (n : Int) - 1 < a then 2 * ((n : Int) - 1) - a else a).toNat

/-! ### The loaded context (R121, R122) -/

/-- Half word at byte `o` of a context. -/
def ctx16 (d : List Byte) (o : Nat) : Nat := leNat ((d.drop o).take 2)
def ctxCfa (d : List Byte) : Nat := bits (wordAt d 0) 30 28
def ctxMono (d : List Byte) : Bool := ctxCfa d == 4
def ctxOutput (d : List Byte) : Nat := bits (wordAt d 0) 27 24
def ctxTaps (d : List Byte) : Nat := bits (wordAt d 0) 23 20
def ctxSpace (d : List Byte) : Nat := bits (wordAt d 0) 17 16
def ctxSat (d : List Byte) : Nat := bits (wordAt d 2) 31 16

/-- Entries of the static defect map (R109): row and column. -/
def ctxDefects (d : List Byte) : List (Nat × Nat) :=
  (List.range (bits (wordAt d 0) 13 0)).map (fun k => (bits (wordAt d (0x2000 + k)) 29 16, bits (wordAt d (0x2000 + k)) 13 0))

/-- The channel of a pixel (R106): 0 R, 1 Gr, 2 Gb, 3 B. MONO pixels count as Gr. (DEDUCED, log 27) -/
def chanOf (cfa x y : Nat) : Nat :=
  if cfa = 4 then 1
  else (([[0, 1, 2, 3], [1, 0, 3, 2], [2, 3, 0, 1], [3, 2, 1, 0]] : List (List Nat)).getD cfa []).getD (y % 2 * 2 + x % 2) 1

/-- Distance of same-colour neighbours (R106). -/
def ctxStep (d : List Byte) : Int := if ctxMono d then 1 else 2

/-- The black-level entry in use (R108). -/
def blcIndex (d : List Byte) (gain : Nat) : Nat :=
  ((List.range 8).find? (fun i => decide (gain ≤ ctx16 d (0x100 + 16 * i)))).getD 7

/-! ### Raw stages -/

/-- Pixel `x` of a landed row, in landed scale (R60, R61, R107). (DESIGN CHOICE, log 90) -/
def landedPixel (packing depth : Nat) (bs : List Byte) (x : Nat) : Nat :=
  (if packing = 0 then ctx16 bs (2 * x)
   else if packing = 1 then bits (wordAt bs (x / 3)) (10 * (x % 3) + 9) (10 * (x % 3))
   else leNat ((bs.drop x).take 1)) % 2 ^ depth

/-- What a frame is developed with: its context, size, depth, black-level entry and white-balance gains by channel. -/
structure IspJob where
  ctx : List Byte
  W : Nat
  H : Nat
  depth : Nat
  blc : Nat
  wb : List Nat
deriving DecidableEq, Repr

def IspJob.chan (j : IspJob) (x y : Nat) : Nat := chanOf (ctxCfa j.ctx) x y

/-- A sample at an offset, reflected at the edges. -/
def IspJob.at_ (j : IspJob) (f : Plane) (x y : Nat) (dx dy : Int) : Nat := f (mirror j.W (x + dx)) (mirror j.H (y + dy))

/-- Stage 2 (R108). -/
def IspJob.black (j : IspJob) (f : Plane) : Plane :=
  fun x y => f x y - ctx16 j.ctx (0x100 + 16 * j.blc + 2 + 2 * j.chan x y)

/-- The mapped pixels as numbers row × 16,384 + column. -/
def IspJob.map (j : IspJob) : List Nat := (ctxDefects j.ctx).map (fun e => 16384 * e.1 + e.2)
def isMapped (m : List Nat) (x y : Nat) : Bool := m.contains (16384 * y + x)

/-- The unmapped ones of the four same-colour neighbours of a pixel. -/
def IspJob.goodNeighbours (j : IspJob) (m : List Nat) (f : Plane) (x y : Nat) : List Nat :=
  let s := ctxStep j.ctx
  ([(-s, 0), (s, 0), (0, -s), (0, s)] : List (Int × Int)).filterMap (fun o =>
    let u := mirror j.W (x + o.1)
    let v := mirror j.H (y + o.2)
    if isMapped m u v then none else some (f u v))

/-- Static correction (R109), and whether it corrected the pixel. -/
def IspJob.static (j : IspJob) (m : List Nat) (f : Plane) (x y : Nat) : Nat × Bool :=
  if isMapped m x y then
    let l := j.goodNeighbours m f x y
    if l.isEmpty then (f x y, false) else (rneDiv l.sum l.length, true)
  else (f x y, false)

/-- The eight same-colour neighbours of a pixel. -/
def IspJob.eight (j : IspJob) (f : Plane) (x y : Nat) : List Nat :=
  let s := ctxStep j.ctx
  ([(-s, -s), (0, -s), (s, -s), (-s, 0), (s, 0), (-s, s), (0, s), (s, s)] : List (Int × Int)).map (fun o => j.at_ f x y o.1 o.2)

/-- A list of numbers in ascending order. -/
def sortNats : List Nat → List Nat
  | [] => []
  | a :: t => ins a (sortNats t)
where
  ins (a : Nat) : List Nat → List Nat
    | [] => [a]
    | b :: t => if a ≤ b then a :: b :: t else b :: ins a t

/-- Dynamic correction (R110), and whether it corrected the pixel. -/
def IspJob.dynamic (j : IspJob) (m : List Nat) (f : Plane) (x y : Nat) : Nat × Bool :=
  if bit (wordAt j.ctx 0) 18 && !isMapped m x y then
    let l := sortNats (j.eight f x y)
    let t := bits (wordAt j.ctx 2) 15 0
    if l.getD 7 0 + t < f x y ∨ f x y + t < l.getD 0 0 then (rneDiv (l.getD 3 0 + l.getD 4 0) 2, true) else (f x y, false)
  else (f x y, false)

/-- The shading gain of a pixel (R111). -/
def IspJob.gain (j : IspJob) (x y : Nat) : Nat :=
  let pos (x n : Nat) : Nat := if n ≤ 1 then 0 else rneDiv (x * 32 * 65536) (n - 1)
  let ix := min (pos x j.W / 65536) 31
  let iy := min (pos y j.H / 65536) 31
  let fx := pos x j.W - 65536 * ix
  let fy := pos y j.H - 65536 * iy
  let g (i k : Nat) : Nat := ctx16 j.ctx (0x1000 + 0x900 * j.chan x y + 2 * (33 * k + i))
  rneDiv ((65536 - fx) * (65536 - fy) * g ix iy + fx * (65536 - fy) * g (ix + 1) iy + (65536 - fx) * fy * g ix (iy + 1)
    + fx * fy * g (ix + 1) (iy + 1)) (2 ^ 32)

/-- A product with a UQ4.12 gain. -/
def gained (v g : Nat) : Nat := satI16 (rneDiv (v * g) 4096)

/-- Stage 4. (DEDUCED, log 27) -/
def IspJob.shade (j : IspJob) (f : Plane) : Plane := fun x y => gained (f x y) (j.gain x y)

/-- Stage 5 (R112). (DEDUCED, log 27) -/
def IspJob.denoise (j : IspJob) (f : Plane) : Plane := fun x y =>
  let slope := ctx16 j.ctx (0x1C0 + 8 * j.blc)
  let strength := leNat ((j.ctx.drop (0x1C2 + 8 * j.blc)).take 1)
  let c := f x y
  let l := (j.eight f x y).map (fun (p : Nat) => (16 - (((p : Int) - c).natAbs * slope) / 4096, p))
  let m := rneDiv (16 * c + (l.map (fun e => e.1 * e.2)).sum) (16 + (l.map (·.1)).sum)
  satI16 ((c : Int) + rneDivI (((m : Int) - c) * strength) 256)

/-- Stage 7 (R113); MONO passes through. -/
def IspJob.balance (j : IspJob) (f : Plane) : Plane :=
  fun x y => if ctxMono j.ctx then f x y else gained (f x y) (j.wb.getD (j.chan x y) 0)

/-! ### Colour stages -/

/-- A colour: red, green, blue. -/
abbrev Rgb := Nat × Nat × Nat

/-- Stage 8 (R114): the pixel keeps its own colour; the interpolated ones follow the opaque parts of Config. (UNVERIFIED, log 25) -/
def IspJob.demosaic (j : IspJob) (f : Plane) (x y : Nat) : Rgb :=
  let v := f x y
  if ctxMono j.ctx then ((Config.monoColour 0 v).toNat, v, (Config.monoColour 2 v).toNat)
  else
    let w := (List.range 5).flatMap (fun (r : Nat) => (List.range 5).map (fun (c : Nat) => j.at_ f x y ((c : Int) - 2) ((r : Int) - 2)))
    let ch := j.chan x y
    let gh := Config.demosaicGrad false w ch
    let gv := Config.demosaicGrad true w ch
    let a := (Config.demosaicGreen false w ch).toNat
    let b := (Config.demosaicGreen true w ch).toNat
    let g := if ch = 1 ∨ ch = 2 then v else if gh < gv then a else if gv < gh then b else rneDiv (a + b) 2
    let other (col : Nat) : Nat := satI16 ((g : Int) + Config.demosaicDiff col w ch)
    (if ch = 0 then v else other 0, g, if ch = 3 then v else other 2)

/-- Stage 9 (R115); MONO passes through. (DEDUCED, log 27) -/
def IspJob.matrix (j : IspJob) (c : Rgb) : Rgb :=
  if ctxMono j.ctx then c
  else
    let m (k : Nat) : Int := sext 16 (ctx16 j.ctx (0x180 + 2 * k))
    let o (k : Nat) : Int := sext 32 (wordAt j.ctx (0x65 + k)).toNat
    let row (k : Nat) : Nat := satI16 (rneDivI (m (3 * k) * c.1 + m (3 * k + 1) * c.2.1 + m (3 * k + 2) * c.2.2) 4096 + o k)
    (row 0, row 1, row 2)

/-- Tone curve `k` (R, G, B, luma) at `v` (R116). -/
def tone (d : List Byte) (k v : Nat) : Nat :=
  let p (i : Nat) : Int := ctx16 d (0x200 + 0x210 * k + 2 * i)
  satI16 (p (v / 256) + rneDivI ((p (v / 256 + 1) - p (v / 256)) * (v % 256 : Nat)) 256)

/-- Stage 10. -/
def IspJob.toned (j : IspJob) (c : Rgb) : Rgb := (tone j.ctx 0 c.1, tone j.ctx 1 c.2.1, tone j.ctx 2 c.2.2)

/-- Coefficients of red and blue in luma, in ten-thousandths (R117). PRESUMED: the values of ITU-R BT.709 and BT.601. (PRESUMED, log 26) -/
def lumaCoef (d : List Byte) : Nat × Nat := if ctxSpace d < 2 then (2126, 722) else (2990, 1140)

/-- Full-range luma before its curve, and the two chroma values about 32,768. PRESUMED: their definition in the two
recommendations. (PRESUMED, log 26) -/
def ycc (d : List Byte) (c : Rgb) : Rgb :=
  let (kr, kb) := lumaCoef d
  let y : Int := kr * c.1 + (10000 - kr - kb) * c.2.1 + kb * c.2.2
  (satI16 (rneDivI y 10000), satI16 (32768 + rneDivI (10000 * c.2.2 - y) (2 * (10000 - kb))),
   satI16 (32768 + rneDivI (10000 * c.1 - y) (2 * (10000 - kr))))

/-- Limited-range scaling of luma and of chroma. PRESUMED: 16 to 235 and 16 to 240 of 256. (PRESUMED, log 26) -/
def limitY (d : List Byte) (v : Nat) : Nat := if ctxSpace d % 2 = 1 then v else satI16 (4096 + rneDivI (v * (219 * 256)) 65535)
def limitC (d : List Byte) (v : Nat) : Nat :=
  if ctxSpace d % 2 = 1 then v else satI16 (32768 + rneDivI (((v : Int) - 32768) * (224 * 256)) 65535)

/-- Quantisation to `b` bits (R117). -/
def quantise (b v : Nat) : Nat := min (rneDiv v (2 ^ (16 - b))) (2 ^ b - 1)

/-! ### A developed frame -/

/-- The planes of a frame at its taps and at its output, and what statistics count. -/
structure Developed where
  landed : Plane
  unpacked : Plane
  shaded : Plane
  stage6 : Plane
  linear : Nat → Nat → Rgb
  rgb : Nat → Nat → Rgb
  luma : Plane
  dpcStatic : Nat
  dpcDynamic : Nat

/-- A plane of colours held as values. -/
def solidRgb (W H : Nat) (f : Nat → Nat → Rgb) : Nat → Nat → Rgb :=
  let rows := (List.range H).map (fun y => (List.range W).map (fun x => f x y))
  fun x y => (rows.getD y []).getD x (0, 0, 0)

/-- The pixels of a frame for which `f` holds. -/
def countPixels (W H : Nat) (f : Nat → Nat → Bool) : Nat :=
  ((List.range H).map (fun y => ((List.range W).filter (fun x => f x y)).length)).sum

/-- Stages 1 to 11 (R102) from the landed pixels. (UNVERIFIED, log 25) -/
def IspJob.develop (j : IspJob) (landed : Plane) : Developed :=
  let s (f : Plane) : Plane := solid j.W j.H f
  let m := j.map
  let raw := s landed
  let up := s (fun x y => raw x y * 2 ^ (16 - j.depth))
  let bl := s (j.black up)
  let st := s (fun x y => (j.static m bl x y).1)
  let dy := s (fun x y => (j.dynamic m st x y).1)
  let sh := s (j.shade dy)
  let dn := s (j.denoise sh)
  let wb := s (j.balance dn)
  let lin := solidRgb j.W j.H (j.demosaic wb)
  let rgb := solidRgb j.W j.H (fun x y => j.toned (j.matrix (lin x y)))
  ⟨raw, up, sh, dn, lin, rgb, s (fun x y => tone j.ctx 3 (ycc j.ctx (rgb x y)).1),
    countPixels j.W j.H (fun x y => (j.static m bl x y).2), countPixels j.W j.H (fun x y => (j.dynamic m st x y).2)⟩

/-! ### Output and taps (R118, R120) -/

/-- The rows of a plane in `n` bytes a value, each with the COUNT of output rows with which it is complete (R132). -/
def planeRows (W H n : Nat) (f : Plane) : List (Nat × List Byte) :=
  (List.range H).map (fun y => (y + 1, (List.range W).flatMap (fun x => leBytes n (f x y))))

/-- The three planes of a colour image. -/
def rgbRows (W H n : Nat) (f : Nat → Nat → Rgb) (g : Nat → Nat) : List (Nat × List Byte) :=
  planeRows W H n (fun x y => g (f x y).1) ++ planeRows W H n (fun x y => g (f x y).2.1) ++ planeRows W H n (fun x y => g (f x y).2.2)

/-- Chroma of a 2 × 2 block (R117): the rounded mean. (PRESUMED, log 26) -/
def chroma (j : IspJob) (d : Developed) (x y : Nat) : Nat × Nat :=
  let l := [(2 * x, 2 * y), (2 * x + 1, 2 * y), (2 * x, 2 * y + 1), (2 * x + 1, 2 * y + 1)].map (fun (p : Nat × Nat) => ycc j.ctx (d.rgb p.1 p.2))
  (rneDiv (l.map (fun (c : Rgb) => limitC j.ctx c.2.1)).sum 4, rneDiv (l.map (fun (c : Rgb) => limitC j.ctx c.2.2)).sum 4)

/-- Y, then interleaved Cb and Cr, of `b` bits in `n` bytes. (PRESUMED, log 26) -/
def nv12 (j : IspJob) (d : Developed) (b n : Nat) : List (Nat × List Byte) :=
  planeRows j.W j.H n (fun x y => quantise b (limitY j.ctx (d.luma x y)))
    ++ (List.range (j.H / 2)).map (fun y => (2 * y + 2, (List.range (j.W / 2)).flatMap (fun x =>
      leBytes n (quantise b (chroma j d x y).1) ++ leBytes n (quantise b (chroma j d x y).2))))

/-- INT8 code of an 8-bit sample minus 128. -/
def int8Of (v : Nat) : Nat := unsext 8 ((quantise 8 v : Int) - 128)

/-- The rows of the main output in the order of its layout, each with the COUNT with which it is complete. -/
def IspJob.output (j : IspJob) (d : Developed) : List (Nat × List Byte) :=
  match ctxOutput j.ctx with
  | 0 => nv12 j d 8 1
  | 1 => nv12 j d 10 2
  | 2 => rgbRows j.W j.H 1 d.rgb (quantise 8)
  | 3 => planeRows j.W j.H 1 (fun x y => quantise 8 (limitY j.ctx (d.luma x y)))
  | 4 => planeRows j.W j.H 2 (fun x y => quantise 10 (limitY j.ctx (d.luma x y)))
  | 5 => rgbRows j.W j.H 1 d.rgb int8Of
  | 6 => (List.range j.H).map (fun y => (y + 1, (List.range j.W).flatMap (fun x =>
      let c := d.rgb x y
      leBytes 1 (int8Of c.1) ++ leBytes 1 (int8Of c.2.1) ++ leBytes 1 (int8Of c.2.2))))
  | _ => rgbRows j.W j.H 2 d.rgb (fun v => (Fmt.fp16.encodeMag true v 65535 0).1)

/-- The rows of tap `k`. -/
def IspJob.tap (j : IspJob) (d : Developed) (k : Nat) : List (Nat × List Byte) :=
  match k with
  | 0 => planeRows j.W j.H 2 d.landed
  | 1 => planeRows j.W j.H 2 d.shaded
  | 2 => rgbRows j.W j.H 2 d.linear id
  | _ => rgbRows j.W j.H 2 d.rgb id

/-- Bytes of an output (R118): in all and per sample; for a tensor its element type. -/
def outBytes (o W H : Nat) : Nat × Nat × Option Nat :=
  match o with
  | 0 => (W * H + W * H / 2, 1, none)
  | 1 => (2 * (W * H + W * H / 2), 2, none)
  | 2 => (3 * W * H, 1, none)
  | 3 => (W * H, 1, none)
  | 4 => (2 * W * H, 2, none)
  | 5 => (3 * W * H, 1, some El.int8)
  | 6 => (3 * W * H, 1, some El.int8)
  | _ => (6 * W * H, 2, some El.fp16)
def tapBytes (k W H : Nat) : Nat := if k < 2 then 2 * W * H else 6 * W * H

/-! ### Statistics (R140 to R143) -/

/-- Bounds of part `i` of `n` equal even parts of a length, the last with the remainder: start and end. -/
def partOfSize (len n i : Nat) : Nat × Nat :=
  let z := len / (2 * n) * 2
  (i * z, if i + 1 = n then len else (i + 1) * z)

/-- A histogram of 256 bins of a plane's values [15:8], over the pixels that `sel` selects. -/
def histogram (W H : Nat) (sel : Nat → Nat → Bool) (f : Plane) : List Nat :=
  (List.range 256).map (fun b => countPixels W H (fun x y => sel x y && f x y / 256 == b))

/-- A white-balance zone: SUM_R, SUM_G, SUM_B, QUADS (R142). -/
def wbZone (j : IspJob) (d : Developed) (zx zy : Nat) : List Nat :=
  let (x0, x1) := partOfSize j.W 32 zx
  let (y0, y1) := partOfSize j.H 24 zy
  let quads := (List.range ((y1 - y0) / 2)).flatMap (fun v => (List.range ((x1 - x0) / 2)).map (fun u => (x0 + 2 * u, y0 + 2 * v)))
  let px (q : Nat × Nat) : List (Nat × Nat) := [(q.1, q.2), (q.1 + 1, q.2), (q.1, q.2 + 1), (q.1 + 1, q.2 + 1)]
  let good := quads.filter (fun q => (px q).all (fun p => decide (d.unpacked p.1 p.2 < ctxSat j.ctx)))
  let sum (sel : Nat → Bool) : Nat := (good.map (fun q => ((px q).map (fun p => if sel (j.chan p.1 p.2) then d.stage6 p.1 p.2 / 16 else 0)).sum)).sum
  [sum (· == 0), sum (fun c => c == 1 || c == 2), sum (· == 3), good.length]

/-- A sharpness cell (R143): SHARP, and CONTRAST over the 8 × 8 blocks that lie whole in the cell, counted from its first pixel; none where a
cell has no such block. (DEDUCED, log 27) -/
def sharpCell (j : IspJob) (d : Developed) (cx cy : Nat) : Nat × Option Nat :=
  let (x0, x1) := partOfSize j.W 16 cx
  let (y0, y1) := partOfSize j.H 12 cy
  let sites (a b c e : Nat) : List (Nat × Nat) := (List.range (e - c)).flatMap (fun v =>
    (List.range (b - a)).filterMap (fun u => if j.chan (a + u) (c + v) = 1 then some (a + u, c + v) else none))
  let l := (sites x0 x1 y0 y1).map (fun p =>
    (4 * (d.stage6 p.1 p.2 : Int) - (([(-2, 0), (2, 0), (0, -2), (0, 2)] : List (Int × Int)).map (fun o => (j.at_ d.stage6 p.1 p.2 o.1 o.2 : Int))).sum).natAbs)
  let sharp := if l.isEmpty then 0 else min (rneDiv l.sum l.length / 4) 65535
  let means := (List.range ((y1 - y0) / 8)).flatMap (fun v => (List.range ((x1 - x0) / 8)).map (fun u =>
    let b := (sites (x0 + 8 * u) (x0 + 8 * u + 8) (y0 + 8 * v) (y0 + 8 * v + 8)).map (fun p => d.stage6 p.1 p.2)
    if b.isEmpty then 0 else rneDiv b.sum b.length))
  (sharp, if means.isEmpty then none else some (means.foldl max 0 - means.foldl min (means.headD 0)))

/-- The statistics record (R140, R141): 18,432 bytes. `q` numbers the free values of CONTRAST. (UNVERIFIED, log 25, DEDUCED, log 27) -/
def IspJob.statistics (j : IspJob) (d : Developed) (tag : Word) (marks fsTime : Nat) (x : Settings) (q : Nat) : List Byte :=
  let mono := ctxMono j.ctx
  let w := fun (n : Nat) => BitVec.ofNat 32 n
  let head : List Word := [tag, w (marks % 65536 * 65536 + 256 + j.blc), w fsTime, w (fsTime / 2 ^ 32), x.exposure, w (65536 * x.gain), x.reqId,
    x.wb0, x.wb1, w d.dpcStatic, w d.dpcDynamic,
    w (countPixels j.W j.H (fun a b => decide (ctxSat j.ctx ≤ d.unpacked a b))), w (65536 * j.H + j.W)]
  let head := (head ++ List.replicate 63 0).take 63
  let word (n : Nat) : List Byte := leBytes 4 n
  wordBytes (head ++ [crc32c (wordBytes head)])
    ++ (List.range 4).flatMap (fun c =>
      (if mono && c != 0 then List.replicate 256 0
       else histogram j.W j.H (fun a b => mono || j.chan a b == c) d.stage6).flatMap word)
    ++ (histogram j.W j.H (fun _ _ => true) d.luma).flatMap word
    ++ (List.range 24).flatMap (fun zy => (List.range 32).flatMap (fun zx => (wbZone j d zx zy).flatMap word))
    ++ (List.range 12).flatMap (fun cy => (List.range 16).flatMap (fun cx =>
      let (s, c) := sharpCell j d cx cy
      word (65536 * s + (match c with | some c => c | none => (Config.freeWord (q + 16 * cy + cx)).toNat % 65536))))

end Sys2Proof.Machine
end

