-- ==== Sys2Proof/Machine/IspOps.lean ====
section
/-! DEFINITION. What an image signal pipeline makes of a frame: the landed rows it reads, its outputs, taps and statistics row by row
(03_image_pipeline.md R102 to R133, R140 to R143). -/

namespace Sys2Proof.Machine

/-- The landed rows of a frame, checked; a damaged one is read again by the recomputation (R131). -/
def State.ispRows (s : State) (id i st k : Nat) : Nat → State × Nat × List (List Byte)
  | 0 => go s St.done [] ((List.range (s.stream st).height).map (fun r => (s.stream st).rowAddr k r))
  | b + 1 =>
    let (s', r, l) := go s St.done [] ((List.range (s.stream st).height).map (fun r => (s.stream st).rowAddr k r))
    if r = St.integrity then
      (s'.modTask i (fun t => { t with repeats := t.repeats + 1, recomputed := true })).ispRows id i st k b
    else (s', r, l)
where
  go (s : State) (r : Nat) (acc : List (List Byte)) : List Nat → State × Nat × List (List Byte)
    | [] => (s, r, acc.reverse)
    | a :: t =>
      let (s, r', bs) := s.dramRead (whoPart id (s.task i).part) a (64 * payLen (s.stream st).packing (s.stream st).width)
      go s (firstBad r r') (bs :: acc) t

/-- Rows of a frame from row 0 that have landed without a gap; every row of one that has closed (R127). -/
def State.rowsLanded (s : State) (f : IspFrame) : Nat :=
  let x := s.stream f.stream
  match x.openF with
  | some o => if o.slot = f.slot then ((List.range x.height).find? (fun r => !o.active.contains r)).getD x.height else x.height
  | none => x.height

/-- The slot of a frame no longer holds it: software released a hold that was the job's, which makes the job's inputs undefined (R100). (DEDUCED, log 83) -/
def State.slotGone (s : State) (i : Nat) (f : IspFrame) : Bool :=
  let sl := (s.stream f.stream).slot f.slot
  let a := (s.task i).args
  bit (wd a 2) 31 && (sl.state == .free || sl.frame != bits (wd a 1) 15 0)

/-- Rows as they were read, or free values where the frame's slot has gone. (DEDUCED, log 83) -/
def State.rowsOf (s : State) (i : Nat) (f : IspFrame) (rows : List (List Byte)) : State × List (List Byte) :=
  if s.slotGone i f then
    let (q, s) := s.draw
    (s, (rows.zipIdx).map (fun r => (List.range r.1.length).map (fun b => Config.freeByte q (65536 * r.2 + b))))
  else (s, rows)

/-- What a frame is developed with under the context `d` (R107 to R113, R136). -/
def State.ispJob (s : State) (f : IspFrame) (d : List Byte) : IspJob :=
  let x := s.stream f.stream
  let c := s.frameSettings f
  ⟨d, x.width, x.height, x.depth, blcIndex d c.gain, [bits c.wb0 31 16, bits c.wb0 15 0, bits c.wb1 31 16, bits c.wb1 15 0]⟩

/-- Input rows below an output row that its value depends on: those of the same-colour neighbours of stages 3 and 5 and of the demosaic (R106,
R109 to R114). -/
def ispReach (d : List Byte) : Nat := if ctxMono d then 3 else 8

/-- A frame of engine `id` as such (R132, R133): the values of COUNT its input allows by now, and YIELDED, EARLY and BLC_INDEX;
CHASE_STALLED may come with a frame that started early. A frame without its context makes no rows. (DEDUCED, log 28) -/
def State.ispShape (s : State) (i : Nat) (f : IspFrame) (d : List Byte) : EngOut :=
  let t := s.task i
  let H := (s.stream f.stream).height
  let l := s.rowsLanded f
  { EngOut.blank t.outs (if f.data.isEmpty then [t.progress]
      else (List.range (H + 1)).filter (fun n => decide (n ≤ t.progress ∨ l = H ∨ n + ispReach d ≤ l))) with
    bits := if f.early then [(H + 1, 0x20)] else []
    fixed := b2n t.yielded * 64 + b2n f.early * 16 + (if f.data.isEmpty && !t.yielded then 0 else (s.ispJob f d).blc % 8 * 2) }

/-- Rows of bytes one after the other as pieces of a descriptor. -/
def Desc.cutRows (d : Desc) (op : Nat) (rows : List (Nat × List Byte)) : List OutPiece :=
  (rows.foldl (fun (a : Nat × List OutPiece) r => (a.1 + r.2.length, a.2 ++ d.cutAt op r.1 a.1 r.2)) (0, [])).2

/-- What an instance makes of a frame whose landed rows are `rows` (R102 to R120, R133, R140 to R143). (UNVERIFIED, log 25) -/
def State.ispOut (s : State) (i : Nat) (f : IspFrame) (d : List Byte) (rows : List (List Byte)) (q : Nat) : EngOut :=
  let t := s.task i
  let x := s.stream f.stream
  let sl := x.slot f.slot
  let j := s.ispJob f d
  let dev := j.develop (fun c r => landedPixel x.packing x.depth (rows.getD r []) c)
  let taps := (List.range 4).filter (fun k => (ctxTaps d / 2 ^ k) % 2 == 1)
  let marks := sl.marks ||| s.settingsMark i ||| t.marks
  { s.ispShape i f d with
    pieces := ((j.output dev :: taps.map (j.tap dev)).zipIdx).flatMap (fun e =>
      match s.desc? t.part (t.outs.getD e.2 noHandle) with
      | some o => o.cutRows e.2 e.1
      | none => [])
    areas := [((wd t.params 0).toNat + 2 ^ 32 * (wd t.params 1).toNat,
      j.statistics dev (frameTag f.stream sl.frame) marks sl.fsTime (s.frameSettings f) q)]
    areaBits := 1 }

/-- The frame that task `i` develops on engine `id`, with `b` repeats of a failing read allowed. -/
def State.ispRun (s : State) (id i b : Nat) : State × Nat × EngOut :=
  match s.isp.frames.find? (·.task == i) with
  | none => (s, St.internal, EngOut.blank (s.task i).outs [0])
  | some f =>
    let d := if f.data.isEmpty then s.dramBytes f.ctx 65536 else f.data
    let (s, st, rows) := s.ispRows id i f.stream f.slot b
    if st ≠ St.done then (s, st, s.ispShape i f d)
    else
      let (s, rows) := s.rowsOf i f rows
      let (q, s) := s.drawMany 192
      (s, st, s.ispOut i f d rows q)

end Sys2Proof.Machine
end

