-- ==== Sys2Proof/Machine/NcImage.lean ====
section
/-! DEFINITION. Network segment images and their admission (09_neural_cores.md R354 to R367, R673). -/

namespace Sys2Proof.Machine

/-! ### Images (R354 to R356) -/

def segStream (h : List Word) : Bool := bit (wd h 1) 31
def segEncrypted (h : List Word) : Bool := bit (wd h 1) 28
def segTensors (h : List Word) : Nat := bits (wd h 1) 15 0
def segGlaze (h : List Word) : Nat := bits (wd h 1) 23 16
def segCmds (h : List Word) : Nat := bits (wd h 0) 15 0
def segBytes (h : List Word) (k : Nat) : Nat := (wd h (2 + k)).toNat
def segScratch (h : List Word) : Nat := (wd h 5).toNat
def segStreamBytes (h : List Word) : Nat := (wd h 6).toNat
def segMacCycles (h : List Word) : Nat := (wd h 7).toNat
def segMaxTile (h : List Word) : Nat := (wd h 8).toNat
def segTiles (h : List Word) : Nat := (wd h 9).toNat
def segBindings (h : List Word) : Nat := (wd h 10).toNat
def segCmdOff (h : List Word) : Nat := (wd h 11).toNat
def segTensorOff (h : List Word) : Nat := (wd h 12).toNat
def segGlazeOff (h : List Word) : Nat := (wd h 13).toNat
def segWeightOff (h : List Word) : Nat := (wd h 14).toNat
def segImageBytes (h : List Word) : Nat := (wd h 15).toNat
def segWeightBytes (h : List Word) : Nat := (wd h 16).toNat

/-- The keystream byte at image offset `o` (R614): SM4 in counter mode, the counter block IV + o / 16 as a big-endian number. -/
def keyByte (key : List Byte) (iv o : Nat) : Byte :=
  BitVec.ofNat 8 (Config.sm4 key ((iv + o / 16) % 2 ^ 128) / 2 ^ (8 * (15 - o % 16)))

/-- Bytes of an encrypted section from image offset `o` on, decrypted (R614). `hdr` are header bytes 0 to 251. -/
def decryptAt (key hdr : List Byte) (o : Nat) (bs : List Byte) : List Byte :=
  let iv := ((Config.sm3 hdr).take 16).foldl (fun a b => 256 * a + b.toNat) 0
  (bs.zipIdx).map (fun e => e.1 ^^^ keyByte key iv (o + e.2))

/-- A segment's part of the bytes: decrypted under the model key when ENCRYPTED. -/
def State.plain (s : State) (h : List Word) (o : Nat) (bs : List Byte) : List Byte :=
  match segEncrypted h, s.nc.key with
  | true, some k => decryptAt k ((wordBytes h).take 252) o bs
  | _, _ => bs

/-- Fields of a command (R344). -/
def cmdOp (c : List Word) : Nat := bits (wd c 0) 31 24
def cmdSet (c : List Word) : Option Nat := if bit (wd c 0) 23 then some (bits (wd c 0) 22 19) else none
def cmdTileEnd (c : List Word) : Bool := bit (wd c 0) 18
def cmdGlaze (c : List Word) : Bool := bit (wd c 0) 17
def cmdAccumulate (c : List Word) : Bool := bit (wd c 0) 16
def cmdWait (c : List Word) : Nat := bits (wd c 0) 15 0
def cmdA (c : List Word) : Nat := half c 1 true
def cmdB (c : List Word) : Nat := half c 1 false
def cmdC (c : List Word) : Nat := half c 2 true
def cmdOut (c : List Word) : Nat := half c 2 false
def cmdAux (c : List Word) : Nat := half c 3 true
def cmdGlazeSet (c : List Word) : Nat := bits (wd c 3) 7 0

/-- Opcodes (R345). -/
def opcodes : List Nat := [0x00, 0x01, 0x02, 0x10, 0x11, 0x12, 0x13, 0x14, 0x15, 0x16, 0x20, 0x21, 0x22, 0x23, 0x28]

/-- The unit of an opcode: 0 command processor, 1 matrix units, 2 vector unit, 3 load unit. -/
def opUnit (op : Nat) : Nat := if op = 0 then 0 else if op ≤ 2 then 1 else if op ≤ 0x16 then 2 else 3

/-- A local name that the load accepts (R347). -/
def nameOk (h : List Word) (n : Nat) : Bool :=
  decide (n < segTensors h) || (decide (0xFF00 ≤ n) && decide (n < 0xFF00 + segBindings h)) || n == noHandle

/-- A glaze set read from the image at offset `o` (R343, R354); none when its offset is no multiple of 64, when it reaches past the image, or when ACT
is a reserved encoding. Reserved fields are ignored (R16). -/
def glazeAt (img : List Byte) (o : Nat) : Option GlazeSet :=
  let h := (List.range 16).map (fun k => wordAt (img.drop o) k)
  let act := bits (wd h 0) 31 28
  let per := bit (wd h 0) 27
  let ch := bits (wd h 0) 15 0
  let tab := o + (wd h 8).toNat
  let chan := o + (wd h 9).toNat
  if o % 64 ≠ 0 ∨ img.length < o + 64 ∨ 2 < act
    ∨ (act = 2 ∧ ((wd h 8).toNat % 4 ≠ 0 ∨ img.length < tab + 1028)) ∨ (per ∧ ((wd h 9).toNat % 4 ≠ 0 ∨ img.length < chan + 8 * ch)) then none
  else
    let ws (a n : Nat) : List Word := (List.range n).map (fun k => wordAt (img.drop a) k)
    some ⟨h, if per then ws chan (2 * ch) else [], if act = 2 then ws tab 257 else []⟩

/-- The segment image at `addr` read for partition `p` and checked (R356): a status, and the segment without its placement. (DEDUCED, log 43) -/
def State.parseSegment (s : State) (p addr : Nat) : State × Nat × Segment :=
  let none : Segment := ⟨p, addr, [], [], [], [], [], [], [], [], Option.none, Option.none⟩
  if addr % 64 ≠ 0 then (s, St.alignFault, none)
  else if dramEnd < addr + 256 then (s, St.rangeFault, none)
  else
    let (s, st, hb) := s.readAgain (whoPart 0x38 p) addr 256 2
    if st ≠ St.done then (s, exhausted st, none)
    else
      let h := (List.range 64).map (wordAt hb)
      let size := segImageBytes h
      if dramEnd < addr + size then (s, St.rangeFault, none)
      else
        let (s, st, img) := s.readAgain (whoPart 0x38 p) addr size 2
        if st ≠ St.done then (s, exhausted st, none)
        else
          let bad := bits (wd h 0) 31 24 != 1 || bits (wd h 0) 23 16 != 0 || segCmds h == 0 || bits (wd h 1) 27 24 != 0
            || decide (16384 < segTensors h) || bits (wd h 10) 31 6 != 0 || decide (32 < segBindings h)
            || (List.range 46).any (fun k => wd h (17 + k) != 0)
            || [segCmdOff h, segTensorOff h, segGlazeOff h, segWeightOff h].any (fun o => o % 64 != 0) || decide (size < 256)
            || (!segStream h && segStreamBytes h != 0)
            || decide (size < segCmdOff h + 64 * segCmds h) || decide (size < segTensorOff h + 64 * segTensors h)
            || decide (size < segGlazeOff h + 4 * segGlaze h) || decide (size < segWeightOff h + segWeightBytes h)
            || crc32c (img.take 252 ++ img.drop 256) != wd h 63 || (segEncrypted h && s.nc.key.isNone)
          if bad then (s, St.descInvalid, none)
          else
            let cb := s.plain h (segCmdOff h) ((img.drop (segCmdOff h)).take (64 * segCmds h))
            let cmds := (List.range (segCmds h)).map (fun i => (List.range 16).map (fun k => wordAt (cb.drop (64 * i)) k))
            let gl := (List.range (segGlaze h)).map (fun i => glazeAt img (wordAt (img.drop (segGlazeOff h)) i).toNat)
            let badCmd (c : List Word) : Bool := !opcodes.contains (cmdOp c)
              || [cmdA c, cmdB c, cmdC c, cmdOut c, cmdAux c].any (fun n => !nameOk h n)
              || ((cmdGlaze c || cmdGlazeSet c != 0) && decide (segGlaze h ≤ cmdGlazeSet c))
            let codes := (List.range (segTensors h)).map (fun i => bits (wordAt (img.drop (segTensorOff h + 64 * i)) 0) 31 20)
            if codes.any (fun c => decide (4 < c) || (c == 4 && !segStream h)) || gl.any (·.isNone) || cmds.any badCmd || !(cmds.getLast?.elim false cmdTileEnd)
              || (cmds.filter cmdTileEnd).length != segTiles h then (s, St.descInvalid, none)
            else (s, St.done, ⟨p, addr, [], [], h, cmds, gl.filterMap id, [], [], [], Option.none, Option.none⟩)

/-! ### Use and placement (R362, R363, R673) -/

/-- The memory kinds in the order of R363: 0 weight, 1 activation, 2 partial-sum memory (as in SpmOps). -/
def quotaReg (c p k : Nat) : Nat := match k with | 0 => R.NC_WM_QUOTA c p | 1 => R.NC_AM_QUOTA c p | _ => R.NC_PM_QUOTA c p

/-- Bytes of the slot rings that graphs of partition `p` place in the activation memory of core `c`. -/
def ringBytes (gs : List Graph) (p c : Nat) : Nat :=
  ((gs.filter (·.part == p)).flatMap (fun g => (g.rings.filter (fun r => r.memory == 8 + c)).map (fun r => r.slots * r.slotKib * 1024))).sum

/-- Residencies of partition `p` on core `c`. -/
def State.segsOn (s : State) (p c : Nat) : List Segment := s.nc.segs.filter (fun x => x.part == p && x.cores.contains c)

/-- The use of a memory of core `c` by partition `p` (R362), `gs` being the graphs counted. -/
def State.ncUse (s : State) (gs : List Graph) (p c k : Nat) : Nat :=
  let l := (s.segsOn p c).map (fun x => segBytes x.head k)
  match k with
  | 0 => l.sum
  | 1 => l.foldl max 0 + ringBytes gs p c
  | _ => l.foldl max 0

/-- DRAM scratch admitted for partition `p`. -/
def State.scratchUse (s : State) (p : Nat) : Nat :=
  ((s.fgs.graphs.filter (·.part == p)).flatMap (fun g => g.segs.map (·.bytes))).sum

/-- A granule of a core's memory that admission may use for an area of partition `p`: owned, and free of weight areas and rings. -/
def State.granuleFree (s : State) (gs : List Graph) (p c k g : Nat) : Bool :=
  let m := spmMem k c
  let lo := g * granuleSize m
  let hi := lo + granuleSize m
  let meets (a n : Nat) : Bool := decide (a < hi) && decide (lo < a + n)
  s.granuleOwner m g == p && !s.inFill m g
    && !(k == 0 && s.nc.segs.any (fun x => x.areas.any (fun a => a.1 == m && meets a.2.1 a.2.2)))
    && !(k == 1 && gs.any (fun x => x.rings.any (fun r => r.memory == 8 + c && meets r.offset (r.slots * r.slotKib * 1024))))

/-- The longest run of entries that hold. -/
def longestRun (l : List Bool) : Nat := (l.foldl (fun (a : Nat × Nat) b => if b then (a.1 + 1, max a.2 (a.1 + 1)) else (0, a.2)) (0, 0)).2

/-- Where an area of `n` bytes of memory kind `k` on core `c` goes: the place asked for when it is a free run of granules, else the first
such run; or the bytes by which it exceeds the largest run (R363). (DEDUCED, log 43) -/
def State.placeArea (s : State) (gs : List Graph) (p c k n : Nat) (want : Option Nat) : Nat ⊕ Nat :=
  let m := spmMem k c
  let z := granuleSize m
  let need := ceilDiv n z
  let free := (List.range (granules m)).map (s.granuleFree gs p c k)
  let fits (g : Nat) : Bool := ((free.drop g).take need).length == need && ((free.drop g).take need).all id
  let first := (List.range (granules m)).find? fits
  match want.filter (fun o => o % z == 0 && fits (o / z)), first with
  | some o, _ => .inl o
  | none, some g => .inl (g * z)
  | none, none => .inr (n - longestRun free * z)

/-- Where a scratch area of `n` bytes of partition `p` goes in its pool, `busy` being the areas taken. (DEDUCED, log 43) -/
def State.placeScratch (s : State) (p n : Nat) (busy : List (Nat × Nat)) (want : Option Nat) : Nat ⊕ Nat :=
  let base := 2 ^ 20 * s.fld (R.NC_SCRATCH_BASE p) 14 0
  let fin := base + 2 ^ 20 * s.fld (R.NC_SCRATCH_QUOTA p) 15 0
  let clear (a : Nat) : Bool := decide (base ≤ a) && decide (a + n ≤ fin) && busy.all (fun b => decide (a + n ≤ b.1) || decide (b.1 + b.2 ≤ a))
  let starts := base :: busy.map (fun b => b.1 + b.2)
  let room (a : Nat) : Nat := if fin < a ∨ busy.any (fun b => decide (b.1 ≤ a) && decide (a < b.1 + b.2)) then 0
    else (busy.filterMap (fun b => if a ≤ b.1 then some b.1 else none)).foldl min fin - a
  match want.filter (fun a => a % 64 == 0 && clear a), starts.find? clear with
  | some a, _ => .inl a
  | none, some a => .inl a
  | none, none => .inr (n - (starts.map room).foldl max 0)

/-- Scratch areas placed for partition `p`: those of its graphs, and those that its residencies still lie in. -/
def State.scratchAreas (s : State) (p : Nat) : List (Nat × Nat) :=
  (s.fgs.graphs.filter (·.part == p)).flatMap (fun g => g.segs.filterMap (fun x => x.scratch.map (·.2)))
    ++ (s.nc.segs.filter (·.part == p)).filterMap (fun x => x.scratch.map (·.2))

/-! ### Time (R364, R365) -/

/-- A fraction, and sums and comparisons of fractions. -/
def fracAdd (a b : Nat × Nat) : Nat × Nat := (a.1 * b.2 + b.1 * a.2, a.2 * b.2)
def fracLe (a b : Nat × Nat) : Bool := decide (a.1 * b.2 ≤ b.1 * a.2)

/-- The budget of partition `p` on window table `t` in ns (R365). -/
def State.timeBudget (s : State) (p t : Nat) : Nat :=
  let w := s.windows t
  let own := ((w.filter (·.1 == p)).map (·.2)).sum
  4 * (own + if 2 ≤ p then s.majorNs - (w.map (·.2)).sum else 0)

/-- T_run in µs (R365): the MAC clock is 250 × (32 − s) / 32 MHz. None when unbounded. -/
def State.runTime (s : State) (p : Nat) (h : List Word) : Option (Nat × Nat) :=
  let a := (segMacCycles h * 32, 250 * (32 - s.derate))
  let b := (segStreamBytes h, (s.reg (R.NC_STREAM_RATE p)).toNat)
  if segStreamBytes h = 0 then some a else if b.2 = 0 then none else some (if fracLe a b then b else a)

/-- The demand of a node on the two domains in µs per major cycle (R365). -/
def State.demand (s : State) (p : Nat) (h : List Word) (rate inst : Nat) : Option ((Nat × Nat) × (Nat × Nat)) :=
  (s.runTime p h).map (fun t =>
    let d := (t.1 * rate * (s.majorNs / 1000), t.2 * 10 ^ 9)
    if inst ≤ 3 ∨ inst = 8 then (d, (0, 1)) else if inst ≤ 7 ∨ inst = 9 then ((0, 1), d) else ((d.1, 2 * d.2), (d.1, 2 * d.2)))

/-- The demand admitted for partition `p`, west or east, with `extra`. -/
def State.demandSum (s : State) (p : Nat) (east : Bool) (extra : List SegAdm) : Nat × Nat :=
  (((s.fgs.graphs.filter (·.part == p)).flatMap (·.segs)) ++ extra).foldl (fun a x => fracAdd a (if east then x.east else x.west)) (0, 1)

/-- The excess of a demand in µs over a budget in ns, rounded up; 0 when it fits. -/
def overBudget (d : Nat × Nat) (ns : Nat) : Nat := if fracLe (1000 * d.1, d.2) (ns, 1) then 0 else ceilDiv (1000 * d.1 - ns * d.2) (1000 * d.2)

/-- Cores that INSTANCE makes eligible (R151). -/
def eligible (inst : Nat) : Option (List Nat) :=
  if inst ≤ 7 then some [inst] else if inst = 8 then some [0, 1, 2, 3] else if inst = 9 then some [4, 5, 6, 7]
  else if inst = 15 then some (List.range 8) else none

/-! ### Registers (R374, R375) -/

/-- The use and demand registers brought up to date. (DEDUCED, log 31) -/
def State.ncShow (s : State) : State :=
  let s := (List.range 8).foldl (fun s c => (List.range 4).foldl (fun s p => (List.range 3).foldl (fun s k =>
    s.setFld (quotaReg c p k) 28 16 (min (ceilDiv (s.ncUse s.fgs.graphs p c k) 1024) 0x1FFF)) s) s) s
  (List.range 4).foldl (fun s p =>
    let s := s.setFld (R.NC_SCRATCH_QUOTA p) 31 16 (min (ceilDiv (s.scratchUse p) (2 ^ 20)) 0xFFFF)
    let d (e : Bool) : Word := let x := s.demandSum p e []; BitVec.ofNat 32 (min (ceilDiv x.1 x.2) 0xFFFFFFFF)
    (s.setReg (R.NC_TIME_USED_W p) (d false)).setReg (R.NC_TIME_USED_E p) (d true)) s

/-- NC_ADM_STATUS after a decision (R363), and NC_ADM_SHORT, which equals FGS_GRAPH_DETAIL (R375). -/
def State.admResult (s : State) (st check core p gid short : Nat) : State :=
  let v := BitVec.ofNat 32 (min short 0xFFFFFFFF)
  ((s.setReg R.NC_ADM_STATUS (BitVec.ofNat 32 (2 ^ 24 * st + 2 ^ 20 * check + 2 ^ 16 * core + 256 * p + gid))).setReg R.NC_ADM_SHORT v).setReg
    R.FGS_GRAPH_DETAIL v

/-! ### Creating regions and descriptors (R355) -/

/-- A region made by the device; none when no ID is free. -/
def State.makeRegion (s : State) (r : Region) : Option (State × Nat) :=
  s.freeRegion.map (fun id => (s.addRegion id r, id))

/-- A descriptor created by agent `ag` for partition `p`: its handle, or the status. -/
def State.makeDesc (s : State) (ag : Agent) (p : Nat) (d : Desc) : (State × Nat) ⊕ Nat :=
  match s.createCheck ag p d with
  | some (_, _, st) => .inr st
  | none =>
    let t := s.table p
    match t.head with
    | none => .inr St.busy
    | some h =>
      let t := if t.fresh < 16384 then { t with fresh := t.fresh + 1 } else { t with freed := t.freed.drop 1 }
      .inl (s.setTable p { t with used := t.used ++ [(h, d)] }, h)

/-- What admission ends with: a status, its detail, and the check and core of NC_ADM_STATUS (0 when it names none). -/
structure AdmStop where
  status : Nat
  detail : Nat
  check : Nat
  core : Nat
deriving DecidableEq, Repr

/-- A simple stop. -/
def AdmStop.of (st : Nat) : AdmStop := ⟨st, 0, 0, 0⟩

/-- The areas of a segment on core `c` (R363): checked against the quota, placed, made regions, one memory after the other. -/
def State.admitCore (s : State) (gs : List Graph) (seg : Segment) (c : Nat) (want : List Nat) : (State × Segment × List (Nat × Nat) × List Nat) ⊕ AdmStop :=
  (List.range 3).foldl (fun acc k =>
    match acc with
    | .inr e => .inr e
    | .inl (s, seg, rs, want) =>
      let p := seg.part
      let q := 1024 * s.fld (quotaReg c p k) 12 0
      let s' : State := { s with nc.segs := seg :: s.nc.segs.filter (fun x => !(x.part == p && x.addr == seg.addr && x.cores == seg.cores)) }
      let use := s'.ncUse gs p c k
      if q < use then .inr ⟨0x48, use - q, k + 1, c⟩
      else
        let n := ceilDiv (segBytes seg.head k) 64 * 64
        if n = 0 then .inl (s, seg, rs, want)
        else match s.placeArea gs p c k n want.head? with
          | .inr short => .inr ⟨St.footprint, short, k + 1, c⟩
          | .inl o =>
            match s.makeRegion ⟨match k with | 0 => RK.wm | 1 => RK.am | _ => RK.pm, o, n, p, 0, true, some (spmMem k c)⟩ with
            | none => .inr (AdmStop.of St.busy)
            | some (s, id) =>
              .inl (s, { seg with areas := seg.areas ++ [(spmMem k c, o, n)], regions := seg.regions ++ [id] }, rs ++ [(k, id)], want.drop 1))
    (.inl (s, seg, [], want))

/-- The tensor table created on one core (R355): `rs` gives the region of each code. -/
def State.admitTensors (s : State) (ag : Agent) (p : Nat) (rs : List (Nat × Nat)) : List (List Word) → List Nat → (State × List Nat) ⊕ AdmStop
  | [], hs => .inl (s, hs)
  | ws :: t, hs =>
    match rs.find? (·.1 == bits (wd ws 0) 31 20) with
    | none => .inr (AdmStop.of St.descInvalid)
    | some (_, id) =>
      match s.makeDesc ag p ⟨ws.set 0 (setBits (wd ws 0) 31 20 id), 0⟩ with
      | .inr st => .inr (AdmStop.of st)
      | .inl (s, h) => s.admitTensors ag p rs t (hs ++ [h])

/-- The words of [off, off + n) of a weight memory written anew: none fails its check any more. -/
def State.spmFresh (s : State) (m off n : Nat) : State :=
  let inside (lane : Nat) : Bool := decide (off ≤ lane * 8) && decide (lane * 8 < off + n)
  { s with spm := { s.spm with bad := s.spm.bad.filter (fun b => !(b.mem == m && inside b.lane)), found := s.spm.found.filter (fun b => !(b.1 == m && inside b.2)) } }

/-- Where the command stream lies in a segment's weight area: behind the weight section, or at the start of the area of a segment that
streams its weights. (DEDUCED, log 79) -/
def segCmdPlace (h : List Word) : Nat := if segStream h then 0 else ceilDiv (segWeightBytes h) 64 * 64

/-- The weights and the commands in the weight area of core `c` (R357, R367), as far as it reaches. -/
def State.loadWeights (s : State) (seg : Segment) (c : Nat) (img : List Byte) : State :=
  let h := seg.head
  let part (o n : Nat) : List Byte := s.plain h o ((img.drop o).take n)
  match seg.areas.find? (·.1 == spmMem 0 c) with
  | none => s
  | some (m, o, n) =>
    let s := s.spmFresh m o n
    let s := if segStream h then s else s.spmPut m o ((part (segWeightOff h) (segWeightBytes h)).take n)
    s.spmPut m (o + segCmdPlace h) ((part (segCmdOff h) (64 * segCmds h)).take (n - segCmdPlace h))

/-- Command `k` of a segment's stream on core `c`, as its weight memory holds it (R330, R357). A weight area too small for the command leaves
it as the image had it. (DEDUCED, log 79) -/
def State.cmdOn (s : State) (x : Segment) (c k : Nat) : List Word :=
  match x.areas.find? (·.1 == spmMem 0 c) with
  | some (m, o, n) =>
    let p := segCmdPlace x.head + 64 * k
    if p + 64 ≤ n ∧ k < x.cmds.length then
      let bs := s.spmBytes m (o + p) 64
      (List.range 16).map (wordAt bs)
    else x.cmds.getD k []
  | none => x.cmds.getD k []

/-- The command stream on core `c`. -/
def State.cmdsOn (s : State) (x : Segment) (c : Nat) : List (List Word) := (List.range x.cmds.length).map (s.cmdOn x c)

/-- A region of the scratch pool (R673, R379). -/
def State.scratchRegion (s : State) (p a n : Nat) : (State × Nat) ⊕ AdmStop :=
  let w : Who := whoPart 0x3A p
  if dramEnd < a + n then .inr (AdmStop.of St.rangeFault)
  else if (unitsOf a n).any (fun u => !s.fwAllows w false u || !s.fwAllows w true u) then .inr (AdmStop.of St.partitionFault)
  else match s.makeRegion ⟨RK.dram, a, n, p, 0, true, none⟩ with
    | none => .inr (AdmStop.of St.busy)
    | some r => .inl r

/-! ### Admission (R357, R363) -/

/-- What a load has admitted so far: the nodes, and the places still asked for. -/
structure AdmSt where
  done : List SegAdm
  want : List Nat
deriving DecidableEq, Repr

/-- What placing areas on the cores leaves: the state, the segment, the regions made per core, and the places still asked for. -/
structure AdmMem where
  st : State
  seg : Segment
  perCore : List (Nat × List (Nat × Nat))
  want : List Nat

/-- The segment at `addr`: the resident one, or its image read and checked (R354). -/
def State.admitImage (s : State) (p addr : Nat) (cores : List Nat) (old : Option Segment) : State × Nat × Segment :=
  match old with
  | some x => (s, St.done, x)
  | none =>
    let (s, st, x) := s.parseSegment p addr
    (s, st, { x with cores := cores })

/-- The first memory of a resident segment's cores whose use is over its quota (R357). -/
def State.quotaStop (s : State) (gs : List Graph) (p : Nat) (cores : List Nat) : Option AdmStop :=
  cores.findSome? (fun c => (List.range 3).findSome? (fun k =>
    let q := 1024 * s.fld (quotaReg c p k) 12 0
    if q < s.ncUse gs p c k then some (AdmStop.mk St.footprint (s.ncUse gs p c k - q) (k + 1) c) else none))

/-- The areas of a new segment, core by core. (DEDUCED, log 43) -/
def State.admitCores (s : State) (gs : List Graph) (cores : List Nat) (seg : Segment) (want : List Nat) : AdmMem ⊕ AdmStop :=
  cores.foldl (fun acc c => match acc with
    | .inr e => .inr e
    | .inl m => match m.st.admitCore gs m.seg c m.want with
      | .inr e => .inr e
      | .inl (s, x, rs, want) => .inl ⟨s, x, m.perCore ++ [(c, rs)], want⟩) (.inl ⟨s, seg, [], want⟩)

/-- The memory checks, core by core (R357, R363). -/
def State.admitMemory (s : State) (gs : List Graph) (p : Nat) (cores : List Nat) (old : Option Segment) (seg : Segment) (want : List Nat) :
    AdmMem ⊕ AdmStop :=
  match old with
  | some x => match s.quotaStop gs p cores with | some e => .inr e | none => .inl ⟨s, x, [], want⟩
  | none => s.admitCores gs cores seg want

/-- The scratch bytes of a segment: those it counts, and the area placed for it (R358). -/
def segScratchBytes (g : Graph) (h : List Word) : Nat := segScratch h * g.maxJobs
def segScratchArea (g : Graph) (h : List Word) : Nat := ceilDiv (segScratchBytes g h) 64 * 64

/-- Where the scratch area goes, or the scratch check's stop (R358, R363). -/
def State.admitScratch (s : State) (g : Graph) (a : AdmSt) (h : List Word) (want : List Nat) : Nat ⊕ AdmStop :=
  let p := g.part
  let used := s.scratchUse p + (a.done.map (·.bytes)).sum + segScratchBytes g h
  let quota := 2 ^ 20 * s.fld (R.NC_SCRATCH_QUOTA p) 15 0
  let busy := s.scratchAreas p ++ a.done.filterMap (fun x => x.scratch.map (·.2))
  if quota < used then .inr ⟨St.footprint, used - quota, 4, 0⟩
  else if segScratchArea g h = 0 then .inl 0
  else match s.placeScratch p (segScratchArea g h) busy want.head? with
    | .inr short => .inr ⟨St.footprint, short, 4, 0⟩
    | .inl sa => .inl sa

/-- The tile rule, 38 µs at the present MAC_CLK, and the time rule of both halves (R364, R365): the node's entry, or the stop. -/
def State.admitTime (s : State) (g : Graph) (a : AdmSt) (h : List Word) (adm : SegAdm) (rate inst : Nat) : SegAdm ⊕ AdmStop :=
  let p := g.part
  let tile := segMaxTile h * 32 * 1000
  let unit := 250 * (32 - s.derate)
  if 38000 * unit < tile then .inr ⟨St.timeBudget, ceilDiv (tile - 38000 * unit) (1000 * unit), 5, 0⟩
  else match s.demand p h rate inst with
    | none => .inr ⟨St.timeBudget, 0xFFFFFFFF, 6, if 4 ≤ inst ∧ inst ≤ 7 ∨ inst = 9 then 1 else 0⟩
    | some (w, e) =>
      let adm := { adm with west := w, east := e }
      let ow := overBudget (s.demandSum p false (a.done ++ [adm])) (s.timeBudget p 6)
      let oe := overBudget (s.demandSum p true (a.done ++ [adm])) (s.timeBudget p 7)
      if ow ≠ 0 then .inr ⟨St.timeBudget, ow, 6, 0⟩ else if oe ≠ 0 then .inr ⟨St.timeBudget, oe, 6, 1⟩ else .inl adm

/-- The region of the scratch area, when there is one. -/
def State.admitArea (s : State) (p sa sn : Nat) : (State × Option (Nat × Nat × Nat)) ⊕ AdmStop :=
  if sn = 0 then .inl (s, none)
  else match s.scratchRegion p sa sn with
    | .inr e => .inr e
    | .inl (s, id) => .inl (s, some (id, sa, sn))

/-- The region of streamed weights, when the segment streams them (R367). -/
def State.admitStream (s : State) (p addr : Nat) (h : List Word) : (State × Option Nat) ⊕ AdmStop :=
  if segStream h then
    match s.makeRegion ⟨RK.dram, addr + segWeightOff h, max 64 (ceilDiv (segWeightBytes h) 64 * 64), p, 0, false, none⟩ with
    | none => .inr (AdmStop.of St.busy)
    | some (s, id) => .inl (s, some id)
  else .inl (s, none)

/-- The descriptors of the tensor table on each core, and its weights and commands loaded (R355, R356). -/
def State.admitHandles (s : State) (ag : Agent) (p : Nat) (perCore : List (Nat × List (Nat × Nat))) (shared : List (Nat × Nat))
    (tens : List (List Word)) (img : List Byte) (seg : Segment) : (State × Segment) ⊕ AdmStop :=
  perCore.foldl (fun (acc : (State × Segment) ⊕ AdmStop) c => match acc with
    | .inr e => .inr e
    | .inl (s, x) => match s.admitTensors ag p (c.2 ++ shared) tens [] with
      | .inr e => .inr e
      | .inl (s, hs) => .inl (s.loadWeights x c.1 img, { x with handles := x.handles ++ [(c.1, hs)] })) (.inl (s, seg))

/-- A segment resident for the first time: its image, its stream region, its descriptors. -/
def State.admitNew (s : State) (ag : Agent) (g : Graph) (n : Nat) (adm : SegAdm) (seg : Segment) (perCore : List (Nat × List (Nat × Nat))) :
    State × (Segment ⊕ AdmStop) :=
  let p := g.part
  let h := seg.head
  let (s, st, img) := s.readAgain (whoPart 0x38 p) adm.addr (segImageBytes h) 2
  if st ≠ St.done then (s, .inr (AdmStop.of (exhausted st)))
  else match s.admitStream p adm.addr h with
    | .inr e => (s, .inr e)
    | .inl (s, str) =>
      let tens := (List.range (segTensors h)).map (fun i => (List.range 16).map (fun k => wordAt (img.drop (segTensorOff h + 64 * i)) k))
      let shared := (match adm.scratch with | some (id, _) => [(3, id)] | none => []) ++ (match str with | some id => [(4, id)] | none => [])
      match s.admitHandles ag p perCore shared tens img seg with
      | .inr e => (s, .inr e)
      | .inl (s, x) => (s, .inl { x with users := [(g.id, n)], stream := str, scratch := adm.scratch, regions := x.regions ++ str.toList })

/-- The node joins the users of a resident segment. -/
def State.admitUser (s : State) (x : Segment) (g n : Nat) : State :=
  { s with nc := { s.nc with segs := s.nc.segs.map (fun (y : Segment) =>
      if y.part = x.part ∧ y.addr = x.addr ∧ y.cores = x.cores then { y with users := y.users ++ [(g, n)] } else y) } }

/-- Everything after the checks: the scratch region, then the segment's residency. -/
def State.admitPlace (s : State) (ag : Agent) (g : Graph) (n : Nat) (a : AdmSt) (adm : SegAdm) (old : Option Segment) (sa : Nat) (m : AdmMem) :
    State × (AdmSt ⊕ AdmStop) :=
  let sn := segScratchArea g m.seg.head
  match m.st.admitArea g.part sa sn with
  | .inr e => (s, .inr e)
  | .inl (s, scr) =>
    let want := if sn = 0 then m.want else m.want.drop 1
    let adm := { adm with scratch := scr }
    match old with
    | some x => (s.admitUser x g.id n, .inl ⟨a.done ++ [adm], want⟩)
    | none =>
      let r := s.admitNew ag g n adm m.seg m.perCore
      match r.2 with
      | .inr e => (r.1, .inr e)
      | .inl x => ({ r.1 with nc := { r.1.nc with segs := r.1.nc.segs ++ [x] } }, .inl ⟨a.done ++ [adm], want⟩)

/-- The time checks, then the placements. -/
def State.admitTimed (s : State) (ag : Agent) (g : Graph) (n : Nat) (a : AdmSt) (adm : SegAdm) (old : Option Segment) (sa : Nat) (m : AdmMem) :
    State × (AdmSt ⊕ AdmStop) :=
  match s.admitTime g a m.seg.head adm (wd (g.node n).args 2).toNat (g.node n).inst with
  | .inr e => (s, .inr e)
  | .inl adm => s.admitPlace ag g n a adm old sa m

/-- The scratch check, then the time checks. -/
def State.admitSized (s : State) (ag : Agent) (g : Graph) (n : Nat) (a : AdmSt) (adm : SegAdm) (old : Option Segment) (m : AdmMem) :
    State × (AdmSt ⊕ AdmStop) :=
  match s.admitScratch g a m.seg.head m.want with
  | .inr e => (s, .inr e)
  | .inl sa => s.admitTimed ag g n a { adm with bytes := segScratchBytes g m.seg.head } old sa m

/-- The checks of an image that was read, in the order of R363, then the placements. -/
def State.admitChecked (s : State) (ag : Agent) (g : Graph) (n : Nat) (a : AdmSt) (adm : SegAdm) (old : Option Segment) (seg : Segment) :
    State × (AdmSt ⊕ AdmStop) :=
  match s.admitMemory (g :: s.fgs.graphs) g.part adm.cores old seg a.want with
  | .inr e => (s, .inr e)
  | .inl m => m.st.admitSized ag g n a adm old m

/-- The checks and placements of one node in the order of R363. -/
def State.admitNode (s : State) (ag : Agent) (g : Graph) (n : Nat) (a : AdmSt) : State × (AdmSt ⊕ AdmStop) :=
  let nd := g.node n
  let addr := (wd nd.args 0).toNat + 2 ^ 32 * bits (wd nd.args 1) 7 0
  let rate := (wd nd.args 2).toNat
  match eligible nd.inst with
  | none => (s, .inr (AdmStop.of St.descInvalid))
  | some cores =>
    if bits (wd nd.args 1) 31 8 ≠ 0 ∨ rate = 0 ∨ 1000000 < rate ∨ (List.range 6).any (fun k => wd nd.args (3 + k) != 0) then
      (s, .inr (AdmStop.of St.descInvalid))
    else
      let old := s.nc.segs.find? (fun x => x.part == g.part && x.addr == addr && x.cores == cores)
      let (s, st, seg) := s.admitImage g.part addr cores old
      if st ≠ St.done then (s, .inr (AdmStop.of st))
      else s.admitChecked ag g n a ⟨n, addr, cores, none, 0, (0, 1), (0, 1)⟩ old seg

/-- Nothing placed is kept of a load that stops. (DEDUCED, log 43) -/
def State.admitUndo (s s' : State) : State := State.regionUsed { s' with tdu := s.tdu, nc := s.nc, spm := s.spm }

/-- The nodes one after the other, up to the first stop. -/
def State.admitNodes (s : State) (ag : Agent) (g : Graph) (nodes : List Nat) (want : List Nat) : State × (AdmSt ⊕ (AdmStop × Nat)) :=
  nodes.foldl (fun (acc : State × (AdmSt ⊕ (AdmStop × Nat))) n =>
    match acc.2 with
    | .inr e => (acc.1, .inr e)
    | .inl a =>
      let r := acc.1.admitNode ag g n a
      (r.1, match r.2 with | .inl a => .inl a | .inr e => .inr (e, n))) (s, .inl ⟨[], want⟩)

/-- Admission of a graph's segments (R356, R363): the state with everything placed and the graph's entries; or, with nothing placed,
the stop and the node concerned. `want` are the places the device chooses, in the order in which it places areas. (DEDUCED, log 43) -/
def State.admitGraph (s : State) (ag : Agent) (g : Graph) (want : List Nat) : State × (List SegAdm ⊕ (AdmStop × Nat)) :=
  let nodes := (List.range g.nodes.length).filter (fun n => (g.node n).kind == NK.nc)
  let r := s.admitNodes ag g nodes want
  match r.2 with
  | .inl a => (if nodes.isEmpty then r.1 else r.1.admResult St.done 0 0 g.part g.id 0, .inl a.done)
  | .inr (e, n) =>
    let s' := s.admitUndo r.1
    (if e.check = 0 then s' else s'.admResult e.status e.check e.core g.part g.id e.detail, .inr (e, n))

/-- The admission of a graph is given back (R357): residencies that no node names any more end, with their descriptors and regions. -/
def State.unadmit (s : State) (g : Graph) : State :=
  let s := g.segs.foldl (fun s x => match x.scratch with
    | some (id, _) => if s.nc.segs.any (fun y => (y.users.any (fun u => u.1 != g.id)) && y.scratch == x.scratch) then s else s.dropRegion id
    | none => s) s
  let segs := s.nc.segs.map (fun (y : Segment) => { y with users := y.users.filter (fun u => u.1 != g.id) })
  let gone := segs.filter (·.users.isEmpty)
  let s := { s with nc.segs := segs.filter (fun y => !y.users.isEmpty) }
  gone.foldl (fun s y =>
    let hs := y.handles.flatMap (·.2)
    let rs := y.regions ++ (y.scratch.map (·.1)).toList ++ hs.filterMap (fun h => (s.desc? y.part h).map (·.region))
    let t := s.table y.part
    let s := s.setTable y.part { t with used := t.used.filter (fun e => !hs.contains e.1), freed := t.freed ++ hs }
    rs.foldl State.dropRegion s) s

end Sys2Proof.Machine
end

