-- ==== Sys2Proof/Machine/NcMath.lean ====
section
/-! DEFINITION. The arithmetic of the neural cores: element values, sums, elementary functions, the glaze store (09_neural_cores.md R331 to R343,
R351). -/

namespace Sys2Proof.Machine

/-! ### Element values (R331 to R335) -/

/-- The floating-point format of an element type. -/
def elemFmt (e : Nat) : Option Fmt :=
  if e = El.e4m3 then some .e4m3 else if e = El.e5m2 then some .e5m2 else if e = El.bf16 then some .bf16
  else if e = El.fp16 then some .fp16 else if e = El.fp32 then some .fp32 else none

/-- A signed integer type. -/
def elemSigned (e : Nat) : Bool := e == El.int8 || e == El.int16 || e == El.int32 || e == El.int4

/-- An integer type. -/
def elemInt (e : Nat) : Bool := decide (e ≤ 5)

/-- An exact integer. -/
def fpInt (v : Int) : Fp := .fin (decide (v < 0)) v.natAbs 0

/-- The integer of a code of an integer type. -/
def intOf (e code : Nat) : Int := if elemSigned e then sext (elemBits e) code else (code % 2 ^ elemBits e : Nat)

/-- The exact value of an element's code; `x` is the block exponent of an SE8 element (R334). -/
def elemVal (e code x : Nat) : Fp :=
  match elemFmt e with
  | some f => f.decode code
  | none =>
    if e = El.se8 then (if x = 255 then .nan else .fin (decide (128 ≤ code % 256)) (code % 128) ((x : Int) - 133))
    else fpInt (intOf e code)

/-- The range of an integer type. -/
def intRange (e : Nat) : Int × Int :=
  let w := elemBits e
  if elemSigned e then (-((2 ^ (w - 1) : Nat) : Int), ((2 ^ (w - 1) : Nat) : Int) - 1) else (0, ((2 ^ w : Nat) : Int) - 1)

/-- ⌊log₂⌋ of a finite non-zero magnitude. -/
def fpLog2 (m : Nat) (e : Int) : Int := (Nat.log2 m : Int) + e

/-- |a| < |b| for values that are no NaN. -/
def absLt (a b : Fp) : Bool := (fabs a).lt (fabs b)

/-- Conversion to a type that is not SE8 (R342): code, saturated, a NaN became an integer. -/
def encElem (e : Nat) (v : Fp) : Nat × Bool × Bool :=
  match elemFmt e with
  | some f => let (c, o) := f.encode true v; (if e = El.fp32 then (f.encode false v).1 else c, e != El.fp32 && o, false)
  | none =>
    let (lo, hi) := intRange e
    match v with
    | .nan => (0, false, true)
    | .inf neg => (unsext (elemBits e) (if neg then lo else hi), true, false)
    | .fin .. =>
      let x := (v.toInt 0).getD 0
      (unsext (elemBits e) (clampI lo hi x), decide (x < lo ∨ hi < x), false)

/-- The magnitude of an SE8 element under block exponent `x`, before step 5 (R335). -/
def se8Mag (x : Nat) : Fp → Nat
  | .fin _ m e => let k : Int := e + 133 - x; if 0 ≤ k then m * 2 ^ k.toNat else rneDiv m (2 ^ (-k).toNat)
  | _ => 128

/-- A block of values as SE8 (R335): element bytes, exponent, saturated. The bytes of a NaN block are open. (DESIGN CHOICE, log 41) -/
def se8Block (vs : List Fp) : List Nat × Nat × Bool :=
  let sign : Fp → Nat
    | .fin true _ _ => 128
    | .inf true => 128
    | _ => 0
  if vs.any Fp.isNan then ((List.range vs.length).map (fun i => Config.fpOpen 12 (i :: vs.map Fp.bits) % 256), 255, false)
  else
    let big := vs.foldl (fun a v => if absLt a v then fabs v else a) (.fin false 0 0)
    let x : Option Nat := match big with
      | .fin _ m e => if m = 0 then none else some (clampI 0 254 (fpLog2 m e + 127)).toNat
      | _ => some 254
    match x with
    | none => (vs.map sign, 0, false)
    | some x =>
      let top (x : Nat) : Nat := (vs.map (se8Mag x)).foldl max 0
      let x := if top x = 128 ∧ x < 254 then x + 1 else x
      (vs.map (fun v => sign v + min 127 (se8Mag x v)), x, decide (127 < top x))

/-! ### Sums (R338) -/

/-- The saturating INT32 sum of a start and exact products (R338): value and ACC_SAT. Where some orders of the additions saturate and others
do not, both are open; where every order saturates, the value is. -/
def intSum (start : Int) (l : List Int) : Int × Bool :=
  let hi : Int := 2 ^ 31 - 1
  let lo : Int := -(2 ^ 31)
  let pos := (l.filter (fun x => decide (0 < x))).sum
  let neg := (l.filter (fun x => decide (x < 0))).sum
  if start + pos ≤ hi ∧ lo ≤ start + neg then (start + pos + neg, false)
  else if neg = 0 then (hi, true)
  else if pos = 0 then (lo, true)
  else
    let total := start + pos + neg
    let q := Config.intSum start l
    if q.2 ∨ total < lo ∨ hi < total then (clampI lo hi q.1, true) else (total, false)

/-! ### Functions accurate to two units in the last place (R351) -/

/-- A finite positive code moved by 0 to 4 units less 2. -/
def ulpMove (c : Nat) (d : Fin 5) : Nat := min (c + d.val - 2) 0x7F800000

/-- ⌊2²⁰⁰ ln 2⌋. -/
abbrev ln2Fix : Int := 1113844574712631719546256151097547306333272293549090750737802

/-- exp of a finite value as a mantissa at 2⁻²⁰⁰ and a power of two. -/
def expFix (m : Nat) (neg : Bool) (e : Int) : Nat × Int :=
  let a : Int := if 0 ≤ e + 200 then m * 2 ^ (e + 200).toNat else (m / 2 ^ (-(e + 200)).toNat : Nat)
  let x : Int := if neg then -a else a
  let k := x / ln2Fix
  let r := (x - k * ln2Fix).toNat
  let s := (List.range 60).foldl (fun (acc : Nat × Nat) n =>
    let t := acc.1 * r / 2 ^ 200 / (n + 1)
    (t, acc.2 + t)) (2 ^ 200, 2 ^ 200)
  (s.2, k)

/-- exp (R351). -/
def fexp (x : Fp) : Fp :=
  match x with
  | .nan => .nan
  | .inf neg => if neg then .fin false 0 0 else .inf false
  | .fin neg m e =>
    if (fpInt 89).lt x then .inf false
    else if x.lt (fpInt (-104)) then .fin false 0 0
    else
      let (s, k) := expFix m neg e
      fpOf (ulpMove (Fmt.fp32.encodeMag false s 1 (k - 200)).1 (Config.expUlp x.bits))

/-- Reciprocal (R351). -/
def frecip (x : Fp) : Fp :=
  match fdiv (.fin false 1 0) x with
  | .fin s m e => if m = 0 then .fin s m e else
      let c := ulpMove (Fp.bits (.fin false m e)) (Config.recipUlp x.bits)
      fpOf (c + 2 ^ 31 * b2n s)
  | y => y

/-- ⌊√n⌋ of a number below 4^fuel. -/
def isqrt : Nat → Nat → Nat
  | 0, _ => 0
  | f + 1, n => let r := 2 * isqrt f (n / 4); if (r + 1) * (r + 1) ≤ n then r + 1 else r

/-- Reciprocal square root (R351). -/
def frsqrt (x : Fp) : Fp :=
  match x with
  | .nan => .nan
  | .inf neg => if neg then .nan else .fin false 0 0
  | .fin neg m e =>
    if m = 0 then .inf neg
    else if neg then .nan
    else
      let n := scaleUp (2 ^ 600) (-e) / scaleDown m (-e)
      fpOf (ulpMove (Fmt.fp32.encodeMag false (isqrt 512 n) 1 (-300)).1 (Config.rsqrtUlp x.bits))

/-- The larger and the smaller value; what the spec leaves open (a NaN, two zeros of unlike sign) is open. (DESIGN CHOICE, log 41) -/
def pickMax (a b : Fp) : Fp := if a.isNan || b.isNan || (!a.lt b && !b.lt a && a.bits != b.bits) then fpOf (Config.fpOpen 1 [a.bits, b.bits])
  else if a.lt b then b else a
def pickMin (a b : Fp) : Fp := if a.isNan || b.isNan || (!a.lt b && !b.lt a && a.bits != b.bits) then fpOf (Config.fpOpen 2 [a.bits, b.bits])
  else if b.lt a then b else a

/-! ### The glaze store (R339 to R343) -/

def GlazeSet.act (g : GlazeSet) : Nat := bits (wd g.head 0) 31 28
def GlazeSet.perChannel (g : GlazeSet) : Bool := bit (wd g.head 0) 27
def GlazeSet.channels (g : GlazeSet) : Nat := bits (wd g.head 0) 15 0
def GlazeSet.fp (g : GlazeSet) (k : Nat) : Fp := fpOf (wd g.head k).toNat
def GlazeSet.point (g : GlazeSet) (k : Nat) : Fp := fpOf (wd g.points k).toNat

/-- Steps 1 and 2 for a result at channel `c`. -/
def GlazeSet.apply (g : GlazeSet) (c : Nat) (r : Fp) : Fp :=
  let (sc, off) := if g.perChannel then (fpOf (wd g.pairs (2 * c)).toNat, fpOf (wd g.pairs (2 * c + 1)).toNat) else (g.fp 6, g.fp 7)
  let v := fma r.r32 sc off
  if v.isNan then .nan
  else match g.act with
    | 1 => fmax v (g.fp 1)
    | 2 =>
      let t := fmul (fsub v (g.fp 1)) (g.fp 3)
      if t.isNan then .nan
      else if t.lt (.fin false 0 0) then fadd (g.point 0) (fmul (fsub v (g.fp 1)) (g.fp 4))
      else if t.lt (fpInt 256) then
        let i := ((t.floor).getD 0).toNat
        fadd (g.point i) (fmul (fsub (g.point (i + 1)) (g.point i)) (fsub t (fpInt i)))
      else fadd (g.point 256) (fmul (fsub v (g.fp 2)) (g.fp 5))
    | _ => v

end Sys2Proof.Machine
end

