-- ==== Sys2Proof/Machine/NcOps.lean ====
section
/-! DEFINITION. What each command of a neural core computes (09_neural_cores.md R336 to R352, R671; 10_tensor_descriptors.md R393 to R404). -/

namespace Sys2Proof.Machine

/-! ### Operands -/

/-- A tensor as read: its handle, descriptor, rows and, for SE8, the rows of its exponents. -/
structure Opnd where
  h : Nat
  d : Desc
  rows : List (List Byte)
  exps : List (List Byte)
deriving DecidableEq, Repr

/-- The place of a row among those of Desc.rows, from its outer indices. -/
def rowNo (d : Desc) (outer : List Nat) : Nat :=
  ((outer.zip (d.outer.map d.size)).foldr (fun e acc => e.1 + e.2 * acc) 0)

/-- The code of an element at a descriptor index. -/
def Opnd.code (o : Opnd) (idx : List Nat) : Nat :=
  match idx with
  | [] => 0
  | i :: t =>
    let row := o.rows.getD (rowNo o.d t) []
    if o.d.elem = El.int4 then (leNat ((row.drop (i / 2)).take 1)) / 2 ^ (4 * (i % 2)) % 16
    else leNat ((row.drop (i * elemSize o.d.elem)).take (elemSize o.d.elem))

/-- The block exponent of an element (R334). -/
def Opnd.exp (o : Opnd) (idx : List Nat) : Nat :=
  match idx with
  | [] => 0
  | i :: t => leNat (((o.exps.getD (rowNo o.d t) []).drop (i / 16)).take 1)

/-- The exact value at a descriptor index, and at a logical index. -/
def Opnd.at (o : Opnd) (idx : List Nat) : Fp := elemVal o.d.elem (o.code idx) (o.exp idx)
def Opnd.atL (o : Opnd) (l : List Nat) : Fp := o.at (o.d.toDesc l)

/-- The fill value (R385). -/
def Desc.fillVal (d : Desc) : Fp := elemVal d.elem (bits d.fill 7 0 + (if d.elem = El.se8 then 0 else d.fill.toNat / 256 * 256)) (bits d.fill 15 8)

/-- The first logical dimension in which an index is out of bounds (R395). -/
def oobDim (shape : List Nat) (l : List Int) : Option Nat :=
  ((shape.zip l).zipIdx).findSome? (fun e => if e.1.2 < 0 ∨ (e.1.1 : Int) ≤ e.1.2 then some e.2 else none)

/-- Sizes of the first `n` logical dimensions; 1 beyond the logical rank. -/
def Desc.lsizes (d : Desc) (n : Nat) : List Nat := (List.range n).map d.lsize

/-- The value at a logical index that may be out of bounds, or have more components than the tensor has dimensions (R350, R395). -/
def Opnd.get (o : Opnd) (l : List Int) : Fp :=
  if (oobDim (o.d.lsizes l.length) l).isSome then o.d.fillVal else o.atL ((l.map Int.toNat).take o.d.lrank)

/-- The logical index of a descriptor index (R393). -/
def Desc.fromDesc (d : Desc) (x : List Nat) : List Nat :=
  match d.layout, x with
  | 1, a :: b :: c :: t => c :: a :: b :: t
  | 2, i :: t => (t.getLastD 0 * 16 + i) :: t.dropLast
  | 3, i :: t => (t.getLastD 0 * 64 + i) :: t.dropLast
  | 4, a :: b :: t => b :: a :: t
  | _, x => x

/-- Every descriptor index, dimension 0 fastest, row by row. -/
def Desc.all (d : Desc) : List (List Nat) := d.rows.flatMap (fun r => (List.range (d.size 0)).map (fun i => i :: r))

/-- Elements of a tensor. -/
def Desc.count (d : Desc) : Nat := ((List.range d.rank).map d.size).foldl (· * ·) 1

/-- The logical shape with ones up to six dimensions. -/
def Desc.shape6 (d : Desc) : List Nat := (List.range 6).map d.lsize

/-! ### Reading and writing -/

/-- Bytes of the streamed weights of an encrypted segment are decrypted as they arrive (R614): `o` is the offset in the region. -/
def State.streamPlain (s : State) (region o : Nat) (bs : List Byte) : List Byte :=
  match s.nc.segs.find? (fun x => x.stream == some region) with
  | some x => s.plain x.head (segWeightOff x.head + o) bs
  | none => bs

/-- The rows of a tensor read by core `c` for partition `p`; DRAM reads are repeated as R505 says. -/
def State.ncRows (s : State) (c p : Nat) (d : Desc) : State × Nat × List (List Byte) :=
  match s.region? d.region with
  | none => (s, St.descInvalid, [])
  | some r => go r s St.done [] d.rows
where
  go (r : Region) (s : State) (st : Nat) (acc : List (List Byte)) : List (List Nat) → State × Nat × List (List Byte)
    | [] => (s, st, acc.reverse)
    | o :: t =>
      let (s, st', bs) := if r.kind = RK.dram then s.readAgain (whoPart (0x10 + c) p) (r.base + (d.rowOff o).toNat) d.run0 2
        else s.rowRead (0x10 + c) p d r o
      go r s (firstBad st st') (s.streamPlain d.region (d.rowOff o).toNat bs :: acc) t

/-- An operand read whole. -/
def State.ncRead (s : State) (c p h : Nat) : State × Nat × Opnd :=
  match s.desc? p h with
  | none => (s, St.descInvalid, ⟨h, ⟨[], 0⟩, [], []⟩)
  | some d =>
    let (s, st, rows) := s.ncRows c p d
    if d.elem ≠ El.se8 then (s, st, ⟨h, d, rows, []⟩)
    else match s.desc? p d.companion with
      | none => (s, St.descInvalid, ⟨h, d, rows, []⟩)
      | some e =>
        let (s, st', exps) := s.ncRows c p e
        (s, firstBad st st', ⟨h, d, rows, exps⟩)

/-- A list cut into pieces of `n`. -/
def chunks {α : Type} (n : Nat) : Nat → List α → List (List α)
  | 0, _ => []
  | k + 1, l => match l with
    | [] => []
    | _ => l.take n :: chunks n k (l.drop n)

/-- Bytes of a row of codes. -/
def rowBytes (e : Nat) (cs : List Nat) : List Byte :=
  if e = El.int4 then (chunks 2 cs.length cs).map (fun p => BitVec.ofNat 8 (p.getD 0 0 % 16 + 16 * (p.getD 1 0 % 16)))
  else cs.flatMap (leBytes (elemSize e))

/-- Codes of every element written to a tensor, in the order of Desc.all. -/
def State.ncWriteCodes (s : State) (c p : Nat) (d : Desc) (codes : List Nat) : State × Nat :=
  s.tensorWrite (0x10 + c) p d (d.rows.zip ((chunks (d.size 0) d.rows.length codes).map (rowBytes d.elem)))

/-- What a write of results reports: saturation, a NaN turned into an integer (R342). -/
structure Glazed where
  sat : Bool
  nan : Bool
deriving DecidableEq, Repr

/-- Values of every element converted to the output's type and written (R342, R335), in the order of Desc.all. -/
def State.ncWrite (s : State) (c p : Nat) (d : Desc) (vs : List Fp) : State × Nat × Glazed :=
  if d.elem = El.se8 then
    let blocks := (chunks 16 vs.length vs).map se8Block
    let (s, st) := s.ncWriteCodes c p d (blocks.flatMap (·.1))
    let g : Glazed := ⟨blocks.any (·.2.2), false⟩
    match s.desc? p d.companion with
    | none => (s, firstBad st St.descInvalid, g)
    | some e =>
      let (s, st') := s.ncWriteCodes c p e (blocks.map (·.2.1))
      (s, firstBad st st', g)
  else
    let es := vs.map (encElem d.elem)
    let (s, st) := s.ncWriteCodes c p d (es.map (·.1))
    (s, st, ⟨es.any (·.2.1), es.any (·.2.2)⟩)

/-- What a command has done: state, status, and the flags of the run's record. -/
structure NcDone where
  s : State
  st : Nat
  accSat : Bool
  outSat : Bool
  nan : Bool
  oobR : Bool
  oobW : Bool
deriving DecidableEq, Repr

/-- A command that did nothing but end with a status. -/
def NcDone.of (s : State) (st : Nat) : NcDone := ⟨s, st, false, false, false, false, false⟩

/-- Free values in a tensor and, for SE8, in its exponents. (DESIGN CHOICE, log 41) -/
def State.ncWriteFree (s : State) (c p : Nat) (d : Desc) : State × Nat :=
  let free (s : State) (d : Desc) : State × Nat :=
    let q := s.draw
    q.2.tensorWrite (0x10 + c) p d ((d.rows.zipIdx).map (fun e =>
      (e.1, (List.range d.run0).map (fun b => Config.freeByte q.1 (e.2 * d.run0 + b)))))
  let r := free s d
  if d.elem ≠ El.se8 then r
  else match r.1.desc? p d.companion with
    | none => (r.1, firstBad r.2 St.descInvalid)
    | some e => ((free r.1 e).1, firstBad r.2 (free r.1 e).2)

/-- Bytes no rule states in a tensor and, for SE8, in its exponents: a function of `key` (R370). (DESIGN CHOICE, log 41) -/
def State.ncWriteOpen (s : State) (c p : Nat) (d : Desc) (key : List Nat) : State × Nat :=
  let put (s : State) (d : Desc) (use : Nat) : State × Nat := s.tensorWrite (0x10 + c) p d ((d.rows.zipIdx).map (fun e =>
    (e.1, (List.range d.run0).map (fun b => Config.ncByte use key (e.2 * d.run0 + b)))))
  let r := put s d 0
  if d.elem ≠ El.se8 then r
  else match r.1.desc? p d.companion with
    | none => (r.1, firstBad r.2 St.descInvalid)
    | some e => ((put r.1 e 1).1, firstBad r.2 (put r.1 e 1).2)

/-- Results for every element of OUT (in the order of Desc.all) pass the glaze store when GLAZE_EN is set, and are written; the channel is the
index along logical dimension 0, or descriptor dimension 0 for a MATMUL (`byDesc`; R340, R671). Without it raw results of type `raw` are
written (R338, R351); what OUT of another type then holds, and what the record says of the conversion, no rule states: open values. -/
def State.ncEmit (s : State) (c p : Nat) (g : Option GlazeSet) (byDesc : Bool) (raw : Nat) (d : Desc) (vs : List Fp) (accSat oob : Bool) : NcDone :=
  if g.isNone && d.elem != raw then
    let key := raw :: d.elem :: vs.map Fp.key
    let r := s.ncWriteOpen c p d key
    ⟨r.1, r.2, accSat, (Config.ncByte 2 key 0).getLsbD 0, (Config.ncByte 2 key 1).getLsbD 0, oob, false⟩
  else
  let vs := match g with
    | some g => (vs.zip d.all).map (fun e => g.apply (if byDesc then e.2.headD 0 else (d.fromDesc e.2).headD 0) e.1)
    | none => vs
  let (s, st, f) := s.ncWrite c p d vs
  ⟨s, st, accSat, f.sat, f.nan, oob, false⟩

/-- `n` out-of-bounds reads of operand `o`, the first at logical index `l` (R395). -/
def State.oobRead (s : State) (p : Nat) (o : Opnd) (n : Nat) (l : List Int) : State :=
  match oobDim (o.d.lsizes l.length) l with
  | some k => s.oob p false n o.h k (l.getD k 0 + (if o.d.shard then o.d.origin k else 0)) o.d.shard
  | none => s

/-! ### Checks at issue -/

/-- A command as its core sees it: words, the handles its local names stand for (none for 0xFFFF), and its glaze set. -/
structure NcCmd where
  w : List Word
  a : Option Nat
  b : Option Nat
  c : Option Nat
  out : Option Nat
  aux : Option Nat
  glaze : Option GlazeSet
deriving DecidableEq, Repr

def NcCmd.op (k : NcCmd) : Nat := cmdOp k.w
def NcCmd.sparse (k : NcCmd) : Bool := (k.op == 1 || k.op == 2) && bit (wd k.w 5) 15
def NcCmd.dim (k : NcCmd) : Nat := bits (wd k.w 4) 2 0
def NcCmd.groups (k : NcCmd) : Nat := bits (wd k.w 5) 31 16
def NcCmd.kw (k : NcCmd) : Nat := bits (wd k.w 4) 31 28 + 1
def NcCmd.kh (k : NcCmd) : Nat := bits (wd k.w 4) 27 24 + 1
def NcCmd.sx (k : NcCmd) : Nat := bits (wd k.w 4) 23 20 + 1
def NcCmd.sy (k : NcCmd) : Nat := bits (wd k.w 4) 19 16 + 1
def NcCmd.dx (k : NcCmd) : Nat := bits (wd k.w 4) 15 12 + 1
def NcCmd.dy (k : NcCmd) : Nat := bits (wd k.w 4) 11 8 + 1
def NcCmd.padL (k : NcCmd) : Nat := bits (wd k.w 4) 7 4
def NcCmd.padT (k : NcCmd) : Nat := bits (wd k.w 4) 3 0
def NcCmd.mode (k : NcCmd) : Nat := bits (wd k.w 4) 31 30
def NcCmd.poolMode (k : NcCmd) : Nat := bits (wd k.w 5) 31 30
def NcCmd.eltOp (k : NcCmd) : Nat := bits (wd k.w 4) 31 28
def NcCmd.dims (k : NcCmd) : Nat := bits (wd k.w 4) 5 0
def NcCmd.topK (k : NcCmd) : Nat := bits (wd k.w 4) 31 21 + 1
def NcCmd.width (k : NcCmd) : Nat := bits (wd k.w 4) 31 16
def NcCmd.high (k : NcCmd) : Bool := bit (wd k.w 4) 3
def NcCmd.transA (k : NcCmd) : Bool := bit (wd k.w 4) 31
def NcCmd.transB (k : NcCmd) : Bool := bit (wd k.w 4) 30

/-- Handles a command reads and writes. -/
def NcCmd.inputs (k : NcCmd) : List Nat :=
  k.a.toList ++ k.b.toList ++ k.c.toList ++ (if k.op = 0x16 then [] else k.aux.toList)
    ++ (if cmdAccumulate k.w ∧ (k.op = 1 ∨ k.op = 2) ∨ (0x21 ≤ k.op ∧ k.op ≤ 0x23) then k.out.toList else [])
def NcCmd.outputs (k : NcCmd) : List Nat := k.out.toList ++ (if k.op = 0x16 then k.aux.toList else [])

/-- The pairings of R336: the accumulator is INT32 (some true) or FP32 (some false). -/
def pairing (a b : Nat) : Option Bool :=
  if (a = El.int8 ∨ a = El.uint8) ∧ (b = El.int8 ∨ b = El.int4) then some true
  else if (a = El.e4m3 ∨ a = El.e5m2) ∧ (b = El.e4m3 ∨ b = El.e5m2) then some false
  else if a = b ∧ (a = El.se8 ∨ a = El.bf16 ∨ a = El.fp16) then some false
  else none

/-- The element type of raw results. -/
def accElem (int : Bool) : Nat := if int then El.int32 else El.fp32

/-- OUT may be written by a command: WRITABLE, and ACCUM only for SCATTER_ADD and SCATTER_MAX (R387). -/
def outOkFor (op : Nat) (d : Desc) : Bool := d.canWrite && (!d.accum || op == 0x22 || op == 0x23)

/-- Shape of the sparsity metadata (R337): one byte for two groups of 4 along the reduction dimension `r` of size `n`; the dimensions are the
logical ones of a CONV, the descriptor's of a MATMUL. -/
def auxOk (size : Desc → Nat → Nat) (aux b : Desc) (r n : Nat) : Bool :=
  aux.elem == El.uint8 && (List.range 6).all (fun k => size aux k == (if k = r then n / 8 else size b k))

/-- B's stride in each batch dimension is that of a full matrix, matrix after matrix, or 0 (R671). -/
def batchStrides (b : Desc) : Bool :=
  (((List.range b.rank).drop 2).foldl (fun (a : Bool × Int) d =>
    if b.stride d = 0 then a else (a.1 && b.stride d == a.2, a.2 * b.size d)) (true, b.stride 1 * b.size 1)).1

/-- The checks of CONV (R336, R337, R346, R350). -/
def convOk (k : NcCmd) (a b out : Desc) (c aux : Option Desc) : Bool :=
  match pairing a.elem b.elem with
  | none => false
  | some int =>
    let g := k.groups
    let red := a.lsize 0 / g
    g != 0 && a.lsize 0 % g == 0 && out.lsize 0 % g == 0
      && b.lsize 0 == (if k.sparse then red / 2 else red) && b.lsize 1 == k.kw && b.lsize 2 == k.kh && b.lsize 3 == out.lsize 0
      && out.lsize 3 == a.lsize 3 && [a, b, out].all (fun d => d.lsize 4 == 1 && d.lsize 5 == 1)
      && (match c with | some c => c.elem == accElem int && c.lsize 0 == out.lsize 0 && c.count == out.lsize 0 | none => true)
      && (!k.sparse || (red % 8 == 0 && b.elem != El.bf16 && b.elem != El.fp16
          && (match aux with | some x => auxOk Desc.lsize x b 0 red | none => false)))

/-- The checks of MATMUL (R336, R337, R671), on descriptor dimensions. -/
def matmulOk (k : NcCmd) (a b out : Desc) (c aux : Option Desc) : Bool :=
  match pairing a.elem b.elem with
  | none => false
  | some int =>
    let kk := if k.transA then a.size 1 else a.size 0
    let m := if k.transA then a.size 0 else a.size 1
    let bn := if k.transB then b.size 1 else b.size 0
    let bk := if k.transB then b.size 0 else b.size 1
    let bdims := (List.range 6).drop 2
    m == out.size 1 && bn == out.size 0 && bk == (if k.sparse then kk / 2 else kk)
      && bdims.all (fun x => a.size x == out.size x && b.size x == out.size x) && batchStrides b
      && (match c with | some c => c.elem == accElem int && c.count == out.size 0 && c.size 0 == out.size 0 | none => true)
      && (!k.sparse || (kk % 8 == 0 && b.elem != El.bf16 && b.elem != El.fp16
          && (match aux with | some x => auxOk Desc.size x b (if k.transB then 0 else 1) kk | none => false)))

/-- The checks of the vector and load commands (R345, R346, R351, R352, R396, R403). -/
def vectorOk (k : NcCmd) (a out : Desc) (b c aux : Option Desc) : Bool :=
  let same (x y : Desc) : Bool := x.shape6 == y.shape6
  let but (n : Nat) (x : Desc) (k : Nat) : Bool := decide (x.lsize k = n)
  let dimOk := decide (k.dim < a.lrank)
  let others (x y : Desc) : Bool := (List.range 6).all (fun i => i == k.dim || x.lsize i == y.lsize i)
  let part (x : Option Desc) : Bool := match x with
    | none => true
    | some x => (List.range 6).all (fun i => x.lsize i == 1 || x.lsize i == a.lsize i)
  let idxOk : Option Desc → Bool
    | some x => x.elem == El.int32 && x.layout == 0 && x.rank == 1
    | none => false
  let idxLen : Nat := match b with | some x => x.size 0 | none => 0
  match k.op with
  | 0x10 => decide (k.poolMode ≤ 2) && a.lsize 0 == out.lsize 0 && a.lsize 3 == out.lsize 3
      && [a, out].all (fun d => d.lsize 4 == 1 && d.lsize 5 == 1)
  | 0x11 => decide (k.eltOp ≤ 5) && same a out && (match b with | some b => same b out | none => false)
  | 0x12 => k.glaze.isSome && same a out
  | 0x13 => dimOk && same a out
  | 0x14 => decide (k.mode ≤ 1) && same a out && part b && part c && (List.range 6).all (fun i => !bit (BitVec.ofNat 32 k.dims) i || decide (i < a.lrank))
  | 0x15 => decide (k.mode ≤ 1) && a.lsize 0 == out.lsize 0 && a.lsize 3 == out.lsize 3
      && [a, out].all (fun d => d.lsize 4 == 1 && d.lsize 5 == 1)
  | 0x16 => dimOk && decide (k.topK ≤ 1024) && decide (k.topK ≤ a.lsize k.dim) && others a out && but k.topK out k.dim
      && (match aux with | some x => x.elem == El.int32 && others a x && but k.topK x k.dim && x.canWrite && !x.accum | none => false)
  | 0x20 => dimOk && idxOk b && a.lrank == out.lrank && others a out && but idxLen out k.dim && (k.glaze.isSome || a.elem == out.elem)
  | 0x28 => decide (k.width ≠ 0) && dimOk && a.shard && out.shard && a.elem == out.elem
      && (List.range 6).all (fun i => a.gshape i == out.gshape i && (if i = k.dim then out.size i == k.width else out.size i == a.size i)
        && out.origin i == a.origin i + (if i = k.dim ∧ k.high then (a.size i : Int) - k.width else 0))
  | _ => -- the three scatters
    decide (k.dim < out.lrank) && idxOk b && a.lrank == out.lrank && others a out && but idxLen a k.dim && (k.glaze.isSome || a.elem == out.elem)
      && (decide (out.elem ≤ 4) || out.elem == El.fp16 || out.elem == El.bf16 || out.elem == El.fp32)

/-- The checks of a command at issue: DONE, DESC_INVALID or PARTITION_FAULT. (DEDUCED, log 42) -/
def State.ncCheck (s : State) (p : Nat) (k : NcCmd) : Nat :=
  if k.op = 0 then St.done
  else
    let d (h : Option Nat) : Option Desc := h.bind (s.desc? p)
    let stale := [k.a, k.b, k.c, k.out, k.aux].any (fun h => h.isSome && (d h).isNone)
    let glazed : Bool := match k.glaze, d k.out with
      | some g, some o => !g.perChannel || decide ((if k.op = 2 then o.size 0 else o.lsize 0) ≤ g.channels)
      | _, _ => true
    -- without the glaze store no layout changes (R394), and a HALO goes to the kinds of region R403 names
    let placed (a o : Desc) : Bool := (k.glaze.isSome || o.layout == a.layout) && (k.op != 0x28 ||
      (match s.region? o.region with | some r => r.kind == RK.peer || r.kind == RK.am || r.kind == RK.slot || r.kind == RK.dram | none => false))
    let shape : Bool := match d k.a, d k.out with
      | some a, some o => outOkFor k.op o && glazed && placed a o &&
        (match k.op, d k.b with
         | 1, some b => convOk k a b o (d k.c) (d k.aux)
         | 2, some b => matmulOk k a b o (d k.c) (d k.aux)
         | 1, none => false
         | 2, none => false
         | _, b => vectorOk k a o b (d k.c) (d k.aux))
      | _, _ => false
    chk [(stale || !shape, St.descInvalid),
      (k.inputs.any (fun h => s.foreign p h false) || k.outputs.any (fun h => s.foreign p h true), St.partitionFault)]

/-! ### Hazards (R349) -/

/-- Two handle lists reach a common byte. -/
def State.handlesMeet (s : State) (p : Nat) (a b : List Nat) : Bool := a.any (fun x => b.any (fun y => spansMeet (s.span p x) (s.span p y)))

/-- Whether two commands on different units, in flight together, touch each other's data: one writes what the other reads or writes. (DEDUCED, log 42) -/
def State.hazard (s : State) (p : Nat) (x y : NcCmd) : Bool :=
  opUnit x.op != opUnit y.op && (s.handlesMeet p x.outputs (y.inputs ++ y.outputs) || s.handlesMeet p x.inputs y.outputs)

/-! ### Matrix commands (R336 to R338, R350, R671) -/

/-- A pair of element values to be multiplied, with the SE8 blocks the two lie in. -/
structure Term where
  blockA : List Int
  blockB : List Nat
  a : Fp
  b : Fp
deriving DecidableEq, Repr

/-- The block of 16 elements that a descriptor index lies in (R334). -/
def blockOfIdx (x : List Nat) : List Nat := (x.headD 0 / 16) :: x.drop 1

/-- The products of SE8 pairs, those of one pair of blocks together as one exact dot product (R338). -/
def dotGroups : List Term → List ((List Int × List Nat) × Fp)
  | [] => []
  | t :: l =>
    let r := dotGroups l
    let v := t.a.mulExact t.b
    if r.any (·.1 == (t.blockA, t.blockB)) then r.map (fun e => if e.1 = (t.blockA, t.blockB) then (e.1, v.addExact e.2) else e)
    else ((t.blockA, t.blockB), v) :: r

/-- What one reduction adds up: exact products, with the scale of their blocks already in the values; for SE8 the exact dot product of each
pair of blocks. -/
def dotTerms (se8 : Bool) (l : List Term) : List Fp := if se8 then (dotGroups l).map (·.2) else l.map (fun t => t.a.mulExact t.b)

/-- The exact integer of a value. -/
def Fp.int (v : Fp) : Int := (v.toInt 0).getD 0

/-- One accumulation (R338): the start and the terms; the result and ACC_SAT. -/
def accumulate (int : Bool) (start : Fp) (terms : List Fp) : Fp × Bool :=
  if int then let (v, f) := intSum start.int (terms.map Fp.int); (fpInt v, f) else (fpSum 3 start terms, false)

/-- The weight at reduction index `r` under 2:4 sparsity (R337): the stored value, 0 where none is stored. `mb` gives the byte of
two groups and `at_` a stored value by its place along the reduction. None: the positions break the rule. -/
def sparseAt (mb : Nat → Nat) (at_ : Nat → Fp) (r : Nat) : Option Fp :=
  let g := r / 4
  let nib := mb (g / 2) / 16 ^ (g % 2) % 16
  let p0 := nib % 4
  let p1 := nib / 4
  if p1 ≤ p0 then none
  else if r % 4 = p0 then some (at_ (2 * g)) else if r % 4 = p1 then some (at_ (2 * g + 1)) else some (.fin false 0 0)

/-- Every weight group keeps the rule of R337. -/
def sparseOk (aux : Opnd) : Bool := aux.d.all.all (fun x => let c := aux.code x; decide (c % 4 < c / 4 % 4) && decide (c / 16 % 4 < c / 64 % 4))

/-- The partial sums that an accumulating command starts from (R338): OUT's own content when it lies in partial-sum memory and holds
the accumulator type; else a value the spec does not state. (DEDUCED, log 44) -/
def State.partials (s : State) (int : Bool) (o : Opnd) (x : List Nat) : Fp :=
  let inPm := match s.region? o.d.region with | some r => r.kind == RK.pm | none => false
  if inPm && o.d.elem == accElem int then o.at x else fpOf (Config.fpOpen 100 (o.code x :: x))

/-- CONV (R350): the terms of one output element. (DEDUCED, log 42) -/
def convTerms (k : NcCmd) (a b : Opnd) (aux : Option Opnd) (out : Desc) (l : List Nat) : List Term :=
  let o := l.getD 0 0
  let cin := a.d.lsize 0 / k.groups
  let g := o / (out.lsize 0 / k.groups)
  (List.range k.kh).flatMap (fun (j : Nat) => (List.range k.kw).flatMap (fun (i : Nat) => (List.range cin).map (fun (c : Nat) =>
    let x : Int := (k.sx : Int) * l.getD 1 0 - k.padL + k.dx * i
    let y : Int := (k.sy : Int) * l.getD 2 0 - k.padT + k.dy * j
    let at_ : List Int := [(g * cin + c : Nat), x, y, (l.getD 3 0 : Nat)]
    let blockA : List Int := if (oobDim (a.d.lsizes 4) at_).isSome then (-1) :: at_.headD 0 / 16 :: at_.drop 1
      else (blockOfIdx (a.d.toDesc ((at_.map Int.toNat).take a.d.lrank))).map Int.ofNat
    let wIdx (r : Nat) : List Nat := b.d.toDesc (([r, i, j, o] : List Nat).take b.d.lrank)
    let bv := match aux with
      | some m => (sparseAt (fun q => m.code (m.d.toDesc (([q, i, j, o] : List Nat).take m.d.lrank))) (fun r => b.at (wIdx r)) c).getD .nan
      | none => b.at (wIdx c)
    ⟨blockA, blockOfIdx (wIdx (if aux.isSome then c / 2 else c)), a.get at_, bv⟩)))

/-- Positions (u, v, n, i, j) of a window that lie outside the input, with the first one's logical index. (DEDUCED, log 42) -/
def windowOob (k : NcCmd) (a out : Desc) : Nat × List Int :=
  let ps := (List.range (out.lsize 3)).flatMap (fun (n : Nat) => (List.range (out.lsize 2)).flatMap (fun (v : Nat) =>
    (List.range (out.lsize 1)).flatMap (fun (u : Nat) => (List.range k.kh).flatMap (fun (j : Nat) => (List.range k.kw).filterMap (fun (i : Nat) =>
      let l : List Int := ([0, (k.sx : Int) * u - k.padL + k.dx * i, (k.sy : Int) * v - k.padT + k.dy * j, (n : Int)] : List Int)
      if (oobDim ((List.range 4).map a.lsize) l).isSome then some l else none)))))
  (ps.length * a.lsize 0, ps.headD [])

/-- The terms of one MATMUL output element; `x` is the descriptor index of OUT. -/
def matmulTerms (k : NcCmd) (a b : Opnd) (aux : Option Opnd) (x : List Nat) : List Term :=
  let n := x.getD 0 0
  let m := x.getD 1 0
  let batch := x.drop 2
  let kk := if k.transA then a.d.size 1 else a.d.size 0
  let idx (o : Opnd) (i j : Nat) : List Nat := ([i, j] ++ batch ++ List.replicate 4 0).take o.d.rank
  (List.range kk).map (fun r =>
    let ai := if k.transA then idx a m r else idx a r m
    let wIdx (r : Nat) : List Nat := if k.transB then idx b r n else idx b n r
    let bv := match aux with
      | some y => (sparseAt (fun q => y.code (if k.transB then idx y q n else idx y n q)) (fun r => b.at (wIdx r)) r).getD .nan
      | none => b.at (wIdx r)
    ⟨(blockOfIdx ai).map Int.ofNat, blockOfIdx (wIdx (if aux.isSome then r / 2 else r)), a.at ai, bv⟩)

/-- The results of CONV or MATMUL for every element of OUT, with whether each saturated: `part` gives the sums that accumulation starts from. -/
def matrixResults (k : NcCmd) (int : Bool) (a b out : Opnd) (bias aux : Option Opnd) (part : List Nat → Fp) : List (Fp × Bool) :=
  let aux := if k.sparse then aux else none
  let se8 := a.d.elem == El.se8
  out.d.all.map (fun x =>
    let l := out.d.fromDesc x
    let ch := if k.op = 2 then x.headD 0 else l.headD 0
    let start := if cmdAccumulate k.w then part x else match bias with
      | some b => b.atL (([ch, 0, 0, 0, 0, 0] : List Nat).take b.d.lrank)
      | none => .fin false 0 0
    let ts := if k.op = 1 then convTerms k a b aux out.d l else matmulTerms k a b aux x
    accumulate int start (dotTerms se8 ts))

/-- CONV and MATMUL. (DEDUCED, log 42) -/
def State.ncMatrix (s : State) (c p : Nat) (k : NcCmd) (a b out : Opnd) (bias aux : Option Opnd) : NcDone :=
  match pairing a.d.elem b.d.elem with
  | none => NcDone.of s St.descInvalid
  | some int =>
    if k.sparse && !(aux.elim true sparseOk) then NcDone.of s St.descInvalid
    else
      let res := matrixResults k int a b out bias aux (s.partials int out)
      let w := if k.op = 1 then windowOob k a.d out.d else (0, [])
      (s.oobRead p a w.1 w.2).ncEmit c p k.glaze (k.op == 2) (accElem int) out.d (res.map (·.1)) (res.any (·.2)) (decide (w.1 ≠ 0))

/-! ### Vector commands (R351) -/

/-- An input element in FP32: exact but for INT32, which rounds. -/
def Opnd.f32 (o : Opnd) (l : List Nat) : Fp := (o.atL l).r32

/-- POOL. (DEDUCED, log 42) -/
def poolAt (k : NcCmd) (a : Opnd) (l : List Nat) : Fp :=
  let taps := (List.range k.kh).flatMap (fun (j : Nat) => (List.range k.kw).map (fun (i : Nat) =>
    ([(l.getD 0 0 : Nat), (k.sx : Int) * l.getD 1 0 - k.padL + k.dx * i, (k.sy : Int) * l.getD 2 0 - k.padT + k.dy * j,
      (l.getD 3 0 : Nat)] : List Int)))
  let inside := taps.filter (fun t => (oobDim (a.d.lsizes 4) t).isNone)
  let sum (ts : List (List Int)) : Fp := fpSum 4 (.fin false 0 0) (ts.map (fun t => (a.get t).r32))
  match k.poolMode with
  | 0 => match taps.map (fun t => (a.get t).r32) with
    | [] => .fin false 0 0
    | v :: vs => vs.foldl pickMax v
  | 1 => fdiv (sum inside) (fpInt inside.length)
  | _ => fdiv (sum taps) (fpInt (k.kw * k.kh))

/-- ELTWISE. -/
def eltAt (op : Nat) (a b : Fp) : Fp :=
  match op with
  | 0 => fadd a b
  | 1 => fsub a b
  | 2 => fmul a b
  | 3 => pickMax a b
  | 4 => pickMin a b
  | _ => fabs (fsub a b)

/-- Logical indices that agree with `l` outside the dimensions of `sel`. -/
def fibre (shape l : List Nat) (sel : Nat → Bool) : List (List Nat) :=
  (indices ((shape.zipIdx).map (fun e => if sel e.2 then e.1 else 1))).map (fun x =>
    ((x.zip l).zipIdx).map (fun e => if sel e.2 then e.1.1 else e.1.2))

/-- SOFTMAX along DIM: the maximum is subtracted before exp. -/
def softmaxAt (k : NcCmd) (a : Opnd) (l : List Nat) : Fp :=
  let vs := (fibre a.d.lshape l (· == k.dim)).map a.f32
  let m := match vs with | [] => .nan | v :: t => t.foldl pickMax v
  fmul (fexp (fsub (a.f32 l) m)) (frecip (fpSum 5 (.fin false 0 0) (vs.map (fun v => fexp (fsub v m)))))

/-- NORM over the dimensions of DIMS. -/
def normAt (k : NcCmd) (a : Opnd) (gamma beta : Option Opnd) (l : List Nat) : Fp :=
  let vs := (fibre a.d.lshape l (fun i => bit (BitVec.ofNat 32 k.dims) i)).map a.f32
  let n := fpInt vs.length
  let eps := fpOf (wd k.w 5).toNat
  let at_ (o : Opnd) : Fp := o.f32 ((((l ++ List.replicate 6 0).zipIdx).map (fun (e : Nat × Nat) => if o.d.lsize e.2 = 1 then 0 else e.1)).take o.d.lrank)
  let g (x : Fp) : Fp := match gamma with | some o => fmul x (at_ o) | none => x
  if k.mode = 0 then
    let mean := fdiv (fpSum 6 (.fin false 0 0) vs) n
    let var := fdiv (fpSum 7 (.fin false 0 0) (vs.map (fun v => let x := fsub v mean; fmul x x))) n
    let y := g (fmul (fsub (a.f32 l) mean) (frsqrt (fadd var eps)))
    match beta with | some o => fadd y (at_ o) | none => y
  else g (fmul (a.f32 l) (frsqrt (fadd (fdiv (fpSum 8 (.fin false 0 0) (vs.map (fun v => fmul v v))) n) eps)))

/-- The source coordinate of a resized axis in units of 1 / (2 × n): (2 u + 1) × m − n for `m` input and `n` output pixels, clamped. -/
def resizeCoord (m n u : Nat) : Int := clampI 0 (2 * (n : Int) * ((m : Int) - 1)) ((2 * (u : Int) + 1) * m - n)

/-- The bilinear coordinate of output `u` on an axis of `m` input and `n` output pixels: R351's formula in FP32, operation by operation, clamped:
the pixel below it and the fraction. (DEDUCED, log 42) -/
def bilinearCoord (m n u : Nat) : Nat × Fp :=
  let half := fpow2 (-1)
  let x := fsub (fdiv (fmul (fadd (fpInt u) half) (fpInt m)) (fpInt n)) half
  let x := fmin (fmax x (.fin false 0 0)) (fpInt ((m : Int) - 1))
  let i := ((x.floor).getD 0).toNat
  (i, fsub x (fpInt i))

/-- A bilinear sample of four pixels with their fractions: the exact value where no rounding can occur in any order of the operations, else a
value the spec leaves open. (UNVERIFIED, log 40) -/
def bilinearOf (fx fy : Fp) (px : List Fp) : Fp :=
  let one := fpow2 0
  let sub (f : Fp) : Fp := one.addExact f.neg
  let ws := [(sub fx).mulExact (sub fy), fx.mulExact (sub fy), (sub fx).mulExact fy, fx.mulExact fy]
  let used := (ws.zip px).filter (fun e => match e.1 with | .fin _ m _ => m != 0 | _ => true)
  let ts := used.map (fun e => e.1.mulExact e.2)
  match used with
  | [(_, v)] => v
  | _ =>
    if ts.all (fun t => match t with | .fin .. => true | _ => false) && exactSums (ts ++ used.map (·.2)) then ts.foldl Fp.addExact (.fin true 0 0)
    else fpOf (Config.fpOpen 11 (fx.key :: fy.key :: px.map Fp.bits))

/-- RESIZE. The nearest pixel of a coordinate halfway between two is open. (DESIGN CHOICE, log 41) -/
def resizeAt (k : NcCmd) (a : Opnd) (out : Desc) (l : List Nat) : Fp :=
  let px (x y : Nat) : Fp := a.f32 ((([l.getD 0 0, min x (a.d.lsize 1 - 1), min y (a.d.lsize 2 - 1), l.getD 3 0]).take a.d.lrank))
  if k.mode = 0 then
    let axis (d use : Nat) : Nat :=
      let c := (resizeCoord (a.d.lsize d) (out.lsize d) (l.getD d 0)).toNat
      let den := 2 * out.lsize d
      let (q, f) := (c / den, c % den)
      if 2 * f < den then q else if den < 2 * f then q + 1 else q + (Config.fpOpen use [q, den]) % 2
    px (axis 1 9) (axis 2 10)
  else
    let (x0, fx) := bilinearCoord (a.d.lsize 1) (out.lsize 1) (l.getD 1 0)
    let (y0, fy) := bilinearCoord (a.d.lsize 2) (out.lsize 2) (l.getD 2 0)
    bilinearOf fx fy [px x0 y0, px (x0 + 1) y0, px x0 (y0 + 1), px (x0 + 1) (y0 + 1)]

/-- `a` ranks above `b` for TOPK: NaN below every number. -/
def ranksAbove (a b : Fp) : Bool := (!a.isNan && b.isNan) || b.lt a

/-- A place put before the first one that ranks below it. -/
def rankInsert (v : Fp × Nat) : List (Fp × Nat) → List (Fp × Nat)
  | [] => [v]
  | x :: t => if ranksAbove v.1 x.1 then v :: x :: t else x :: rankInsert v t

/-- The K best of a list, ties to the lower index. -/
def topOf (k : Nat) (l : List Fp) : List (Fp × Nat) := ((l.zipIdx).foldl (fun acc e => rankInsert e acc) []).take k

/-- The vector commands. -/
def State.ncVector (s : State) (c p : Nat) (k : NcCmd) (a out : Opnd) (b cc aux : Option Opnd) : NcDone :=
  let each (f : List Nat → Fp) : List Fp := out.d.all.map (fun x => f (out.d.fromDesc x))
  match k.op with
  | 0x10 =>
    let (n, l) := windowOob k a.d out.d
    let s := s.oobRead p a n l
    s.ncEmit c p k.glaze false El.fp32 out.d (each (poolAt k a)) false (decide (n ≠ 0))
  | 0x11 => match b with
    | some b => s.ncEmit c p k.glaze false El.fp32 out.d (each (fun l => eltAt k.eltOp (a.f32 l) (b.f32 l))) false false
    | none => NcDone.of s St.descInvalid
  | 0x12 => s.ncEmit c p k.glaze false El.fp32 out.d (each a.atL) false false
  | 0x13 => s.ncEmit c p k.glaze false El.fp32 out.d (each (softmaxAt k a)) false false
  | 0x14 => s.ncEmit c p k.glaze false El.fp32 out.d (each (normAt k a b cc)) false false
  | 0x15 => s.ncEmit c p k.glaze false El.fp32 out.d (each (resizeAt k a out.d)) false false
  | _ =>
    let best (l : List Nat) : Fp × Nat :=
      (topOf k.topK ((fibre a.d.lshape (l.set k.dim 0) (· == k.dim)).map a.f32)).getD (l.getD k.dim 0) (.nan, 0)
    let r := s.ncEmit c p k.glaze false El.fp32 out.d (each (fun l => (best l).1)) false false
    match aux with
    | some x =>
      let (s, st) := r.s.ncWriteCodes c p x.d (x.d.all.map (fun y => (best (x.d.fromDesc y)).2))
      { r with s := s, st := firstBad r.st st }
    | none => r

/-! ### Load unit commands (R352, R396 to R404) -/

/-- The index tensor's entries. -/
def Opnd.ints (o : Opnd) : List Int := (List.range (o.d.size 0)).map (fun i => sext 32 (o.code [i]))

/-- Elements of a slice along `dim`. -/
def sliceCount (shape : List Nat) (dim : Nat) : Nat := ((shape.zipIdx).map (fun e => if e.2 = dim then 1 else e.1)).foldl (· * ·) 1

/-- The logical dimension that is dimension 0 of the descriptor, along which SE8 blocks lie (R334, R393). -/
def Desc.blockDim (d : Desc) : Nat := if d.layout = 1 ∨ d.layout = 4 then 1 else 0

/-- GATHER (R396): codes are copied unless the glaze store converts them. A gather of SE8 along the dimension of its blocks breaks them: what
its codes are then is open. (DESIGN CHOICE, log 41) -/
def State.ncGather (s : State) (c p : Nat) (k : NcCmd) (a out b : Opnd) : NcDone :=
  let ix := b.ints
  let n := a.d.lsize k.dim
  let src (l : List Nat) : Option (List Nat) :=
    let i := ix.getD (l.getD k.dim 0) 0
    if i < 0 ∨ (n : Int) ≤ i then none else some (l.set k.dim i.toNat)
  let bad := ix.filter (fun i => decide (i < 0) || decide ((n : Int) ≤ i))
  let s := match bad with
    | [] => s
    | i :: _ => s.oob p false (bad.length * sliceCount a.d.lshape k.dim) a.h k.dim (i + (if a.d.shard then a.d.origin k.dim else 0)) a.d.shard
  let oob := !bad.isEmpty
  match k.glaze with
  | some _ => s.ncEmit c p k.glaze false El.fp32 out.d (out.d.all.map (fun x => match src (out.d.fromDesc x) with
      | some l => a.atL l
      | none => a.d.fillVal)) false oob
  | none =>
    if a.d.elem = El.se8 ∧ k.dim = a.d.blockDim then
      let r := s.ncWriteOpen c p out.d ((a.rows ++ a.exps ++ b.rows).flatten.map (·.toNat))
      ⟨r.1, r.2, false, false, false, oob, false⟩
    else
      let code (x : List Nat) : Nat := match src (out.d.fromDesc x) with
        | some l => a.code (a.d.toDesc l)
        | none => a.d.fill.toNat % 2 ^ elemBits a.d.elem
      let (s, st) := s.ncWriteCodes c p out.d (out.d.all.map code)
      let (s, st) := if out.d.elem ≠ El.se8 then (s, st) else match s.desc? p out.d.companion with
        | none => (s, firstBad st St.descInvalid)
        | some e =>
          let (s, st') := s.ncWriteCodes c p e (e.all.map (fun x =>
            match src (out.d.fromDesc (16 * x.headD 0 :: x.drop 1)) with
            | some l => a.exp (a.d.toDesc l)
            | none => bits a.d.fill 15 8))
          (s, firstBad st st')
      ⟨s, st, false, false, false, oob, false⟩

/-- One update combined with an element's present code (R398): the new code, and whether an integer sum saturated. -/
def combine (op e cur upd : Nat) : Nat × Bool :=
  if op = 0x21 then (upd, false)
  else if op = 0x22 then
    match elemFmt e with
    | some f => ((f.encode false ((f.decode cur).addExact (f.decode upd))).1, false)
    | none =>
      let v := intOf e cur + intOf e upd
      let (lo, hi) := intRange e
      (unsext (elemBits e) (clampI lo hi v), decide (v < lo ∨ hi < v))
  else
    let a := elemVal e cur 0
    let b := elemVal e upd 0
    (if (a.isNan && !b.isNan) || a.lt b then upd else cur, false)

/-- The scatters (R396 to R399): updates in ascending order of j, one element after the other. The glaze store takes the channel of the output's
element (R340). -/
def State.ncScatter (s : State) (c p : Nat) (k : NcCmd) (a out b : Opnd) : NcDone :=
  let ix := b.ints
  let n := out.d.lsize k.dim
  let bad := ix.filter (fun i => decide (i < 0) || decide ((n : Int) ≤ i))
  let s := match bad with
    | [] => s
    | i :: _ => s.oob p true (bad.length * sliceCount out.d.lshape k.dim) out.h k.dim (i + (if out.d.shard then out.d.origin k.dim else 0)) out.d.shard
  match s.region? out.d.region with
  | none => NcDone.of s St.descInvalid
  | some r =>
    let z := elemSize out.d.elem
    let others := indices ((a.d.lshape.zipIdx).map (fun e => if e.2 = k.dim then 1 else e.1))
    let upd (l dst : List Nat) : Nat × Bool × Bool := match k.glaze with
      | some g => encElem out.d.elem (g.apply (dst.headD 0) (a.atL l))
      | none => (a.code (a.d.toDesc l), false, false)
    (ix.zipIdx).foldl (fun (acc : NcDone) (e : Int × Nat) =>
      if e.1 < 0 ∨ (n : Int) ≤ e.1 then acc
      else others.foldl (fun (acc : NcDone) x =>
        let dst := x.set k.dim e.1.toNat
        let (u, us, un) := upd (x.set k.dim e.2) dst
        let off := (out.d.elemOff (out.d.toDesc dst)).1.toNat
        let (s, st, bs) := acc.s.memRead (0x10 + c) p r off z
        let (v, sat) := combine k.op out.d.elem (leNat bs) u
        let (s, st') := s.memWrite (0x10 + c) p r off (leBytes z v)
        { acc with s := s, st := firstBad acc.st (firstBad st st'), outSat := acc.outSat || sat || us, nan := acc.nan || un }) acc)
      ⟨s, St.done, false, false, false, false, !bad.isEmpty⟩

/-- HALO (R403, R404): the edge of A along DIM copied to OUT, through the glaze store when GLAZE_EN is set; for a PEER region a read of no bytes
follows, which COMPLETION_TIMEOUT says failed. -/
def State.ncHalo (s : State) (c p : Nat) (k : NcCmd) (a out : Opnd) : NcDone :=
  let n := a.d.size k.dim
  let first : Int := if k.high then (n : Int) - k.width else 0
  let src (x : List Nat) : List Int := (x.map (fun (v : Nat) => (v : Int))).set k.dim (first + x.getD k.dim 0)
  let bad := (List.range k.width).filter (fun (i : Nat) => decide (first + i < 0) || decide ((n : Int) ≤ first + i))
  let s := match bad with
    | [] => s
    | i :: _ => s.oob p false (bad.length * sliceCount a.d.lshape k.dim) a.h k.dim (a.d.origin k.dim + first + i) true
  let code (x : List Nat) : Nat := if (oobDim a.d.lshape (src x)).isSome then a.d.fill.toNat % 2 ^ elemBits a.d.elem
    else a.code ((src x).map Int.toNat)
  if k.glaze.isSome then s.ncEmit c p k.glaze false El.fp32 out.d (out.d.all.map (fun x => a.get (src x))) false (!bad.isEmpty)
  else
    let (s, st) := s.ncWriteCodes c p out.d (out.d.all.map code)
    let (s, st) := if out.d.elem ≠ El.se8 then (s, st) else match s.desc? p out.d.companion with
      | none => (s, firstBad st St.descInvalid)
      | some e =>
        let (s, st') := s.ncWriteCodes c p e (e.all.map (fun x =>
          let y := 16 * x.headD 0 :: x.drop 1
          if (oobDim a.d.lshape (src y)).isSome then bits a.d.fill 15 8 else a.exp ((src y).map Int.toNat)))
        (s, firstBad st st')
    ⟨s, st, false, false, false, !bad.isEmpty, false⟩

/-! ### One command -/

/-- An operand that a command may lack, read. -/
def State.ncOpt (s : State) (c p : Nat) (h : Option Nat) : State × Nat × Option Opnd :=
  match h with
  | none => (s, St.done, none)
  | some h =>
    let r := s.ncRead c p h
    (r.1, r.2.1, some r.2.2)

/-- An operand named and not read. -/
def State.ncName (s : State) (p : Nat) (h : Option Nat) : Option Opnd := h.bind (fun h => (s.desc? p h).map (fun d => Opnd.mk h d [] []))

/-- An operand read when `reads` is set, else only named. -/
def State.ncSome (s : State) (c p : Nat) (reads : Bool) (h : Option Nat) : State × Nat × Option Opnd :=
  if reads then s.ncOpt c p h else (s, St.done, s.ncName p h)

/-- Free bytes in every output of a command; the result goes on from `acc`. -/
def NcDone.freeOutputs (acc : NcDone) (c p : Nat) (hs : List Nat) : NcDone :=
  hs.foldl (fun (acc : NcDone) h =>
    match acc.s.desc? p h with
    | none => acc
    | some d =>
      let r := acc.s.ncWriteFree c p d
      { acc with s := r.1, st := firstBad acc.st r.2 }) acc

/-- Taps outside the input of a window do not depend on data (R350): their number, and the place of the first. -/
def State.ncWindow (s : State) (p : Nat) (k : NcCmd) : Nat × List Int :=
  match k.a.bind (s.desc? p), k.out.bind (s.desc? p) with
  | some a, some o => if k.op = 1 ∨ k.op = 0x10 then windowOob k a o else (0, [])
  | _, _ => (0, [])

/-- An index out of bounds among undefined ones, drawn at `q` (R396). -/
def State.ncStray (s : State) (p q : Nat) (k : NcCmd) : State :=
  match (if k.op = 0x20 then k.a else k.out) with
  | some h => match s.desc? p h with
    | some t => s.oob p (k.op != 0x20) ((Config.freeWord (q + 1)).toNat % t.count + 1) h k.dim (sext 32 (Config.freeWord (q + 2)).toNat) t.shard
    | none => s
  | none => s

/-- What a command that met a hazard does (R349): its outputs hold free values, and so is what its record says where it follows from its data:
saturation of an integer accumulator or of the glaze store, a NaN, an index out of bounds, and a broken rule of the sparsity metadata. (DESIGN CHOICE, log 41) -/
def State.ncFree (s : State) (c p : Nat) (k : NcCmd) : NcDone :=
  let (q, s) := s.drawMany 3
  let f (n : Nat) : Bool := bit (Config.freeWord q) n
  let d (h : Option Nat) : Option Desc := h.bind (s.desc? p)
  let int := match d k.a, d k.b with | some a, some b => pairing a.elem b.elem == some true | _, _ => false
  let outElem := match d k.out with | some o => o.elem | none => 0
  let stores := k.glaze.isSome || k.op == 0x22
  let win := s.ncWindow p k
  let stray := decide (0x20 ≤ k.op ∧ k.op ≤ 0x23) && f 3
  let s := match s.ncName p k.a with | some a => s.oobRead p a win.1 win.2 | none => s
  let s := if stray then s.ncStray p q k else s
  NcDone.freeOutputs ⟨s, if k.sparse && f 4 then St.descInvalid else St.done, (k.op == 1 || k.op == 2) && int && f 0, stores && f 1,
    stores && elemInt outElem && f 2, decide (win.1 ≠ 0) || (k.op == 0x20 && stray), k.op != 0x20 && stray⟩ c p k.outputs

/-- The computation and the writes of a command whose operands are there. -/
def State.ncApply (s : State) (c p : Nat) (k : NcCmd) (a b cc aux out : Option Opnd) : NcDone :=
  match a, out with
  | some a, some out =>
    match k.op, b with
    | 1, some b => s.ncMatrix c p k a b out cc aux
    | 2, some b => s.ncMatrix c p k a b out cc aux
    | 0x20, some b => s.ncGather c p k a out b
    | 0x21, some b => s.ncScatter c p k a out b
    | 0x22, some b => s.ncScatter c p k a out b
    | 0x23, some b => s.ncScatter c p k a out b
    | 0x28, _ => s.ncHalo c p k a out
    | _, b => s.ncVector c p k a out b cc aux
  | _, _ => NcDone.of s St.descInvalid

/-- A command's reads, its computation and its writes. -/
def State.ncRun (s : State) (c p : Nat) (k : NcCmd) (raced : Bool) : NcDone :=
  if k.op = 0 then NcDone.of s St.done
  else if raced then s.ncFree c p k
  else
    let a := s.ncOpt c p k.a
    let b := a.1.ncOpt c p k.b
    let cc := b.1.ncOpt c p k.c
    let aux := cc.1.ncSome c p (k.op != 0x16 && k.aux.isSome && k.sparse) k.aux
    let out := aux.1.ncSome c p (cmdAccumulate k.w && (k.op == 1 || k.op == 2)) k.out
    let st := firstBad a.2.1 (firstBad b.2.1 (firstBad cc.2.1 (firstBad aux.2.1 out.2.1)))
    if st ≠ St.done then NcDone.of out.1 st else out.1.ncApply c p k a.2.2 b.2.2 cc.2.2 aux.2.2 out.2.2

/-- A slot-ring operand whose rows have not all arrived. -/
def State.ringShort (s : State) (p h : Nat) : Bool :=
  match s.desc? p h with
  | none => false
  | some d => match s.region? d.region with
    | none => false
    | some r => r.kind == RK.ring && (match s.ringOf d.region with
      | some x => decide ((s.ringData x r).length < d.size (d.rank - 1) * d.ringRow)
      | none => false)

/-! ### Runs (R347, R360, R372, R373) -/

/-- The segment a node of a graph names. -/
def State.segOf (s : State) (g : Graph) (n : Nat) : Option Segment := s.nc.segs.find? (fun x => x.users.contains (g.id, n))

/-- The segment of a task. -/
def State.segOfTask (s : State) (i : Nat) : Option Segment :=
  match (s.task i).owner with
  | .node jid nd => ((s.job? jid).bind (fun j => s.graph? j.graph)).bind (fun g => s.segOf g nd)
  | _ => none

/-- The run of a task, on its core or in its bank. -/
def State.runOf (s : State) (i : Nat) : Option NcRun := s.nc.runs.find? (·.task == i)

/-- A run at its start (R348, R360): no local flag set; it has been executed since the local time `since`, and for `spent` before that. -/
def NcRun.start (task core since spent : Nat) : NcRun :=
  ⟨task, core, 0, [], List.replicate 16 none, none, false, false, false, false, false, false, false, since, spent⟩

/-- The handle a local name stands for (R347). -/
def localName (x : Segment) (core : Nat) (binds : List Word) (n : Nat) : Option Nat :=
  let h := if n = noHandle then noHandle
    else if 0xFF00 ≤ n then half binds ((n - 0xFF00) / 2) ((n - 0xFF00) % 2 == 1)
    else (match x.handles.find? (·.1 == core) with | some (_, hs) => hs.getD n noHandle | none => noHandle)
  if h = noHandle then none else some h

/-- Command `k` of a run's stream. -/
def State.ncCmd (s : State) (r : NcRun) (x : Segment) (k : Nat) : NcCmd :=
  let w := s.cmdOn x r.core k
  let nm (n : Nat) : Option Nat := localName x r.core (s.task r.task).params n
  ⟨w, nm (cmdA w), nm (cmdB w), nm (cmdC w), nm (cmdOut w), nm (cmdAux w), if cmdGlaze w then x.glaze[cmdGlazeSet w]? else none⟩

/-- The first command of the stream that has not completed. -/
def NcRun.front (r : NcRun) : Nat := (r.fly.map (·.idx)).foldl min r.pc

/-- Tiles completed (R372) of the stream `cmds`: TILE_END commands with every command up to them completed. (DEDUCED, log 79) -/
def NcRun.tiles (r : NcRun) (cmds : List (List Word)) : Nat := ((cmds.take r.front).filter cmdTileEnd).length

/-- The first command after the last completed tile. -/
def NcRun.tileFrom (r : NcRun) (cmds : List (List Word)) : Nat :=
  match ((List.range r.front).filter (fun k => cmdTileEnd (cmds.getD k []))).getLast? with | some k => k + 1 | none => 0

/-- The outputs of every command beyond the completed tiles, issued or not: an abort leaves them undefined (R372). -/
def State.tileOuts (s : State) (r : NcRun) (x : Segment) : List Nat :=
  ((List.range x.cmds.length).drop (r.tileFrom (s.cmdsOn x r.core))).flatMap (fun k => (s.ncCmd r x k).outputs)

/-- The MAC_CLK cycles a run has taken, in units of 1 / 32,000 (R368, R572): the time it has been executed, at the clock of the present step. (DEDUCED, log 98) -/
def State.ncCycles (s : State) (r : NcRun) : Nat :=
  r.spent + (if (s.task r.task).state == .running then (s.now - r.since) * (250 * (32 - s.derate)) else 0)

/-- The run has taken more cycles than its segment declares (R368). (DEDUCED, log 98) -/
def State.ncOver (s : State) (r : NcRun) (x : Segment) : Bool := decide (32000 * segMacCycles x.head < s.ncCycles r)

/-- Counted time of every run that is executed is closed now. (DEDUCED, log 98) -/
def State.ncClock (s : State) : State :=
  { s with nc.runs := s.nc.runs.map (fun r => { r with spent := s.ncCycles r, since := s.now }) }

/-- DETAIL of a run's record when its status does not lie in 0x10 to 0x1F (R373). -/
def ncDetail (t : Task) (r : NcRun) (x : Segment) (ovr : Bool) : Nat :=
  b2n t.yielded * 128 + b2n r.accSat * 64 + b2n r.outSat * 32 + b2n r.nanSeen * 16 + b2n (segStream x.head) * 8 + b2n r.sparse * 4 + b2n ovr * 2

/-- DETAIL of a run that never started (R373). -/
def State.ncNoRun (s : State) (i st : Nat) : Nat :=
  if 0x10 ≤ st ∧ st ≤ 0x1F then 0xFFFF
  else b2n (s.task i).yielded * 128 + (match s.segOfTask i with | some x => b2n (segStream x.head) * 8 | none => 0)

/-- The run that core `n` executes now: with its credits. -/
def State.ncNow (s : State) (n : Nat) : Option (NcRun × Segment) :=
  match s.runningOn (0x10 + n) with
  | none => none
  | some i =>
    if s.creditWaits (0x10 + n) then none
    else match s.runOf i, s.segOfTask i with
      | some r, some x => some (r, x)
      | _, _ => none

def State.setRun (s : State) (r : NcRun) : State :=
  { s with nc.runs := s.nc.runs.map (fun x => if x.task = r.task then r else x) }

end Sys2Proof.Machine
end

