-- ==== Sys2Proof/Machine/Stop.lean ====
section
/-! DEFINITION. How a job on an engine ends: the outputs, counters and DETAIL of a job that is done, and of one that is stopped before
(01_architecture.md R50 to R52; R132, R258, R295, R325, R372, R455). -/

namespace Sys2Proof.Machine

/-- What engine `id` makes of task `i`, with `b` repeats of a failing read allowed. -/
def State.engRun (s : State) (id i b : Nat) : State × Nat × EngOut :=
  match (s.task i).cls with
  | 0 => s.ispRun id i b
  | 1 => s.pgeRun id i b
  | 2 => s.wpeRun id i b
  | 3 => s.ofeRun id i b
  | 4 => s.sgeRun id i b
  | 5 => s.fteRun id i b
  | _ => (s, St.internal, EngOut.blank [] [0])

/-- The rows of output `op` that may have been formed by now: those of the slots committed and of the slot that fills (R186); none where the
output lies in no slot ring. -/
def State.rowLimit (s : State) (i : Nat) (o : EngOut) (op : Nat) : Option Nat :=
  let t := s.task i
  (s.desc? t.part (o.ops.getD op noHandle)).bind (fun d => (s.region? d.region).bind (fun r =>
    if r.kind ≠ RK.ring then none
    else (s.ringOf d.region).map (fun x =>
      (x.prod + b2n ((x.at_ x.prod).state == RSlotState.filling && !x.inDone)) * d.slotRows (x.slotSize r))))

/-- The job can have come to COUNT `c` (R186, R255): the rows that this takes of a ring input have been committed, and those it makes of a ring
output have had a slot. -/
def State.canReach (s : State) (i : Nat) (o : EngOut) (c : Nat) : Bool :=
  let rows := s.ringRows i
  let lim := (List.range o.ops.length).map (s.rowLimit i o)
  o.pieces.all (fun e => decide (c < e.at_) || ((match rows with | some r => decide (e.need ≤ r) | none => true)
    && (match lim.getD e.op none with | some l => decide (e.outer.getLastD 0 < l) | none => true)))

/-- The values of COUNT up to `m` that a job can have come to: those since the last that is known; a paused one keeps its progress (R55). -/
def State.countsNow (s : State) (i : Nat) (o : EngOut) (m : Nat) : List Nat :=
  let p := (s.task i).progress
  o.counts.filter (fun c => c == p || (decide (p ≤ c ∧ c ≤ m) && (s.task i).state == .running && s.canReach i o c))

/-- The COUNT a job has come to (R51): a free one among those it can have reached. (DEDUCED, log 34) -/
def State.stopPoint (s : State) (i : Nat) (o : EngOut) : Nat × State :=
  let p := (s.task i).progress
  let l := s.countsNow i o o.whole
  let (q, s) := s.draw
  (l.getD ((Config.freeWord q).toNat % l.length) p, s)

/-- YIELDED and MOVED of a fixed pipeline's DETAIL (R259, R296, R326); an ISP frame's stand in its own bits. -/
def yieldBits (t : Task) : Nat :=
  if t.cls = 0 then 0 else b2n t.yielded * 128 + (if t.cls = 1 then b2n t.moved * 64 else 0)

/-- The counter of committed jobs. -/
def State.jobCount (s : State) (id : Nat) : State := match jobsCntOf id with | some r => s.bump r | none => s

/-- The scratch area of an SGE job that ends (R285). -/
def State.scratchLeft (s : State) (i id : Nat) : State := if (s.task i).cls = 4 then s.freeArea id (s.task i).part (s.task i).area else s

/-- The record of a fixed pipeline's job at COUNT `n` (R46, R51): counters and DETAIL of the results up to it. -/
def State.pipeCommit (s : State) (i id status n extra : Nat) (o : EngOut) : State × Commit :=
  let (q, s) := s.drawMany (o.adds.length + 2)
  let s := (((s.engCount o n q).jobCount id).scratchLeft i id)
  let t := s.task i
  let raised := if o.raised ≠ 0 ∧ (1 ≤ n ∨ bit (Config.freeWord (q + o.adds.length + 1)) 0) then o.raised else 0
  (s, ⟨status, id, Kind.pipeline, o.detail n q ||| yieldBits t ||| extra, n, raised ||| s.taskMarks i,
    recFlags false (s.anyLegacy t.part t.pinned) false false false, false, true⟩)

/-- A fixed pipeline's job stops before it is done (R51, R258, R295, R325): the results up to its COUNT are written, what lies beyond is
undefined. What it made is not known when its operands cannot be read any more. (DEDUCED, log 34) -/
def State.pipeStop (s : State) (i id status : Nat) : State × Commit :=
  if !(s.task i).started then (s.jobCount id, ⟨status, id, Kind.pipeline, yieldBits (s.task i), 0, s.taskMarks i, 0, false, true⟩)
  else
    let (s, st, o) := s.engRun id i 0
    let (n, s) := s.stopPoint i o
    let s := if st = St.done then (s.writePieces id i o n).1.freePieces id i o n else s.spoil i
    (s.dropIds i).pipeCommit i id status n 0 o

/-- What a job writes when it is done, beside its outputs: areas of DRAM and registers; the first bad status. -/
def State.engAreas (s : State) (i id : Nat) (o : EngOut) : State × Nat :=
  let s := o.sets.foldl (fun s e => s.setReg e.1 e.2) s
  o.areas.foldl (fun (a : State × Nat) e =>
    let (s, st) := a.1.dramWrite (whoPart id (s.task i).part) e.1 e.2
    (s, firstBad a.2 st)) (s, St.done)

/-- The largest COUNT below `c`. -/
def EngOut.below (o : EngOut) (c : Nat) : Nat := (o.counts.filter (fun k => decide (k < c))).foldl max 0

/-- A fixed pipeline's job is done (R258, R295, R325): its outputs are written, in order of COUNT up to the first write that fails; `adj` says
what its engine has observed of it. (DEDUCED, log 50) -/
def State.pipeDone (s : State) (i id : Nat) (adj : EngOut → EngOut) : State × Commit :=
  let (s, st, o) := s.engRun id i (s.readBudget i)
  let o := adj o
  if st ≠ St.done then
    let (n, s) := s.stopPoint i o
    ((s.spoil i).dropIds i).pipeCommit i id (exhausted st) n 0 o
  else
    let (s, st, c) := s.writePieces id i o (o.whole + 1)
    if st ≠ St.done then ((s.freePieces id i o (o.below c)).dropIds i).pipeCommit i id st (o.below c) 0 o
    else
      let (s, st) := s.engAreas i id o
      let (s, r) := s.pipeCommit i id st (o.whole + 1) (if st = St.done then o.areaBits else 0) o
      (s, { r with count := o.whole })

/-- A neural run ends (R360, R372, R373): with the index of the failing command for a status from 0x10 to 0x1F. Unless it is done, what
commands beyond its completed tiles write is undefined. -/
def State.ncClose (s : State) (r : NcRun) (x : Segment) (id status idx : Nat) : State × Commit :=
  let n := r.core
  let ovr := s.ncOver r x
  let tiles := r.tiles (s.cmdsOn x r.core)
  let s := if status = St.done then s else (s.modTask r.task (fun t => { t with outs := s.tileOuts r x })).spoil r.task
  let s := s.jobCount id
  let s := if r.accSat then s.bump (R.NC_ACC_SAT_CNT n) else s
  let s := if r.outSat then s.bump (R.NC_OUT_SAT_CNT n) else s
  let s := if ovr then s.bump (R.NC_EST_OVER_CNT n) else s
  let t := s.task r.task
  (s, ⟨status, id, Kind.segment, if 0x10 ≤ status ∧ status ≤ 0x1F then idx % 65536 else ncDetail t r x ovr, tiles, t.marks,
    recFlags false r.legacy false r.oobW r.oobR, false, true⟩)

/-- A task on an engine, or in its bank, stops with a status (R51, R132, R258, R295, R325, R372, R455): what it leaves, and its record. -/
def State.engStop (s : State) (i id status : Nat) : State × Commit :=
  let t := s.task i
  if 0x20 ≤ id ∧ id ≤ 0x29 then s.pipeStop i id status
  else if 0x10 ≤ id ∧ id ≤ 0x17 then
    match s.runOf i, s.segOfTask i with
    | some r, some x => s.ncClose r x id status 0xFFFF
    | _, _ => (s.jobCount id, ⟨status, id, Kind.segment, s.ncNoRun i status, 0, t.marks, 0, false, true⟩)
  else
    let legacy := recFlags false (s.anyLegacy t.part t.pinned) false false false
    match s.chanOfTask i with
    | some (e, c) => (s.bump (R.DMA_CHAINS_CNT e), ⟨status, id, kindOf id, s.dmaDetail e c, (s.reg (R.DMA_CH_DONE_BYTES e c)).toNat, 0,
        recFlags (s.chan e c).delayed false false false false, false, true⟩)
    | none => (s, ⟨status, id, kindOf id, 0, 0, 0, legacy, false, true⟩)

end Sys2Proof.Machine
end

