-- ==== Sys2Proof/Machine/Commit.lean ====
section
/-! DEFINITION. How nodes and frame jobs commit (04_frame_graphs.md R164 to R192): commits, skips, aborts, JOINs, and the end of a worker's
task. -/

namespace Sys2Proof.Machine

/-- What the sequencer still has to do in one command: commits, skips, aborts and JOIN evaluations that follow one another. -/
inductive Todo where
  | commit (j n : Nat) (c : Commit)
  | skip (j n : Nat)
  | abort (j n : Nat)
  | join (j n : Nat)
deriving DecidableEq, Repr

/-- The primary hold and the holds of a job's JOINs are released (R192, R85). -/
def State.dropHolds (s : State) (j : Job) : State :=
  let s := match j.trig.stream, j.trig.slot with | some st, some k => s.releaseSlot st k | _, _ => s
  j.joined.foldl (fun s f => s.releaseSlot f.stream f.slot) s

/-- Rings of job `j` whose two ends have both committed are released, and serve later jobs only (R185). -/
def State.releaseRings (s : State) (jid : Nat) : State :=
  match s.job? jid with
  | none => s
  | some j =>
    match s.graph? j.graph with
    | none => s
    | some g =>
      (g.edges.filter (·.typ == Edge.ring)).foldl (fun s e =>
        if (j.node e.src).committed && (j.node e.dst).committed then
          s.modRing g.id e.ring (fun x => if x.owner = some jid then { x.released with next := jid + 1 } else x)
        else s) s

/-- The status of a frame job and the node that decided it (R184, R192). -/
def jobStatus (j : Job) (marks : Nat) : Nat × Nat :=
  if j.timedOut then (St.deadlineMissed, 0xFF)
  else if j.atAbort.isSome then (St.aborted, 0xFF)
  else
    let idx := List.range j.nodes.length
    match idx.find? (fun n => (j.node n).ran && !usable (j.node n).status) with
    | some n => ((j.node n).status, n)
    | none =>
      match idx.find? (fun n => (j.node n).ran && (j.node n).status == St.deadlineMissed) with
      | some n => (St.deadlineMissed, n)
      | none => (doneWith marks, 0xFF)

/-- Every node has committed: the job's record is committed (R165, R192), its rings and holds are released, and the trigger of
every GRAPH_DONE graph that names the graph fires; its reference time is that of the job's primary frame, or its own (R175). (DEDUCED, log 32) -/
def State.retireJob (s : State) (jid : Nat) : State :=
  match s.job? jid with
  | none => s
  | some j =>
    match s.graph? j.graph with
    | none => s
    | some g =>
      let marks := j.nodes.foldl (fun m n => m ||| n.marks) 0
      let (st, who) := jobStatus j marks
      let cnt := match j.atAbort with | some k => k | none => (j.nodes.filter (·.ran)).length
      let r : Rec := ⟨st, 0x38, Kind.frameJob, g.part, recFlags false false j.abortSeen false false, g.userTag, s.devNow, j.trig.tag,
        marks, 256 * g.id + who, cnt⟩
      let s := s.modJob jid (fun x => { x with state := .retiring })
      let s := s.releaseRings jid
      let s := s.dropHolds j
      let s := (List.range 10).foldl (fun s b => if bit (BitVec.ofNat 32 marks) b then s.count (776 + b) 1 else s) s
      let s := s.bump R.FGS_JOBS_CNT
      let s := { s with fgs.ended := s.fgs.ended ++ [(g.id, j.trig.tag)] }
      let s := s.cqPush g.part ⟨r.words, (jid, none), some jid⟩
      let s := s.proofRetired g.id st marks
      let ref := if j.hasPrimary then j.trig.ref else s.devNow
      s.fireWhere 3 (fun x => x.trigArg % 256 == g.id) (fun _ => ⟨none, none, none, j.trig.tag, marks, s.now, ref⟩)

/-- The record of a node's commit (R46). (DEDUCED, log 34) -/
def nodeRec (s : State) (g : Graph) (j : Job) (n : Nat) (c : Commit) (st marks : Nat) : Rec :=
  ⟨st, c.agent, c.kind, g.part, c.flags, (g.node n).userTag, s.devNow, (nodeFrame g j n).tag, marks, c.detail, c.count⟩

/-- Whether every required input of a node is usable (R182). -/
def inputsOk (g : Graph) (j : Job) (n : Nat) : Bool :=
  ((g.ins n).filter (·.required)).all (fun e => !(j.node e.src).bad)

/-- What producers that have not committed have raised by now, for the consumer that commits before them (R672). (DEDUCED, log 33) -/
def State.ringMarks (s : State) (g : Graph) (j : Job) (n : Nat) : Nat :=
  ((g.ins n).filter (fun e => e.typ == Edge.ring && !(j.node e.src).committed)).foldl (fun m e =>
    m ||| (j.node e.src).raised ||| (match (j.node e.src).task with | some i => s.taskMarks i | none => 0)
      ||| (if s.derate != 0 && s.nodeRunning j e.src then Mark.degraded else 0)) 0

/-- The status and marks a commit gets, and whether it is EARLY (R170, R181 to R183, R672). (DEDUCED, log 35) -/
def State.commitResult (s : State) (g : Graph) (j : Job) (n : Nat) (c : Commit) : Nat × Nat × Bool :=
  let nd := g.node n
  let x := j.node n
  let inM := s.inMarks g j 130 n ||| s.ringMarks g j n
  let early := c.ran && nd.wdClose != 0 && inputsOk g j n && decide (s.now < j.trig.time + 10000 * nd.wdOpen)
  let marks := inM ||| x.raised ||| c.raised ||| (if c.ran && s.derate != 0 then Mark.degraded else 0)
  let st := if c.status = St.done ∧ inM ≠ 0 then St.inputMarked else c.status
  let st := if x.late && c.ran && (st == St.done || st == St.inputMarked) then St.deadlineMissed else st
  (if early then St.early else st, marks, early)

/-- What CROSS_JOB edges see of the commit: a skipped node counts as INTERNAL, since its output is unusable whatever its status (R172). -/
def PriorJob.commit (p : PriorJob) (jid n st marks : Nat) (ran : Bool) : PriorJob :=
  if p.id = jid then { p with status := setAt p.status n (some (if ran then st else St.internal)), marks := setAt p.marks n (marks % 65536) } else p

/-- The commit is entered in the job and in what later jobs see of it (R170 to R172). -/
def State.commitEnter (s : State) (g : Graph) (jid n : Nat) (st marks : Nat) (ran : Bool) : State :=
  let s := s.modNode jid n (fun x => { x with committed := true, status := st, marks := marks % 65536, ran := ran })
  let s : State := { s with fgs := { s.fgs with jobs := s.fgs.jobs.map (fun (k : Job) => { k with prior := k.prior.map (fun p => p.commit jid n st marks ran) }) } }
  s.modGraph g.id (fun g => { g with last := g.last.map (fun p => p.commit jid n st marks ran) })

/-- A slot fault (R188, R189). -/
def slotFault (ran : Bool) (st : Nat) : Bool := ran && (st == St.slotStarved || st == St.slotBlocked)

/-- What the commit tells the taster's history and the counters, the rings it frees, and its record (R46, R52, R185, R188, R192). -/
def State.commitReport (s : State) (g : Graph) (jid n : Nat) (c : Commit) (st : Nat) (r : Rec) : State :=
  let nd := g.node n
  let s := if nd.kind = NK.taster then
      s.tasterOutcome nd st c.detail c.ran c.skipped (c.agent == tasterUnit && st != St.aborted && (c.status == St.done || c.status == St.untrusted))
    else s
  let s := if slotFault c.ran st then s.bump R.FGS_SLOT_FAULT_CNT else s
  let s := (s.ringsQuiet g jid n).releaseRings jid
  let s := if c.ran ∧ (ctrlOf c.agent).isSome then { s with hts.ended := s.hts.ended ++ [(c.agent, g.part)] } else s
  if g.nodeRecords || st != St.done then s.cqPush g.part ⟨r.words, (jid, some n), none⟩ else s

/-- Flags to the successors: of DRAM edges in the job, and of CROSS_JOB edges in the jobs whose prior this one is (R170, R171). -/
def State.commitFlags (s : State) (g : Graph) (j : Job) (jid n : Nat) (ok : Bool) : State :=
  let cross := (s.fgs.jobs.filter (fun (k : Job) => (match k.prior with | some p => p.id == jid | none => false))).map (·.id)
  (g.outs n).foldl (fun s e =>
    if e.typ = Edge.dram then
      (if ok || (g.node e.dst).kind == NK.emit then s.nodeFlags j e.dst (BitVec.ofNat 32 (2 ^ e.flag)) else s)
    else if e.typ = Edge.cross then
      cross.foldl (fun s k => match s.job? k with
        | some jk => s.nodeFlags jk e.dst (BitVec.ofNat 32 (2 ^ e.flag))
        | none => s) s
    else s) s

/-- What follows from a commit: the other end of a ring whose slot failed, JOINs, and skips (R173, R176, R189). -/
def commitFollow (g : Graph) (jid n : Nat) (st : Nat) (ran ok : Bool) : List Todo :=
  (if slotFault ran st then
      (g.edges.filter (fun e => e.typ == Edge.ring && (e.src == n || e.dst == n))).map
        (fun e => Todo.abort jid (if e.src = n then e.dst else e.src))
    else [])
  ++ (g.outs n).flatMap (fun e =>
    if e.typ = Edge.cross then []
    else if (g.node e.dst).kind = NK.join then [Todo.join jid e.dst]
    else if ok || (g.node e.dst).kind == NK.emit then []
    else [Todo.skip jid e.dst])

/-- The effect of the commit of node `n` of job `j`, and what follows from it. -/
def State.commitFor (s : State) (g : Graph) (j : Job) (n : Nat) (c : Commit) : State × List Todo :=
  let (st, marks, early) := s.commitResult g j n c
  let s := if early then s.wdReport g n true else s
  let r := nodeRec s g j n c st marks
  let ok := c.ran && usable st
  let s := ((s.commitEnter g j.id n st marks c.ran).commitReport g j.id n c st r).commitFlags g j j.id n ok
  let all := match s.job? j.id with | some k => k.nodes.all (·.committed) | none => false
  (if all then s.retireJob j.id else s, commitFollow g j.id n st c.ran ok)

/-- A node that has not committed commits (R170 to R173, R181 to R183, R188, R189, R192); past its close offset it is late first. -/
def State.commitStep (s : State) (jid n : Nat) (c : Commit) : State × List Todo :=
  match s.job? jid with
  | none => (s, [])
  | some j0 =>
    match s.graph? j0.graph with
    | none => (s, [])
    | some g =>
      if (j0.node n).committed then (s, [])
      else
        let s := if s.pastClose (g.node n) j0 then s.raiseLate g jid n else s
        match s.job? jid with
        | none => (s, [])
        | some j => s.commitFor g j n c

/-- The JOIN at which a node's stream is missing (R173): one among its ancestors that took no frame for its entry, when no other did. -/
def joinMissing (g : Graph) (j : Job) (n : Nat) : Option Nat :=
  let x := (g.node n).streamIdx
  let up := g.ancestors n g.nodes.length
  if 0xFE ≤ x ∨ j.trig.entry = some x ∨ j.joined.any (fun f => f.entry == x && up.contains f.join) then none
  else (j.missing.find? (fun m => m.1 == x && up.contains m.2)).map (·.2)

/-- The cause of a node's skip: a stream missing at its JOIN first, else the first unusable required input in edge-table order
(R173). -/
def skipCause (g : Graph) (j : Job) (n : Nat) : Option (Nat × Nat × Nat) :=
  match joinMissing g j n with
  | some jn => some (St.inputMarked, jn, Mark.joinPartial)
  | none =>
    match (g.ins n).find? (fun e => e.required && (j.node e.src).bad) with
    | some e => some ((j.node e.src).status, e.src, 0)
    | none => none

/-- A node that has not run is skipped (R173): its record is committed at once by the sequencer. -/
def State.skipStep (s : State) (jid n : Nat) : State × List Todo :=
  match s.job? jid with
  | none => (s, [])
  | some j =>
    match s.graph? j.graph with
    | none => (s, [])
    | some g =>
      if (j.node n).committed || s.nodeRunning j n then (s, [])
      else match skipCause g j n with
        | none => (s, [])
        | some (st, cause, m) =>
          let s := match (j.node n).task with | some i => s.endTask i st | none => s
          s.commitStep jid n ⟨st, 0x38, Kind.node, 0x8000 + cause, 0, m, 0, true, false⟩

/-- ABORT_SEEN in a record that is committed and not yet written (R50). -/
def WaitRec.seen (r : WaitRec) : WaitRec :=
  let ws := (r.words.set 0 (wd r.words 0 ||| 4)).take 7
  { r with words := ws ++ [crc32c (wordBytes ws)] }

/-- The records of partition `p` that wait and satisfy `f` have seen an abort request (R50). -/
def State.cqSeen (s : State) (p : Nat) (f : WaitRec → Bool) : State :=
  s.setCqWaiting p ((s.cqWaiting p).map (fun r => if f r then r.seen else r))

/-- A node whose task was not dispatched commits ABORTED in a record of the sequencer (R164, R174); the request reached the sequencer, its
control block (R46). -/
def abortedNode (n : Nat) : Commit :=
  ⟨St.aborted, 0x38, Kind.node, 0x8000 + n, 0, 0, recFlags false false true false false, false, false⟩

/-- The engine that runs a task, or in whose bank it has yielded (R55, R293). -/
def Task.place (t : Task) : Option Nat := if t.state == .running then t.worker else t.bank

/-- A node is aborted (R50, R55, R164, R189): a RUNNING host task gets ABORT_PENDING; a job on an engine or in its bank stops and commits
ABORTED; a node that was not dispatched commits ABORTED in a record of the sequencer; one that has committed keeps its record. (DEDUCED, log 34) -/
def State.abortStep (s : State) (jid n : Nat) : State × List Todo :=
  match s.job? jid with
  | none => (s, [])
  | some j =>
    if (j.node n).committed then (s.cqSeen j.part (fun r => r.of_ == (jid, some n)), [])
    else
      match (j.node n).task with
      | none => s.commitStep jid n (abortedNode n)
      | some i =>
        match (s.task i).place with
        | some id =>
          if id ≤ 7 then (s.modTask i (fun t => { t with abortPending := true }), [])
          else
            let pd := (s.task i).powerDelayed
            let (s, c) := s.engStop i id St.aborted
            ((s.stopEngine i).endTask i St.aborted).commitStep jid n { c with flags := c.flags ||| recFlags pd false true false false }
        | none => (s.endTask i St.aborted).commitStep jid n (abortedNode n)

/-! ### JOIN (R175 to R177) -/

/-- The stream table entries a JOIN selects beside the primary one. -/
def joinEntries (g : Graph) (j : Job) (n : Nat) : List Nat :=
  let a := (g.node n).args
  (List.range g.streams.length).filter (fun e =>
    bit (wd a (1 + e / 32)) (e % 32) && j.trig.entry != some e)

/-- How far apart two capture times are. -/
def distance (a b : Nat) : Nat := if a ≤ b then b - a else a - b

/-- The LANDED frame of a stream nearest to the reference within the tolerance; of two equally near the later one; none with
a hold count of 15, and none that closed after the local time `limit` (R176, R177). -/
def State.joinPick (s : State) (st ref skew limit : Nat) : Option Nat :=
  let x := s.stream st
  let ok := (List.range x.ringFrames).filter (fun k =>
    let sl := x.slot k
    sl.state == .landed && decide (sl.hold < 15) && decide (sl.closed ≤ limit) && decide (distance sl.fsTime ref ≤ 1000 * skew))
  ok.foldl (fun b k => match b with
    | none => some k
    | some m =>
      let dk := distance (x.slot k).fsTime ref
      let dm := distance (x.slot m).fsTime ref
      if dk < dm ∨ (dk = dm ∧ (x.slot m).fsTime < (x.slot k).fsTime) then some k else some m) none

/-- JOIN `n` takes the frame of entry `e` that it finds, unless it has one, and holds it (R176). -/
def State.joinTake (s : State) (g : Graph) (jid n e : Nat) : State :=
  match s.job? jid with
  | none => s
  | some j =>
    if j.joined.any (fun f => f.join == n && f.entry == e) then s
    else
      let a := wd (g.node n).args 0
      let st := (g.streams.getD e ⟨false, 0⟩).stream
      match s.joinPick st j.trig.ref (bits a 31 16) (j.trig.time + 1000 * bits a 15 0) with
      | none => s
      | some k =>
        let x := (s.stream st).slot k
        (s.holdSlot st k).modJob jid (fun j => { j with joined := j.joined ++ [⟨n, e, st, k, frameTag st x.frame, x.fsTime⟩] })

/-- JOIN `n` commits with the frames it has (R177): nodes whose stream is missing at it are skipped first. -/
def State.joinCommit (s : State) (g : Graph) (jid n cnt : Nat) (miss : List Nat) : State × List Todo :=
  let s := s.modJob jid (fun j => { j with missing := j.missing ++ miss.map (fun e => (e, n)) })
  let (s, l) := s.commitStep jid n ⟨if miss.isEmpty then St.done else St.inputMarked, 0x38, Kind.node, miss.length, cnt,
    if miss.isEmpty then 0 else Mark.joinPartial, 0, false, true⟩
  (s, ((List.range g.nodes.length).filter (fun k => miss.contains (g.node k).streamIdx && (g.ancestors k g.nodes.length).contains n)).map (Todo.skip jid) ++ l)

/-- A JOIN is evaluated (R176, R177): it takes and holds the frames it finds, and commits when it has them all or its wait is
over. A JOIN with required inputs waits for them first. (DEDUCED, log 33) -/
def State.joinStep (s : State) (jid n : Nat) : State × List Todo :=
  match s.job? jid with
  | none => (s, [])
  | some j0 =>
    match s.graph? j0.graph with
    | none => (s, [])
    | some g =>
      if (j0.node n).committed then (s, [])
      else if ((g.ins n).filter (·.required)).any (fun e => (j0.node e.src).bad) then s.skipStep jid n
      else if ((g.ins n).filter (·.required)).any (fun e => !(j0.node e.src).committed) then (s, [])
      else
        let want := joinEntries g j0 n
        let s := want.foldl (fun s e => s.joinTake g jid n e) s
        match s.job? jid with
        | none => (s, [])
        | some j =>
          let miss := want.filter (fun e => !(j.joined.any (fun f => f.join == n && f.entry == e)))
          if miss.isEmpty || decide (j.trig.time + 1000 * bits (wd (g.node n).args 0) 15 0 ≤ s.now) then
            s.joinCommit g jid n (want.length - miss.length + b2n j.hasPrimary) miss
          else (s, [])

/-- The sequencer's worklist: each item may add others; `fuel` bounds their number. -/
def State.todo : Nat → List Todo → State → State
  | 0, _, s => s
  | _, [], s => s
  | fuel + 1, x :: l, s =>
    let (s, more) := match x with
      | .commit j n c => s.commitStep j n c
      | .skip j n => s.skipStep j n
      | .abort j n => s.abortStep j n
      | .join j n => s.joinStep j n
    State.todo fuel (l ++ more) s

/-- Enough for every node and edge of every job a command can touch. -/
abbrev todoFuel : Nat := 4096

def State.doTodo (s : State) (l : List Todo) : State := State.todo todoFuel l s

/-- A node's commit with all that follows. -/
def State.commitNode (s : State) (j n : Nat) (c : Commit) : State := s.doTodo [.commit j n c]

/-- Waiting JOINs look at a frame that has just closed (R176). -/
def State.joinsOf (s : State) (st : Nat) : State :=
  s.doTodo (s.fgs.jobs.flatMap (fun j =>
    match s.graph? j.graph with
    | none => []
    | some g => ((List.range g.nodes.length).filter (fun n => (g.node n).kind == NK.join && !(j.node n).committed
        && (joinEntries g j n).any (fun e => (g.streams.getD e ⟨false, 0⟩).stream == st))).map (Todo.join j.id)))

/-- A frame closes: its LANDED triggers fire, and JOINs that wait for it take it (R87, R158, R176). -/
def State.frameLanded (s : State) (st k : Nat) : State := (s.fgsFrame 0 st k).joinsOf st

/-! ### A task's end (R198) -/

/-- A task a worker ran ends (R198, R217): a node's commit, or software's. POWER_DELAYED is the task's (R46). -/
def State.finishTask (s : State) (i : Nat) (c : Commit) : State :=
  match (s.task i).owner with
  | .node j n =>
    let pd := (s.task i).powerDelayed
    (s.endTask i c.status).commitNode j n { c with flags := c.flags ||| recFlags pd false false false false }
  | .software => s.commitSoftware i c.status
  | .proof _ _ _ => (s.endTask i c.status).releaseTask i

/-- ABORT written in the control register of engine `id`, whose status register is `status` (R50 to R54, R132, R146, R258, R261): the job that
runs ends ABORTED; one that has committed in the same NOC_CLK cycle stands, and the reply is ABORT_LATE; an idle engine changes nothing. (DEDUCED, log 34) -/
def State.abortOn (s : State) (ag : Agent) (id status : Nat) : State :=
  match s.runningOn id with
  | some i =>
    let p := (s.task i).part
    if !s.ofPart ag p then s.refuse ag p
    else
      let s := s.setFld status 31 24 St.done
      match (s.task i).owner with
      | .node j n => s.doTodo [.abort j n]
      | _ => s
  | none => match s.hts.ended.find? (·.1 == id) with
    | none => s
    | some (_, p) =>
      if !s.ofPart ag p then s.refuse ag p
      else (s.setFld status 31 24 St.abortLate).cqSeen p (fun r => bits (wd r.words 0) 23 16 == id && wd r.words 2 == BitVec.ofNat 32 s.devNow)

/-- A job yields under R207 with the progress it has reached (R198): the engine's counter, and the place that holds its state; it stalls on
no ring any more. -/
def State.yieldEngine (s : State) (i id cnt progress : Nat) : State :=
  let s := s.modTask i (fun t => { t with progress := max t.progress progress, yielded := true, bank := some id })
  ((s.ringsLeft i).bump cnt).yieldTask i (s.task i).yieldLevel

/-- The job on an engine ends early with a status (R51, R188, R257): what it leaves and its record are those of a stopped job. -/
def State.failTask (s : State) (i status : Nat) : State :=
  match (s.task i).worker with
  | none => s
  | some id =>
    let r := s.engStop i id status
    (r.1.stopEngine i).finishTask i r.2

end Sys2Proof.Machine
end

