-- ==== Sys2Proof/Machine/PortOps.lean ====
section
/-! DEFINITION. Line packets, frames and their landing records (02_pixel_ports.md R63 to R87). -/

namespace Sys2Proof.Machine

/-- Port states (TPP_STATUS.STATE). -/
abbrev Tpp.disabled : Nat := 0
abbrev Tpp.training : Nat := 1
abbrev Tpp.active : Nat := 2
abbrev Tpp.clockLost : Nat := 3

def State.tppState (s : State) (n : Nat) : Nat := s.fld (R.TPP_STATUS n) 2 0
def State.setTpp (s : State) (n st : Nat) : State := s.setFld (R.TPP_STATUS n) 2 0 st

/-- The ingest buffer holds 16,384 transfers (R72). -/
abbrev bufSize : Nat := 16384

/-- HOLD_N follows the free space of the ingest buffer (R73); it stays released while landing is off (R98) or the port DISABLED. (DESIGN CHOICE, log 91) -/
def State.holdPin (s : State) (n : Nat) : State :=
  let free := bufSize - (s.port n).bufUsed
  let was := s.flag (R.TPP_STATUS n) 3
  let now := if !s.flag R.LND_CTRL 0 || s.tppState n == Tpp.disabled then false
    else if free < 4352 then true else if 8192 ≤ free then false else was
  let s := s.setFlag (R.TPP_STATUS n) 3 now
  if now && !was then s.count (128 + 16 * n + 8) 1 else s

/-! Header words (R64, R65). -/
def hdrStream (a : Word) : Nat := bits a 25 16
def hdrFrame (a : Word) : Nat := bits a 15 0
def hdrKind (b : Word) : Nat := bits b 31 30
def hdrLine (b : Word) : Nat := bits b 29 16
def hdrLen (b : Word) : Nat := bits b 15 8

/-- HCHK over the seven header bytes (R66). -/
def hdrCheck (a b : Word) : Nat := crc8 ((leBytes 4 a.toNat).reverse ++ ((leBytes 4 b.toNat).reverse).take 3)

/-- The trailer of a packet (R67). -/
def trailerOf (ws : List Word) : Word := crc32c (wordBytes ws)

/-- A valid proof set names the stream (R532). -/
def State.proofStream (s : State) (st : Nat) : Bool :=
  (List.range 8).any (fun k => s.flag (R.SAF_PS_CFG k) 31 && bits (wordAt (s.dramBytes (s.proofSetAddr k) 64) 1) 25 16 == st)

/-! ### Slots and frames -/

def State.modStream (s : State) (st : Nat) (f : Stream → Stream) : State := s.setStream st (f (s.stream st))

/-- The open frame changed. -/
def State.modOpen (s : State) (st : Nat) (f : OpenFrame → OpenFrame) : State :=
  s.modStream st (fun x => { x with openF := x.openF.map f })

/-- Marks of the slot of the open frame. -/
def State.markOpen (s : State) (st m : Nat) : State :=
  match (s.stream st).openF with
  | some f => s.modStream st (fun x => x.modSlot f.slot (fun k => { k with marks := k.marks ||| m }))
  | none => s

/-- The first four bad rows in arrival order (R86). -/
def State.badRow (s : State) (st reason kind line : Nat) : State :=
  s.modOpen st (fun f => if f.firstBad.length < 4 then
    { f with firstBad := f.firstBad ++ [BitVec.ofNat 32 (2 ^ 30 * reason + kind % 4 * 2 ^ 14 + line % 2 ^ 14)] } else f)

/-- A line of frame `num` is discarded as a bad row of the open frame, if that is its frame (R70, R71, R86). -/
def State.badLine (s : State) (st num reason kind line : Nat) : State :=
  match (s.stream st).openF with
  | some f => if f.frame = num then (s.modOpen st (fun f => { f with discarded := f.discarded + 1 })).badRow st reason kind line else s
  | none => s

/-- The next FREE slot in ring order, else under OVERWRITE_OLDEST the LANDED one with hold count 0 whose frame is the earliest
(R76, R77). The Bool says that a frame is dropped for it. (DEDUCED, log 22) -/
def Stream.pickSlot (x : Stream) : Option (Nat × Bool) :=
  let order := (List.range x.ringFrames).map (fun i => (x.nextSlot + i) % x.ringFrames)
  match order.find? (fun k => (x.slot k).state == .free) with
  | some k => some (k, false)
  | none =>
    if x.policy = 1 then none
    else
      let cand := (List.range x.ringFrames).filter (fun k => (x.slot k).state == .landed && (x.slot k).hold == 0)
      let best := cand.foldl (fun b k => match b with
        | none => some k
        | some m => if laterThan (x.slot m).frame (x.slot k).frame then some k else some m) none
      best.map (fun k => (k, true))

/-- A dropped frame (R77, R78). (DEDUCED, log 22) -/
def State.dropFrame (s : State) (st : Nat) : State :=
  (s.modStream st (fun x => { x with drops := min (x.drops + 1) 65535 })).streamInc st 3

/-- The landing record at a frame's close (R86). -/
def landingRecord (st : Nat) (f : OpenFrame) (marks : Nat) (fe : Bool) (close seq drops : Nat) : List Word :=
  let w1 := marks % 65536 * 65536 + 2 * 256 + b2n f.dup * 4 + b2n fe * 2 + b2n f.fsMissing
  let ws := [frameTag st f.frame, BitVec.ofNat 32 w1, BitVec.ofNat 32 f.fsTime, BitVec.ofNat 32 (f.fsTime / 2 ^ 32),
    BitVec.ofNat 32 close, BitVec.ofNat 32 (close / 2 ^ 32), BitVec.ofNat 32 (65536 * f.emb.length + f.active.length),
    BitVec.ofNat 32 (65536 * min f.discarded 65535 + min f.crcLines 65535)]
    ++ (List.range 4).map (fun k => wd f.firstBad k) ++ [BitVec.ofNat 32 seq, BitVec.ofNat 32 drops, 0]
  ws ++ [crc32c (wordBytes ws)]

/-- The landing unit's accesses carry the stream's owner partition. -/
def State.lndWho (s : State) (st : Nat) : Who := whoPart 0x2C (s.stream st).part

/-- The open frame closes (R76, R78, R80, R86, R87): `fe` when its FRAME_END line is missing, `late` at the late timeout. -/
def State.closeFrame (s : State) (st : Nat) (fe late : Bool) : State :=
  let x := s.stream st
  match x.openF with
  | none => s
  | some f =>
    let missing := decide (f.active.length < x.height) || decide (f.emb.length < x.embLines)
    let m := (x.slot f.slot).marks ||| (if missing then Mark.lineMissing else 0) ||| (if late then Mark.late else 0)
      ||| (if x.drops ≠ 0 then Mark.droppedPrev else 0)
    let s := (s.dramWrite (s.lndWho st) (x.slotAddr f.slot) (wordBytes (landingRecord st f m fe s.devNow x.landingSeq x.drops))).1
    let s := s.modStream st (fun x =>
      { x.modSlot f.slot (fun k => { k with state := .landed, marks := m, closed := s.now }) with openF := none, drops := 0 })
    let s := s.streamInc st 5
    let s := if late then s.streamInc st 4 else s
    let s := if f.cutoffDone then s else s.cutoff st f.frame
    (s.frameLanded st f.slot).askYields

/-- Frame `num` opens, or is dropped as it arrives (R76, R77, R79, R82): a frame still open closes first with FE_MISSING. (DEDUCED, log 22, DESIGN CHOICE, log 92) -/
def State.openFrame (s : State) (st num : Nat) (fsMissing : Bool) : State :=
  let s := s.closeFrame st true false
  let x := s.stream st
  let s := s.modStream st (fun x => { x with landingSeq := (x.landingSeq + 1) % 2 ^ 32, lastFrame := num, opened := true, discarding := none })
  match x.pickSlot with
  | none => (s.modStream st (fun x => { x with discarding := some num })).dropFrame st
  | some (k, ovr) =>
    let s := if ovr then s.dropFrame st else s
    let t := s.devNow
    let s := s.modStream st (fun x =>
      { x.modSlot k (fun sl => { sl with state := .landing, frame := num, fsTime := t, marks := 0 }) with
        openF := some ⟨k, num, t, s.now, fsMissing, [], [], 0, 0, false, [], false, false⟩, nextSlot := (k + 1) % x.ringFrames })
    let s := (s.dramWrite (s.lndWho st) ((s.stream st).slotAddr k)
      (wordBytes [frameTag st num, BitVec.ofNat 32 256, BitVec.ofNat 32 t, BitVec.ofNat 32 (t / 2 ^ 32)])).1
    s.modelOpen st num

/-- Whether a line of frame `num` may open it (R82, R83): later than every frame the stream has opened. -/
def Stream.newer (x : Stream) (num : Nat) : Bool := !x.opened || laterThan num x.lastFrame

/-! ### One line packet (R70) -/

/-- An active row has landed: the first-lines trigger and the command cutoff (R76, R138, R158). -/
def State.rowLanded (s : State) (st row : Nat) : State :=
  let x := s.stream st
  match x.openF with
  | none => s
  | some f =>
    let s := if x.earlyLines ≠ 0 ∧ f.active.length = x.earlyLines ∧ !f.earlyDone then
        (s.modOpen st (fun f => { f with earlyDone := true })).fgsFrame 1 st f.slot
      else s
    match (s.ispStream st).ctx with
    | some c => if row = bits (s.ctxWord c 3) 13 0 ∧ !f.cutoffDone then
        ((s.modOpen st (fun f => { f with cutoffDone := true })).cutoff st f.frame).askYields
      else s.askYields
    | none => s

/-- A row's payload is written (R75, R70): the row is landed, or discarded when its write is refused. (DEDUCED, log 21) -/
def State.landRow (s : State) (n st : Nat) (emb : Bool) (row : Nat) (payload : List Word) (crcBad : Bool) : State :=
  let x := s.stream st
  match x.openF with
  | none => s
  | some f =>
    let dup := if emb then f.emb.contains row else f.active.contains row
    if dup then (s.modOpen st (fun f => { f with dup := true, discarded := f.discarded + 1 })).streamInc st 1
    else
      let a := if emb then x.embAddr f.slot row else x.rowAddr f.slot row
      let (s, w) := s.dramWrite (s.lndWho st) a (wordBytes payload)
      if w ≠ St.done then (s.modOpen st (fun f => { f with discarded := f.discarded + 1 })).streamInc st 1
      else
        let s := s.count (128 + 16 * n + 7) 1
        let s := s.modOpen st (fun f => if emb then { f with emb := f.emb ++ [row] } else { f with active := f.active ++ [row] })
        let s := if crcBad then
            ((s.modOpen st (fun f => { f with crcLines := f.crcLines + 1 })).markOpen st Mark.crcErr).streamInc st 0 |>.badRow st 1
              (if emb then 1 else 0) row
          else s
        if emb then s else s.rowLanded st row

/-- A line whose header passed checks 1 to 4 (R79 to R83): checks 5 to 7. -/
def State.acceptLine (s : State) (n st kind num row : Nat) (payload : List Word) (crcBad : Bool) : State :=
  let x := s.stream st
  let mine := match x.openF with | some f => f.frame == num | none => false
  let mark (s : State) : State :=
    if crcBad then ((s.markOpen st Mark.crcErr).streamInc st 0).badRow st 1 kind row else s
  if kind = 2 then
    if !mine && x.newer num then
      let s := s.openFrame st num false
      if (s.stream st).discarding = some num then s else mark (s.count (128 + 16 * n + 7) 1)
    else if x.discarding = some num then s
    else s.streamInc st 2
  else
    let s := if !mine && x.newer num then s.openFrame st num true else s
    let x := s.stream st
    match x.openF with
    | some f =>
      if f.frame = num then
        if kind = 3 then ((mark s).count (128 + 16 * n + 7) 1).closeFrame st false false
        else s.landRow n st (kind == 1) row payload crcBad
      else if x.discarding = some num then s
      else s.streamInc st 2
    | none => if x.discarding = some num then s else s.streamInc st 2

/-- LINE_NUM and PAY_LEN of a line (R65, R68). (DEDUCED, log 21) -/
def Stream.lineOk (x : Stream) (kind row len : Nat) : Bool :=
  if kind = 0 then decide (row < x.height) && len == payLen x.packing x.width
  else if kind = 1 then decide (row < x.embLines) && decide (1 ≤ len) && decide (len * 64 ≤ x.lineStride)
  else row == 0

/-- One line packet at port `n` (R58, R69 to R71): ignored unless the port is ACTIVE and landing is on. (DEDUCED, log 21) -/
def State.linePacket (s : State) (n : Nat) (p : LinePacket) : State :=
  if s.tppState n ≠ Tpp.active then s
  else
    let len := p.words.length
    let s := s.bwCount (32 + n) (4 * len)
    if !s.flag R.LND_CTRL 0 then s
    else
      let ovr := p.overrun || decide (bufSize < (s.port n).bufUsed + len)
      let s := (s.modPort n (fun q => { q with bufUsed := min (q.bufUsed + len) bufSize })).holdPin n
      let a := wd p.words 0
      let b := wd p.words 1
      let st := hdrStream a
      let kind := hdrKind b
      let num := hdrFrame a
      let row := hdrLine b
      let hdrGood := decide (2 ≤ len) && hdrCheck a b == bits b 7 0
      let x := s.stream st
      let attrib := bits a 31 28 == 1 && bits a 27 26 == 0 && x.enabled && x.port == n && !s.proofStream st
      if ovr then
        let s := (s.bump (R.TPP_OVERRUN_CNT n)).setFlag (R.TPP_STATUS n) 4 true
        if hdrGood && attrib then s.badLine st num 3 kind row else s
      else if len ≠ 16 * hdrLen b + 3 then s.bump (R.TPP_LENGTH_CNT n)
      else if !hdrGood then s.bump (R.TPP_ORPHAN_CNT n)
      else
        let s := if p.fs0 != (kind == 2) || p.fsLater then s.bump (R.TPP_FS_MISMATCH_CNT n) else s
        if !attrib then s.bump (R.TPP_ORPHAN_CNT n)
        else if !x.lineOk kind row (hdrLen b) then
          (s.streamInc st 1).badLine st num 2 kind row
        else
          let payload := (p.words.drop 2).take (len - 3)
          s.acceptLine n st kind num row payload (trailerOf (p.words.take (len - 1)) != wd p.words (len - 1))

/-- ENABLE = 0 (R95): the open frame closes, slots without holds are FREE, the pending drop count is cleared. -/
def State.disableStream (s : State) (st : Nat) : State :=
  let s := s.closeFrame st true false
  s.modStream st (fun x =>
    { x with drops := 0, discarding := none,
             slots := x.slots.map (fun k => if k.hold = 0 then { k with state := .free } else k) })

/-- A context write that passed its checks takes effect (R94, R95, R124). (DEDUCED, log 22) -/
def State.installCtx (s : State) (st : Nat) (cfg : List Word) : State :=
  let was := (s.stream st).enabled
  let on := bit (wd cfg 0) 31
  let s := if was && !on then s.disableStream st else s
  let s := s.modStream st (fun x => { x with cfg := cfg })
  if !was && on then
    (s.modStream st (fun x => { x with landingSeq := 0, opened := false, nextSlot := 0 })).resetModel st
  else s

end Sys2Proof.Machine
end

