-- ==== Sys2Proof/Machine/Port.lean ====
section
/-! DEFINITION. The commands of the pixel ports and of the landing unit (02_pixel_ports.md). -/

namespace Sys2Proof.Machine

/-- PORT_ENABLE (R58, R101). (DESIGN CHOICE, log 91) -/
def portEnableOp (ag : Agent) (n : Nat) (s : State) : State :=
  if !s.p3UntilLock ag then s.refuseSys ag
  else
    let s := s.setFlag (R.TPP_CTRL n) 0 true
    if s.tppState n = Tpp.disabled then s.setTpp n Tpp.training else s

def execPortEnable (ag : Agent) (n : Fin 8) (s : State) : Host.Outcome State Fault Refusal := awakeNext s (portEnableOp ag n s)

/-- PORT_DISABLE (R59): commands lie between line packets, so it takes effect at once; HOLD_N is released. (DEDUCED, log 20) -/
def portDisableOp (ag : Agent) (n : Nat) (s : State) : State :=
  if !s.p3UntilLock ag then s.refuseSys ag
  else ((s.setFlag (R.TPP_CTRL n) 0 false).setTpp n Tpp.disabled).holdPin n

def execPortDisable (ag : Agent) (n : Fin 8) (s : State) : Host.Outcome State Fault Refusal := awakeNext s (portDisableOp ag n s)

/-- RETRAIN (R96). (DEDUCED, log 20) -/
def tppRetrainOp (ag : Agent) (n : Nat) (s : State) : State :=
  if !s.p3UntilLock ag then s.refuseSys ag
  else if s.tppState n = Tpp.active then s.setTpp n Tpp.training else s

def execTppRetrain (ag : Agent) (n : Fin 8) (s : State) : Host.Outcome State Fault Refusal := awakeNext s (tppRetrainOp ag n s)

/-- The counters of a port (R96). -/
def tppCounters (n : Nat) : List Nat :=
  [R.TPP_ORPHAN_CNT n, R.TPP_LENGTH_CNT n, R.TPP_OVERRUN_CNT n, R.TPP_HOLD_US n, R.TPP_FS_MISMATCH_CNT n,
    R.TPP_CTL_TIMEOUT_CNT n, R.TPP_CTL_CRC_CNT n]

/-- TPP_CLEAR_COUNTS (R96). -/
def tppClearOp (ag : Agent) (n : Nat) (s : State) : State :=
  if !s.p3UntilLock ag then s.refuseSys ag else s.zeroRegs (tppCounters n)

def execTppClearCounts (ag : Agent) (n : Fin 8) (s : State) : Host.Outcome State Fault Refusal := awakeNext s (tppClearOp ag n s)

/-- CTL_ENABLE (R88). -/
def ctlEnableOp (ag : Agent) (n : Nat) (on : Bool) (s : State) : State :=
  if !s.p3UntilLock ag then s.refuseSys ag else s.setFlag (R.TPP_CTRL n) 3 on

def execCtlEnable (ag : Agent) (n : Fin 8) (on : Bool) (s : State) : Host.Outcome State Fault Refusal :=
  awakeNext s (ctlEnableOp ag n on s)

/-- TRAINING_COMPLETE (R58): a port in TRAINING enters ACTIVE. -/
def trainingOp (n : Nat) (s : State) : State :=
  if s.tppState n = Tpp.training then (s.setTpp n Tpp.active).modPort n (fun p => { p with lastGap := s.now }) else s

def execTrainingComplete (n : Fin 8) (s : State) : Host.Outcome State Fault Refusal := awakeNext s (trainingOp n s)

/-- CLOCK_LOST (R58): an ACTIVE port without PCLK for 10 µs; a packet it cut off is a length error. (DEDUCED, log 20) -/
def clockLostOp (n : Nat) (cut : Bool) (s : State) : State :=
  if s.tppState n = Tpp.active then
    let s := (s.setTpp n Tpp.clockLost).setFlag (R.TPP_STATUS n) 5 true
    if cut then s.bump (R.TPP_LENGTH_CNT n) else s
  else s

def execClockLost (n : Fin 8) (cut : Bool) (s : State) : Host.Outcome State Fault Refusal := awakeNext s (clockLostOp n cut s)

/-- CLOCK_RETURN (R58). (DEDUCED, log 11) -/
def clockReturnOp (n : Nat) (s : State) : State := if s.tppState n = Tpp.clockLost then s.setTpp n Tpp.training else s

def execClockReturn (n : Fin 8) (s : State) : Host.Outcome State Fault Refusal := awakeNext s (clockReturnOp n s)

/-- DESKEW_RECALIBRATION (R57): an ACTIVE port uses a training gap; its deskew is fresh. -/
def deskewOp (n : Nat) (s : State) : State :=
  if s.tppState n = Tpp.active then s.modPort n (fun p => { p with lastGap := s.now }) else s

def execDeskewRecalibration (n : Fin 8) (s : State) : Host.Outcome State Fault Refusal := awakeNext s (deskewOp n s)

/-- DESKEW_STALE (R596): counted once for each second without a training gap. (DEDUCED, log 20) -/
def deskewStaleOp (n : Nat) (s : State) : State :=
  if s.tppState n = Tpp.active ∧ 1000000000 + (s.port n).lastGap ≤ s.now then
    (s.bump R.PMG_DESKEW_STALE_CNT).modPort n (fun p => { p with lastGap := 1000000000 + p.lastGap })
  else s

def execDeskewStale (n : Fin 8) (s : State) : Host.Outcome State Fault Refusal := awakeNext s (deskewStaleOp n s)

/-- FRAME_START_LINE (R79): the packet's own header decides what it is (R63). -/
def execFrameStartLine (n : Fin 8) (p : LinePacket) (s : State) : Host.Outcome State Fault Refusal := awakeNext s (s.linePacket n p)

/-- ACTIVE_LINE (R70). -/
def execActiveLine (n : Fin 8) (p : LinePacket) (s : State) : Host.Outcome State Fault Refusal := awakeNext s (s.linePacket n p)

/-- EMBEDDED_LINE (R68). -/
def execEmbeddedLine (n : Fin 8) (p : LinePacket) (s : State) : Host.Outcome State Fault Refusal := awakeNext s (s.linePacket n p)

/-- FRAME_END_LINE (R80). -/
def execFrameEndLine (n : Fin 8) (p : LinePacket) (s : State) : Host.Outcome State Fault Refusal := awakeNext s (s.linePacket n p)

/-- LANDING_WRITE_DRAIN (R73): completed landing writes free space of the ingest buffer. (DEDUCED, log 11) -/
def drainOp (n transfers : Nat) (s : State) : State :=
  (s.modPort n (fun p => { p with bufUsed := p.bufUsed - transfers })).holdPin n

def execLandingWriteDrain (n : Fin 8) (transfers : Nat) (s : State) : Host.Outcome State Fault Refusal := awakeNext s (drainOp n transfers s)

/-- FRAME_LATE_TIMEOUT (R81, R84): a frame still open LATE_US after its FS_TIME closes with LATE and FE_MISSING. (DEDUCED, log 10) -/
def lateOp (st : Nat) (s : State) : State :=
  match (s.stream st).openF with
  | some f => if f.fsLocal + 1000 * (s.stream st).lateUs ≤ s.now then s.closeFrame st true true else s
  | none => s

def execFrameLateTimeout (st : Fin 1024) (s : State) : Host.Outcome State Fault Refusal := awakeNext s (lateOp st s)

/-- CTL_COMMAND_SEND (R89, R90): the first waiting command goes out while fewer than 8 are outstanding. (DESIGN CHOICE, log 24, DESIGN CHOICE, log 93) -/
def ctlSendOp (n : Nat) (s : State) : State :=
  let p := s.port n
  match p.ctlQueue with
  | [] => s
  | c :: t =>
    if s.flag (R.TPP_CTRL n) 3 && decide (p.ctlOut.length < 8) then
      let c := { c with seq := p.ctlSeq, sent := s.now }
      s.modPort n (fun p =>
        { p with ctlQueue := t, ctlOut := p.ctlOut ++ [c], ctlSeq := (p.ctlSeq + 1) % 16,
                 ctlDo := p.ctlDo ++ [ctlFrame (ctlBits c.stream c.op c.seq c.addr (if c.op = 0 then c.data else 0))] })
    else s

def execCtlCommandSend (n : Fin 8) (s : State) : Host.Outcome State Fault Refusal := awakeNext s (ctlSendOp n s)

/-- CTL_REPLY (R88, R90, R91): matched by STREAM_ID and SEQ, or discarded and counted. Without TPPn_CTL_CK nothing is sampled. (DESIGN CHOICE, log 24) -/
def ctlReplyOp (n : Nat) (frame : BitVec 56) (s : State) : State :=
  let v := frame.toNat
  let ok := ctlFrame (v / 256) == frame
  if !s.flag (R.TPP_CTRL n) 3 then s
  else match (s.port n).ctlOut.find? (fun c => c.stream == nbits v 55 46 && c.seq == nbits v 43 40) with
  | some c => if ok then s.ctlEnd n c (nbits v 45 44) (nbits v 39 24) (nbits v 23 8) else s.bump (R.TPP_CTL_CRC_CNT n)
  | none => s.bump (R.TPP_CTL_CRC_CNT n)

def execCtlReply (n : Fin 8) (frame : BitVec 56) (s : State) : Host.Outcome State Fault Refusal := awakeNext s (ctlReplyOp n frame s)

/-- CTL_COMMAND_TIMEOUT (R91): the oldest command outstanding for 500 µs ends as if NAK had been received; it is not resent. (DESIGN CHOICE, log 24, DESIGN CHOICE, log 94) -/
def ctlTimeoutOp (n : Nat) (s : State) : State :=
  match (s.port n).ctlOut.find? (fun c => decide (500000 + c.sent ≤ s.now)) with
  | some c => (s.bump (R.TPP_CTL_TIMEOUT_CNT n)).ctlEnd n c 1 c.addr (if c.op = 0 then c.data else 0)
  | none => s

def execCtlCommandTimeout (n : Fin 8) (s : State) : Host.Outcome State Fault Refusal := awakeNext s (ctlTimeoutOp n s)

/-- SEND (R97, R101): queues the command of the writer's own CMD0 and CMD1, or sets REFUSED for its partition; the port's
8 places (R90, R645) are taken by the commands that wait and those outstanding. The former reply is no longer shown. (DESIGN CHOICE, log 24) -/
def tppSendOp (ag : Agent) (n : Nat) (s : State) : State :=
  let b := s.lndBank ag
  let c0 := s.reg (banked (R.TPP_CTL_CMD0 n) b)
  let c1 := s.reg (banked (R.TPP_CTL_CMD1 n) b)
  let st := bits c0 25 16
  let owner := s.streamOwner (s.stream st)
  let refused (s : State) : State := s.setFlag (banked (R.TPP_CTL_RSP0 n) b) 30 true
  let p := s.port n
  let direct := (p.ctlQueue ++ p.ctlOut).any (fun c => c.source == .direct)
  if !(s.ofPart ag owner || s.p3UntilLock ag) then refused (s.refuse ag owner)
  else if direct || decide (8 ≤ (p.ctlQueue ++ p.ctlOut).length) then refused s
  else
    let s := (s.setReg (R.TPP_CTL_RSP0 n) (s.reg (R.TPP_CTL_RSP0 n) &&& 0x40000000)).setReg (R.TPP_CTL_RSP1 n) 0
    let s := s.modPort n (fun p => { p with directStream := some st })
    s.ctlQueue n ⟨st, bits c0 13 12, bits c1 31 16, bits c1 15 0, .direct, 0, 0⟩

def execTppSend (ag : Agent) (n : Fin 8) (s : State) : Host.Outcome State Fault Refusal := awakeNext s (tppSendOp ag n s)

/-- The status of a context command (R98), which has then been accepted: PENDING for at most 1 µs. (DESIGN CHOICE, log 85) -/
def State.ctxStatus (s : State) (st : Nat) : State :=
  (s.setReg R.LND_CTX_STATUS (BitVec.ofNat 32 (2 ^ 24 * st))).cmdBegin R.LND_CTX_STATUS 1000

/-- Whether an agent may read or write the context of stream `st` (R101). (DEDUCED, log 23) -/
def State.ctxAccess (s : State) (ag : Agent) (st : Nat) : Bool := s.ofPart ag (s.streamOwner (s.stream st)) || s.p3UntilLock ag

/-- A context WRITE is carried out (R94, R95, R101). (DEDUCED, log 97) -/
def lndCtxWriteGo (ag : Agent) (st : Nat) (s : State) : State :=
  let s := s.setFld R.LND_CTX_CMD 9 0 st
  if !s.ctxAccess ag st then (s.refuse ag (s.streamOwner (s.stream st))).ctxStatus St.partitionFault
  else
    let cfg := (List.range 8).map (fun w => s.reg (banked (R.LND_CTX_WORD w) (s.lndBank ag)))
    let r := s.ctxCheck st cfg
    if r = St.done then (s.installCtx st cfg).ctxStatus St.done else s.ctxStatus r

/-- LND_CTX_WRITE (R94, R99): ignored while PENDING is 1. -/
def lndCtxWriteOp (ag : Agent) (st : Nat) (s : State) : State := if s.cmdBusy R.LND_CTX_STATUS then s else lndCtxWriteGo ag st s

def execLndCtxWrite (ag : Agent) (st : Fin 1024) (s : State) : Host.Outcome State Fault Refusal := awakeNext s (lndCtxWriteOp ag st s)

/-- A context READ is carried out (R98, R101). (DEDUCED, log 97) -/
def lndCtxReadGo (ag : Agent) (st : Nat) (s : State) : State :=
  let b := s.lndBank ag
  let s := s.setFld R.LND_CTX_CMD 9 0 st
  if !s.ctxAccess ag st then (s.refuse ag (s.streamOwner (s.stream st))).ctxStatus St.partitionFault
  else
    let ws := (s.stream st).words
    let s := (List.range 16).foldl (fun s w => s.setReg (banked (R.LND_CTX_WORD w) b) (wd ws w)) s
    s.ctxStatus St.done

/-- LND_CTX_READ (R98, R99): ignored while PENDING is 1. -/
def lndCtxReadOp (ag : Agent) (st : Nat) (s : State) : State := if s.cmdBusy R.LND_CTX_STATUS then s else lndCtxReadGo ag st s

def execLndCtxRead (ag : Agent) (st : Fin 1024) (s : State) : Host.Outcome State Fault Refusal := awakeNext s (lndCtxReadOp ag st s)

/-- LANDING_ENABLE (R98). -/
def landingEnableOp (ag : Agent) (on : Bool) (s : State) : State :=
  if !s.p3UntilLock ag then s.refuseSys ag
  else (List.range 8).foldl (fun s n => s.holdPin n) (s.setFlag R.LND_CTRL 0 on)

def execLandingEnable (ag : Agent) (on : Bool) (s : State) : Host.Outcome State Fault Refusal := awakeNext s (landingEnableOp ag on s)

/-- LND_CLEAR_COUNTS (R98): words 9 to 14 of every context. -/
def lndClearOp (ag : Agent) (s : State) : State :=
  if !s.p3UntilLock ag then s.refuseSys ag
  else (s.streams.map (·.1)).foldl (fun s st => s.modStream st (fun x => { x with counts := List.replicate 6 0 })) s

def execLndClearCounts (ag : Agent) (s : State) : Host.Outcome State Fault Refusal := awakeNext s (lndClearOp ag s)

/-- LND_RELEASE (R85, R99, R101): lowers the hold count of the slot; one already 0 only counts. -/
def lndReleaseOp (ag : Agent) (st slot : Nat) (s : State) : State :=
  let owner := s.streamOwner (s.stream st)
  if !s.ofPart ag owner then s.refuse ag owner
  else
    let s := s.setReg R.LND_RELEASE (BitVec.ofNat 32 (65536 * st + slot))
    if ((s.stream st).slot slot).hold = 0 then s.count 262 1 else s.releaseSlot st slot

def execLndRelease (ag : Agent) (st : Fin 1024) (slot : Fin 8) (s : State) : Host.Outcome State Fault Refusal :=
  awakeNext s (lndReleaseOp ag st slot s)

end Sys2Proof.Machine
end

