-- ==== Sys2Proof/Machine/Dram.lean ====
section
/-! DEFINITION. The commands of the DRAM controller (14_dram_integrity.md). -/

namespace Sys2Proof.Machine

/-- What the requester of a DRAM read is answered (R29, R464, R468, R490, R499, R504). -/
def dramReply (ag : Agent) (st n : Nat) (bs : List Byte) : Reply :=
  if st = St.done then .bytes bs
  else match ag with
    | .hc _ => if st = St.partitionFault then .bytes (List.replicate n 0) else .accessFault
    | .pcieHost => if st = St.rangeFault then .unsupportedRequest else .completerAbort
    | .pciePeer => if st = St.rangeFault then .unsupportedRequest else .completerAbort
    | _ => if st = St.partitionFault then .bytes (List.replicate n 0) else if st = St.integrity then .integrityError else .busError

/-- DRAM_READ (R498, R504): `newBad` are blocks whose stored bits have failed since, `transient` blocks whose check fails for
this one read. While a die is in STOP the request is held (R511). (DEDUCED, log 55) -/
def dramReadOp (ag : Agent) (a n : Nat) (newBad transient : List Nat) (s : State) : State :=
  if s.dramStopped then s
  else
    let s := { s with dram.bad := s.dram.bad ++ newBad.filter (fun b => !s.dram.bad.contains b) }
    let (s, st, bs) := s.dramRead (s.whoOf ag) a n
    let tr := (blocksOf a n).filter (fun b => transient.contains b && !s.dram.bad.contains b)
    if st = St.done ∧ !tr.isEmpty then
      (tr.foldl (fun s b => s.badBlock (s.whoOf ag) b false) s).answer (dramReply ag St.integrity n [])
    else s.answer (dramReply ag st n bs)

def execDramRead (ag : Agent) (a n : Nat) (newBad transient : List Nat) (s : State) : Host.Outcome State Fault Refusal :=
  awakeNext s (dramReadOp ag a n newBad transient s)

/-- DRAM_WRITE (R503): a write of bytes, whole blocks or masked. -/
def dramWriteOp (ag : Agent) (a : Nat) (bs : List Byte) (s : State) : State :=
  if s.dramStopped then s
  else
    let (s, st) := s.dramWrite (s.whoOf ag) a bs
    s.answer (if st = St.done then .nothing else if st = St.partitionFault then .dropped
      else match ag with | .hc _ => .accessFault | _ => .busError)

def execDramWrite (ag : Agent) (a : Nat) (bs : List Byte) (s : State) : Host.Outcome State Fault Refusal :=
  awakeNext s (dramWriteOp ag a bs s)

/-- DRAM_SCRUB (R509): the scrubber reads the next block; at the end of the stack a pass completes. (DEDUCED, log 55) -/
def dramScrubOp (newBad : List Nat) (s : State) : State :=
  if !s.flag R.DMC_CTRL 0 || s.dramStopped then s
  else
    let s := { s with dram.bad := s.dram.bad ++ newBad.filter (fun b => !s.dram.bad.contains b) }
    let b := s.dram.scrubBlk
    let w : Who := ⟨0xFF, 3, 1⟩
    let s := s.dramTraffic w false (b * 64) 64
    let s := if s.dram.bad.contains b then s.badBlock w b true else s
    let nxt := if (b + 1) * 64 = dramEnd then 0 else b + 1
    let s := { s with dram.scrubBlk := nxt }
    let s := s.setReg R.DMC_SCRUB_POS (BitVec.ofNat 32 (nxt / 4))
    if nxt = 0 then s.bump R.SCRUB_PASS_CNT else s

def execDramScrub (newBad : List Nat) (s : State) : Host.Outcome State Fault Refusal := awakeNext s (dramScrubOp newBad s)

/-- The thermal state after a sample of `t` (Q13.3, signed) in state `st` (R510). -/
def dieNext (st : Nat) (t : Int) : Nat :=
  if st = 3 then 3
  else if 105 * 8 < t then 3
  else if 95 * 8 < t then 2
  else if st = 2 ∧ 93 * 8 < t then 2
  else if 85 * 8 < t then 1
  else if 1 ≤ st ∧ 83 * 8 < t then 1
  else 0

/-- DIE_TEMP_SAMPLE (R510, R511): entering STOP stops all DRAM accesses and is the cause DRAM_STOP. -/
def dieTempOp (d : Nat) (temp : BitVec 16) (s : State) : State :=
  let old := s.fld (R.DMC_TEMP d) 17 16
  let st := dieNext old (sext 16 temp.toNat)
  let s := s.setReg (R.DMC_TEMP d) (BitVec.ofNat 32 (65536 * st + temp.toNat))
  let s := s.setFld R.DMC_STATUS (2 * d + 1) (2 * d) st
  if st = 3 ∧ old ≠ 3 then
    ((s.setFlag R.DMC_STATUS 8 true).report 0xFF St.internal 0).cause Cause.dramStop 0xFF 0 0
  else s

def execDieTempSample (d : Fin 4) (temp : BitVec 16) (s : State) : Host.Outcome State Fault Refusal :=
  awakeNext s (dieTempOp d temp s)

/-- FLIT_CRC_FAIL (R502): each replay is counted; after 3 replays that fail the agent's link goes out of service. (DESIGN CHOICE, log 56) -/
def flitOp (ag : Agent) (replays : Nat) (dead : Bool) (s : State) : State :=
  let s := s.bumpN R.DMC_FLIT_REPLAY_CNT (if dead then 3 else min (max replays 1) 3)
  if dead then
    let s := { s with dram.linksDown := s.dram.linksDown.filter (· != agentId ag) ++ [agentId ag] }
    (s.report (agentId ag) St.busError (s.partOf ag)).cause Cause.linkDown (agentId ag) (s.partOf ag) 0
  else s

def execFlitCrcFail (ag : Agent) (replays : Nat) (dead : Bool) (s : State) : Host.Outcome State Fault Refusal :=
  awakeNext s (flitOp ag replays dead s)

/-- DMC_SHARE_WRITE (R494): ignored with SHARE_REJECT when GUAR or CAP break their bounds; RO after the lock. -/
def dmcShareOp (ag : Agent) (p : Nat) (v : Word) (s : State) : State :=
  if !isFull ag then s.refuseSys ag
  else if s.locked then s
  else
    let guar := bits v 6 0
    let cap := bits v 14 8
    let others := ((List.range 4).filter (· != p)).map (fun q => s.fld (R.DMC_SHARE q) 6 0)
    if 64 < guar ∨ 64 < cap ∨ 64 < guar + others.sum ∨ cap = 0 ∨ cap < guar then s.setFlag R.DMC_STATUS 11 true
    else s.setReg (R.DMC_SHARE p) (BitVec.ofNat 32 (256 * cap + guar))

def execDmcShareWrite (ag : Agent) (p : Fin 4) (v : Word) (s : State) : Host.Outcome State Fault Refusal :=
  awakeNext s (dmcShareOp ag p v s)

/-- Whether the ranges of entry `e` may be validated (R506): inside DRAM, disjoint from each other and from every valid
entry's ranges, copy on another die. -/
def State.pantryOk (s : State) (e : Nat) : Bool :=
  let n := s.pantryLen e
  let p := s.pantryPri e
  let c := s.pantryCopy e
  let ends := dramEnd / 64
  let apart (a m b k : Nat) : Bool := decide (a + m ≤ b) || decide (b + k ≤ a)
  let d : Int := (c : Int) * 64 - (p : Int) * 64
  decide (p + n ≤ ends) && decide (c + n ≤ ends) && apart p n c n
    && ((List.range 32).all (fun f => f == e || !s.pantryValid f ||
        (apart p n (s.pantryPri f) (s.pantryLen f) && apart p n (s.pantryCopy f) (s.pantryLen f)
          && apart c n (s.pantryPri f) (s.pantryLen f) && apart c n (s.pantryCopy f) (s.pantryLen f))))
    && decide (d % 2048 = 0) && decide (d / 2048 % 4 ≠ 0)

/-- A write of DMC_PANTRY_CFG_e (R506, R513): VALID = 1 validates or sets PANTRY_REJECT; while VALID, PART and SECTION ignore
writes; after the lock only the island changes an entry of P0 or P1. (DEDUCED, log 57) -/
def pantryCfgOp (ag : Agent) (e : Nat) (v : Word) (s : State) : State :=
  let r := R.DMC_PANTRY_CFG e
  if !isFull ag then s.refuseSys ag
  else if s.locked && ag != .safety && decide (s.fld r 29 28 ≤ 1 ∨ (bits v 29 28 ≤ 1 ∧ bit v 31)) then s.refuseSys ag
  else
    let was := s.flag r 31
    let s := s.setFlag r 30 (bit v 30)
    let s := if was then s else (s.setFld r 29 28 (bits v 29 28)).setFld r 15 0 (bits v 15 0)
    if !bit v 31 then s.setFlag r 31 false
    else if was then s
    else if s.pantryOk e && decide (1 ≤ s.pantryLen e) then s.setFlag r 31 true
    else s.setFlag R.DMC_STATUS 10 true

def execPantryEntryWrite (ag : Agent) (e : Fin 32) (v : Word) (s : State) : Host.Outcome State Fault Refusal :=
  awakeNext s (pantryCfgOp ag e v s)

/-- The three registers of a firewall region and their writable bits. -/
def fwReg (r w : Nat) : Nat := if w = 0 then R.DMC_FW_BASE r else if w = 1 then R.DMC_FW_LIMIT r else R.DMC_FW_CFG r
def fwMask (w : Nat) : Word := if w = 2 then 0xB0FF000F else 0x7FFFF

/-- A firewall region write (R500, R513): only the SMC and the island; RO after the lock. (DEDUCED, log 57) -/
def firewallOp (ag : Agent) (r w : Nat) (v : Word) (s : State) : State :=
  if !isFull ag then s.refuseSys ag
  else if s.locked then s
  else s.setReg (fwReg r w) (v &&& fwMask w)

def execFirewallRegionWrite (ag : Agent) (r : Fin 64) (w : Fin 3) (v : Word) (s : State) : Host.Outcome State Fault Refusal :=
  awakeNext s (firewallOp ag r w v s)

/-- The DRAM controller's counters (R512). -/
def dmcCounters : List Nat :=
  [R.CRC_ERR_CNT, R.RESTORE_CNT, R.PANTRY_LOST_CNT, R.SCRUB_ERR_CNT, R.FW_FAULT_CNT, R.DMC_FLIT_REPLAY_CNT, R.SCRUB_PASS_CNT]

/-- DMC_CTRL.CLEAR_COUNTS (R512, R513). -/
def dmcClearOp (ag : Agent) (s : State) : State := if isFull ag then s.zeroRegs dmcCounters else s.refuseSys ag

def execDmcClearCounts (ag : Agent) (s : State) : Host.Outcome State Fault Refusal := awakeNext s (dmcClearOp ag s)

/-- DMC_SCRUB_CFG (R513): a PASS_S outside 60 to 3,600 is ignored. -/
def dmcScrubCfgOp (ag : Agent) (v : Word) (s : State) : State :=
  if !isFull ag then s.refuseSys ag
  else if 60 ≤ bits v 15 0 ∧ bits v 15 0 ≤ 3600 then s.setReg R.DMC_SCRUB_CFG (v &&& 0xFFFF) else s

def execDmcScrubCfgWrite (ag : Agent) (v : Word) (s : State) : Host.Outcome State Fault Refusal := awakeNext s (dmcScrubCfgOp ag v s)

end Sys2Proof.Machine
end

