-- ==== Sys2Proof/Machine/Emit.lean ====
section
/-! DEFINITION. EMIT nodes and waiting result records (04_frame_graphs.md R178 to R180; 18_boot_security_pcie.md R622 to R625). -/

namespace Sys2Proof.Machine

/-- Arguments of an EMIT node (R178). -/
def emitKind (a : List Word) : Nat := bits (wd a 0) 15 8
def emitQueue (a : List Word) : Nat := bits (wd a 0) 7 0
def emitHandle (a : List Word) : Nat := bits (wd a 1) 15 0
def emitMax (a : List Word) : Nat := (wd a 2).toNat

/-- The status of the first unusable required input in edge-table order (R179). (DEDUCED, log 35) -/
def unusableInput (g : Graph) (j : Job) (n : Nat) : Option Nat :=
  ((g.ins n).find? (fun e => e.required && (j.node e.src).bad)).map (fun e => (j.node e.src).status)

/-- The payload of an EMIT node (R179): the status and the bytes. The descriptor is pinned until the node commits (R392). (DEDUCED, log 35) -/
def State.emitPayload (s : State) (i : Nat) (a : List Word) : State × Nat × List Byte :=
  let p := (s.task i).part
  let h := emitHandle a
  if !s.descIs p h (fun d => d.layout == 0) then (s, St.descInvalid, [])
  else if s.foreign p h false then (s, St.partitionFault, [])
  else
    let s := s.startTask i [] [h] [] 0
    if !s.descIs p h (fun d => decide (d.bytes ≤ emitMax a)) then (s, St.rangeFault, [])
    else
    let (s, st, r) := s.readTensors emitUnit i [h] (s.readBudget i)
    let bs := (r.getD 0 []).flatten
    let n := match s.desc? p h with | some d => d.bytes | none => 0
    if st ≠ St.done then (s, exhausted st, [])
    else if bs.length = n then (s, st, bs)
    else
      -- rows that a slot ring does not hold yet
      let (q, s) := s.draw
      (s, st, bs ++ (List.range (n - bs.length)).map (Config.freeByte q))

/-- The payload of the EMIT node whose task is `i` lies in banks that a fill takes (R411, R425). (DEDUCED, log 45) -/
def State.emitWaits (s : State) (i : Nat) : Bool :=
  match (s.task i).owner with
  | .node jid n =>
    match s.job? jid with
    | none => false
    | some j => match s.graph? j.graph with
      | none => false
      | some g => s.descWaits g.part (emitHandle (g.node n).args)
  | _ => false

/-- No record may leave for the queue now: it has no room, others wait for it, or the safe state withholds results (R543). -/
def State.emitHeld (s : State) (q n : Nat) : Bool := s.rqFull q n || s.pci.waiting.any (·.queue == q) || s.isSafe

/-- The node of a result record ends (R46, R180); the DETAIL of its record, which no rule states, is a free value. -/
def State.emitEnd (s : State) (i status cnt : Nat) : State :=
  let (q, s) := s.draw
  let t := s.task i
  s.finishTask i ⟨status, emitUnit, Kind.node, (Config.freeWord q).toNat % 65536, cnt, t.marks,
    recFlags false (s.anyLegacy t.part t.pinned) false false false, false, true⟩

/-- A record whose time is over is discarded (R180). -/
def State.emitDiscard (s : State) (i q : Nat) : State := ((s.dropResult q).bump R.FGS_EMIT_DROP_CNT).emitEnd i St.deadlineMissed 0

/-- The close offset of the node, or JOB_TIMEOUT_US when it has no window, has passed (R180). -/
def State.emitOver (s : State) (g : Graph) (j : Job) (n : Nat) : Bool :=
  if (g.node n).wdClose ≠ 0 then s.pastClose (g.node n) j else decide (j.trig.time + 1000 * g.timeoutUs ≤ s.now)

/-- EMIT_DELIVER (R178 to R180, R381, R621, R623, R624): the record is created, and written, held or discarded; HANDLE 0xFFFF names no
payload; with the link down the write is a bus error. (DEDUCED, log 35) -/
def State.emit (s : State) (i : Nat) : State :=
  match (s.task i).owner with
  | .node jid n =>
    match s.job? jid with
    | none => s
    | some j =>
      match s.graph? j.graph with
      | none => s
      | some g =>
        let nd := g.node n
        let f := nodeFrame g j n
        let inM := bits (wd (s.task i).args 3) 15 0
        let late := (j.node n).late || s.pastClose nd j
        let good := if late then St.deadlineMissed else doneWith inM
        let (s, st, pay, own) :=
          if hasMark inM Mark.untrusted then (s, St.untrusted, none, St.done)
          else match unusableInput g j n with
            | some x => (s, x, none, St.done)
            | none =>
              if emitHandle nd.args = 0xFFFF then (s, good, none, St.done)
              else
              let (s, r, bs) := s.emitPayload i nd.args
              if r = St.done then (s, good, some bs, St.done) else (s, r, none, r)
        let q := emitQueue nd.args
        let bytes := pay.getD []
        let w0 := BitVec.ofNat 32 (st % 256 * 2 ^ 24 + 2 ^ 16 * emitKind nd.args + 256 * q + g.part % 4 * 64 + b2n pay.isSome)
        let (s, ws) := s.newResult q w0 nd.userTag f.tag (65536 * inM + g.id % 256 * 256 + n % 128) bytes.length f.fsTime
        let e : WaitEmit := ⟨q, ws, bytes, some (jid, n), own⟩
        if s.emitHeld q bytes.length then
          if s.emitOver g j n then s.emitDiscard i q else { s with pci.waiting := s.pci.waiting ++ [e] }
        else if !s.linkUp then (s.dropResult q).emitEnd i St.busError 0
        else (s.writeResult e).emitEnd i own bytes.length
  | _ => s

/-- The task of a waiting record's node. (DEDUCED, log 35) -/
def State.emitTask (s : State) (e : WaitEmit) : Option Nat :=
  e.node.bind (fun x => (s.job? x.1).bind (fun j => (j.node x.2).task))

/-- The time of a waiting record's node is over (R180). -/
def State.emitLate (s : State) (e : WaitEmit) : Bool :=
  match e.node with
  | none => false
  | some (jid, n) => match s.job? jid with
    | none => false
    | some j => match s.graph? j.graph with
      | none => false
      | some g => s.emitOver g j n

/-- A waiting record whose node's time is over is discarded (R180). -/
def State.emitDrop (s : State) (e : WaitEmit) : State :=
  match s.emitTask e with
  | some i => State.emitDiscard { s with pci.waiting := s.pci.waiting.erase e } i e.queue
  | none => { s with pci.waiting := s.pci.waiting.erase e }

/-- Records that wait for queue `q` are written while there is room, but not when their time was over before (R180); with the link down a
write is a bus error (R621). -/
def State.emitResume (s : State) (q : Nat) : Nat → State
  | 0 => s
  | fuel + 1 =>
    match s.pci.waiting.find? (·.queue == q) with
    | none => s
    | some e =>
      if s.emitLate e then State.emitResume (s.emitDrop e) q fuel
      else if s.rqFull q e.payload.length || s.isSafe then s
      else
        let i := s.emitTask e
        let up := s.linkUp
        let t : State := { s with pci := { s.pci with waiting := s.pci.waiting.erase e } }
        let t := if up then t.writeResult e else t.dropResult q
        let st := if up then e.status else St.busError
        let n := if up then e.payload.length else 0
        State.emitResume (match i with | some i => t.emitEnd i st n | none => t) q fuel

/-- Records whose node's time is over are discarded (R180). (DEDUCED, log 35) -/
def State.emitExpire (s : State) : State :=
  (s.pci.waiting).foldl (fun s e => if s.emitLate e then s.emitDrop e else s) s

end Sys2Proof.Machine
end

