-- ==== Sys2Proof/Machine/Fgs.lean ====
section
/-! DEFINITION. The commands of the frame-graph sequencer (04_frame_graphs.md R148 to R195). -/

namespace Sys2Proof.Machine

/-! ### Graph images (R149 to R153) -/

/-- The header's words, by name. -/
def ghNodes (h : List Word) : Nat := bits (wd h 0) 15 8
def ghStreams (h : List Word) : Nat := bits (wd h 0) 7 0
def ghEdges (h : List Word) : Nat := bits (wd h 1) 24 16
def ghRings (h : List Word) : Nat := bits (wd h 1) 5 0
def ghPart (h : List Word) : Nat := bits (wd h 2) 31 30
def ghTrig (h : List Word) : Nat := bits (wd h 2) 23 20
def ghTrigArg (h : List Word) : Nat := bits (wd h 2) 15 0
def ghBytes (h : List Word) : Nat := (wd h 9).toNat

/-- `n` words of an image from byte `o` on. -/
def imgWords (img : List Byte) (o n : Nat) : List Word := let l := img.drop o; (List.range n).map (wordAt l)

/-- A node entry (R150). -/
def nodeOf (w : List Word) : NodeDesc :=
  ⟨bits (wd w 0) 31 28, bits (wd w 0) 27 24, bits (wd w 0) 23 18, bit (wd w 0) 16, bits (wd w 0) 15 8, bits (wd w 1) 31 16, bits (wd w 1) 15 0,
   addrOf w 2, bits (wd w 4) 15 0, wd w 5, (w.drop 6).take 9⟩

/-- An edge (R152). -/
def edgeOf (w : Word) : EdgeDesc := ⟨bits w 31 25, bits w 24 18, bits w 17 16, bits w 15 11, bits w 10 6⟩

/-- A ring table entry (R153). -/
def ringEntry (w : List Word) : RingDesc :=
  ⟨bits (wd w 0) 31 28, bits (wd w 0) 23 0, bits (wd w 1) 30 24, bits (wd w 1) 22 16, bits (wd w 1) 15 0⟩

/-- The graph of an image, with the words of its tables. -/
structure Parsed where
  graph : Graph
  nodeWords : List (List Word)
  edgeWords : List Word
  streamWords : List Word
  ringWords : List (List Word)
deriving DecidableEq, Repr

def parseGraph (id addr : Nat) (h : List Word) (img : List Byte) : Parsed :=
  let nw := (List.range (ghNodes h)).map (fun k => imgWords img ((wd h 5).toNat + 64 * k) 16)
  let ew := imgWords img (wd h 6).toNat (ghEdges h)
  let sw := imgWords img (wd h 7).toNat (ghStreams h)
  let rw_ := (List.range (ghRings h)).map (fun k => imgWords img ((wd h 8).toNat + 16 * k) 4)
  ⟨⟨id, ghPart h, bits (wd h 2) 29 24, ghTrig h, ghTrigArg h, bits (wd h 2) 19 18 + 1, bit (wd h 2) 17, (wd h 3).toNat, wd h 4, addr,
     nw.map nodeOf, ew.map edgeOf, sw.map (fun w => ⟨bit w 31, bits w 25 16⟩), rw_.map ringEntry, [], [], false, [], [], none⟩, nw, ew, sw, rw_⟩

/-! ### The checks of R154 -/

/-- Whether INSTANCE suits the node's kind (R151). -/
def NodeDesc.instOk (nd : NodeDesc) : Bool :=
  match nd.kind with
  | 0 => nd.inst == 15
  | 1 => decide (nd.inst ≤ 1) || nd.inst == 15
  | 2 => decide (nd.inst ≤ 1) || nd.inst == 15
  | 3 => decide (nd.inst ≤ 1) || nd.inst == 15
  | 6 => decide (nd.inst ≤ 9) || nd.inst == 15
  | 7 => decide (nd.inst ≤ 7) || nd.inst == 15
  | _ => nd.inst == 0

/-- The entries a JOIN's arguments select. -/
def NodeDesc.joins (nd : NodeDesc) (e : Nat) : Bool := nd.kind == NK.join && decide (e < 64) && bit (wd nd.args (1 + e / 32)) (e % 32)

/-- The side a neural node runs on: west, east, or neither alone. -/
def NodeDesc.side (nd : NodeDesc) : Nat :=
  if nd.kind ≠ NK.nc then 0 else if nd.inst ≤ 3 ∨ nd.inst = 8 then 1 else if nd.inst ≤ 7 ∨ nd.inst = 9 then 2 else 0

/-- A graph image with wrong header fields or counts (R148, R149). (DEDUCED, log 31) -/
def badHeader (h : List Word) : Bool :=
  bits (wd h 0) 31 24 != 1 || bits (wd h 0) 23 16 != 0 || bits (wd h 1) 31 25 != 0 || bits (wd h 1) 15 6 != 0 || bit (wd h 2) 16
    || (List.range 5).any (fun k => wd h (10 + k) != 0) || decide (4 < ghTrig h)
    || (ghTrig h == 4 && ghTrigArg h / 16 % 4 == 0)
    || decide ((wd h 3).toNat < 100 ∨ 10000000 < (wd h 3).toNat)
    || decide (ghNodes h < 1 ∨ 128 < ghNodes h ∨ 64 < ghStreams h ∨ 256 < ghEdges h ∨ 32 < ghRings h)
    || ghBytes h % 64 != 0
    || decide (ghBytes h < (wd h 5).toNat + 64 * ghNodes h) || decide (ghBytes h < (wd h 6).toNat + 4 * ghEdges h)
    || decide (ghBytes h < (wd h 7).toNat + 4 * ghStreams h) || decide (ghBytes h < (wd h 8).toNat + 16 * ghRings h)

/-- The frames of a node's stream entry reach it (R154): a JOIN covers it, or it is the only trigger of the graph. -/
def Graph.covered (g : Graph) (n : Nat) : Bool :=
  let x := (g.node n).streamIdx
  decide (0xFE ≤ x)
    || (decide (g.trigKind ≤ 1) && ((g.streams.zipIdx).filter (·.1.trigger)).map (·.2) == [x])
    || (g.ancestors n g.nodes.length).any (fun m => (g.node m).joins x)

/-- Node `n` breaks a rule of the first row (R154; the arguments of R178, R358 and R522). (DEDUCED, log 31) -/
def State.badNode (s : State) (p : Parsed) (n : Nat) : Bool :=
  let g := p.graph
  let w := p.nodeWords.getD n []
  let nd := g.node n
  let x := nd.streamIdx
  let ins := (g.ins n).filter (·.required)
  bit (wd w 0) 17 || bits (wd w 0) 7 0 != 0 || decide (11 < nd.kind) || !nd.instOk
    || bits (wd w 3) 31 8 != 0 || bits (wd w 4) 31 16 != 0 || wd w 15 != 0 || nd.paramLen % 64 != 0 || decide (4096 < nd.paramLen)
    || (nd.wdClose != 0 && decide (nd.wdClose ≤ nd.wdOpen)) || (g.part == 0 && nd.wdClose == 0) || (nd.safeState && g.part != 0)
    || (x == 0xFF && decide (1 < g.trigKind)) || (decide (x < 0xFE) && decide (g.streams.length ≤ x))
    || (nd.kind == NK.join && ((List.range 64).any (fun e => nd.joins e && decide (g.streams.length ≤ e)) || bits (wd nd.args 0) 15 0 == 0
        || (nd.wdClose != 0 && decide (nd.wdClose * 10 ≤ bits (wd nd.args 0) 15 0))))
    || (nd.kind == NK.emit && (bits (wd nd.args 0) 31 16 != 0 || bits (wd nd.args 1) 31 16 != 0 || emitKind nd.args == 0xFF
        || decide (1048576 < emitMax nd.args)))
    || (nd.kind == NK.taster && !(ins.length == 2 && (ins.filter (fun e => (g.node e.src).side == 1)).length == 1
        && (ins.filter (fun e => (g.node e.src).side == 2)).length == 1 && tolOk (wd nd.args 0) && tolOk (wd nd.args 1)
        && bits (wd nd.args 3) 31 4 == 0 && (List.range 5).all (fun k => wd nd.args (4 + k) == 0)))
    || (nd.kind == NK.nc && (bits (wd nd.args 1) 31 8 != 0 || decide ((wd nd.args 2).toNat < 1 ∨ 1000000 < (wd nd.args 2).toNat)
        || (List.range 6).any (fun k => wd nd.args (3 + k) != 0)))
    || (nd.kind == NK.host && (if nd.inst ≤ 7 then s.homeOf nd.inst != g.part else (List.range 8).all (fun c => s.homeOf c != g.part)))
    || decide (30 < (g.ins n).length)
    || ((g.ins n).zipIdx).any (fun a => ((g.ins n).zipIdx).any (fun b => a.2 != b.2 && a.1.flag == b.1.flag))
    || (g.ancestors n g.nodes.length).contains n || !g.covered n

/-- An edge, stream or ring entry breaks a rule of the first row. (DEDUCED, log 31) -/
def badTables (p : Parsed) : Bool :=
  let g := p.graph
  p.edgeWords.any (fun w => bits w 5 0 != 0)
    || g.edges.any (fun e => decide (g.nodes.length ≤ e.src ∨ g.nodes.length ≤ e.dst) || e.typ == 3 || decide (29 < e.flag)
      || (if e.typ = Edge.ring then decide (g.rings.length ≤ e.ring) else e.ring != 0) || (e.typ == Edge.cross && g.maxJobs == 1))
    || p.streamWords.any (fun w => bits w 30 26 != 0 || bits w 15 0 != 0)
    || (g.streams.zipIdx).any (fun a => (g.streams.zipIdx).any (fun b => a.2 != b.2 && a.1.stream == b.1.stream))
    || p.ringWords.any (fun w => bits (wd w 0) 27 24 != 0 || bit (wd w 1) 31 || bit (wd w 1) 23 || wd w 2 != 0 || wd w 3 != 0)
    || g.rings.any (fun r => (r.memory != 0 && decide (r.memory < 8)) || decide (r.slots < 2 ∨ 64 < r.slots ∨ r.slotKib < 1 ∨ 64 < r.slotKib)
      || r.timeoutUs == 0)
    || (List.range g.rings.length).any (fun r => (g.edges.filter (fun e => e.typ == Edge.ring && e.ring == r)).length != 1)

/-- The graph closes a cycle of GRAPH_DONE triggers among the resident graphs. -/
def State.doneCycle (s : State) (g : Graph) : Bool := go 257 g
where
  go : Nat → Graph → Bool
    | 0, _ => false
    | fuel + 1, x =>
      if x.trigKind ≠ 3 then false
      else if x.trigArg % 256 = g.id then true
      else match s.graph? (x.trigArg % 256) with
        | some y => go fuel y
        | none => false

/-- The neural segment a node names (R358). -/
def NodeDesc.segLo (nd : NodeDesc) : Nat := (wd nd.args 0).toNat

/-- The rows of R154 after the address, in table order: the status and the node concerned. (DEDUCED, log 31) -/
def State.loadCheck (s : State) (ag : Agent) (p : Parsed) (h : List Word) (img : List Byte) : Nat × Nat :=
  let g := p.graph
  let nodes := List.range g.nodes.length
  let who := whoPart 0x38 g.part
  let firstNode (f : Nat → Bool) : Option Nat := nodes.find? f
  let area (nd : NodeDesc) : Nat := g.maxJobs * nd.paramLen
  if crc32c (img.take 60 ++ img.drop 64) ≠ wd h 15 ∨ badHeader h ∨ badTables p then (St.descInvalid, 0xFF)
  else match firstNode (s.badNode p) with
  | some n => (St.descInvalid, n)
  | none =>
    if s.doneCycle g then (St.descInvalid, 0xFF)
    else if (List.range 4).any (fun k => (wd h (5 + k)).toNat % 64 != 0) || g.rings.any (fun r => r.offset % 64 != 0) then (St.alignFault, 0xFF)
    else match firstNode (fun n => let nd := g.node n; nd.param % 64 != 0 || (nd.kind == NK.nc && nd.segLo % 64 != 0)) with
    | some n => (St.alignFault, n)
    | none =>
      match firstNode (fun n => let nd := g.node n; decide (dramEnd < nd.param + area nd)) with
      | some n => (St.rangeFault, n)
      | none =>
        if g.rings.any (fun r => decide (spmSize r.mem < r.offset + r.size)) then (St.rangeFault, 0xFF)
        else if g.streams.any (fun r => s.streamOwner (s.stream r.stream) != g.part)
            || g.rings.any (fun r => (granulesIn r.mem r.offset r.size).any (fun k => s.granuleOwner r.mem k != g.part || s.inFill r.mem k)) then
          (St.partitionFault, 0xFF)
        else match firstNode (fun n => let nd := g.node n; (s.dramCheck who false nd.param (area nd)).isSome) with
        | some n => (St.partitionFault, n)
        | none =>
          if s.locked && g.part != 2 && ag != .safety then (St.partitionFault, 0xFF)
          else if (s.graph? g.id).isSome || decide (1024 < s.fgs.rings.length + g.rings.length)
              || decide (4096 < s.tdu.regions.length + g.rings.length) then (St.busy, 0xFF)
          else (St.done, 0xFF)

/-- The result of a graph command (R194). (DEDUCED, log 31) -/
def State.graphStatus (s : State) (st node : Nat) : State :=
  s.setReg R.FGS_GRAPH_STATUS (BitVec.ofNat 32 (2 ^ 24 * st + node % 256 * 65536))

def SlotRing.fresh (g i slots : Nat) : SlotRing :=
  ⟨g, i, none, 0, List.replicate slots ⟨.free, 0, 0, false⟩, 0, 0, none, none, [], [], false, false⟩

/-- The regions of the rings of a graph, made one after the other. (DEDUCED, log 31) -/
def State.installRings (s : State) (g : Graph) : State × List Nat :=
  g.rings.foldl (fun (a : State × List Nat) r =>
    match a.1.makeRegion ⟨RK.ring, r.offset, r.size, g.part, 0, true, some r.mem⟩ with
    | some (s, id) => (s, a.2 ++ [id])
    | none => a) (s, [])

/-- A graph that was admitted becomes resident. -/
def State.installDone (s : State) (g : Graph) : State :=
  State.ncShow { s with fgs.graphs := s.fgs.graphs ++ [g],
                        fgs.rings := s.fgs.rings ++ (g.rings.zipIdx).map (fun e => SlotRing.fresh g.id e.2 e.1.slots) }

/-- A graph made resident (R154, R185, R379): its rings' regions, its segments, its rings. `place` are the places admission chooses. -/
def State.install (s : State) (ag : Agent) (g : Graph) (place : List Nat) : State × Nat × Nat :=
  let (s, ids) := s.installRings g
  let g := { g with ringRegions := ids }
  match s.admitGraph ag g place with
  | (s, .inr (e, n)) => (ids.foldl State.dropRegion s, e.status, n)
  | (s, .inl segs) => (s.installDone { g with segs := segs }, St.done, 0xFF)

/-- The image of a graph read, checked and installed: `h` is its header. -/
def State.loadImage (s : State) (ag : Agent) (gid addr : Nat) (place : List Nat) (h : List Word) : State × Nat × Nat :=
  let (s, st, img) := s.readAgain (whoPart 0x38 (ghPart h)) addr (ghBytes h) 2
  if st ≠ St.done then (s, exhausted st, 0xFF)
  else
    let p := parseGraph gid addr h img
    let (st, n) := s.loadCheck ag p h img
    if st ≠ St.done then (s, st, n) else s.install ag p.graph place

/-- The header of a graph read: its image must end inside DRAM. -/
def State.loadHeader (s : State) (ag : Agent) (gid addr : Nat) (place : List Nat) : State × Nat × Nat :=
  let (s, st, hb) := s.readAgain ⟨0x38, 3, 1⟩ addr 64 2
  if st ≠ St.done then (s, exhausted st, 0xFF)
  else
    let h := (List.range 16).map (wordAt hb)
    if dramEnd < addr + ghBytes h then (s, St.rangeFault, 0xFF) else s.loadImage ag gid addr place h

/-- A load of the image at `addr` as graph `gid` (R154 to R157): the state, the status and the node concerned. -/
def State.loadGraph (s : State) (ag : Agent) (gid addr : Nat) (place : List Nat) : State × Nat × Nat :=
  if addr % 64 ≠ 0 then (s, St.alignFault, 0xFF)
  else if dramEnd < addr + 64 then (s, St.rangeFault, 0xFF)
  else s.loadHeader ag gid addr place

/-- The address staged for a load. -/
def State.graphAddr (s : State) : Nat := (s.reg R.FGS_GRAPH_ADDR_LO).toNat + 2 ^ 32 * s.fld R.FGS_GRAPH_ADDR_HI 7 0

/-- A command of FGS_GRAPH_CMD on graph `gid` that takes at most `bound` ns: ignored while another is in progress (R195); `f` answers STATUS and
the node. (DESIGN CHOICE, log 85) -/
def State.graphDo (s : State) (gid bound : Nat) (f : State → State × Nat × Nat) : State :=
  if s.cmdBusy R.FGS_GRAPH_STATUS then s
  else
    let r := f (s.setFld R.FGS_GRAPH_CMD 7 0 gid)
    (r.1.graphStatus r.2.1 r.2.2).cmdBegin R.FGS_GRAPH_STATUS bound

/-- LOAD (R154). -/
def graphLoadOp (ag : Agent) (gid : Nat) (place : List Nat) (s : State) : State :=
  s.graphDo gid 2000000 (fun s => s.loadGraph ag gid s.graphAddr place)

def execGraphLoad (ag : Agent) (g : Fin 256) (place : List Nat) (s : State) : Host.Outcome State Fault Refusal :=
  awakeNext s (graphLoadOp ag g place s)

/-- Whether R155 refuses a command on a resident graph. -/
def State.graphRefused (s : State) (ag : Agent) (g : Graph) : Bool := s.locked && g.part != 2 && ag != .safety

/-- A resident graph leaves (R156, R357): its rings, its segments and every region made for it. -/
def State.removeGraph (s : State) (g : Graph) : State :=
  let s := s.unadmit g
  let s := g.ringRegions.foldl State.dropRegion s
  State.ncShow { s with fgs.graphs := s.fgs.graphs.filter (·.id != g.id), fgs.rings := s.fgs.rings.filter (·.graph != g.id) }

/-- UNLOAD (R155, R156). -/
def State.unloadGraph (s : State) (ag : Agent) (gid : Nat) : State × Nat :=
  match s.graph? gid with
  | none => (s, St.rangeFault)
  | some g =>
    if s.graphRefused ag g then (s, St.partitionFault)
    else if g.started || s.fgs.jobs.any (·.graph == gid) then (s, St.busy)
    else (s.removeGraph g, St.done)

def graphUnloadOp (ag : Agent) (gid : Nat) (s : State) : State :=
  s.graphDo gid 10000 (fun s => let r := s.unloadGraph ag gid; (r.1, r.2, 0xFF))

def execGraphUnload (ag : Agent) (g : Fin 256) (s : State) : Host.Outcome State Fault Refusal := awakeNext s (graphUnloadOp ag g s)

/-- START (R155, R156). -/
def State.startGraph (s : State) (ag : Agent) (gid : Nat) : State × Nat :=
  match s.graph? gid with
  | none => (s, St.rangeFault)
  | some g =>
    if s.graphRefused ag g then (s, St.partitionFault)
    else (s.modGraph gid (fun g => { g with started := true }), St.done)

def graphStartOp (ag : Agent) (gid : Nat) (s : State) : State :=
  s.graphDo gid 10000 (fun s => let r := s.startGraph ag gid; (r.1, r.2, 0xFF))

def execGraphStart (ag : Agent) (g : Fin 256) (s : State) : Host.Outcome State Fault Refusal := awakeNext s (graphStartOp ag g s)

/-- STOP (R85, R155, R156): pending triggers are discarded uncounted, and their frames' pending holds end. -/
def State.stopGraph (s : State) (ag : Agent) (gid : Nat) : State × Nat :=
  match s.graph? gid with
  | none => (s, St.rangeFault)
  | some g =>
    if s.graphRefused ag g then (s, St.partitionFault)
    else
      let s := s.modGraph gid (fun g => { g with started := false, pending := [] })
      (g.pending.foldl State.dropPend s, St.done)

def graphStopOp (ag : Agent) (gid : Nat) (s : State) : State :=
  s.graphDo gid 10000 (fun s => let r := s.stopGraph ag gid; (r.1, r.2, 0xFF))

def execGraphStop (ag : Agent) (g : Fin 256) (s : State) : Host.Outcome State Fault Refusal := awakeNext s (graphStopOp ag g s)

/-- A write of FGS_GRAPH_CMD (R195): exactly one command bit acts. -/
def graphCmdOp (ag : Agent) (v : Word) (s : State) : State :=
  let g := bits v 7 0
  match bits v 31 28 with
  | 8 => graphLoadOp ag g [] s
  | 4 => graphUnloadOp ag g s
  | 2 => graphStartOp ag g s
  | 1 => graphStopOp ag g s
  | 0 => s.setFld R.FGS_GRAPH_CMD 7 0 g
  | _ => s

/-- FGS_ENABLE (R194). (DEDUCED, log 32) -/
def fgsEnableOp (on : Bool) (s : State) : State := s.setFlag R.FGS_CTRL 0 on

def execFgsEnable (_ag : Agent) (on : Bool) (s : State) : Host.Outcome State Fault Refusal := awakeNext s (fgsEnableOp on s)

/-- FGS_CLEAR_COUNTS (R194). -/
def fgsClearOp (s : State) : State :=
  s.zeroRegs [R.FGS_TRIGGER_CNT, R.FGS_SUPERSEDED_CNT, R.FGS_JOBS_CNT, R.FGS_EMIT_DROP_CNT, R.FGS_WD_EARLY_CNT, R.FGS_WD_LATE_CNT,
    R.FGS_SLOT_FAULT_CNT, R.FGS_HELD_US]

def execFgsClearCounts (_ag : Agent) (s : State) : Host.Outcome State Fault Refusal := awakeNext s (fgsClearOp s)

/-! ### Frame jobs (R162 to R171) -/

/-- A node's task is still to be posted. -/
def NodeSt.unposted (x : NodeSt) : Bool := x.task.isSome && !x.posted && !x.committed

/-- The sequencer is held in POSTING by a full post queue (R190). -/
def State.fgsHeld (s : State) : Bool := s.postqFull && s.fgs.jobs.any (fun j => j.state == .posting && j.nodes.any (·.unposted))

/-- The conditions of R162. -/
def State.mayInstantiate (s : State) (g : Graph) (t : Trigger) : Bool :=
  let need := (g.nodes.filter (fun nd => nd.kind != NK.join)).length
  decide ((s.fgs.jobs.filter (·.graph == g.id)).length < g.maxJobs) && decide (s.fgs.jobs.length < 1024)
    && decide (need ≤ s.quotaLeft g.part) && decide (need ≤ 8192 - s.hts.fresh + s.hts.freed.length)
    && (match t.stream, t.slot with | some st, some k => decide (((s.stream st).slot k).hold < 15) | _, _ => true)

/-- The order of R163: partition, graph priority, stream priority (after every stream for a trigger without one), time, graph. (DEDUCED, log 32) -/
def State.trigKey (s : State) (g : Graph) (t : Trigger) : List Nat :=
  [g.part, g.prio, match t.stream with | some st => (s.stream st).priority | none => 64, t.time, g.id]

/-- Lexicographic order of keys. -/
def keyLt : List Nat → List Nat → Bool
  | a :: s, b :: t => decide (a < b) || (a == b && keyLt s t)
  | _, _ => false

/-- The pending trigger instantiated next (R163). -/
def State.nextTrigger (s : State) : Option (Graph × Trigger) :=
  (s.fgs.graphs.flatMap (fun g => (g.pending.filter (s.mayInstantiate g)).map (fun t => (g, t)))).foldl (fun b x => match b with
    | none => some x
    | some y => if keyLt (s.trigKey x.1 x.2) (s.trigKey y.1 y.2) then some x else some y) none

/-- The event mask of a node's task (R169). -/
def nodeMask (g : Graph) (n : Nat) : Word :=
  let ring := g.edges.any (fun e => e.typ == Edge.ring && (e.src == n || e.dst == n))
  (g.ins n).foldl (fun m e => m ||| BitVec.ofNat 32 (2 ^ e.flag)) (BitVec.ofNat 32 (2 ^ 31 + 2 ^ 30 * b2n ring))

/-- The task of a node (R151, R169, R202). -/
def nodeTask (g : Graph) (j n : Nat) : Task :=
  let nd := g.node n
  { Task.freeOf 1 with part := g.part, cls := nodeClass nd, inst := nd.inst, level := floorLevel g.part nd.prio,
                       mask := nodeMask g n, owner := .node j n }

/-- The image of a graph read at an instantiation (R157): its header and as many bytes as that gives. It may not have changed since the graph
was loaded; what an error that persists here does is not stated, and the job goes on with the graph as it was loaded. (DEDUCED, log 31) -/
def State.imageRead (s : State) (g : Graph) : State :=
  let n := ghBytes ((List.range 16).map (wordAt (s.dramBytes g.addr 64)))
  (s.readAgain (whoPart 0x38 g.part) g.addr (min n (dramEnd - g.addr)) 2).1

/-- JOB_INSTANTIATE (R157, R162 to R164, R167, R170, R190, R543). (DEDUCED, log 32) -/
def instantiateOp (s : State) : State :=
  if s.fgsHeld || s.isSafe then s
  else match s.nextTrigger with
    | none => s
    | some (g, t) =>
      let s := s.imageRead g
      let used := (s.fgs.jobs.filter (·.graph == g.id)).map (·.slot)
      let slot := ((List.range 4).find? (fun k => !used.contains k)).getD 0
      let jid := s.fgs.nextJob
      let t' := if g.dropped.contains t.entry then { t with marks := t.marks ||| Mark.droppedPrev } else t
      let s := match t.stream, t.slot with | some st, some k => s.holdSlot st k | _, _ => s
      let s := s.modGraph g.id (fun g =>
        { g with pending := g.pending.erase t, dropped := g.dropped.filter (· != t.entry),
                 last := some ⟨jid, slot, List.replicate g.nodes.length none, List.replicate g.nodes.length 0⟩ })
      let s := s.dropPend t
      let (s, ns) := (List.range g.nodes.length).foldl (fun (a : State × List NodeSt) n =>
        if (g.node n).kind = NK.join then (a.1, a.2 ++ [NodeSt.none])
        else
          let (s, i) := a.1.allocTask (nodeTask g jid n)
          (s, a.2 ++ [{ NodeSt.none with task := i }])) (s, [])
      let j : Job := ⟨jid, g.id, g.part, slot, .posting, t', ns, [], [], false, false, none, g.last⟩
      let s := { s with fgs.jobs := s.fgs.jobs ++ [j], fgs.nextJob := jid + 1 }
      (g.edges.filter (·.typ == Edge.cross)).foldl (fun s e =>
        if (match g.last with | none => true | some p => (p.status.getD e.src none).isSome) then
          s.nodeFlags j e.dst (BitVec.ofNat 32 (2 ^ e.flag))
        else s) s

def execJobInstantiate (s : State) : Host.Outcome State Fault Refusal := awakeNext s (instantiateOp s)

/-- Every JOIN of a job is evaluated (R176). -/
def State.joinsOfJob (s : State) (jid : Nat) : State :=
  match s.job? jid with
  | none => s
  | some j => match s.graph? j.graph with
    | none => s
    | some g => s.doTodo (((List.range g.nodes.length).filter (fun n => (g.node n).kind == NK.join && !(j.node n).committed)).map (Todo.join jid))

/-- JOB_TASK_POST (R164, R166, R169, R190): the first job in POSTING posts its next task; after the last it enters RUNNING. (DEDUCED, log 36) -/
def jobTaskPostOp (s : State) : State :=
  match s.fgs.jobs.find? (·.state == .posting) with
  | none => s
  | some j =>
    let next := (List.range j.nodes.length).find? (fun n => (j.node n).unposted)
    let held (n : Nat) : State := match (j.node n).task with
      | some i => s.crumb 6 j.part (s.task i).level (s.task i).cls 0x38 1 0
      | none => s
    if next.isSome && s.postqFull then held (next.getD 0)
    else
      let s := match next with
        | some n => match (j.node n).task with
          | some i => State.modNode (s.enqueue (s.taskPost i)) j.id n (fun x => { x with posted := true })
          | none => s
        | none => s
      let s := match s.job? j.id with
        | some (k : Job) =>
          if k.state == JobState.posting && k.nodes.all (fun (x : NodeSt) => !x.unposted) then
            let s := s.modJob j.id (fun k => { k with state := .running })
            (List.range k.nodes.length).foldl (fun (s : State) n => s.nodeFlags k n (BitVec.ofNat 32 (2 ^ 31))) s
          else s
        | none => s
      s.joinsOfJob j.id

def execJobTaskPost (s : State) : Host.Outcome State Fault Refusal := awakeNext s (jobTaskPostOp s)

/-- JOIN_WAIT_EXPIRY (R177): JOINs whose WAIT_US is over commit with what they have. -/
def joinExpiryOp (s : State) : State := s.fgs.jobs.foldl (fun s j => s.joinsOfJob j.id) s

def execJoinWaitExpiry (s : State) : Host.Outcome State Fault Refusal := awakeNext s (joinExpiryOp s)

/-- WATCHDOG_CLOSE (R180, R183): LATE is raised for every node whose window has closed without a commit, and EMIT nodes that wait past
their close are discarded. (DEDUCED, log 10) -/
def watchdogOp (s : State) : State :=
  let s := s.fgs.jobs.foldl (fun s j =>
    match s.graph? j.graph with
    | none => s
    | some g => (List.range g.nodes.length).foldl (fun s n => if s.pastClose (g.node n) j then s.raiseLate g j.id n else s) s) s
  s.emitExpire

def execWatchdogClose (s : State) : Host.Outcome State Fault Refusal := awakeNext s (watchdogOp s)

/-- A frame job is aborted (R55, R164): its unfinished nodes end; one that is ABORTING when its time is over carries DEADLINE_MISSED all the
same (R184). (DEDUCED, log 34) -/
def State.abortJob (s : State) (jid : Nat) (timedOut : Bool) : State :=
  match s.job? jid with
  | none => s
  | some j =>
    if j.state == .posting || j.state == .running then
      let cnt := (j.nodes.filter (fun n => n.committed && n.ran)).length
      let s := s.modJob jid (fun j => { j with state := .aborting, atAbort := some cnt, abortSeen := true, timedOut := timedOut })
      s.doTodo (((List.range j.nodes.length).filter (fun n => !(j.node n).committed)).map (Todo.abort jid))
    else if j.state == .aborting && timedOut then s.modJob jid (fun j => { j with timedOut := true })
    else s

/-- JOB_TIMEOUT (R180, R184). (DEDUCED, log 34) -/
def jobTimeoutOp (s : State) : State :=
  let s := s.emitExpire
  s.fgs.jobs.foldl (fun s j =>
    match s.graph? j.graph with
    | none => s
    | some g => if j.trig.time + 1000 * g.timeoutUs ≤ s.now then s.abortJob j.id true else s) s

def execJobTimeout (s : State) : Host.Outcome State Fault Refusal := awakeNext s (jobTimeoutOp s)

/-- FGS_ABORT accepted (R50 to R55, R155, R195): `v` is the word written, with GO = 1. (DEDUCED, log 34) -/
def fgsAbortGo (ag : Agent) (v : Word) (s : State) : State :=
  let gid := bits v 7 0
  let s := (s.setFld R.FGS_ABORT 7 0 gid).setFlag R.FGS_ABORT 8 (bit v 8)
  let reply (s : State) (r n : Nat) : State :=
    (s.setReg R.FGS_ABORT_STATUS (BitVec.ofNat 32 (2 ^ 24 * r + n % 8 * 256))).cmdBegin R.FGS_ABORT_STATUS
      (Config.cmdTime R.FGS_ABORT_STATUS s.now)
  let js := s.fgs.jobs.filter (fun j => j.graph == gid && (!bit v 8 || j.trig.tag == s.reg R.FGS_ABORT_TAG))
  let part := match s.graph? gid with | some g => g.part | none => 3
  if s.locked && decide (part ≤ 1) && ag != .safety then reply s St.partitionFault 0
  else if js.isEmpty then
    reply s (if s.fgs.ended.any (fun e => e.1 == gid && (!bit v 8 || e.2 == s.reg R.FGS_ABORT_TAG)) then St.abortLate else St.rangeFault) 0
  else
    let live := js.filter (fun j => j.state == .posting || j.state == .running)
    let open_ := js.any (fun j => j.state != .retiring)
    let held := (js.filter (fun j => j.state == .retiring)).map (·.id)
    let s := s.cqSeen part (fun r => match r.frees with | some j => held.contains j | none => false)
    let s := live.foldl (fun s j => s.abortJob j.id false) s
    reply s (if open_ then St.done else St.abortLate) live.length

/-- FGS_ABORT: ignored while an abort is in progress (R195). (DESIGN CHOICE, log 85) -/
def fgsAbortOp (ag : Agent) (v : Word) (s : State) : State := if s.cmdBusy R.FGS_ABORT_STATUS then s else fgsAbortGo ag v s

def execFgsAbort (ag : Agent) (v : Word) (s : State) : Host.Outcome State Fault Refusal := awakeNext s (fgsAbortOp ag v s)

/-- FGS_CQ_WRITE (R193, R195): BASE_LO (0), BASE_HI (1), SIZE (2) or HEAD (3) of the queue of partition `p`. -/
def fgsCqWriteOp (ag : Agent) (p k : Nat) (v : Word) (s : State) : State :=
  if !(ag == .smc || (!isFull ag && s.partOf ag == p)) then s.refuse ag p
  else
    let s := match k with
      | 0 => s.setReg (R.FGS_CQ_BASE_LO p) v
      | 1 => s.setFld (R.FGS_CQ_BASE_HI p) 7 0 (bits v 7 0)
      | 2 => s.setReg (R.FGS_CQ_SIZE p) v
      | _ => s.setReg (R.FGS_CQ_HEAD p) v
    (s.cqRetry p ((s.cqWaiting p).length)).fgsCqIrq p

def execFgsCqWrite (ag : Agent) (p : Fin 4) (k : Fin 4) (v : Word) (s : State) : Host.Outcome State Fault Refusal :=
  awakeNext s (fgsCqWriteOp ag p k v s)

/-! ### Slot rings (R185 to R189) -/

/-- RING_GRANT (R169, R185): a free ring goes to the next job in instantiation order; RESOURCE is set where all of a node's rings are
granted. -/
def ringGrantOp (g r : Nat) (s : State) : State :=
  match s.ring? g r, s.graph? g with
  | some x, some gr =>
    match gr.edges.find? (fun e => e.typ == Edge.ring && e.ring == r) with
    | none => s
    | some e =>
      let cand := s.fgs.jobs.filter (fun j => j.graph == g && decide (x.next ≤ j.id) && !((j.node e.src).committed && (j.node e.dst).committed))
      match x.owner, cand.head? with
      | none, some j =>
        let s := s.modRing g r (fun x => { x.released with owner := some j.id })
        let granted (n : Nat) : Bool := (gr.edges.filter (fun e => e.typ == Edge.ring && (e.src == n || e.dst == n))).all (fun e =>
          match s.ring? g e.ring with | some y => y.owner == some j.id | none => false)
        [e.src, e.dst].foldl (fun s n => if granted n then s.nodeFlags j n (BitVec.ofNat 32 (2 ^ 30)) else s) s
      | _, _ => s
  | _, _ => s

def execRingGrant (g : Fin 256) (r : Fin 32) (s : State) : Host.Outcome State Fault Refusal := awakeNext s (ringGrantOp g r s)

/-- Rows of a descriptor in a ring: its outermost dimension, or dimension 0 of one of rank 1 (R389). -/
def Desc.ringTotal (d : Desc) : Nat := d.size (d.rank - 1)

/-- Where the elements of rows `first` to `first + n − 1` stand among the rows in job order: offset and bytes of each run. -/
def Desc.ringSpans (d : Desc) (first n : Nat) : List (Nat × Nat) :=
  if d.rank ≤ 1 then [(first * d.ringRow, n * d.ringRow)]
  else (d.rows.filter (fun w => decide (first ≤ w.getLastD 0 ∧ w.getLastD 0 < first + n))).map (fun w => (d.ringOff w, d.run0))

/-- The producer's next rows `made` leave for the slot it fills, which is committed (R186, R235): as many whole rows as fit, LAST with the
last one, and whether they did: not while they have not been formed. Bytes between the elements of a row hold free values. (DEDUCED, log 36) -/
def State.ringSend (s : State) (gr : Graph) (x : SlotRing) (d : Desc) (made : List (Option Byte)) : State × Bool :=
  let (m, o, z) := gr.slotPlace x.idx x.prod
  let first := x.prod * d.slotRows z
  let n := min (d.slotRows z) (d.ringTotal - first)
  if n = 0 || !(d.ringSpans first n).all (fun e => (made.drop e.1).length ≥ e.2 && ((made.drop e.1).take e.2).all (·.isSome)) then (s, false)
  else
    let (q, s) := s.draw
    let bs := (List.range (n * d.ringRow)).map (fun b => (made.getD (first * d.ringRow + b) none).getD (Config.freeByte q b))
    let last := decide (d.ringTotal ≤ first + n)
    let s := (s.spmPut m o bs).modRing gr.id x.idx (fun x =>
      { x.put x.prod ⟨.full, (x.at_ x.prod).tag, bs.length, last⟩ with prod := x.prod + 1, inDone := last })
    (s.ringOpen gr.id x.idx, true)

/-- The pieces of a job that lie in a ring's region, formed from the rows of its ring input that are there (R235, R255). -/
def State.ringPieces (s : State) (i region : Nat) (o : EngOut) : List OutPiece :=
  let rows := s.ringRows i
  o.pieces.filter (fun e => decide (e.at_ ≤ o.whole) && s.descIs (s.task i).part (o.ops.getD e.op noHandle) (·.region == region)
    && (match rows with | some r => decide (e.need ≤ r) | none => true))

/-- The COUNT a job has come to when the pieces `l`, those of an output that a ring holds, stand for its rows below `rows`. -/
def EngOut.reached (o : EngOut) (l : List OutPiece) (rows : Nat) : Nat :=
  (o.counts.filter (fun c => l.all (fun e => decide (c < e.at_) || decide (e.outer.getLastD 0 < rows)))).foldl max 0

/-- A fixed pipeline commits the slot it fills; an error in what it reads that persists ends its job (R257). (DEDUCED, log 36) -/
def State.pipeSend (s : State) (gr : Graph) (x : SlotRing) (i id : Nat) (d : Desc) : State :=
  let (t, st, o) := s.engRun id i (s.readBudget i)
  if st ≠ St.done then t.failTask i (exhausted st)
  else
    let l := t.ringPieces i d.region o
    let made := l.foldl (fun m e => putOpt m (d.ringOff e.outer + e.first) e.bytes) []
    let r := t.ringSend gr x d made
    let z := (gr.slotPlace x.idx x.prod).2.2
    if !r.2 then s
    else
      r.1.modTask i (fun k => { k with progress := max k.progress (min o.whole (o.reached (o.pieces.filter (fun e =>
        s.descIs k.part (o.ops.getD e.op noHandle) (·.region == d.region))) ((x.prod + 1) * d.slotRows z))) })

/-- What a neural run has made for a ring: the rows of commands that have completed, and of the oldest one in flight that writes there. (DEDUCED, log 36) -/
def State.ncMade (s : State) (x : SlotRing) (i region : Nat) : List (Option Byte) :=
  match s.runOf i, s.segOfTask i with
  | some r, some seg =>
    match r.fly.find? (fun f => (s.ncCmd r seg f.idx).outputs.any (fun h => s.descIs seg.part h (·.region == region))) with
    | none => x.made
    | some f =>
      let k := s.ncCmd r seg f.idx
      if k.inputs.any (s.ringShort seg.part) then x.made
      else match (s.ncRun r.core seg.part k f.raced).s.ring? x.graph x.idx with
        | some y => y.made
        | none => x.made
  | _, _ => x.made

/-- RING_SLOT_COMMIT (R186, R187, R235): the producer commits its FILLING slot, when it has formed the rows that go there. (DEDUCED, log 36) -/
def ringCommitOp (g r : Nat) (s : State) : State :=
  match s.ringJob g r with
  | none => s
  | some (x, gr, j, e) =>
    match s.ringEnd gr r j e.src with
    | none => s
    | some (i, d) =>
      let id := (s.task i).worker.getD 0
      if x.inDone || (x.at_ x.prod).state != RSlotState.filling || s.creditWaits id || s.jobWaits i then s
      else if 0x20 ≤ id ∧ id ≤ 0x29 then s.pipeSend gr x i id d
      else if 0x10 ≤ id ∧ id ≤ 0x17 then (s.ringSend gr x d (s.ncMade x i d.region)).1
      else s

/-- RING_SLOT_COMMIT: the operands `_bs` and `_last` decide nothing, since the producer forms the slot (R235). (DEDUCED, log 36) -/
def execRingSlotCommit (g : Fin 256) (r : Fin 32) (_bs : List Byte) (_last : Bool) (s : State) : Host.Outcome State Fault Refusal :=
  awakeNext s (ringCommitOp g r s)

/-- The consumer on engine `id` needs nothing more of the slot it drains (R255): a warp job keeps the rows of a mesh or map until every band
that needs one of them can have been made. -/
def State.slotSpent (s : State) (x : SlotRing) (i : Nat) (d : Desc) : Bool :=
  let t := s.task i
  let w := t.params
  if t.cls ≠ 2 then true
  else match s.region? d.region with
    | none => true
    | some r =>
      let k := d.slotRows (x.slotSize r)
      let GY := gridOf (wpeStep w) (s.wpeSize t.part w).2
      (List.range (ceilDiv (s.wpeSize t.part w).2 16)).all (fun b =>
        decide ((x.cons + 1) * k ≤ 16 * b / 2 ^ wpeStep w) || (match s.ringRows i with | some n => decide (wpeNeed w GY b ≤ n) | none => true))

/-- RING_SLOT_RELEASE (R186, R255, R422, R429): the consumer has taken its DRAINING slot from memory and releases it. A parity error in what it
took ends it with RETRY_EXHAUSTED, since it has consumed ring input. (DEDUCED, log 36) -/
def ringReleaseOp (g r : Nat) (s : State) : State :=
  match s.ringJob g r with
  | none => s
  | some (x, gr, j, e) =>
    match s.ringEnd gr r j e.dst with
    | none => s
    | some (i, d) =>
      let sl := x.at_ x.cons
      let id := (s.task i).worker.getD 0x38
      if sl.state != .draining || s.creditWaits id || s.jobWaits i || !s.slotSpent x i d then s
      else
        let (m, o, _) := gr.slotPlace r x.cons
        let (s, st, bs) := s.spmRead id gr.part false true m o sl.bytes
        let s := s.modRing g r (fun x =>
          { x.put x.cons ⟨.free, 0, 0, false⟩ with cons := x.cons + 1, outDone := x.outDone || sl.last, data := x.data ++ bs })
        let s := s.ringOpen g r
        if st = St.integrity then s.failTask i St.retryExhausted else s

def execRingSlotRelease (g : Fin 256) (r : Fin 32) (s : State) : Host.Outcome State Fault Refusal := awakeNext s (ringReleaseOp g r s)

/-- SLOT_RING_TIMEOUT (R188, R189): the consumer that has stalled for TIMEOUT_US, or else the producer, ends. -/
def ringTimeoutOp (g r : Nat) (s : State) : State :=
  match s.ringJob g r with
  | none => s
  | some (x, gr, j, e) =>
    let us := (gr.rings.getD r ⟨0, 0, 1, 1, 1⟩).timeoutUs
    let ovr (t : Option Nat) (n : Nat) : Option Nat := match t with
      | some t => if t + 1000 * us ≤ s.now then s.nodeTaskRunning j n else none
      | none => none
    match ovr x.consStall e.dst with
    | some i => s.failTask i St.slotStarved
    | none => match ovr x.prodStall e.src with
      | some i => s.failTask i St.slotBlocked
      | none => s

def execSlotRingTimeout (g : Fin 256) (r : Fin 32) (s : State) : Host.Outcome State Fault Refusal := awakeNext s (ringTimeoutOp g r s)

end Sys2Proof.Machine
end

