-- ==== Sys2Proof/Machine/Host.lean ====
section
/-! DEFINITION. The commands of the mailboxes, locks and host-core caches (13_host_cores.md R468 to R483). -/

namespace Sys2Proof.Machine

/-- MBX_SEND (R471): delivers the sender's staged words, or refuses with a status in the sender's MBX_SEND_STATUS. A write
with GO = 0 does nothing; a write by an agent that may not send is ignored (R470). (DEDUCED, log 53) -/
def mbxSendOp (ag : Agent) (v : Word) (s : State) : State :=
  match senderBank ag with
  | none => s.refuseSys ag
  | some b =>
    if bit v 31 then
      let m := bits v 5 0
      let status (s : State) (st seq : Nat) : State :=
        s.setReg (banked R.MBX_SEND_STATUS b) (BitVec.ofNat 32 (2 ^ 24 * st + seq))
      if !s.flag (R.MBX_CFG m) 31 then status s St.descInvalid 0
      else if !isFull ag && !s.flag (R.MBX_CFG m) (24 + s.partOf ag) then
        status (s.refuse ag (s.mbxOwner m)) St.partitionFault 0
      else
        let (s, seq) := s.deliver m (agentId ag) (bits v 23 16)
          ((List.range 15).map (fun w => s.reg (banked (R.MBX_STAGE (w + 1)) b)))
        status s St.done seq
    else s

def execMbxSend (ag : Agent) (v : Word) (s : State) : Host.Outcome State Fault Refusal := awakeNext s (mbxSendOp ag v s)

/-- A read of MBX_MSG_m_0 (R473): latches the slot, zeros for an empty one, into the read window and answers word 0. -/
def mbxLatchOp (ag : Agent) (m : Nat) (s : State) : State :=
  if !s.ofPart ag (s.mbxOwner m) then (s.refuse ag (s.mbxOwner m)).answer (.data 0)
  else
    let b := s.mailbox m
    let w := if b.full then b.words else List.replicate 16 0
    (s.setMailbox m { b with window := w }).answer (.data (wd w 0))

def execMbxMsgLatch (ag : Agent) (m : Fin 64) (s : State) : Host.Outcome State Fault Refusal := awakeNext s (mbxLatchOp ag m s)

/-- A write of MBX_RELEASE_m (R474): empties the slot when SEQ is the slot's SEQ. -/
def mbxReleaseOp (ag : Agent) (m : Nat) (v : Word) (s : State) : State :=
  if !s.ofPart ag (s.mbxOwner m) then s.refuse ag (s.mbxOwner m)
  else
    let b := s.mailbox m
    if b.full && b.seq == bits v 15 0 then s.setMailbox m { b with full := false } else s

def execMbxRelease (ag : Agent) (m : Fin 64) (v : Word) (s : State) : Host.Outcome State Fault Refusal :=
  awakeNext s (mbxReleaseOp ag m v s)

/-- One read of LCK_n (R479). (DEDUCED, log 53, DEDUCED, log 81) -/
def lockReadOp (ag : Agent) (n : Nat) (s : State) : State :=
  if !s.ofPart ag (s.lockPart n) then (s.refuse ag (s.lockPart n)).answer (.data 0xFF)
  else
    let id := agentId ag
    match s.host.lockOwner.getD n none with
    | none =>
      ({ s with host.lockOwner := setAt s.host.lockOwner n (some id), host.lockLast := setAt s.host.lockLast n id }.count 1028 1).answer
        (.data (BitVec.ofNat 32 (2 ^ 31 + id)))
    | some o => s.answer (.data (lockView (some o) id))

/-- The reader that comes first in the order g + 1, g + 2, …, 255, 0, …, g (R481), moved to the front. (DESIGN CHOICE, log 1, DEDUCED, log 53) -/
def lockOrder (g : Nat) (rs : List Agent) : List Agent :=
  let rank (a : Agent) : Nat := (agentId a + 255 - g % 256) % 256
  let best := rs.foldl (fun b a => match b with
    | none => some a
    | some x => if rank a < rank x then some a else some x) none
  match best with
  | none => []
  | some b => b :: rs.filter (· != b)

/-- Reads of LCK_n by agents in one NOC_CLK cycle (R479, R481); the answer held is that of the last reader served. -/
def execLockAcquire (readers : List Agent) (n : Fin 64) (s : State) : Host.Outcome State Fault Refusal :=
  awakeNext s ((lockOrder (s.host.lockLast.getD n 0xFF) (readers.filter (fun a => s.ofPart a (s.lockPart n))) ++
    readers.filter (fun a => !s.ofPart a (s.lockPart n))).foldl (fun s a => lockReadOp a n s) s)

/-- A write of LCK_n (R480): 0 by the owner frees the lock; every other write is counted as a bad release. (DEDUCED, log 53) -/
def lockReleaseOp (ag : Agent) (n : Nat) (v : Word) (s : State) : State :=
  if v = 0 ∧ s.host.lockOwner.getD n none = some (agentId ag) then { s with host.lockOwner := setAt s.host.lockOwner n none }
  else s.bump R.LCK_BAD_RELEASE_CNT

def execLockRelease (ag : Agent) (n : Fin 64) (v : Word) (s : State) : Host.Outcome State Fault Refusal :=
  awakeNext s (lockReleaseOp ag n v s)

/-- A write of LCK_FORCE (R483): GO by the SMC or the island frees the lock named. -/
def lckForceOp (ag : Agent) (v : Word) (s : State) : State :=
  if !isFull ag then s.refuseSys ag
  else if bit v 31 then { s with host.lockOwner := setAt s.host.lockOwner (bits v 5 0) none } else s

def execLckForce (ag : Agent) (v : Word) (s : State) : Host.Outcome State Fault Refusal := awakeNext s (lckForceOp ag v s)

/-- A parity error in a clean cache line: refetched unseen and counted (R468). (DESIGN CHOICE, log 77) -/
def execCacheCleanParityError (_n : Fin 8) (s : State) : Host.Outcome State Fault Refusal :=
  awakeNext s (s.bump R.MBX_HC_CLEAN_ERR_CNT)

/-- A parity error in a dirty line: the line is discarded, so DRAM keeps its contents; the block is logged when VALID = 0, and
source 45 pends (R468). (DESIGN CHOICE, log 77) -/
def cacheDirtyOp (n a : Nat) (s : State) : State :=
  let s := if s.flag (R.MBX_HC_ERR_LO n) 0 then s
    else
      let s := (s.setReg (R.MBX_HC_ERR_LO n) (BitVec.ofNat 32 (a % 2 ^ 32 / 64 * 64 + 1))).setReg (R.MBX_HC_ERR_HI n)
        (BitVec.ofNat 32 (a / 2 ^ 32 % 256))
      s.logRec 5 [s.reg (R.MBX_HC_ERR_LO n), s.reg (R.MBX_HC_ERR_HI n)]
  s.irqRaise 45

def execCacheDirtyParityError (n : Fin 8) (a : Nat) (s : State) : Host.Outcome State Fault Refusal :=
  awakeNext s (cacheDirtyOp n a s)

end Sys2Proof.Machine
end

