-- ==== Sys2Proof/Machine/Isp.lean ====
section
/-! DEFINITION. The commands of the image signal pipelines (03_image_pipeline.md R123 to R147). -/

namespace Sys2Proof.Machine

/-! ### Contexts and the setting model -/

/-- The owner partition of a stream (R123, R139, R146). -/
def State.ownerOf (s : State) (st : Nat) : Nat := s.streamOwner (s.stream st)

/-- Bytes [lo, hi) of a context are 0. -/
def ctxZero (d : List Byte) (lo hi : Nat) : Bool := ((d.drop lo).take (hi - lo)).all (· == 0)

/-- Whether a context breaks row 4 of R123. -/
def ctxBad (x : Stream) (d : List Byte) : Bool :=
  let w (n : Nat) : Word := wordAt d n
  let defects := ctxDefects d
  decide (4 < ctxCfa d) || decide (7 < ctxOutput d) || bits (w 0) 15 14 != 0 || bits (w 3) 27 14 != 0 || bits (w 6) 15 0 != 0
    || !ctxZero d 32 256
    || (List.range 8).any (fun i => !ctxZero d (0x10A + 16 * i) (0x110 + 16 * i))
    || !ctxZero d 0x192 0x194 || !ctxZero d 0x1A0 0x1C0
    || (List.range 8).any (fun i => !ctxZero d (0x1C3 + 8 * i) (0x1C8 + 8 * i))
    || (List.range 4).any (fun k => !ctxZero d (0x202 + 0x210 * k + 512) (0x200 + 0x210 * (k + 1)))
    || !ctxZero d 0xA40 0x1000
    || (List.range 4).any (fun k => !ctxZero d (0x1000 + 0x900 * k + 2178) (0x1000 + 0x900 * (k + 1)))
    || !ctxZero d 0x3400 0x8000
    || decide (8192 < bits (w 0) 13 0)
    || decide ((w 1).toNat < 1 ∨ 10000000 < (w 1).toNat)
    || decide (x.height ≤ bits (w 3) 13 0)
    || (List.range 7).any (fun i => decide (ctx16 d (0x110 + 16 * i) < ctx16 d (0x100 + 16 * i)))
    || (List.range defects.length).any (fun k =>
      let v := w (0x2000 + k)
      bits v 31 30 != 0 || bits v 15 14 != 0 || decide (x.height ≤ bits v 29 16) || decide (x.width ≤ bits v 13 0)
        || (k != 0 && decide (v.toNat ≤ (w (0x1FFF + k)).toNat)))

/-- Whether the stream's size breaks R119 with this context. -/
def ctxSize (x : Stream) (d : List Byte) : Bool :=
  decide (x.width < 64 ∨ x.height < 64) || (decide (ctxOutput d < 2 ∨ !ctxMono d) && decide (x.width % 2 = 1 ∨ x.height % 2 = 1))

/-- The checks of a swap in the order of R123: the state after the context's read, and the status. (DEDUCED, log 28) -/
def State.swapCheck (s : State) (ag : Agent) (st a : Nat) : State × Nat :=
  let p := s.ownerOf st
  if a % 65536 ≠ 0 then (s, St.alignFault)
  else if dramEnd < 65536 + a then (s, St.rangeFault)
  else if !s.ofPart ag p then (s.refuse ag p, St.partitionFault)
  else if (s.dramCheck (whoPart 0x20 p) false a 65536).isSome then (s, St.partitionFault)
  else
    let (s, r, d) := s.readAgain (whoPart 0x20 p) a 65536 2
    if r ≠ St.done then (s, exhausted r)
    else if ctxBad (s.stream st) d then (s, St.descInvalid)
    else if ctxSize (s.stream st) d then (s, St.rangeFault)
    else (s, St.done)

/-- The address staged for a swap. -/
def State.ctxAddr (s : State) : Nat := (s.reg R.ISP_CTX_ADDR_LO).toNat + 2 ^ 32 * s.fld R.ISP_CTX_ADDR_HI 7 0

/-- SWAP accepted (R123, R124). -/
def swapGo (ag : Agent) (st : Nat) (s : State) : State :=
  let s := s.setFld R.ISP_CTX_CMD 9 0 st
  let a := s.ctxAddr
  let r := s.swapCheck ag st a
  let s := (r.1.setReg R.ISP_CTX_STATUS (BitVec.ofNat 32 (2 ^ 24 * r.2))).cmdBegin R.ISP_CTX_STATUS 20000
  if r.2 = St.done then s.setIspStream st { s.ispStream st with ctx := some a } else s

/-- SWAP: ignored while the last swap is being checked (R146). (DESIGN CHOICE, log 85) -/
def swapOp (ag : Agent) (st : Nat) (s : State) : State := if s.cmdBusy R.ISP_CTX_STATUS then s else swapGo ag st s

def execIspSwap (ag : Agent) (st : Fin 1024) (s : State) : Host.Outcome State Fault Refusal := awakeNext s (swapOp ag st s)

/-- RESET_MODEL accepted (R124, R146). -/
def resetModelGo (ag : Agent) (st : Nat) (s : State) : State :=
  let s := s.setFld R.ISP_CTX_CMD 9 0 st
  let p := s.ownerOf st
  if s.ofPart ag p then s.resetModel st
  else (s.refuse ag p).setReg R.ISP_CTX_STATUS (BitVec.ofNat 32 (2 ^ 24 * St.partitionFault))

/-- RESET_MODEL: ignored while a swap is being checked (R146). -/
def resetModelOp (ag : Agent) (st : Nat) (s : State) : State := if s.cmdBusy R.ISP_CTX_STATUS then s else resetModelGo ag st s

def execIspResetModel (ag : Agent) (st : Fin 1024) (s : State) : Host.Outcome State Fault Refusal := awakeNext s (resetModelOp ag st s)

/-- A write of ISP_CTX_CMD (R145, R146): RESET_MODEL first, then SWAP. -/
def ctxCmdOp (ag : Agent) (v : Word) (s : State) : State :=
  let st := bits v 9 0
  if s.cmdBusy R.ISP_CTX_STATUS then s
  else
    let s := s.setFld R.ISP_CTX_CMD 9 0 st
    let s := if bit v 30 then resetModelGo ag st s else s
    if bit v 31 then swapGo ag st s else s

/-- Both contexts of a stream are enabled (R139). -/
def State.postEnabled (s : State) (st : Nat) : Bool :=
  (s.stream st).enabled && (match (s.ispStream st).ctx with | some c => bit (s.ctxWord c 0) 31 | none => false)

/-- Requests whose later target has not opened (R139). -/
def State.openRequests (s : State) (st : Nat) : Nat :=
  let x := s.stream st
  ((s.ispStream st).reqs.filter (fun r => !x.opened || laterThan r.lateTarget x.lastFrame)).length

/-- POST (R134, R135, R139): set `h` with control word `v`. (DEDUCED, log 28, DESIGN CHOICE, log 85) -/
def postOp (ag : Agent) (h : Nat) (v : Word) (s : State) : State :=
  let st := bits v 25 16
  let nw := bits v 2 0
  let s := (s.setFld (R.ISP_SR_CTRL h) 25 16 st).setFld (R.ISP_SR_CTRL h) 2 0 nw
  let answer (s : State) (r : Nat) : State := s.setReg (R.ISP_SR_RESULT h) (BitVec.ofNat 32 (2 ^ 24 * r))
  let p := s.ownerOf st
  if !s.ofPart ag p then answer (s.refuse ag p) St.partitionFault
  else if nw = 7 ∨ !s.postEnabled st then answer s St.descInvalid
  else if 4 ≤ s.openRequests st then answer s St.busy
  else
    let x := s.stream st
    let (n, late) := match x.openF with
      | some f => (f.frame, f.cutoffDone)
      | none => ((x.lastFrame + 1) % 65536, false)
    let c := ((s.ispStream st).ctx).getD 0
    let base := (n + b2n late) % 65536
    let te := (base + bits (s.ctxWord c 3) 31 30) % 65536
    let tg := (base + bits (s.ctxWord c 3) 29 28) % 65536
    let g := s.reg (R.ISP_SR_GAIN h)
    let r : SetReq := ⟨s.isp.serial, s.reg (R.ISP_SR_ID h), s.reg (R.ISP_SR_EXPOSURE h), bits g 31 16,
      if bit g 0 then some (s.reg (R.ISP_SR_WB0 h), s.reg (R.ISP_SR_WB1 h)) else none, te, tg, base, false, false⟩
    let ws := (List.range nw).map (fun k => s.reg (R.ISP_SR_WRITE h k))
    let s := s.setIspStream st { s.ispStream st with reqs := (s.ispStream st).reqs ++ [r] }
    let s := (groupCmds st r.serial ws).foldl (fun s c => s.ctlQueue x.port c) { s with isp.serial := s.isp.serial + 1 }
    answer (s.setReg (R.ISP_SR_TARGET h) (BitVec.ofNat 32 (65536 * te + tg))) St.done

def execIspPost (ag : Agent) (h : Fin 8) (v : Word) (s : State) : Host.Outcome State Fault Refusal := awakeNext s (postOp ag h v s)

/-! ### Frames -/

/-- The frame that instance `n` holds. -/
def State.ispFrame (s : State) (n : Nat) : Option IspFrame := s.isp.frames.find? (·.inst == some n)

def State.modIspFrame (s : State) (i : Nat) (f : IspFrame → IspFrame) : State :=
  { s with isp.frames := s.isp.frames.map (fun x => if x.task = i then f x else x) }

/-- An engine's credits are requested (R204, R582). -/
def State.takeCredits (s : State) (i id : Nat) : State := (s.creditRequest id (s.task i).part).1

/-- The outputs of a frame: the main one and the enabled taps. -/
def ispOuts (taps out : Nat) (ts : List Nat) : List Nat :=
  out :: ((List.range 4).filter (fun k => (taps / 2 ^ k) % 2 == 1)).map (fun k => ts.getD k noHandle)

/-- A frame begins on instance `n` (R120, R124, R128): it holds its slot, pins its destinations, and opens its first ring slots. -/
def State.ispBegin (s : State) (n i st k c out : Nat) (ts : List Nat) (stats : Nat) : State :=
  let x := s.stream st
  let held := decide ((x.slot k).hold < 15)
  let early := (x.slot k).state == .landing
  let s := if held then s.holdSlot st k else s
  let s := if early then s.count (320 + 32 * n + 4) 1 else s
  let outs := ispOuts (bits (s.ctxWord c 0) 23 20) out ts
  let s := s.startTask i [BitVec.ofNat 32 stats, BitVec.ofNat 32 (stats / 2 ^ 32)] outs outs x.height
  let s : State := { s with isp.frames := s.isp.frames ++ [⟨i, some n, c, [], st, k, held, early, none⟩] }
  (s.modelStart st i).ringsAtDispatch i

/-- ISP_FRAME_START (R126 to R128, R670): instance `n` takes the frame selected. `out`, `ts` and `stats` are the destinations that the
frame's node names. (DESIGN CHOICE, log 29) -/
def ispStartOp (n out : Nat) (ts : List Nat) (stats : Nat) (s : State) : State :=
  let id := 0x20 + n
  if (s.runningOn id).isSome || !s.flag R.HTS_CTRL 0 || !s.flag (R.ISP_CTRL n) 0 || s.domState 1 != Dom.on then s
  else match s.ispSelect n with
    | none => s
    | some i =>
      let s := (s.startOn i id).takeCredits i id
      match s.isp.frames.find? (·.task == i) with
      | some _ => (s.modIspFrame i (fun f => { f with inst := some n, data := [] })).ringsOpen i
      | none =>
        match (s.task i).frame with
        | none => s.failTask i St.descInvalid
        | some (st, k) =>
          match (s.ispStream st).ctx with
          | none => s.failTask i St.descInvalid
          | some c => if bit (s.ctxWord c 0) 31 then s.ispBegin n i st k c out ts stats else s.failTask i St.descInvalid

def execIspFrameStart (n : Fin 2) (out : Nat) (ts : List Nat) (stats : Nat) (s : State) : Host.Outcome State Fault Refusal :=
  awakeNext s (ispStartOp n out ts stats s)

/-- A destination takes `total` bytes of samples of `n` bytes (R118, R392): a writable LINEAR descriptor, or a PLANAR one where
`planar`, of the right size and element type. -/
def Desc.takes (d : Desc) (planar : Bool) (total n : Nat) (elem : Option Nat) : Bool :=
  d.canWrite && !d.accum && (d.layout == 0 || (planar && d.layout == 1)) && d.bytes == total
    && (match elem with | some e => d.elem == e | none => d.elem != El.se8 && d.elem != El.int4 && elemSize d.elem == n)

/-- The status of the destinations of a frame under a context (R118, R120, R381, R392). (DEDUCED, log 28) -/
def State.ispDestCheck (s : State) (i : Nat) (x : Stream) (d : List Byte) : Nat :=
  let p := (s.task i).part
  let outs := (s.task i).outs
  let (total, n, e) := outBytes (ctxOutput d) x.width x.height
  let planar := ctxOutput d == 5 || ctxOutput d == 7
  let taps := (List.range 4).filter (fun k => (ctxTaps d / 2 ^ k) % 2 == 1)
  chk [(!s.descIs p (outs.getD 0 noHandle) (fun q => q.takes planar total n e), St.descInvalid),
    ((taps.zipIdx 1).any (fun t => !s.descIs p (outs.getD t.2 noHandle) (fun q => q.takes false (tapBytes t.1 x.width x.height) 2 none)), St.descInvalid),
    (outs.any (fun h => s.foreign p h true), St.partitionFault)]

/-- A frame that has made nothing is refused for its destinations (R118, R670). -/
def State.ispRefuse (s : State) (i n status : Nat) (f : IspFrame) : State :=
  let t := s.task i
  s.finishTask i ⟨status, 0x20 + n, Kind.pipeline, (s.ispShape i f f.data).fixed, 0, s.taskMarks i,
    recFlags false (s.anyLegacy t.part t.pinned) false false false, false, true⟩

/-- ISP_CONTEXT_LOAD (R124, R129, R131): the context of the frame that instance `n` has taken is there. (DEDUCED, log 28, DESIGN CHOICE, log 29) -/
def ispLoadOp (n : Nat) (s : State) : State :=
  match s.ispFrame n with
  | none => s
  | some f =>
    if !f.data.isEmpty then s
    else
      let i := f.task
      let who := whoPart (0x20 + n) (s.ownerOf f.stream)
      let (s, st, d) := s.dramRead who f.ctx 65536
      let (s, st, d) := if st = St.integrity then
          (s.modTask i (fun t => { t with recomputed := true })).readAgain who f.ctx 65536 1 else (s, st, d)
      let s := s.count (320 + 32 * n + 3) 1
      if st ≠ St.done then s.failTask i (exhausted st)
      else
        let dst := s.ispDestCheck i (s.stream f.stream) d
        if dst ≠ St.done then s.ispRefuse i n dst f
        else
          (s.modelLoad f ⟨wordAt d 7, bits (wordAt d 6) 31 16, 0, wordAt d 4, wordAt d 5⟩).modIspFrame i (fun f => { f with data := d })

def execIspContextLoad (n : Fin 2) (s : State) : Host.Outcome State Fault Refusal := awakeNext s (ispLoadOp n s)

/-- What the instance has observed of a frame that ends: whether it waited for landing (R133). -/
def EngOut.chased (o : EngOut) (early stalled : Bool) : EngOut := { o with bits := if early && stalled then [(0, 0x20)] else [] }

/-- ISP_FRAME_COMPLETE (R102 to R120, R133, R140 to R143): the frame is developed, its outputs and statistics are written, its record
commits, and the instance's hold ends. -/
def ispCompleteOp (n : Nat) (stalled : Bool) (s : State) : State :=
  let id := 0x20 + n
  match s.ispFrame n, s.jobOn id with
  | some f, some i =>
    if f.task ≠ i ∨ f.data.isEmpty ∨ s.rowsLanded f ≠ (s.stream f.stream).height then s
    else
      let (s, c) := s.pipeDone i id (fun o => o.chased f.early stalled)
      (if c.status = St.done then s.bump (R.ISP_FRAMES_CNT n) else s).finishTask i c
  | _, _ => s

def execIspFrameComplete (n : Fin 2) (stalled : Bool) (s : State) : Host.Outcome State Fault Refusal := awakeNext s (ispCompleteOp n stalled s)

/-- ISP_PARITY_ERROR (R131, R257): the frame starts again from its landed slot, or ends with RETRY_EXHAUSTED. (DEDUCED, log 28) -/
def ispParityOp (n : Nat) (s : State) : State :=
  match s.ispFrame n with
  | none => s
  | some f =>
    if s.mayRepeat f.task then s.modTask f.task (fun t => { t with repeats := t.repeats + 1, recomputed := true, progress := 0 })
    else s.failTask f.task St.retryExhausted

def execIspParityError (n : Fin 2) (s : State) : Host.Outcome State Fault Refusal := awakeNext s (ispParityOp n s)

/-- ISP_YIELD (R130): at a boundary of 4 output rows, `rows` of which are behind it, the frame goes back to the queue. (DEDUCED, log 28) -/
def ispYieldOp (n rows : Nat) (s : State) : State :=
  let id := 0x20 + n
  match s.runningOn id with
  | none => s
  | some i =>
    let t := s.task i
    let o := (s.engRun id i 0).2.2
    if !t.yieldAsked || s.creditWaits id || rows % 4 != 0 || decide (rows < t.progress ∨ t.total ≤ rows) || !o.counts.contains rows
        || !s.canReach i o rows then s
    else
      let s := (s.crumbTask 3 i id t.yieldLevel).modTask i (fun t =>
        { t with state := .ready, worker := none, yieldAsked := false, yielded := true, bank := some id, progress := rows })
      let s := (s.ringsLeft i).modIspFrame i (fun f => { f with inst := none, data := [] })
      let s := { s with isp.queue := s.isp.queue ++ [i] }
      (((s.bump (R.ISP_YIELD_CNT n)).bump R.HTS_PREEMPT_CNT).domBusy (domainOf id)).creditRelease id

def execIspYield (n : Fin 2) (rows : Nat) (s : State) : Host.Outcome State Fault Refusal := awakeNext s (ispYieldOp n rows s)

/-- ISP_ABORT (R132, R146, R261). (DEDUCED, log 28) -/
def ispAbortOp (ag : Agent) (n : Nat) (s : State) : State := s.abortOn ag (0x20 + n) (R.ISP_STATUS n)

def execIspAbort (ag : Agent) (n : Fin 2) (s : State) : Host.Outcome State Fault Refusal := awakeNext s (ispAbortOp ag n s)

/-- ISP_ENABLE (R144, R146). -/
def ispEnableOp (ag : Agent) (n : Nat) (on : Bool) (s : State) : State :=
  if s.p3OrFull ag then (s.setFlag (R.ISP_CTRL n) 0 on).askYields else s.refuseSys ag

def execIspEnable (ag : Agent) (n : Fin 2) (on : Bool) (s : State) : Host.Outcome State Fault Refusal := awakeNext s (ispEnableOp ag n on s)

/-- ISP_CLEAR_COUNTS (R144). -/
def ispClearOp (ag : Agent) (n : Nat) (s : State) : State :=
  if s.p3OrFull ag then s.zeroRegs [R.ISP_FRAMES_CNT n, R.ISP_STALL_US n, R.ISP_YIELD_CNT n] else s.refuseSys ag

def execIspClearCounts (ag : Agent) (n : Fin 2) (s : State) : Host.Outcome State Fault Refusal := awakeNext s (ispClearOp ag n s)

end Sys2Proof.Machine
end

