-- ==== Sys2Proof/Machine/Nc.lean ====
section
/-! DEFINITION. The neural cores: starting, issuing, completing, errors, yields, quotas (09_neural_cores.md R344 to R376). -/

namespace Sys2Proof.Machine

/-! ### Runs -/

/-- The weights and commands of a core's copy are loaded again from the image (R371): DONE, or RETRY_EXHAUSTED. (DEDUCED, log 79) -/
def State.ncReload (s : State) (x : Segment) (c : Nat) : State × Nat :=
  let (s, st, img) := s.readAgain (whoPart (0x10 + c) x.part) x.addr (segImageBytes x.head) 2
  if st = St.done then (s.loadWeights x c img, st) else (s, St.retryExhausted)

/-- A word of weight memory `m`, given by its 64-bit word number, lies in the segment's weight area there. -/
def inWeights (x : Segment) (m lane : Nat) : Bool :=
  x.areas.any (fun a => a.1 == m && decide (a.2.1 ≤ lane * 8) && decide (lane * 8 < a.2.1 + a.2.2))

/-- Before a run, what the scrubber found in the segment's weight memory is loaded again (R430). (DEDUCED, log 79) -/
def State.ncMended (s : State) (x : Segment) (c : Nat) : State × Nat :=
  if s.spm.found.any (fun b => b.1 == spmMem 0 c && inWeights x b.1 b.2) then s.ncReload x c else (s, St.done)

/-- Start of a run on core `id − 0x10` (R359, R360, R430). -/
def State.ncStart (s : State) (id i : Nat) : State × Nat :=
  let (s, st, w) := s.readParams id i 64
  if st ≠ St.done then (s, st)
  else match s.segOfTask i with
    | none => (s, St.descInvalid)
    | some x =>
      if x.handles.any (·.1 == id - 0x10) then
        let (s, st) := s.ncMended x (id - 0x10)
        if st ≠ St.done then (s, st)
        else
          let s := s.startTask i w [] [] (segTiles x.head)
          ({ s with nc.runs := s.nc.runs ++ [NcRun.start i (id - 0x10) s.now 0] }, St.done)
      else (s, St.descInvalid)

/-- A yielded run resumes on its core (R292, R368): its cycles count again. -/
def State.ncResume (s : State) (i : Nat) : State := match s.runOf i with | some r => s.setRun { r with since := s.now } | none => s

/-- The TILE_END of the stream `cmds` after which a yield asked for stops issue (R361). -/
def stopAt (cmds : List (List Word)) (pc : Nat) : Nat :=
  (((List.range cmds.length).drop pc).find? (fun k => cmdTileEnd (cmds.getD k []))).getD (cmds.length - 1)

/-- A run ends (R360, R373): with the index of the failing command for a status from 0x10 to 0x1F. -/
def State.ncEnd (s : State) (r : NcRun) (x : Segment) (status idx : Nat) : State :=
  let c := s.ncClose r x (0x10 + r.core) status idx
  c.1.finishTask r.task c.2

/-- What a run has made for its slot rings is dropped: it makes it again. -/
def State.ringsUnmade (s : State) (i : Nat) : State :=
  (s.jobRings i).foldl (fun s x => if s.produces i x.2.1 then s.modRing x.1 x.2.1.ring (fun y => { y with made := [] }) else s) s

/-- An error in a run's data (R371): the run starts again from its inputs, or ends with RETRY_EXHAUSTED; an error in its weights or commands has
them loaded again first. (DEDUCED, log 79) -/
def State.ncRepeat (s : State) (r : NcRun) (x : Segment) (weights : Bool) : State :=
  let (s, st) := if weights then s.ncReload x r.core else (s, St.done)
  if st = St.done ∧ s.mayRepeat r.task then
    ((s.ringsUnmade r.task).modTask r.task (fun t =>
      { t with repeats := t.repeats + 1, recomputed := true, progress := 0, outs := [] })).setRun (NcRun.start r.task r.core r.since r.spent)
  else s.ncEnd r x St.retryExhausted 0

/-! ### Local flags (R348) -/

/-- What a NOP at `idx` clears: sets made by commands before it. -/
def nopClear (w : List Word) (idx : Nat) (flagBy : List (Option Nat)) : List (Option Nat) :=
  (flagBy.zipIdx).map (fun e => if bit (wd w 4) e.2 && (match e.1 with | some k => decide (k < idx) | none => false) then none else e.1)

/-- NOPs in flight whose earlier commands have all completed clear their flags at that moment. (DEDUCED, log 42) -/
def NcRun.settle (r : NcRun) (cmds : List (List Word)) : NcRun :=
  let nops := r.fly.filter (fun f => cmdOp (cmds.getD f.idx []) == 0 && r.fly.all (fun g => decide (f.idx ≤ g.idx)))
  { r with flagBy := nops.foldl (fun l f => nopClear (cmds.getD f.idx []) f.idx l) r.flagBy }

/-- The local flags after command `idx` completes: its SET_FLAG is set. -/
def flagSet (w : List Word) (idx : Nat) (flagBy : List (Option Nat)) : List (Option Nat) :=
  match cmdSet w with
  | some i => modAt flagBy i (fun b => some (max idx (b.getD 0)))
  | none => flagBy

/-! ### Issue (R347, R348) -/

/-- The command processor of core `n` issues the next command of its stream, when it is one of opcode `op`, its flags are set and no
yield holds it back. A stale handle or a check that fails ends the run. (DEDUCED, log 42) -/
def ncIssueOp (n op : Nat) (s : State) : State :=
  match s.ncNow n with
  | none => s
  | some (r, x) =>
    let cmds := s.cmdsOn x n
    let w := cmds.getD r.pc []
    let p := x.part
    let stop : Option Nat := if (s.task r.task).yieldAsked then some (r.stop.getD (stopAt cmds r.pc)) else none
    let flag (i : Nat) : Bool := (r.flagBy.getD i none).isSome
    let waits := (List.range 16).any (fun i => bit (BitVec.ofNat 32 (cmdWait w)) i && !flag i)
    let held : Bool := match stop with | some k => decide (k < r.pc) | none => false
    if cmds.length ≤ r.pc ∨ cmdOp w ≠ op ∨ waits ∨ held then s.setRun { r with stop := stop }
    else
      let k := s.ncCmd r x r.pc
      let st := s.ncCheck p k
      if st ≠ St.done then s.ncEnd r x st r.pc
      else
        let hs := k.inputs ++ k.outputs
        let s := hs.foldl (fun s h => s.pin p h) s
        let s := s.modTask r.task (fun t => { t with pinned := t.pinned ++ hs, outs := t.outs ++ k.outputs })
        let other (f : NcFly) : NcCmd := s.ncCmd r x f.idx
        let apart (f : NcFly) : Bool := opUnit (other f).op != opUnit op
        let both (f : NcFly) : Bool := s.handlesMeet p (other f).outputs k.outputs
        let fly := r.fly.map (fun f =>
          { f with raced := f.raced || (apart f && (both f || s.handlesMeet p (other f).inputs k.outputs)) })
        let raced := r.fly.any (fun f => apart f && (both f || s.handlesMeet p (other f).outputs k.inputs))
        let r : NcRun := { r with pc := r.pc + 1, fly := fly ++ [NcFly.mk r.pc raced], stop := stop, sparse := r.sparse || k.sparse,
                                  legacy := r.legacy || s.anyLegacy p hs }
        (s.setRun (r.settle cmds)).ringsOpen r.task

def execNcNop (n : Fin 8) (s : State) : Host.Outcome State Fault Refusal := awakeNext s (ncIssueOp n 0x00 s)
def execNcConv (n : Fin 8) (s : State) : Host.Outcome State Fault Refusal := awakeNext s (ncIssueOp n 0x01 s)
def execNcMatmul (n : Fin 8) (s : State) : Host.Outcome State Fault Refusal := awakeNext s (ncIssueOp n 0x02 s)
def execNcPool (n : Fin 8) (s : State) : Host.Outcome State Fault Refusal := awakeNext s (ncIssueOp n 0x10 s)
def execNcEltwise (n : Fin 8) (s : State) : Host.Outcome State Fault Refusal := awakeNext s (ncIssueOp n 0x11 s)
def execNcAct (n : Fin 8) (s : State) : Host.Outcome State Fault Refusal := awakeNext s (ncIssueOp n 0x12 s)
def execNcSoftmax (n : Fin 8) (s : State) : Host.Outcome State Fault Refusal := awakeNext s (ncIssueOp n 0x13 s)
def execNcNorm (n : Fin 8) (s : State) : Host.Outcome State Fault Refusal := awakeNext s (ncIssueOp n 0x14 s)
def execNcResize (n : Fin 8) (s : State) : Host.Outcome State Fault Refusal := awakeNext s (ncIssueOp n 0x15 s)
def execNcTopk (n : Fin 8) (s : State) : Host.Outcome State Fault Refusal := awakeNext s (ncIssueOp n 0x16 s)
def execNcGather (n : Fin 8) (s : State) : Host.Outcome State Fault Refusal := awakeNext s (ncIssueOp n 0x20 s)
def execNcScatterSet (n : Fin 8) (s : State) : Host.Outcome State Fault Refusal := awakeNext s (ncIssueOp n 0x21 s)
def execNcScatterAdd (n : Fin 8) (s : State) : Host.Outcome State Fault Refusal := awakeNext s (ncIssueOp n 0x22 s)
def execNcScatterMax (n : Fin 8) (s : State) : Host.Outcome State Fault Refusal := awakeNext s (ncIssueOp n 0x23 s)
def execNcHalo (n : Fin 8) (s : State) : Host.Outcome State Fault Refusal := awakeNext s (ncIssueOp n 0x28 s)

/-! ### Completion (R348, R360, R371, R372) -/

/-- A slot-ring output of which all but the last slot has been committed, so that the slot being filled takes the rest (R186); any other
operand. -/
def State.ringFits (s : State) (p h : Nat) : Bool :=
  match s.desc? p h with
  | none => true
  | some d => match s.region? d.region with
    | none => true
    | some r => r.kind != RK.ring || (match s.ringOf d.region with
      | some x => x.inDone || decide (d.size (d.rank - 1) ≤ (x.prod + b2n ((x.at_ x.prod).state == RSlotState.filling)) * d.slotRows (x.slotSize r))
      | none => true)

/-- Command `f` of a run has done its work `d`: the run goes on, or ends with its last command. -/
def State.ncAdvance (s : State) (r : NcRun) (x : Segment) (f : NcFly) (d : NcDone) (last : Bool) : State :=
  let cmds := s.cmdsOn x r.core
  let r := { r with accSat := r.accSat || d.accSat, outSat := r.outSat || d.outSat, nanSeen := r.nanSeen || d.nan,
                    oobR := r.oobR || d.oobR, oobW := r.oobW || d.oobW }
  if d.st ≠ St.done then d.s.ncEnd r x (exhausted d.st) f.idx
  else
    let r := { r with fly := r.fly.filter (·.idx != f.idx), flagBy := flagSet (cmds.getD f.idx []) f.idx r.flagBy }
    let r := r.settle cmds
    let s := (d.s.modTask r.task (fun t => { t with progress := r.tiles cmds })).setRun r
    if last then s.ncEnd r x St.done 0 else s

/-- NC_COMMAND_COMPLETE: the oldest command in flight on a unit of core `n` completes. A NOP waits for every command before it, a command for
the rows of its slot rings, the last command of the stream for the run's slot rings. (DEDUCED, log 11, DEDUCED, log 42) -/
def ncCompleteOp (n unit : Nat) (s : State) : State :=
  match s.ncNow n with
  | none => s
  | some (r, x) =>
    let cmds := s.cmdsOn x n
    match r.fly.find? (fun f => opUnit (cmdOp (cmds.getD f.idx [])) == unit) with
    | none => s
    | some f =>
      let k := s.ncCmd r x f.idx
      let rest := r.fly.filter (·.idx != f.idx)
      let last := decide (cmds.length ≤ r.pc) && rest.isEmpty
      if (cmdOp (cmds.getD f.idx []) == 0 && rest.any (fun g => decide (g.idx < f.idx))) || k.inputs.any (s.ringShort x.part)
          || !k.outputs.all (s.ringFits x.part) || (last && !s.ringsDone r.task)
          || (k.inputs ++ k.outputs).any (s.descWaits x.part) then s
      else
        let d := s.ncRun n x.part k f.raced
        if d.st = St.integrity then
          d.s.ncRepeat r x (d.s.spm.bad.any (fun b => b.mem == spmMem 0 n && inWeights x b.mem b.lane)
            || k.inputs.any (fun h => s.descIs x.part h (fun d => x.stream == some d.region)))
        else s.ncAdvance r x f d last

def execNcCommandComplete (n : Fin 8) (unit : Fin 4) (s : State) : Host.Outcome State Fault Refusal := awakeNext s (ncCompleteOp n unit s)

/-- NC_PARITY_ERROR (R371): an error in activation or partial-sum memory, in weight memory (kind 1) or in streamed weights (kind 2). -/
def ncParityOp (n kind : Nat) (s : State) : State :=
  match s.ncNow n with
  | none => s
  | some (r, x) => s.ncRepeat r x (kind != 0)

def execNcParityError (n : Fin 8) (kind : Fin 3) (s : State) : Host.Outcome State Fault Refusal := awakeNext s (ncParityOp n kind s)

/-! ### Yields (R291, R324, R361) -/

/-- A neural run whose stopping tile has completed leaves its state in its partition's bank (R361). (DEDUCED, log 79) -/
def ncYieldOp (n : Nat) (s : State) : State :=
  match s.ncNow n with
  | none => s
  | some (r, x) =>
    let cmds := s.cmdsOn x n
    let stop := r.stop.getD (stopAt cmds r.pc)
    if (s.task r.task).yieldAsked && r.fly.isEmpty && r.pc == stop + 1 then
      (s.setRun { r with stop := none, spent := s.ncCycles r, since := s.now }).yieldEngine r.task (0x10 + n) (R.NC_YIELD_CNT n)
        (r.tiles cmds)
    else s

/-! ### Quotas (R376, R420) -/

/-- NC_QUOTA_WRITE: a quota of partition `p` in memory `k` of core `c` (0 to 2), or its DRAM scratch quota (3). -/
def ncQuotaOp (ag : Agent) (c p k : Nat) (v : Word) (s : State) : State :=
  if !s.ofPart ag p then s.refuse ag p
  else if s.locked then s
  else if k = 3 then
    let q := bits v 15 0
    if 2 ^ 20 * q < s.scratchUse p then s else s.setFld (R.NC_SCRATCH_QUOTA p) 15 0 q
  else
    let q := bits v 12 0
    if 1024 * q < s.ncUse s.fgs.graphs p c k ∨ 64 * s.granulesOf (spmMem k c) p < q then s else s.setFld (quotaReg c p k) 12 0 q

def execNcQuotaWrite (ag : Agent) (c : Fin 8) (p k : Fin 4) (v : Word) (s : State) : Host.Outcome State Fault Refusal :=
  awakeNext s (ncQuotaOp ag c p k v s)

end Sys2Proof.Machine
end

