-- ==== Sys2Proof/Machine/Engines.lean ====
section
/-! DEFINITION. The commands of the fixed pipelines PGE, WPE, OFE, SGE and FTE, and the control registers that they share with the neural cores
(06_pyramid_warp.md R242, R243, R252 to R261; 07_flow_stereo.md R291 to R299; 08_feature_engine.md R321 to R329). -/

namespace Sys2Proof.Machine

/-! ### Completions (R242, R252, R281, R290, R323) -/

/-- The job of engine `id` is done: its outputs are written and its record commits. (DEDUCED, log 10, DEDUCED, log 11) -/
def State.engComplete (s : State) (id : Nat) : State :=
  match s.jobOn id with
  | none => s
  | some i =>
    let r := s.pipeDone i id (fun o => o)
    r.1.finishTask i r.2

/-- PGE_JOB_COMPLETE (R237 to R242, R258, R259). -/
def pgeCompleteOp (n : Nat) (s : State) : State := s.engComplete (0x22 + n)

def execPgeJobComplete (n : Fin 2) (s : State) : Host.Outcome State Fault Refusal := awakeNext s (pgeCompleteOp n s)

/-- WPE_JOB_COMPLETE (R244 to R253, R258, R259). -/
def wpeCompleteOp (n : Nat) (s : State) : State := s.engComplete (0x24 + n)

def execWpeJobComplete (n : Fin 2) (s : State) : Host.Outcome State Fault Refusal := awakeNext s (wpeCompleteOp n s)

/-- OFE_JOB_COMPLETE (R273 to R281, R295, R296). -/
def ofeCompleteOp (n : Nat) (s : State) : State := s.engComplete (0x26 + n)

def execOfeJobComplete (n : Fin 2) (s : State) : Host.Outcome State Fault Refusal := awakeNext s (ofeCompleteOp n s)

/-- SGE_JOB_COMPLETE (R282 to R290, R295, R296). -/
def sgeCompleteOp (s : State) : State := s.engComplete 0x28

def execSgeJobComplete (s : State) : Host.Outcome State Fault Refusal := awakeNext s (sgeCompleteOp s)

/-- FTE_JOB_COMPLETE (R302 to R318, R323, R325, R326). -/
def fteCompleteOp (s : State) : State := s.engComplete 0x29

def execFteJobComplete (s : State) : Host.Outcome State Fault Refusal := awakeNext s (fteCompleteOp s)

/-! ### Yields (R243, R254, R291, R324) -/

/-- A job that was asked to yield may do so at place `pos` with COUNT `c`: it runs, or has not moved while it waits for credits; neither its place
nor its COUNT goes back. -/
def State.yieldOk (s : State) (i id pos c : Nat) : Bool :=
  let t := s.task i
  t.yieldAsked && decide (t.pos ≤ pos ∧ t.progress ≤ c) && (!s.creditWaits id || pos == t.pos)

/-- A job leaves engine `id` at place `pos` with COUNT `c`; `e` numbers the engine's counter. -/
def State.engYield (s : State) (i id e pos c : Nat) : State :=
  (s.modTask i (fun t => { t with pos := pos })).yieldEngine i id (R.ENG_YIELD_CNT e) c

/-- PGE_YIELD (R243): at a yield point, `pos` pixels of level 0 in raster order behind it, the state goes to the save area. What the engine
writes there is not described: its bytes are free values; a write that fails ends the job. COUNT is a free one among those that the rows
read allow. (DEDUCED, log 46) -/
def pgeYieldOp (n pos : Nat) (s : State) : State :=
  let id := 0x22 + n
  match s.runningOn id with
  | none => s
  | some i =>
    let t := s.task i
    let w := t.params
    let W := match s.desc? t.part (pgeIn w) with | some d => d.imageW (pgeCh w) | none => 0
    let o := (s.pgeRun id i 0).2.2
    let rows := ceilDiv pos W
    let fed := match s.ringRows i with | some r => decide (rows ≤ r) | none => true
    if !s.yieldOk i id pos t.progress || !pgeYieldPoint W o.whole pos || !fed then s
    else
      let l := s.countsNow i o (pgeBound w o.whole rows)
      let (q, s) := s.drawMany 2
      let (s, st) := s.dramWrite (whoPart id t.part) t.area.1 ((List.range t.area.2).map (Config.freeByte q))
      if st ≠ St.done then s.failTask i (exhausted st)
      else s.engYield i id n pos (l.getD ((Config.freeWord (q + 1)).toNat % l.length) t.progress)

def execPgeYield (n : Fin 2) (pos : Nat) (s : State) : Host.Outcome State Fault Refusal := awakeNext s (pgeYieldOp n pos s)

/-- A job that resumes on a PGE reads its save area (R243, R505). (DEDUCED, log 46) -/
def State.pgeResume (s : State) (id i : Nat) : State :=
  let t := s.task i
  let (s, st, _) := s.readAgain (whoPart id t.part) t.area.1 t.area.2 2
  if st = St.done then s else s.failTask i (exhausted st)

/-- Whether the tile of a warp job at output pixel (u0, v0) is split (R253). -/
def State.wpeSplit (s : State) (id i : Nat) (u0 v0 : Nat) : Bool :=
  let w := (s.task i).params
  let (WO, HO) := s.wpeSize (s.task i).part w
  let e := (elemOf (wpeElem w)).getD El.uint8
  let ims := (s.readTensors id i ((wpeOps w).drop 2) 0).2.2
  let m := imgOf 2 (gridOf (wpeStep w) WO) (elemSize (wpeMapElem w)) (ims.getD 0 [])
  wpeSplits w (wpeCh w * elemSize e) WO HO (wpePos w (gridOf (wpeStep w) WO) (gridOf (wpeStep w) HO) m) 64 16 4 u0 v0 != 0

/-- WPE_YIELD (R254): at the boundary of a tile, or of a sub-tile of one that is split; the place is all that is kept. -/
def wpeYieldOp (n pos : Nat) (s : State) : State :=
  let id := 0x24 + n
  match s.runningOn id with
  | none => s
  | some i =>
    let (W, H) := s.wpeSize (s.task i).part (s.task i).params
    let c := wpeRows H (wpeBandsAt W pos)
    if !s.yieldOk i id pos c || !wpeYieldPoint W H pos (s.wpeSplit id i) || !s.canReach i (s.wpeRun id i 0).2.2 c then s
    else s.engYield i id (2 + n) pos c

def execWpeYield (n : Fin 2) (pos : Nat) (s : State) : Host.Outcome State Fault Refusal := awakeNext s (wpeYieldOp n pos s)

/-- Tiles of 64 × 32 pixels of the levels above level 0, which an OFE job takes first (R273, R278). -/
def ofeAbove (w : List Word) (W H : Nat) : Nat :=
  ((List.range (ofeLevels w)).drop 1).foldl (fun n k => n + ceilDiv (halfSize W k) 64 * ceilDiv (halfSize H k) 32) 0

/-- An OFE job at a tile boundary, `pos` tiles behind it (R291). -/
def ofeYieldOp (n pos : Nat) (s : State) : State :=
  let id := 0x26 + n
  match s.runningOn id with
  | none => s
  | some i =>
    let w := (s.task i).params
    let (W, H) := s.ofeSize (s.task i).part w
    let a := ceilDiv W 64
    let c := ofeRows w H ((pos - ofeAbove w W H) / max 1 a)
    if !s.yieldOk i id pos c || decide (ofeAbove w W H + a * ceilDiv H 32 < pos) || !s.canReach i (s.ofeRun id i 0).2.2 c then s
    else s.engYield i id (4 + n) pos c

/-- An SGE job at a row step, `pos` steps behind it: in the first ⌈H / 2⌉ of them both pipes store their rows, in the others they finish rows
(R284, R291). -/
def sgeYieldOp (pos : Nat) (s : State) : State :=
  match s.runningOn 0x28 with
  | none => s
  | some i =>
    let H := (s.sgeSize (s.task i).part (s.task i).params).2
    let t := (H + 1) / 2
    let c := sgeRows H (pos - t)
    if !s.yieldOk i 0x28 pos c || decide (2 * t < pos) then s else s.engYield i 0x28 6 pos c

/-- COUNT of an FTE job of `n` keypoints whose FTE_PROGRESS is `v` (R325, R328). -/
def fteCountAt (n v : Nat) : Nat := if v / 2 ^ 30 = 2 then min n (v % 2 ^ 30) else if 2 < v / 2 ^ 30 then n else 0

/-- An FTE job at a yield point of its phase, `pos` as FTE_PROGRESS shows it (R324). -/
def fteYieldOp (pos : Nat) (s : State) : State :=
  match s.runningOn 0x29 with
  | none => s
  | some i =>
    let w := (s.task i).params
    let n := (s.fteRun 0x29 i 0).2.2.whole
    let c := fteCountAt n pos
    if !s.yieldOk i 0x29 pos c || !fteYieldPoint w (s.fteSize (s.task i).part w).2 n pos then s else s.engYield i 0x29 7 pos c

/-- STATE_BANK_YIELD: an OFE (0, 1), SGE (2) or FTE (3) job, or a run of neural core `e − 4`, at a yield point leaves its state in its
partition's bank. (DEDUCED, log 79) -/
def bankYieldOp (e pos : Nat) (s : State) : State :=
  if e < 2 then ofeYieldOp e pos s else if e = 2 then sgeYieldOp pos s else if e = 3 then fteYieldOp pos s else ncYieldOp (e - 4) s

def execStateBankYield (e : Fin 12) (pos : Nat) (s : State) : Host.Outcome State Fault Refusal := awakeNext s (bankYieldOp e pos s)

/-! ### Errors in working data (R257, R294, R321, R322) -/

/-- The job of engine `id` starts again from its operands, or ends with RETRY_EXHAUSTED. Track IDs it had taken are not issued again (R313). (DEDUCED, log 50) -/
def State.engParity (s : State) (id : Nat) : State :=
  match s.runningOn id with
  | none => s
  | some i =>
    if s.mayRepeat i then
      (s.dropIds i).modTask i (fun t => { t with repeats := t.repeats + 1, recomputed := true, progress := 0, pos := 0 })
    else s.failTask i St.retryExhausted

/-- PIPELINE_PARITY_ERROR (R257): an error in the working data of PGE0, PGE1, WPE0 or WPE1. -/
def pipeParityOp (e : Nat) (s : State) : State := s.engParity (0x22 + e)

def execPipelineParityError (e : Fin 4) (s : State) : Host.Outcome State Fault Refusal := awakeNext s (pipeParityOp e s)

/-- FLOW_STEREO_PARITY_ERROR (R294): engines OFE0, OFE1, SGE0. -/
def flowParityOp (e : Nat) (s : State) : State := s.engParity (0x26 + e)

def execFlowStereoParityError (e : Fin 3) (s : State) : Host.Outcome State Fault Refusal := awakeNext s (flowParityOp e s)

/-- FTE_PARITY_ERROR (R322). -/
def fteParityOp (s : State) : State := s.engParity 0x29

def execFteParityError (s : State) : Host.Outcome State Fault Refusal := awakeNext s (fteParityOp s)

/-- PAIR_TABLE_PARITY_ERROR (R321): the table is read again from its image, and the job that uses it is recomputed. (DEDUCED, log 49) -/
def pairParityOp (k : Nat) (s : State) : State :=
  match s.pairTable k with
  | none => s
  | some t =>
    let (s, st, bs) := s.readAgain (whoPart 0x29 t.owner) t.addr 1024 2
    let s := if st = St.done then { s with fte := setAt s.fte k (some { t with words := (List.range 256).map (wordAt bs) }) } else s
    match s.runningOn 0x29 with
    | some i => if ftePt (s.task i).params = k then s.engParity 0x29 else s
    | none => s

def execPairTableParityError (k : Fin 4) (s : State) : Host.Outcome State Fault Refusal := awakeNext s (pairParityOp k s)

/-! ### Engine control (R260, R261; the same in the chapters of OFE, SGE, FTE and the neural cores) -/

/-- Engine `e` of the control commands: PGE0, PGE1, WPE0, WPE1, OFE0, OFE1, SGE0, FTE0, then NC0 to NC7: its agent ID and registers. -/
def engineId (e : Nat) : Nat := if e < 8 then 0x22 + e else 0x10 + (e - 8)
def engineCtrl (e : Nat) : Nat := if e < 8 then R.ENG_CTRL e else R.NC_CTRL (e - 8)
def engineStatus (e : Nat) : Nat := if e < 8 then R.ENG_STATUS e else R.NC_STATUS (e - 8)

/-- ENGINE_ABORT (R261, R299, R376). -/
def engineAbortOp (ag : Agent) (e : Nat) (s : State) : State := s.abortOn ag (engineId e) (engineStatus e)

def execEngineAbort (ag : Agent) (e : Fin 16) (s : State) : Host.Outcome State Fault Refusal := awakeNext s (engineAbortOp ag e s)

/-- ENGINE_ENABLE: ENABLE of an engine's control register. -/
def engineEnableOp (ag : Agent) (e : Nat) (on : Bool) (s : State) : State :=
  if s.p3OrFull ag then (s.setFlag (engineCtrl e) 0 on).askYields else s.refuseSys ag

def execEngineEnable (ag : Agent) (e : Fin 16) (on : Bool) (s : State) : Host.Outcome State Fault Refusal := awakeNext s (engineEnableOp ag e on s)

/-- The counters of an engine (R260, R298, R328, R374). -/
def engineCounters (e : Nat) : List Nat :=
  if 8 ≤ e then
    let n := e - 8
    [R.NC_RUNS_CNT n, R.NC_STALL_US n, R.NC_YIELD_CNT n, R.NC_BUSY_US n, R.NC_ACC_SAT_CNT n, R.NC_OUT_SAT_CNT n, R.NC_EST_OVER_CNT n]
  else
  [R.ENG_JOBS_CNT e, R.ENG_STALL_US e, R.ENG_YIELD_CNT e] ++
  (if e = 2 ∨ e = 3 then [R.WPE_BORDER_CNT (e - 2), R.WPE_INVALID_CNT (e - 2), R.WPE_SPLIT_CNT (e - 2)]
   else if e = 4 ∨ e = 5 then [R.OFE_INVALID_CNT (e - 4), R.OFE_REACH_CNT (e - 4), R.OFE_PRIOR_ABSENT_CNT (e - 4)]
   else if e = 6 then [R.SGE_INVALID_CNT, R.SGE_LR_FAIL_CNT, R.SGE_RANGE_EDGE_CNT]
   else if e = 7 then [R.FTE_KP_CNT, R.FTE_MATCH_CNT, R.FTE_NEW_TRACK_CNT, R.FTE_DROP_TRACK_CNT, R.FTE_TT_FULL_CNT, R.FTE_TABLE_LOST_CNT]
   else [])

/-- ENGINE_CLEAR_COUNTS. -/
def engineClearOp (ag : Agent) (e : Nat) (s : State) : State := if s.p3OrFull ag then s.zeroRegs (engineCounters e) else s.refuseSys ag

def execEngineClearCounts (ag : Agent) (e : Fin 16) (s : State) : Host.Outcome State Fault Refusal := awakeNext s (engineClearOp ag e s)

/-! ### What an engine shows of a job (R144, R260, R298, R328, R374) -/

/-- A node that runs on engine `id` stalls on a slot ring (R188). (DESIGN CHOICE, log 78) -/
def State.ringStalls (s : State) (id : Nat) : Bool :=
  s.fgs.rings.any (fun x =>
    match s.ringJob x.graph x.idx with
    | none => false
    | some (y, _, j, e) =>
      let at_ (n : Nat) : Bool := match s.nodeTaskRunning j n with | some i => (s.task i).worker == some id | none => false
      (y.prodStall.isSome && at_ e.src) || (y.consStall.isSome && at_ e.dst))

/-- Engine `id` stands still for a slot ring or for power credits. (DESIGN CHOICE, log 78) -/
def State.engineStalls (s : State) (id : Nat) : Bool := s.ringStalls id || s.creditWaits id

/-- Whether engine `id` stalls in the present µs; none where that is a matter of its speed, of DRAM or of landing. An ISP instance counts landing
and its destinations, the others slot rings, DRAM and power credits. (DESIGN CHOICE, log 78) -/
def State.stallsNow (s : State) (id : Nat) : Option Bool :=
  if (s.runningOn id).isNone then some false
  else if s.ringStalls id then some true
  else if s.creditWaits id then some (id != 0x20 && id != 0x21)
  else none

/-- Engines with a stall counter: agent ID and register. (DESIGN CHOICE, log 78) -/
def stallRegs : List (Nat × Nat) :=
  (List.range 8).map (fun e => (engineId e, R.ENG_STALL_US e)) ++ (List.range 8).map (fun c => (0x10 + c, R.NC_STALL_US c))
    ++ (List.range 2).map (fun n => (0x20 + n, R.ISP_STALL_US n))

/-- A free choice among the values of `l`. -/
def State.pickOf (s : State) (l : List Nat) : State × Nat :=
  match l with
  | [] => (s, 0)
  | [x] => (s, x)
  | l =>
    let (q, s) := s.draw
    (s, l.getD ((Config.freeWord q).toNat % l.length) 0)

/-- STATE of engine `id`, which runs task `i` (R260, R298, R328, R374): STALLED while it waits for a slot ring or for credits; else LOADING,
RUNNING, STALLED on DRAM, or busy with a yield that was asked for or with a resume. (DESIGN CHOICE, log 17) -/
def State.engineState (s : State) (id i : Nat) : State × Nat :=
  let t := s.task i
  let pipe := decide (0x22 ≤ id ∧ id ≤ 0x25)
  if s.engineStalls id then (s, 3)
  else s.pickOf ([1, 2, 3] ++ (if t.yieldAsked || (!pipe && t.yielded) then [4] else []) ++ (if pipe && t.yielded then [5] else []))

/-- STATE of ISP instance `n` with frame `f` (R144): LOADING until its context is there; CHASING may show while the frame still lands, YIELDED once
a yield has been asked for. (DESIGN CHOICE, log 17) -/
def State.ispState (s : State) (f : IspFrame) : State × Nat :=
  if f.data.isEmpty then (s, 1)
  else s.pickOf ([2] ++ (if s.rowsLanded f = (s.stream f.stream).height then [] else [3]) ++ (if (s.task f.task).yieldAsked then [4] else []))

/-- FTE_PROGRESS of a job (R328): a free place in its phases, not before the last that is known. (DESIGN CHOICE, log 17) -/
def State.fteProgress (s : State) (i : Nat) : State × Nat :=
  let t := s.task i
  let w := t.params
  let H := (s.fteSize t.part w).2
  let n := (s.fteRun 0x29 i 0).2.2.whole
  let rows := ((List.range (fteLevels w)).map (halfSize H)).sum
  let upTo (ph m : Nat) : List Nat := (List.range (m + 1)).map (2 ^ 30 * ph + ·)
  let l := upTo 0 rows ++ (if fteDescribe w then upTo 1 n else []) ++ upTo 2 n ++ (if fteMatch w then upTo 3 (fteCap w) else [])
  let (s, v) := s.pickOf (l.filter (fun v => decide (t.pos ≤ v)))
  (s.modTask i (fun t => { t with pos := max t.pos v, progress := max t.progress (fteCountAt n v) }), v)

/-- COUNT of a running job so far (R144, R260, R298, R374): never less than it has shown. (DESIGN CHOICE, log 17) -/
def State.countShown (s : State) (id i : Nat) : State × Nat :=
  if 0x10 ≤ id ∧ id ≤ 0x17 then
    (s, match s.runOf i, s.segOfTask i with | some r, some x => r.tiles (s.cmdsOn x r.core) | _, _ => 0)
  else
    let l := s.countsNow i (s.engRun id i 0).2.2 (s.engRun id i 0).2.2.whole
    let (s, c) := s.pickOf l
    (s.modTask i (fun t => { t with progress := max t.progress c }), c)

end Sys2Proof.Machine
end

