-- ==== Sys2Proof/Machine/GpioOps.lean ====
section
/-! DEFINITION. The level at a GPIO ball and what its edges start (21_pins_electrical.md R662 to R664). -/

namespace Sys2Proof.Machine

/-- The level at the ball: OUT in OUTPUT mode, the pulse in STROBE mode, else what the outside gives (R662). (DEDUCED, log 75) -/
def State.gpioLevel (s : State) (n : Nat) : Bool :=
  match s.fld (R.SMC_GPIO_CFG n) 5 4 with
  | 1 => s.flag (R.SMC_GPIO_CFG n) 0
  | 2 => (s.gpio.strobe.getD n none).isSome
  | _ => s.gpio.ext.getD n false

/-- The ball is sampled in every mode (R663): a change of its level is an edge for the sequencer, the DMA engines and the APLIC. (DEDUCED, log 54) -/
def State.gpioSense (s : State) (n : Nat) : State :=
  let up := s.gpioLevel n
  if s.flag (R.SMC_GPIO_CFG n) 16 == up then s
  else
    let s := s.setFlag (R.SMC_GPIO_CFG n) 16 up
    (((s.fgsGpio n up).dmaGpio n up).irqRaise (26 + n)).irqDrop (26 + n)

/-- TIMt expires: a high pulse of 1 µs starts on every pin in STROBE mode that names it (R662, R664). (DEDUCED, log 75) -/
def State.gpioStrobe (s : State) (t : Nat) : State :=
  (List.range 16).foldl (fun s n =>
    if s.fld (R.SMC_GPIO_CFG n) 5 4 = 2 ∧ s.fld (R.SMC_GPIO_CFG n) 12 8 = t then
      State.gpioSense { s with gpio.strobe := setAt s.gpio.strobe n (some (1000 + s.now)) } n
    else s) s

/-- Pulses that are over end (R664). -/
def State.strobesEnd (s : State) : State :=
  (List.range 16).foldl (fun s n =>
    match s.gpio.strobe.getD n none with
    | some t => if t ≤ s.now then State.gpioSense { s with gpio.strobe := setAt s.gpio.strobe n none } n else s
    | none => s) s

end Sys2Proof.Machine
end

