-- ==== Sys2Proof/Machine/TasterOps.lean ====
section
/-! DEFINITION. The taster (15_functional_safety.md R522 to R529, R535, R536): what it reads, how it compares, how its verdicts and proof
compares end. -/

namespace Sys2Proof.Machine

/-- Whether a pair of elements agrees (R524): every FP32 operation is rounded to nearest even. -/
def tasteAgrees (abs rel a b : Fp) : Bool :=
  if a.isNan || b.isNan then a.isNan && b.isNan
  else if !a.lt b && !b.lt a then true
  else match a, b with
    | .fin _ _ _, .fin _ _ _ => !(fadd abs (fmul rel (fmax (fabs a) (fabs b)))).lt (fabs (fsub a b))
    | _, _ => false

/-- The task's H_W and H_E, tolerances and MAX_DIFF (R522, R530) with a status: words 0 to 3 of what the taster works with. -/
def State.tasterArgs (s : State) (i : Nat) : State × Nat × List Word :=
  match (s.task i).owner with
  | .node jid n =>
    let (s, st, ps) := s.readParams tasterUnit i 64
    let args := match s.job? jid with
      | none => []
      | some j => match s.graph? j.graph with | some g => (g.node n).args | none => []
    (s, st, [wd ps 0, wd args 0, wd args 1, wd args 2])
  | .proof set e _ =>
    let (s, st, bs) := s.readAgain ⟨tasterUnit, 0, 1⟩ (s.proofSetAddr set + 64 + 32 * e) 32 2
    (s, if st = St.integrity then St.retryExhausted else st, (List.range 4).map (wordAt bs))
  | .software => (s, St.internal, [])

/-- The two descriptors of a compare fit each other (R523). -/
def State.tastePair (s : State) (p hw he : Nat) : Bool :=
  match s.desc? p hw, s.desc? p he with
  | some a, some b =>
    !s.foreign p hw false && !s.foreign p he false && !s.isRing p hw && !s.isRing p he
      && a.elem == b.elem && a.rank == b.rank && (List.range a.rank).all (fun k => a.size k == b.size k)
  | _, _ => false

/-- Elements of a descriptor. -/
def State.tasteCount (s : State) (p h : Nat) : Nat := match s.desc? p h with | some d => d.count | none => 0

/-- The taster begins a task (R522, R523): it reads its arguments and pins the two descriptors. (DEDUCED, log 60) -/
def State.tasterStart (s : State) (i : Nat) : State × Nat :=
  let (s, st, ws) := s.tasterArgs i
  let p := (s.task i).part
  let hw := half ws 0 true
  let he := half ws 0 false
  if st ≠ St.done then (s, st)
  else if !s.tastePair p hw he then (s, St.descInvalid)
  else (s.startTask i ws [hw, he] [] (s.tasteCount p hw), St.done)

/-- One operand: its rows and, for SE8, the rows of its exponents. -/
def State.tasteOpnd (s : State) (i h : Nat) : State × Nat × Opnd :=
  let p := (s.task i).part
  let budget := match (s.task i).owner with | .proof _ _ _ => 2 | _ => s.readBudget i
  match s.desc? p h with
  | none => (s, St.descInvalid, ⟨h, ⟨[], 0⟩, [], []⟩)
  | some d =>
    let hs := if d.elem = El.se8 then [h, d.companion] else [h]
    let (s, st, r) := s.readTensors tasterUnit i hs budget
    (s, st, ⟨h, d, r.getD 0 [], r.getD 1 []⟩)

/-- Pairs that differ. -/
def tasteDiff (abs rel : Fp) (a b : Opnd) : Nat :=
  (a.d.all.filter (fun x => !tasteAgrees abs rel (a.at x).r32 (b.at x).r32)).length

/-- What a policy's history would hold with one more verdict `v`: those held, and those on their way (R528). -/
def State.tasteHist (s : State) (policy : Nat) (v : Bool) : List Bool :=
  let flying := (s.saf.verdicts.filter (fun e => e.1 == policy)).map (·.2)
  (v :: (flying.reverse ++ s.saf.hist.getD policy [])).take (s.fld (R.SAF_TP_CFG policy) 23 16)

/-- Verdicts of 1 in a history. -/
def ones (h : List Bool) : Nat := (h.filter id).length

/-- Whether a verdict of 1 that commits now trips its policy (R526, R529). (DEDUCED, log 60) -/
def State.tasteTrips (s : State) (policy : Nat) : Bool :=
  s.flag (R.SAF_TP_CFG policy) 31 && decide (s.fld (R.SAF_TP_CFG policy) 15 8 < ones (s.tasteHist policy true))

/-- The policy a TASTER node names (R522). (DEDUCED, log 60) -/
def State.tastePolicy (s : State) (i : Nat) : Option Nat :=
  match (s.task i).owner with
  | .node jid n =>
    match s.job? jid with
    | none => none
    | some j => (s.graph? j.graph).map (fun g => bits (wd (g.node n).args 3) 3 0)
  | _ => none

/-- The end of a taster's task: a node's commit, or a proof compare's outcome (R535, R536). -/
def State.tasterEnd (s : State) (i : Nat) (c : Commit) : State :=
  let t := s.task i
  let c := { c with flags := c.flags ||| recFlags false (s.anyLegacy t.part t.pinned) false false false }
  match (s.task i).owner with
  | .proof set e opened =>
    let s := s.finishTask i c
    match s.saf.proofs.find? (fun r => r.set == set && r.opened == opened && r.outcome == 0) with
    | none => s.postProofs
    | some r =>
      if c.status = St.untrusted then
        ((s.cause Cause.proofFail tasterUnit 0 0).proofOutcome set 2 e).postProofs
      else if c.status ≠ St.done then (s.proofOutcome set 3 0xFF).postProofs
      else
        let s := { s with saf.proofs := s.saf.proofs.map (fun (x : ProofRun) => if x.set = set then { x with agreed := x.agreed + 1 } else x) }
        (if r.agreed + 1 = r.total then s.proofOutcome set 1 0xFF else s).postProofs
  | _ => s.finishTask i c

/-- A taster's record (R526). -/
def tasterCommit (status detail count raised : Nat) : Commit :=
  ⟨status, tasterUnit, Kind.pipeline, detail, count, raised, 0, false, true⟩

/-- The compare is over (R524 to R526): the record with its verdict. (DEDUCED, log 60) -/
def State.tasterFinish (s : State) (i : Nat) : State :=
  let ws := (s.task i).params
  let (s, st, a) := s.tasteOpnd i (half ws 0 true)
  let (s, st', b) := s.tasteOpnd i (half ws 0 false)
  let bad := firstBad st st'
  if bad ≠ St.done then s.tasterEnd i (tasterCommit (exhausted bad) 0 0 (s.task i).marks)
  else
    let diff := tasteDiff (fpOf (wd ws 1).toNat) (fpOf (wd ws 2).toNat) a b
    let dis := decide ((wd ws 3).toNat < diff)
    let trip := dis && (match s.tastePolicy i with | some q => s.tasteTrips q | none => false)
    let detail := 2 ^ 15 * b2n dis + 2 ^ 14 * b2n trip + min diff 16383
    s.tasterEnd i (tasterCommit (if dis then St.untrusted else St.done) detail a.d.count
      ((s.task i).marks ||| (if dis then Mark.untrusted else 0)))

end Sys2Proof.Machine
end

