-- ==== Sys2Proof/Machine/Hts.lean ====
section
/-! DEFINITION. The commands of the task scheduler and the timers (05_task_scheduler.md R196 to R231). -/

namespace Sys2Proof.Machine

/-! ### Software posts (R219) -/

/-- The partition of post set `h`. -/
def State.setPart (s : State) (h : Nat) : Nat := s.fld (R.HTS_PS_PART h) 1 0

/-- A status in bits [31:24] as the answer of a read. -/
def State.answerStatus (s : State) (st : Nat) : State := s.answer (.data (BitVec.ofNat 32 (2 ^ 24 * st)))

/-- Whether the configuration of a post set breaks the first row of R219. -/
def State.postInvalid (s : State) (h : Nat) : Bool :=
  let c := s.reg (R.HTS_PS_CFG h)
  let cls := bits c 19 16
  let inst := bits c 15 12
  !(cls == 9 || decide (13 ≤ cls)) || !(decide (inst ≤ 7) || inst == 15) || bits c 31 26 != 0
    || (bit c 11 && s.reg (R.HTS_PS_MASK h) == 0) || (bit c 8 && s.groupPart (bits c 7 0) != s.setPart h)

/-- The task that post set `h` describes (R198, R202, R228). -/
def State.postTask (s : State) (h : Nat) : Task :=
  let c := s.reg (R.HTS_PS_CFG h)
  let p := s.setPart h
  { Task.freeOf 1 with
    part := p, cls := bits c 19 16, inst := bits c 15 12, level := floorLevel p (max (bits c 25 20) 1),
    modeAny := bit c 11, holdDone := bit c 10, ondone := bit c 9, group := if bit c 8 then some (bits c 7 0) else none,
    mask := s.reg (R.HTS_PS_MASK h), flags := s.reg (R.HTS_PS_FLAGS h),
    delay := s.fld (R.HTS_PS_TIME h) 15 0, timeout := s.fld (R.HTS_PS_TIME h) 31 16,
    args := (List.range 4).map (fun k => s.reg (R.HTS_PS_ARG h k)),
    ondoneTarget := s.reg (R.HTS_PS_ONDONE_TARGET h), ondoneFlags := s.reg (R.HTS_PS_ONDONE_FLAGS h), owner := .software }

/-- A software post refused with BUSY (R219, R223, R225), at the level and class of its task. -/
def State.postBusy (s : State) (ag : Agent) (h level cls detail : Nat) : State :=
  ((s.bump R.HTS_BUSY_CNT).crumb 6 (s.setPart h) level cls (agentId ag) detail 0).answerStatus St.busy

/-- POST_TRY (R219, R231). (DEDUCED, log 37) -/
def postTryOp (ag : Agent) (h : Nat) (s : State) : State :=
  let p := s.setPart h
  let t := { s.postTask h with poster := agentId ag }
  if !s.ofPart ag p then (s.refuse ag p).answerStatus St.partitionFault
  else if s.postInvalid h then s.answerStatus St.descInvalid
  else if s.postqFull then s.postBusy ag h t.level t.cls 2
  else if s.quotaLeft p = 0 then s.postBusy ag h t.level t.cls 3
  else
    match s.allocTask t with
    | (s, none) => s.postBusy ag h t.level t.cls 3
    | (s, some i) => ((s.enqueue (s.taskPost i)).setReg (R.HTS_PS_HANDLE h) (s.handle i)).answerStatus St.done

def execPostTry (ag : Agent) (h : Fin 8) (s : State) : Host.Outcome State Fault Refusal := awakeNext s (postTryOp ag h s)

/-- EVENT_TRY (R219, R231). (DEDUCED, log 37) -/
def eventTryOp (ag : Agent) (h : Nat) (s : State) : State :=
  let p := s.setPart h
  if !s.ofPart ag p then (s.refuse ag p).answerStatus St.partitionFault
  else if s.postqFull then s.postBusy ag h 0 0 2
  else
    (s.enqueue (.event (s.reg (R.HTS_PS_EVT_TARGET h)) (s.reg (R.HTS_PS_EVT_FLAGS h)) (agentId ag) p (isFull ag))).answerStatus St.done

def execEventTry (ag : Agent) (h : Fin 8) (s : State) : Host.Outcome State Fault Refusal := awakeNext s (eventTryOp ag h s)

/-- POST_QUEUE_TAKE (R198 to R202, R223): one post leaves the queue. -/
def postTakeOp (s : State) : State :=
  match s.hts.postq with
  | [] => s
  | q :: t =>
    let s := { s with hts.postq := t }
    match q with
    | .task i gen => s.takeTaskPost i gen
    | .event target flags agent part exempt => s.deliverEvent target flags agent part exempt

def execPostQueueTake (s : State) : Host.Outcome State Fault Refusal := awakeNext s (postTakeOp s)

/-! ### Delays and timeouts (R209 to R211) -/

/-- The first entry of the delay list that has expired, where it is of the kind asked for: those that expire together leave the list in the
order in which they entered it (R209). -/
def State.expired (s : State) (timeout : Bool) : Option Nat :=
  match s.hts.delays.find? (fun d => d.ticks == 0) with
  | some d => if d.isTimeout = timeout then some d.idx else none
  | none => none

/-- DELAY_EXPIRY (R198, R209): the task becomes READY, or WAITING with its timeout. (DEDUCED, log 38) -/
def delayExpiryOp (s : State) : State :=
  match s.expired false with
  | none => s
  | some i =>
    let s := { s with hts.delays := s.hts.delays.filter (·.idx != i) }
    let s := s.crumbTask 4 i 0x39 0
    if s.satisfied (s.task i) then s.makeReady i 0x39 false else s.enterWaiting i

def execDelayExpiry (s : State) : Host.Outcome State Fault Refusal := awakeNext s (delayExpiryOp s)

/-- TASK_TIMEOUT (R198, R209): the task becomes READY with TIMED_OUT = 1. (DEDUCED, log 38) -/
def taskTimeoutOp (s : State) : State :=
  match s.expired true with
  | none => s
  | some i => ((s.crumbTask 4 i 0x39 1).bump R.HTS_TIMEOUT_CNT).makeReady i 0x39 true

def execTaskTimeout (s : State) : Host.Outcome State Fault Refusal := awakeNext s (taskTimeoutOp s)

/-! ### Dispatch (R203 to R207, R216) -/

/-- A node's task receives its argument (R168). -/
def State.giveArg (s : State) (i : Nat) : State :=
  match (s.task i).owner with
  | .node jid n =>
    match s.job? jid with
    | none => s
    | some j => match s.graph? j.graph with
      | none => s
      | some g => s.modTask i (fun t => { t with args := s.nodeArg g j n })
  | _ => s

/-- A host core receives task `i`. -/
def State.giveCore (s : State) (n i : Nat) : State := ((s.giveArg i).assignCore n i).ringsAtDispatch i

/-- A core in TAKE mode takes task `i` (R215). -/
def State.takeCore (s : State) (n i : Nat) : State :=
  let s := s.giveArg i
  let s := s.setHcs n { s.hcs n with takeUntil := none }
  let s := ((s.startOn i n).showTask n i).ringsAtDispatch i
  s.answer (.data (s.handle i))

/-- The task core `n` may receive now. -/
def State.coreTask (s : State) (n : Nat) : Option Nat :=
  if s.flag R.HTS_CTRL 0 && (s.runningOn n).isNone && s.domState (domainOf n) == Dom.on then s.selectFor n else none

/-- Engine `id` starts task `i` (R232, R271, R282, R299, R360): a status other than DONE ends it. (DEDUCED, log 38) -/
def State.engineStart (s : State) (id i : Nat) : State × Nat :=
  if id = 0x22 ∨ id = 0x23 then s.pgeStart id i
  else if id = 0x24 ∨ id = 0x25 then s.wpeStart id i
  else if id = 0x26 ∨ id = 0x27 then s.ofeStart id i
  else if id = 0x28 then s.sgeStart id i
  else if id = 0x29 then s.fteStart id i
  else s.ncStart id i

/-- A job that has yielded resumes on engine `id` (R243, R254, R292). -/
def State.engineResume (s : State) (id i : Nat) : State :=
  let s := (s.takeCredits i id).ringsOpen i
  if id = 0x22 ∨ id = 0x23 then s.pgeResume id i
  else if 0x10 ≤ id ∧ id ≤ 0x17 then s.ncResume i
  else s

/-- An engine that is free takes the task selected for it: a new one starts, a yielded one resumes. -/
def State.engineDispatch (s : State) (id : Nat) : State :=
  if (s.runningOn id).isSome || s.domState (domainOf id) != Dom.on then s
  else match s.selectFor id with
    | none => s
    | some i =>
      let s := (s.giveArg i).startOn i id
      if (s.task i).started then s.engineResume id i
      else
        let (s, st) := s.engineStart id i
        if st = St.done then (s.takeCredits i id).ringsAtDispatch i else s.failTask i st

/-- The DMA engine of partition `e` takes a DMA_MOVE task on its channel (R445). -/
def State.dmaDispatch (s : State) (e : Nat) : State :=
  let id := 0x30 + e
  match s.taskChan e, s.selectFor id with
  | some c, some i =>
    let s := (s.giveArg i).startOn i id
    match (s.task i).owner with
    | .node jid n =>
      match s.job? jid with
      | none => s
      | some j => match s.graph? j.graph with
        | none => s
        | some g =>
          if (g.node n).paramLen < 64 then
            s.finishTask i ⟨St.descInvalid, id, Kind.dma, c, 0, 0, 0, false, true⟩
          else (s.chStart e c (paramAddr g j n) (some i)).ringsAtDispatch i
    | _ => s
  | _, _ => s

/-- The task that R203 selects enters the ISP frame queue while it holds fewer than 64 frames (R125, R204). -/
def State.ispEnqueue (s : State) : State :=
  match s.bestOf (s.hts.ready.filter (fun i => (s.task i).cls == 0)) with
  | none => s
  | some i =>
    if s.isp.queue.length < 64 then
      let s := s.giveArg i
      State.askYields { s with hts.ready := s.hts.ready.filter (· != i), isp.queue := s.isp.queue ++ [i] }
    else s.crumb 6 (s.task i).part (s.task i).level 0 0x39 4 0

/-- TASK_DISPATCH (R203, R204, R206): worker `w` receives the selected task. -/
def dispatchOp (w : Agent) (s : State) : State :=
  if !s.flag R.HTS_CTRL 0 then s
  else match w with
    | .hc n =>
      match s.coreTask n with
      | none => s
      | some i =>
        if s.takeMode n then (if (s.hcs n).takeUntil.isSome then s.takeCore n i else s) else s.giveCore n i
    | .isp _ => s.ispEnqueue
    | .dmae e => s.dmaDispatch e
    | .fgs =>
      match s.selectFor emitUnit with
      | none => s
      | some i => if s.emitWaits i then s else (((s.giveArg i).startOn i emitUnit).ringsAtDispatch i).emit i
    | .safety =>
      if (s.runningOn tasterUnit).isSome then s
      else match s.selectFor tasterUnit with
        | none => s
        | some i =>
          let (s, st) := ((s.giveArg i).startOn i tasterUnit).tasterStart i
          if st = St.done then s.ringsAtDispatch i else s.tasterEnd i (tasterCommit st 0 0 0)
    | .nc n => s.engineDispatch (0x10 + n)
    | .pge n => s.engineDispatch (0x22 + n)
    | .wpe n => s.engineDispatch (0x24 + n)
    | .ofe n => s.engineDispatch (0x26 + n)
    | .sge => s.engineDispatch 0x28
    | .fte => s.engineDispatch 0x29
    | _ => s

def execTaskDispatch (w : Agent) (s : State) : Host.Outcome State Fault Refusal := awakeNext s (dispatchOp w s)

/-- WINDOW_OPEN (R205, R207): engines whose window has opened are asked to yield. -/
def execWindowOpen (s : State) : Host.Outcome State Fault Refusal := awakeNext s s.askYields

/-! ### Host cores (R214 to R218) -/

/-- TAKE (R215, R231): a read of HTS_TAKE_n. (DEDUCED, log 37) -/
def takeOp (ag : Agent) (n : Nat) (s : State) : State :=
  if agentId ag ≠ n then (s.refuseSys ag).answer (.data 0)
  else if !s.takeMode n || (s.hcs n).takeUntil.isSome then s.answer (.data 0)
  else if (s.runningOn n).isSome then (s.bump R.HTS_PROTO_CNT).answer (.data 0)
  else match s.coreTask n with
    | some i => s.takeCore n i
    | none =>
      let us := min (s.fld (R.HTS_HC_CFG n) 19 8) 1000
      if us = 0 then s.answer (.data 0)
      else (s.setHcs n { s.hcs n with takeUntil := some (s.now + 1000 * us) }).answer .nothing

def execHtsTake (ag : Agent) (n : Fin 8) (s : State) : Host.Outcome State Fault Refusal := awakeNext s (takeOp ag n s)

/-- TAKE_TIMEOUT (R215): a stalled read returns 0. -/
def takeTimeoutOp (n : Nat) (s : State) : State :=
  match (s.hcs n).takeUntil with
  | some t => if t ≤ s.now then (s.setHcs n { s.hcs n with takeUntil := none }).answer (.data 0) else s
  | none => s

def execTakeTimeout (n : Fin 8) (s : State) : Host.Outcome State Fault Refusal := awakeNext s (takeTimeoutOp n s)

/-- A core in INTERRUPT mode is given the task selected for it (R216). -/
def State.reassign (s : State) (n : Nat) : State :=
  if s.takeMode n then s else match s.coreTask n with | some i => s.giveCore n i | none => s

/-- HTS_DONE (R217, R218, R220, R231): the RUNNING task commits; the DETAIL of a HOST node's record, which no rule states, is a free
value. -/
def htsDoneOp (ag : Agent) (n : Nat) (v : Word) (s : State) : State :=
  if agentId ag ≠ n then s.refuseSys ag
  else match s.runningOn n with
    | none => s.bump R.HTS_PROTO_CNT
    | some i =>
      let ab := (s.task i).abortPending
      let waits := (s.hcs n).preempt.isSome
      let (q, s) := s.draw
      let s := s.clearCore n
      let s := s.finishTask i ⟨if ab then St.aborted else bits v 31 24, n, Kind.node, (Config.freeWord q).toNat % 65536, bits v 23 0, 0,
        recFlags false false ab false false, false, true⟩
      if waits then s.reassign n else s

def execHtsDone (ag : Agent) (n : Fin 8) (v : Word) (s : State) : Host.Outcome State Fault Refusal := awakeNext s (htsDoneOp ag n v s)

/-- HTS_YIELD (R216, R218, R231): the RUNNING task returns to the head of its list, and the core is assigned anew. (DEDUCED, log 37) -/
def htsYieldOp (ag : Agent) (n : Nat) (v : Word) (s : State) : State :=
  if agentId ag ≠ n then s.refuseSys ag
  else if !bit v 0 then s
  else match s.runningOn n with
    | none => s.bump R.HTS_PROTO_CNT
    | some i =>
      let cause := match (s.hcs n).preempt with | some k => (s.task k).level | none => (s.task i).level
      ((s.clearCore n).yieldTask i cause).reassign n

def execHtsYield (ag : Agent) (n : Fin 8) (v : Word) (s : State) : Host.Outcome State Fault Refusal := awakeNext s (htsYieldOp ag n v s)

/-! ### Aborts and releases (R220, R221) -/

/-- HTS_ABORT (R221). (DEDUCED, log 37, DESIGN CHOICE, log 85) -/
def htsAbortOp (ag : Agent) (v : Word) (s : State) : State :=
  if !bit v 31 || s.cmdBusy R.HTS_ABORT_STATUS then s
  else
    let reply (s : State) (st : Nat) : State :=
      (s.setReg R.HTS_ABORT_STATUS (BitVec.ofNat 32 (2 ^ 24 * st))).cmdBegin R.HTS_ABORT_STATUS (Config.cmdTime R.HTS_ABORT_STATUS s.now)
    match s.named (s.reg R.HTS_ABORT_HANDLE) with
    | none => reply s St.rangeFault
    | some i =>
      let t := s.task i
      if !s.ofPart ag t.part then reply (s.refuse ag t.part) St.partitionFault
      else if t.owner != .software then reply s St.descInvalid
      else if t.state == .done then reply s St.abortLate
      else if t.state == .running then reply (s.modTask i (fun t => { t with abortPending := true })) St.done
      else reply (s.commitSoftware i St.aborted) St.done

def execHtsAbort (ag : Agent) (v : Word) (s : State) : Host.Outcome State Fault Refusal := awakeNext s (htsAbortOp ag v s)

/-- HTS_FREE (R198, R220): a DONE software task is released. -/
def htsFreeOp (ag : Agent) (v : Word) (s : State) : State :=
  match s.named v with
  | none => s
  | some i =>
    let t := s.task i
    if t.owner != .software || t.state != .done then s
    else if s.ofPart ag t.part then s.releaseTask i
    else s.refuse ag t.part

def execHtsFree (ag : Agent) (v : Word) (s : State) : Host.Outcome State Fault Refusal := awakeNext s (htsFreeOp ag v s)

/-! ### Registers with rows of their own (R196, R201, R205, R210, R227, R231) -/

/-- GROUP_FLAGS_CLEAR (R201, R231): the flags named are cleared. -/
def groupClearOp (ag : Agent) (g : Nat) (v : Word) (s : State) : State :=
  if s.ofPart ag (s.groupPart g) then s.groupClear g v else s.refuse ag (s.groupPart g)

def execGroupFlagsClear (ag : Agent) (g : Fin 256) (v : Word) (s : State) : Host.Outcome State Fault Refusal :=
  awakeNext s (groupClearOp ag g v s)

/-- HTS_TICK_WRITE (R210): the value takes effect at the next boundary of the old tick. -/
def htsTickOp (v : Word) (s : State) : State :=
  if 1 ≤ bits v 9 0 ∧ bits v 9 0 ≤ 1000 then s.setFld R.HTS_TICK 9 0 (bits v 9 0) else s

def execHtsTickWrite (_ag : Agent) (v : Word) (s : State) : Host.Outcome State Fault Refusal := awakeNext s (htsTickOp v s)

/-- HTS_MAJOR_CYCLE_WRITE (R205, R231). -/
def majorCycleOp (ag : Agent) (v : Word) (s : State) : State :=
  s.systemWrite ag (fun s =>
    if 10 ≤ bits v 9 0 ∧ bits v 9 0 ≤ 1000 then s.setFld R.HTS_MAJOR_CYCLE 9 0 (bits v 9 0) else s)

def execHtsMajorCycleWrite (ag : Agent) (v : Word) (s : State) : Host.Outcome State Fault Refusal := awakeNext s (majorCycleOp ag v s)

/-- HTS_QUOTA_WRITE (R196, R231). -/
def htsQuotaOp (ag : Agent) (p : Nat) (v : Word) (s : State) : State :=
  s.systemWrite ag (fun s =>
    let others := (((List.range 4).filter (· != p)).map (fun q => s.fld (R.HTS_QUOTA q) 13 0)).sum
    if others + bits v 13 0 ≤ 8192 then s.setFld (R.HTS_QUOTA p) 13 0 (bits v 13 0) else s)

def execHtsQuotaWrite (ag : Agent) (p : Fin 4) (v : Word) (s : State) : Host.Outcome State Fault Refusal := awakeNext s (htsQuotaOp ag p v s)

/-- HTS_ENABLE (R227). -/
def execHtsEnable (_ag : Agent) (on : Bool) (s : State) : Host.Outcome State Fault Refusal := awakeNext s (s.setFlag R.HTS_CTRL 0 on)

/-- The counters of the scheduler (R227). -/
def htsCounters : List Nat := [R.HTS_POSTS_CNT, R.HTS_BUSY_CNT, R.HTS_HELD_US, R.HTS_STALE_EVENT_CNT, R.HTS_LATE_EVENT_CNT,
  R.HTS_PREEMPT_CNT, R.HTS_TIMEOUT_CNT, R.HTS_PROTO_CNT]

/-- HTS_CLEAR_COUNTS (R227). -/
def execHtsClearCounts (_ag : Agent) (s : State) : Host.Outcome State Fault Refusal := awakeNext s (s.zeroRegs htsCounters)

/-! ### Timers (R212, R213, R230) -/

def State.timer (s : State) (n : Nat) : TimerSt := s.hts.timers.getD n ⟨none, false⟩
def State.setTimer (s : State) (n : Nat) (t : TimerSt) : State := { s with hts.timers := setAt s.hts.timers n t }

/-- PERIOD and PHASE allow an expiry (R212, R230). -/
def State.timerRuns (s : State) (n : Nat) : Bool :=
  (s.reg (R.TIM_PERIOD n)).toNat != 0 && decide ((s.reg (R.TIM_PHASE n)).toNat < (s.reg (R.TIM_PERIOD n)).toNat)

/-- The first local instant, in whole µs, after `us` at which the timer expires (R212). (DEDUCED, log 39) -/
def nextExpiry (period phase us : Nat) : Nat :=
  if us < phase then phase else us + (period - (us - phase) % period)

/-- The next expiry after `us`, computed from PERIOD and PHASE as they stand. (DEDUCED, log 39) -/
def State.timerArm (s : State) (n us : Nat) : State :=
  let due := if s.flag (R.TIM_CTRL n) 0 && s.timerRuns n then
      some (nextExpiry (s.reg (R.TIM_PERIOD n)).toNat (s.reg (R.TIM_PHASE n)).toNat us) else none
  s.setTimer n { s.timer n with due := due }

/-- The event of a timer is posted with the timer's partition as poster (R213). (DEDUCED, log 39) -/
def State.timerEvent (s : State) (n : Nat) : State :=
  (s.setTimer n { s.timer n with undelivered := false }).deliverEvent (s.reg (R.TIM_EVENT_TARGET n)) (s.reg (R.TIM_EVENT_FLAGS n)) 0x39
    (s.fld (R.TIM_CTRL n) 31 30) false

/-- TIMER_EXPIRY (R158, R212, R213, R439, R664). With `held` the delivery of the event has not come about when the command ends; one
that is still undelivered merges with the next. (DEDUCED, log 10, DEDUCED, log 39) -/
def timerExpiryOp (n : Nat) (held : Bool) (s : State) : State :=
  match (s.timer n).due with
  | some d =>
    if !s.timerRuns n then s.setTimer n { s.timer n with due := none }
    else if s.now < 1000 * d then (if (s.timer n).undelivered && !held then s.timerEvent n else s)
    else
      let s := s.setReg (R.TIM_COUNT n) (s.reg (R.TIM_COUNT n) + 1)
      let s := if s.flag (R.TIM_CTRL n) 1 then s else s.setFlag (R.TIM_CTRL n) 0 false
      let s := s.timerArm n d
      let s := ((s.fgsTimer n).dmaTimer n).gpioStrobe n
      if s.flag (R.TIM_CTRL n) 2 then
        let s := if (s.timer n).undelivered then s.incReg (R.TIM_OVERRUN n) 1 else s
        if held then s.setTimer n { s.timer n with undelivered := true } else s.timerEvent n
      else s
  | none => if (s.timer n).undelivered && !held then s.timerEvent n else s

def execTimerExpiry (n : Fin 32) (held : Bool) (s : State) : Host.Outcome State Fault Refusal := awakeNext s (timerExpiryOp n held s)

/-- TIMER_ENABLE: a write of TIM_CTRL_n (R212, R230, R231). -/
def timerCtrlOp (ag : Agent) (n : Nat) (v : Word) (s : State) : State :=
  let p := s.fld (R.TIM_CTRL n) 31 30
  if !s.ofPart ag p then s.refuse ag p
  else
    let s := if bits v 31 30 = p then s else s.systemWrite ag (fun s => s.setFld (R.TIM_CTRL n) 31 30 (bits v 31 30))
    let was := s.flag (R.TIM_CTRL n) 0
    let s := s.setFld (R.TIM_CTRL n) 2 0 (bits v 2 0)
    if bit v 0 then (if was then s else s.timerArm n s.nowUs) else s.setTimer n { s.timer n with due := none }

def execTimerEnable (ag : Agent) (n : Fin 32) (v : Word) (s : State) : Host.Outcome State Fault Refusal := awakeNext s (timerCtrlOp ag n v s)

end Sys2Proof.Machine
end

