-- ==== Sys2Proof/Machine/LockOps.lean ====
section
/-! DEFINITION. Proof sets (15_functional_safety.md R530, R531) and the checks of the partition configuration lock (R520). -/

namespace Sys2Proof.Machine

/-- The entries of a proof set at `a` whose header `h` was read. -/
def State.readEntries (s : State) (a : Nat) (h : List Byte) : State × List Byte :=
  let n := bits (wordAt h 0) 7 0
  if n = 0 ∨ 64 < n ∨ dramEnd < a + 64 + 32 * n then (s, [])
  else
    let r := s.readAgain ⟨tasterUnit, 0, 1⟩ (a + 64) (32 * n) 2
    (r.1, if r.2.1 = St.done then h ++ r.2.2 else [])

/-- The island reads header and entries of proof set `k`; nothing when the set does not lie in DRAM or cannot be read. -/
def State.readSet (s : State) (k : Nat) : State × List Byte :=
  let a := s.proofSetAddr k
  if a % 64 ≠ 0 ∨ dramEnd < a + 64 then (s, [])
  else
    let r := s.readAgain ⟨tasterUnit, 0, 1⟩ a 64 2
    if r.2.1 ≠ St.done then (r.1, []) else r.1.readEntries a r.2.2

/-- Header words of a proof set are well formed, and its CRC is right (R530). -/
def setHeadOk (bs : List Byte) : Bool :=
  let w := wordAt bs
  decide (96 ≤ bs.length) && bits (w 0) 31 24 == 1 && bits (w 0) 23 16 == 0
    && bits (w 1) 31 26 == 0 && bits (w 1) 15 0 == 0 && ((List.range 13).all (fun i => w (i + 2) == 0))
    && w 15 == crc32c (bs.take 60 ++ bs.drop 64)
def psGraph (bs : List Byte) : Nat := bits (wordAt bs 0) 15 8
def psStream (bs : List Byte) : Nat := bits (wordAt bs 1) 25 16
def psEntry (bs : List Byte) (e k : Nat) : Word := wordAt bs (16 + 8 * e + k)

/-- GRAPH is a P0 graph of the kind R531 asks for, bound to STREAM alone. -/
def psGraphOk (g : Graph) (stream : Nat) : Bool :=
  g.part == 0 && g.trigKind == 0 && g.maxJobs == 1 && g.nodes.all (fun n => n.prio == 0) && g.streams == [⟨true, stream⟩]

/-- One entry (R531): both handles fit, the tolerances are right, and the expected output lies in pantry ranges of P0. -/
def State.setEntryOk (s : State) (bs : List Byte) (e : Nat) : Bool :=
  let h := psEntry bs e 0
  (List.range 4).all (fun k => psEntry bs e (4 + k) == 0) && tolOk (psEntry bs e 1) && tolOk (psEntry bs e 2)
    && s.tastePair 0 (bits h 31 16) (bits h 15 0)
    && (match s.desc? 0 (bits h 15 0) with
        | none => false
        | some d => match s.region? d.region with
          | none => false
          | some r => r.kind == RK.dram
            && s.pantryCovers 0 (((r.base : Int) + d.reach.1).toNat) ((d.reach.2 + 1 - d.reach.1).toNat))

/-- Every condition of R531 that can be judged (the pixels of slot 0 are whatever was stored there). -/
def State.proofSetOk (s : State) (k : Nat) (bs : List Byte) : Bool :=
  let x := s.stream (psStream bs)
  setHeadOk bs
    && (match s.graph? (psGraph bs) with | some g => psGraphOk g (psStream bs) | none => false)
    && x.enabled && x.part == 0 && x.ringFrames == 2
    && (List.range (bits (wordAt bs 0) 7 0)).all (fun e => s.setEntryOk bs e)
    && s.pantryCovers 0 (s.proofSetAddr k) bs.length && s.pantryCovers 0 x.ringBase (2 * x.frameStride)

/-- The valid proof sets, in ascending order. -/
def State.validSets (s : State) : List Nat := (List.range 8).filter (fun k => s.flag (R.SAF_PS_CFG k) 31)

/-- The valid sets as read. -/
def State.readSets (s : State) : State × List (Nat × List Byte) :=
  s.validSets.foldl (fun (acc : State × List (Nat × List Byte)) k => ((acc.1.readSet k).1, acc.2 ++ [(k, (acc.1.readSet k).2)])) (s, [])

/-- The first set that breaks a rule (check 5). -/
def State.badSet (s : State) (sets : List (Nat × List Byte)) : Option Nat := (sets.find? (fun e => !s.proofSetOk e.1 e.2)).map (·.1)

/-- Window tables that a node's kind uses (R205). (DEDUCED, log 58) -/
def nodeTables (n : NodeDesc) : List Nat :=
  if n.kind ≤ 5 then [n.kind]
  else if n.kind = NK.nc then (if n.inst ≤ 3 ∨ n.inst = 8 then [6] else if n.inst ≤ 7 ∨ n.inst = 9 then [7] else [6, 7])
  else []

/-- How far P0 windows cover the time from `x` on without a gap, in a table that starts at `at0`. (DEDUCED, log 58) -/
def coverTo : List (Nat × Nat) → Nat → Nat → Nat
  | [], _, x => x
  | (p, l) :: t, at0, x => coverTo t (at0 + l) (if p = 0 ∧ at0 ≤ x ∧ x < at0 + l then at0 + l else x)

/-- Resident graphs in ascending ID. -/
def State.graphList (s : State) : List Graph := (List.range 256).filterMap (fun g => s.graph? g)

/-- The L3 ways of a partition (R462). (DEDUCED, log 58) -/
def State.l3Ways (s : State) (p : Nat) : Nat :=
  s.fld (if p < 2 then R.MBX_L3_WAYS_LO else R.MBX_L3_WAYS_HI) (16 * (p % 2) + 15) (16 * (p % 2))

/-- The first failing check of R520 after those of the proof sets: `proof` are the proof graphs' IDs. (DEDUCED, log 58) -/
def State.lateChecks (s : State) (proof : List Nat) : Nat × Nat :=
  let gs := s.graphList
  let safe := gs.filter (fun g => decide (g.part < 2))
  let pg := gs.filter (fun g => proof.contains g.id)
  let kinds (l : List Graph) : List Nat := l.flatMap (fun g => g.nodes.map (·.kind))
  let ws := 10000 * s.fld R.SAF_PROOF_PHASE 16 0
  let we := ws + 10000 * s.fld R.SAF_PROOF_LEN 16 0
  let tabs := pg.flatMap (fun g => g.nodes.flatMap nodeTables)
  if !safe.isEmpty && proof.isEmpty then (6, 0)
  else match (List.range 16).find? (fun k => (kinds safe).contains k && !(kinds pg).contains k) with
  | some k => (7, k)
  | none =>
    if s.majorNs < we then (8, 0)
    else match (List.range 8).find? (fun t => tabs.contains t && decide (coverTo (s.windows t) 0 ws < we)) with
    | some t => (8, t)
    | none =>
      match safe.find? (fun g => !proof.contains g.id && g.nodes.any (fun n => n.prio == 0)) with
      | some g => (9, g.id)
      | none =>
        match gs.find? (fun g => g.nodes.any (fun n => n.kind == NK.taster
            && !(s.flag (R.SAF_TP_CFG (bits (wd n.args 3) 3 0)) 31 && s.fld (R.SAF_TP_CFG (bits (wd n.args 3) 3 0)) 29 28 == g.part))) with
        | some g => (10, g.id)
        | none => (0, 0)

/-- Checks 1 to 4 of R520: the first one that fails and its DETAIL, or (0, 0). (DEDUCED, log 58) -/
def State.earlyChecks (s : State) : Nat × Nat :=
  match (List.range 8).find? (fun t => decide (s.majorNs < ((s.windows t).map (·.2)).sum)) with
  | some t => (1, t)
  | none =>
    match (List.range 4).find? (fun p => s.host.home.contains p && s.l3Ways p == 0) with
    | some p => (2, p)
    | none =>
      if s.fgs.graphs.any (fun g => g.part == 0) && decide (s.fld (R.DMC_SHARE 0) 6 0 < 2) then (3, 0)
      else if s.majorNs = 0 ∨ 1000000 * s.fld R.SAF_PROOF_CFG 9 0 % s.majorNs ≠ 0 then (4, 0)
      else (0, 0)

/-- The checks of the lock in the order of R520: the first one that fails and its DETAIL, or (0, 0). (DEDUCED, log 58) -/
def State.lockChecks (s : State) : State × Nat × Nat :=
  if s.earlyChecks.1 ≠ 0 then (s, s.earlyChecks)
  else
    let r := s.readSets
    match r.1.badSet r.2 with
    | some k => (r.1, 5, k)
    | none => (r.1, r.1.lateChecks (r.2.map (fun e => psGraph e.2)))

/-- The first time at or after now at which a proof window opens in an interval that begins at or after now (R533). (DEDUCED, log 59) -/
def State.firstInterval (s : State) : Nat :=
  let per := 1000000 * s.fld R.SAF_PROOF_CFG 9 0
  ceilDiv s.now per * per + 10000 * s.fld R.SAF_PROOF_PHASE 16 0

/-- The lock granted (R520, R521). -/
def State.lockGrant (s : State) : State :=
  let s := (s.setReg R.SAF_LOCK_STATUS 0).setFlag R.SAF_STATUS 4 true
  let s := s.setFld R.SAF_STATUS 2 0 Island.lockedSt
  { s with
    streams := s.streams.map (fun e => (e.1, { e.2 with lockedPart := some e.2.part }))
    saf := { s.saf with nextInterval := some s.firstInterval, heartbeat := none } }

/-- The lock turned away: check `c` with DETAIL `d` (R520). -/
def State.lockDeny (s : State) (c d : Nat) : State :=
  (s.setReg R.SAF_LOCK_STATUS (BitVec.ofNat 32 (2 ^ 24 * St.descInvalid + 2 ^ 20 * c + 16 * (d % 256)))).setFld R.SAF_STATUS 2 0 Island.lockedFailed

/-- The island's answer to a lock request in BOOT (R520, R521, R542); nothing leaves SAFE, which a pantry block found lost by the checks may
have entered. (DEDUCED, log 58) -/
def State.lockRequest (s : State) : State :=
  let r := s.lockChecks
  if r.1.isSafe then r.1
  else if r.2.1 = 0 then r.1.lockGrant else r.1.lockDeny r.2.1 r.2.2

end Sys2Proof.Machine
end

