-- ==== Sys2Proof/Machine/Island.lean ====
section
/-! DEFINITION. The commands of the safety island (15_functional_safety.md R514 to R549). -/

namespace Sys2Proof.Machine

/-! ### Register commands (R549) -/

/-- A write that P0 agents may make too: nothing in SAFE and OFF; reported when the agent may not (R549). -/
def State.safWrite (s : State) (ag : Agent) (f : State → State) : State :=
  if s.isSafe then s else if isFull ag || s.partOf ag == 0 then f s else s.refuseSys ag

/-- The runtime is ready once the SMC's request after the boot has been answered (R600). -/
def State.runtimeReady (s : State) : State :=
  if s.sec.step = 6 then State.setFlag { s with sec := { s.sec with step := 7 } } R.SEC_STATUS 3 true else s

/-- LOCK_REQ (R520, R548, R549): from the SMC alone; BUSY after a refusal. -/
def lockReqOp (ag : Agent) (s : State) : State :=
  if s.isSafe then s
  else if ag ≠ .smc then s.refuseSys ag
  else if s.island = Island.lockedFailed then s.setFld R.SAF_LOCK_STATUS 31 24 St.busy
  else if s.island = Island.boot ∧ !s.locked then s.lockRequest.runtimeReady.cmdBegin R.SAF_LOCK_STATUS 5000000
  else s

def execSafLockReq (ag : Agent) (s : State) : Host.Outcome State Fault Refusal := awakeNext s (lockReqOp ag s)

/-- ARM (R542): ignored before the lock and in LOCKED_FAILED. -/
def armOp (ag : Agent) (s : State) : State :=
  s.safWrite ag (fun s => if s.locked then (s.setFlag R.SAF_STATUS 5 true).maybeRun else s)

def execSafArm (ag : Agent) (s : State) : Host.Outcome State Fault Refusal := awakeNext s (armOp ag s)

/-- SAF_FORCE.GO is the cause REQUESTED (R540, R546). -/
def safForceOp (ag : Agent) (s : State) : State :=
  s.safWrite ag (fun s => s.cause Cause.requested (agentId ag) (s.partOf ag) (BitVec.ofNat 32 (agentId ag)))

def execSafForce (ag : Agent) (s : State) : Host.Outcome State Fault Refusal := awakeNext s (safForceOp ag s)

/-- SAF_HEARTBEAT (R539): supervision starts at the first write after the lock. -/
def safHeartbeatOp (ag : Agent) (s : State) : State :=
  s.safWrite ag (fun s =>
    if s.locked && s.fld R.SAF_HB_CFG 16 0 != 0 then { s with saf := { s.saf with heartbeat := some s.now } } else s)

def execSafHeartbeat (ag : Agent) (s : State) : Host.Outcome State Fault Refusal := awakeNext s (safHeartbeatOp ag s)

/-- A gap longer than HB_US (R539): a cause or a notice by SAF_REACT; after a notice the next HB_US without a write is another gap. (DEDUCED, log 61) -/
def heartbeatOp (s : State) : State :=
  let hb := s.fld R.SAF_HB_CFG 16 0
  match s.saf.heartbeat with
  | none => s
  | some t =>
    if hb = 0 ∨ s.isSafe ∨ s.now ≤ t + 1000 * hb then s
    else
      let s : State := { s with saf := { s.saf with heartbeat := some s.now } }
      if s.flag R.SAF_REACT 0 then s.cause Cause.heartbeat 0xFF 0 0 else s.notice Notice.heartbeat

def execHeartbeatTimeout (s : State) : Host.Outcome State Fault Refusal := awakeNext s (heartbeatOp s)

/-- SAF_CAUSE_CLEAR.GO empties the retention memory (R547); BOOT_SEQ counts the boots since (R546). (DEDUCED, log 61) -/
def causeClearOp (ag : Agent) (s : State) : State :=
  s.safWrite ag (fun s => { s with saf := { s.saf with retention := [], bootSeq := 0 } })

def execSafCauseClear (ag : Agent) (s : State) : Host.Outcome State Fault Refusal := awakeNext s (causeClearOp ag s)

/-- The counters of the island (R548). -/
def safCounters : List Nat := [R.SAF_DISAGREE_CNT, R.SAF_UNTRUSTED_CNT, R.SAF_PROOF_PASS_CNT, R.SAF_PROOF_MISS_CNT, R.SAF_WD_NOTICE_CNT]

/-- SAF_CLEAR_COUNTS (R548, R549). -/
def safClearOp (ag : Agent) (s : State) : State := s.safWrite ag (fun s => s.zeroRegs safCounters)

def execSafClearCounts (ag : Agent) (s : State) : Host.Outcome State Fault Refusal := awakeNext s (safClearOp ag s)

/-! ### Faults (R516, R517, R538) -/

/-- LOCKSTEP_MISMATCH (R517): in hardware. -/
def execLockstepMismatch (s : State) : Host.Outcome State Fault Refusal := awakeNext s (s.cause Cause.lockstep 0xFF 0 0)

/-- CLOCK_FAULT (R516, R540). -/
def execClockFault (s : State) : Host.Outcome State Fault Refusal := awakeNext s (s.cause Cause.clockFault 0xFF 0 0)

/-- WD_EVENT_ARRIVAL (R538, R546): the oldest LATE or EARLY of a P0 node on its way. -/
def wdEventOp (s : State) : State :=
  match s.saf.wdEvents with
  | [] => s
  | (info, early, toSafe) :: t =>
    let s : State := { s with saf := { s.saf with wdEvents := t } }
    if toSafe then s.cause (if early = 1 then Cause.wdEarly else Cause.wdLate) 0x38 0 (BitVec.ofNat 32 info)
    else (s.bump R.SAF_WD_NOTICE_CNT).notice Notice.wdMark

def execWdEventArrival (s : State) : Host.Outcome State Fault Refusal := awakeNext s (wdEventOp s)

/-- SAFE_OFF_DROP (R542, R543, R517): in SAFE; after a lockstep mismatch 20 ms after it. The PMIC then removes every rail but VDD_AON. (DEDUCED, log 61) -/
def safeOffOp (s : State) : State :=
  match s.saf.decided with
  | none => s
  | some t =>
    if s.island = Island.safe ∧ (!s.saf.lockstep ∨ 20000000 + t ≤ s.now) then
      let s := s.setFld R.SAF_STATUS 2 0 Island.off
      { s with saf := { s.saf with okToggling := false, offN := false } }
    else s

def execSafeOffDrop (s : State) : Host.Outcome State Fault Refusal := awakeNext s (safeOffOp s)

/-! ### The taster (R522 to R529) -/

/-- TASTER_COMPARE_COMPLETE (R524 to R526, R535, R536). -/
def tasterCompleteOp (s : State) : State :=
  match s.runningOn tasterUnit with
  | none => s
  | some i => if s.jobWaits i then s else s.tasterFinish i

def execTasterCompareComplete (s : State) : Host.Outcome State Fault Refusal := awakeNext s (tasterCompleteOp s)

/-- A verdict enters its history (R528, R529): a trip is a cause for P0 and P1, a notice and an empty history for the others. -/
def State.shiftVerdict (s : State) (policy : Nat) (v : Bool) : State :=
  let cfg := R.SAF_TP_CFG policy
  let h := (v :: s.saf.hist.getD policy []).take (s.fld cfg 23 16)
  let s : State := { s with saf := { s.saf with hist := setAt s.saf.hist policy h } }
  let s := if v then s.bump R.SAF_DISAGREE_CNT else s
  if s.fld cfg 15 8 < ones h then
    if s.fld cfg 29 28 ≤ 1 then s.cause Cause.tasterTrip tasterUnit (s.fld cfg 29 28) (BitVec.ofNat 32 policy)
    else State.notice { s with saf := { s.saf with hist := setAt s.saf.hist policy [] } } Notice.p2Trip
  else if v then (s.bump R.SAF_UNTRUSTED_CNT).notice Notice.untrusted
  else s

/-- TASTER_VERDICT (R528): the oldest verdict on its way reaches the island. (DEDUCED, log 60) -/
def tasterVerdictOp (s : State) : State :=
  match s.saf.verdicts with
  | [] => s
  | (p, v) :: t => State.shiftVerdict { s with saf := { s.saf with verdicts := t } } p v

def execTasterVerdict (s : State) : Host.Outcome State Fault Refusal := awakeNext s (tasterVerdictOp s)

/-! ### Proof intervals (R533 to R536) -/

/-- Slot 0 of a proof stream is landed again (R533): the record under R86, and the LANDED trigger; false when the slot is not FREE. (DEDUCED, log 59) -/
def State.reland (s : State) (st : Nat) : State × Bool :=
  let x := s.stream st
  if (x.slot 0).state != .free then (s, false)
  else
    let t := s.devNow
    let num := (x.lastFrame + 1) % 65536
    let seq := (x.landingSeq + 1) % 2 ^ 32
    let f : OpenFrame := ⟨0, num, t, s.now, false, List.range x.height, List.range x.embLines, 0, 0, false, [], true, true⟩
    let s := (s.dramWrite ⟨tasterUnit, 0, 1⟩ (x.slotAddr 0) (wordBytes (landingRecord st f Mark.proof false t seq x.drops))).1
    let s := s.modStream st (fun x =>
      { x.modSlot 0 (fun k => { k with state := .landed, frame := num, fsTime := t, marks := Mark.proof, closed := s.now }) with
        lastFrame := num, opened := true, landingSeq := seq, drops := 0 })
    (((s.streamInc st 5).frameLanded st 0).askYields, true)

/-- The interval is over (R535): every set without an outcome is MISSED. (DEDUCED, log 59) -/
def State.closeInterval (s : State) : State :=
  (s.saf.proofs.map (·.set)).foldl (fun s k => s.proofOutcome k 3 0xFF) s

/-- PROOF_INTERVAL_OPEN (R533, R535): due at the opening of a proof window once the lock is set. (DEDUCED, log 59) -/
def proofOpenOp (s : State) : State :=
  match s.saf.nextInterval with
  | none => s
  | some t =>
    if !s.locked || s.isSafe || decide (s.now < t) then s
    else
      let s := s.closeInterval
      let (s, sets) := s.validSets.foldl (fun (acc : State × List (Nat × List Byte)) k =>
        let (s, bs) := acc.1.readSet k
        (s, acc.2 ++ [(k, bs)])) (s, [])
      let s : State := { s with saf := { s.saf with
        windowOpen := true
        windowClose := t + 10000 * s.fld R.SAF_PROOF_LEN 16 0
        nextInterval := some (t + 1000000 * s.fld R.SAF_PROOF_CFG 9 0)
        proofs := sets.map (fun e => ⟨e.1, (if e.2.isEmpty then 256 else psGraph e.2), t, false, [], 0, 0, 0⟩) } }
      let s := sets.foldl (fun s e =>
        let (s, ok) := (if e.2.isEmpty then (s, false) else s.reland (psStream e.2))
        if ok then s else s.proofOutcome e.1 3 0xFF) s
      s.judgeInterval

def execProofIntervalOpen (s : State) : Host.Outcome State Fault Refusal := awakeNext s (proofOpenOp s)

/-- PROOF_WINDOW_CLOSE (R535, R536). -/
def proofCloseOp (s : State) : State :=
  if s.saf.windowOpen && decide (s.saf.windowClose ≤ s.now) && !s.isSafe then s.closeInterval else s

def execProofWindowClose (s : State) : Host.Outcome State Fault Refusal := awakeNext s (proofCloseOp s)

end Sys2Proof.Machine
end

