-- ==== Sys2Proof/Machine/DmaOps.lean ====
section
/-! DEFINITION. DMA descriptors, completion queues, commits and bus errors (12_dma.md R434 to R452). -/

namespace Sys2Proof.Machine

/-! ### Descriptors (R434 to R438) -/

abbrev dmaForm (d : List Word) : Nat := bits (wd d 0) 31 30
abbrev dmaLinked (d : List Word) : Bool := bit (wd d 0) 29
abbrev dmaWaits (d : List Word) : Bool := bit (wd d 0) 28
abbrev dmaSrcSpace (d : List Word) : Nat := bits (wd d 0) 27 24
abbrev dmaDstSpace (d : List Word) : Nat := bits (wd d 0) 23 20
abbrev dmaSrcCore (d : List Word) : Nat := bits (wd d 0) 19 16
abbrev dmaDstCore (d : List Word) : Nat := bits (wd d 0) 15 12
abbrev dmaSrc (d : List Word) : Nat := (wd d 2).toNat + 2 ^ 32 * (wd d 3).toNat
abbrev dmaDst (d : List Word) : Nat := (wd d 4).toNat + 2 ^ 32 * (wd d 5).toNat
abbrev dmaLine (d : List Word) : Nat := (wd d 6).toNat
abbrev dmaLines (d : List Word) : Nat := bits (wd d 7) 15 0
abbrev dmaSrcStride (d : List Word) : Int := sext 32 (wd d 8).toNat
abbrev dmaDstStride (d : List Word) : Int := sext 32 (wd d 9).toNat
abbrev dmaLink (d : List Word) : Nat := (wd d 12).toNat + 2 ^ 32 * bits (wd d 13) 7 0

/-- Bytes of a descriptor. -/
def dmaBytes (d : List Word) : Nat := dmaLine d * dmaLines d

/-- The scratchpad memory of a space (R434). -/
def dmaMem (space core : Nat) : Nat := match space with | 1 => 24 | 2 => spmMem 0 core | 3 => spmMem 1 core | _ => spmMem 2 core

/-- One past the last address of a space. -/
def dmaEnd (space core : Nat) : Nat :=
  match space with
  | 0 => dramEnd
  | 5 => 2 ^ 64
  | 6 => peerSize
  | _ => spmSize (dmaMem space core)

/-- Where byte `k` of a descriptor's run lies: base, line by line. -/
def dmaAt (base : Nat) (stride : Int) (line k : Nat) : Int := (base : Int) + (k / line : Nat) * stride + (k % line : Nat)

/-- The first address of every line. -/
def dmaStarts (base : Nat) (stride : Int) (n : Nat) : List Int := (List.range n).map (fun (i : Nat) => (base : Int) + (i : Int) * stride)

/-- Row 1 of R438, but for the chain's total. -/
def dmaInvalid (d : List Word) (isTask : Bool) : Bool :=
  let coreBad (sp c : Nat) : Bool := if 2 ≤ sp ∧ sp ≤ 4 then decide (7 < c) else c != 0
  let hiBad (sp : Nat) (hi : Word) : Bool := decide (1 ≤ sp ∧ sp ≤ 4) && hi != 0
  decide (2 ≤ dmaForm d) || decide (7 ≤ dmaSrcSpace d) || decide (7 ≤ dmaDstSpace d)
    || coreBad (dmaSrcSpace d) (dmaSrcCore d) || coreBad (dmaDstSpace d) (dmaDstCore d) || bits (wd d 0) 11 0 != 0
    || hiBad (dmaSrcSpace d) (wd d 3) || hiBad (dmaDstSpace d) (wd d 5)
    || bits (wd d 7) 31 16 != 0 || wd d 11 != 0 || bits (wd d 13) 31 8 != 0 || wd d 14 != 0 || wd d 15 != 0
    || dmaLine d == 0 || dmaLines d == 0 || (dmaForm d == 0 && dmaLines d != 1)
    || (dmaForm d == 1 && decide (1 < dmaLines d) && decide ((dmaDstStride d).natAbs < dmaLine d))
    || (isTask && dmaWaits d)

/-- Every line of a reach lies in its space (R438). -/
def dmaInside (space core base : Nat) (stride : Int) (line n : Nat) : Bool :=
  (dmaStarts base stride n).all (fun a => decide (0 ≤ a ∧ a + line ≤ (dmaEnd space core : Nat)))

/-- Partition `e` is permitted every byte of a reach by firewall regions or by ownership (R419, R438). -/
def State.dmaPermits (s : State) (e space core base : Nat) (stride : Int) (line n : Nat) (wr : Bool) : Bool :=
  (dmaStarts base stride n).all (fun a =>
    match space with
    | 0 => (match s.dramCheck (whoPart (0x30 + e) e) wr a.toNat line with | some (st, _) => st != St.partitionFault | none => true)
    | 5 => true
    | 6 => true
    | _ => (granulesIn (dmaMem space core) a.toNat line).all (fun g => s.spmAllows e false wr false (dmaMem space core) g))

/-- The check of a descriptor of engine `e` (R438); `before` bytes were moved by the earlier ones. -/
def State.dmaCheck (s : State) (e : Nat) (d : List Word) (isTask : Bool) (before : Nat) : Nat :=
  chk [(dmaInvalid d isTask || decide (0xFFFFFFFF < before + dmaBytes d), St.descInvalid),
    (dmaLinked d && bits (wd d 12) 5 0 != 0, St.alignFault),
    (!dmaInside (dmaSrcSpace d) (dmaSrcCore d) (dmaSrc d) (dmaSrcStride d) (dmaLine d) (dmaLines d)
      || !dmaInside (dmaDstSpace d) (dmaDstCore d) (dmaDst d) (dmaDstStride d) (dmaLine d) (dmaLines d), St.rangeFault),
    (!s.dmaPermits e (dmaSrcSpace d) (dmaSrcCore d) (dmaSrc d) (dmaSrcStride d) (dmaLine d) (dmaLines d) false
      || !s.dmaPermits e (dmaDstSpace d) (dmaDstCore d) (dmaDst d) (dmaDstStride d) (dmaLine d) (dmaLines d) true, St.partitionFault)]

/-- Where the lines of a descriptor lie on one side: memory as `State.span` numbers it (100 is the host), first and last byte. -/
def dmaSpan (space core base : Nat) (stride : Int) (line n : Nat) : Nat × Int × Int :=
  let last : Int := (base : Int) + ((n : Int) - 1) * stride
  (match space with | 0 => 0 | 5 => 100 | 6 => 1 | _ => 2 + dmaMem space core, min (base : Int) last, max (base : Int) last + line - 1)

/-- A channel whose next descriptor `d` was fetched and passed its checks, `n` bytes into its chain. -/
def DmaChan.fetched (x : DmaChan) (d : List Word) (n : Nat) : DmaChan :=
  { x with desc := d, issued := n, total := n,
           srcs := x.srcs ++ [dmaSpan (dmaSrcSpace d) (dmaSrcCore d) (dmaSrc d) (dmaSrcStride d) (dmaLine d) (dmaLines d)],
           dsts := x.dsts ++ [dmaSpan (dmaDstSpace d) (dmaDstCore d) (dmaDst d) (dmaDstStride d) (dmaLine d) (dmaLines d)] }

/-- A destination of the chain overlaps its own source, or an operand of another operation in flight (R437). (DEDUCED, log 83) -/
def State.dmaOverlaps (s : State) (e c : Nat) : Bool :=
  let x := s.chan e c
  x.dsts.any (fun d => x.srcs.any (fun o => spansMeet (some d) (some o))
    || s.chainSpans.any (fun o => o.1 != (e, c) && spansMeet (some d) (some o.2))
    || (s.inFlight (x.task.getD 8192)).any (fun t => spansMeet (some d) (areaSpan t.area) || t.pinned.any (fun h => spansMeet (some d) (s.span t.part h))))

/-- The bytes a chain writes: as they were read, or free values where the result is undefined (R437). (DEDUCED, log 83) -/
def State.dmaPayload (s : State) (e c : Nat) (bs : List Byte) : State × List Byte :=
  if s.dmaOverlaps e c then
    let (q, s) := s.draw
    (s, (List.range bs.length).map (Config.freeByte q))
  else (s, bs)

/-! ### Positions (R453, R457) -/

/-- Bytes written by the chain so far: its contiguous written prefix. -/
def State.dmaDone (s : State) (e c : Nat) : Nat := (s.reg (R.DMA_CH_DONE_BYTES e c)).toNat

/-- The position registers show the next bytes to be moved. -/
def State.dmaShow (s : State) (e c : Nat) : State :=
  let x := s.chan e c
  if x.desc.isEmpty then s
  else
    let k := s.dmaDone e c - x.total
    let ovr := decide (dmaBytes x.desc ≤ k)
    let src := unsext 64 (dmaAt (dmaSrc x.desc) (dmaSrcStride x.desc) (dmaLine x.desc) k)
    let dst := unsext 64 (dmaAt (dmaDst x.desc) (dmaDstStride x.desc) (dmaLine x.desc) k)
    let s := (s.setReg (R.DMA_CH_SRC_LO e c) (BitVec.ofNat 32 src)).setReg (R.DMA_CH_SRC_HI e c) (BitVec.ofNat 32 (src / 2 ^ 32))
    let s := (s.setReg (R.DMA_CH_DST_LO e c) (BitVec.ofNat 32 dst)).setReg (R.DMA_CH_DST_HI e c) (BitVec.ofNat 32 (dst / 2 ^ 32))
    let s := s.setReg (R.DMA_CH_REMAIN e c) (BitVec.ofNat 32 (if ovr then 0 else dmaLine x.desc - k % dmaLine x.desc))
    s.setReg (R.DMA_CH_LINES_LEFT e c) (BitVec.ofNat 32 (dmaLines x.desc - k / dmaLine x.desc))

/-- A read whose answer has not come. -/
def DmaRead.isOpen (r : DmaRead) : Bool := r.data.isNone && decide (r.tries < 3)

/-- Reads of a channel, and of the engine, still outstanding. -/
def State.dmaOpen (s : State) (e c : Nat) : Bool := (s.eng e).reads.any (fun r => r.chan == c && r.isOpen)
def State.dmaOutstanding (s : State) (e : Nat) : Nat := ((s.eng e).reads.filter (·.isOpen)).length

/-- Returned bytes beyond the written prefix are discarded, and issuing goes on from it (R450). -/
def State.dmaRewind (s : State) (e c : Nat) : State :=
  let s := s.setEng e { s.eng e with reads := (s.eng e).reads.filter (·.chan != c) }
  let d := s.dmaDone e c
  s.modChan e c (fun x => { x with issued := d })

/-! ### Completion queue (R446, R447) -/

/-- The queue lies in host memory. -/
def State.dmaCqHost (s : State) (e : Nat) : Bool := s.flag (R.DMA_CQ_CFG e) 0

/-- The queue has no room: disabled, or full. (DEDUCED, log 52) -/
def State.dmaCqFull (s : State) (e : Nat) : Bool :=
  let z := (s.reg (R.DMA_CQ_SIZE e)).toNat
  !(isPow2 z && decide (16 ≤ z) && decide (z ≤ 65536))
    || decide ((2 ^ 32 + (s.reg (R.DMA_CQ_TAIL e)).toNat - (s.reg (R.DMA_CQ_HEAD e)).toNat) % 2 ^ 32 = z)

/-- Source 21 + e pends while the queue in DRAM is not empty (R469). (DEDUCED, log 52) -/
def State.dmaCqIrq (s : State) (e : Nat) : State := s.irqSet (21 + e) (s.reg (R.DMA_CQ_TAIL e) != s.reg (R.DMA_CQ_HEAD e))

/-- A record written at TAIL; a write that is refused, or cannot be made, is held with WRITE_FAULT. The Bool says that it was written. -/
def State.dmaCqWrite (s : State) (e : Nat) (ws : List Word) : State × Bool :=
  let i := (s.reg (R.DMA_CQ_TAIL e)).toNat % (s.reg (R.DMA_CQ_SIZE e)).toNat
  let a := s.reg64 (R.DMA_CQ_BASE_LO e) (R.DMA_CQ_BASE_HI e) + 32 * i
  let (s, ok) :=
    if s.dmaCqHost e then (if s.outOk then (s.outWrite false a (wordBytes ws), true) else (s, false))
    else
      let (s, st) := s.dramWrite (whoPart (0x30 + e) e) a (wordBytes ws)
      (s, st == St.done)
  if ok then
    let s := (s.setReg (R.DMA_CQ_TAIL e) (s.reg (R.DMA_CQ_TAIL e) + 1)).dmaCqIrq e
    (if s.dmaCqHost e then s.vector (328 + e) else s, true)
  else ((s.setFlag (R.DMA_CQ_STATUS e) 2 true).setFlag (R.DMA_CQ_STATUS e) 1 true, false)

/-- A record has been written: its channel is ARMED or DISABLED, the error record is no longer pending. -/
def State.dmaWritten (s : State) (e : Nat) (chan : Option Nat) : State :=
  match chan with
  | some c => s.chEnd e c
  | none => s.setFlag (R.DMA_STATUS e) 17 false

/-- A record is due: written, or held behind those that wait (R447). (DEDUCED, log 52) -/
def State.dmaCqPush (s : State) (e : Nat) (ws : List Word) (chan : Option Nat) : State :=
  let hold (s : State) : State :=
    let s := s.setFlag (R.DMA_CQ_STATUS e) 1 true
    let s := match chan with | some c => s.setChState e c Ch.heldCq | none => s.setFlag (R.DMA_STATUS e) 17 true
    s.setEng e { s.eng e with cqWait := (s.eng e).cqWait ++ [(ws, chan)] }
  if s.dmaCqFull e || !(s.eng e).cqWait.isEmpty then hold s
  else
    let (s, ok) := s.dmaCqWrite e ws
    if ok then s.dmaWritten e chan else hold s

/-- Held records are written while there is room; `fuel` bounds their number. (DEDUCED, log 52) -/
def State.dmaCqRetry (s : State) (e : Nat) : Nat → State
  | 0 => s
  | fuel + 1 =>
    match (s.eng e).cqWait with
    | [] => s
    | r :: t =>
      if s.dmaCqFull e then s
      else
        let (s, ok) := s.dmaCqWrite e r.1
        if ok then State.dmaCqRetry ((s.setEng e { s.eng e with cqWait := t }).dmaWritten e r.2) e fuel else s

/-! ### Commits (R442, R445, R448) -/

/-- A chain ends with a status (R442): its record, its triggers under CHANNEL, its channel's state. -/
def State.dmaCommit (s : State) (e c status : Nat) (abortSeen : Bool) : State :=
  let x := s.chan e c
  let s := (s.bump (R.DMA_CHAINS_CNT e)).setFld (R.DMA_CH_STATUS e c) 31 24 status
  let cnt := s.dmaDone e c
  let detail := s.dmaDetail e c
  let fl := recFlags x.delayed false abortSeen false false
  let marks := if x.retried then Mark.recomputed else 0
  let s := s.setEng e { s.eng e with reads := (s.eng e).reads.filter (·.chan != c) }
  let s :=
    match x.task with
    | some i => ((s.chEnd e c).dmaCredits e).finishTask i ⟨status, 0x30 + e, Kind.dma, detail, cnt, marks, fl, false, true⟩
    | none =>
      let r : Rec := ⟨status, 0x30 + e, Kind.dma, e, fl, x.headUser, s.devNow, x.headTag, marks, detail, cnt⟩
      (s.dmaCqPush e r.words (some c)).dmaCredits e
  if status = St.done then s.trigWhere (fun s e' k => e' == e && s.trigSrc e k == TrigSrc.channel && s.trigArg e k % 16 == c) else s

/-- The current descriptor has been moved whole: the next is due, or the chain commits (R442). -/
def State.dmaDescEnd (s : State) (e c : Nat) : State :=
  let x := s.chan e c
  if x.desc.isEmpty || decide (s.dmaDone e c < x.total + dmaBytes x.desc) then s
  else if dmaLinked x.desc then
    s.modChan e c (fun x => { x with next := dmaLink x.desc, desc := [], idx := x.idx + 1, total := x.total + dmaBytes x.desc })
  else
    let s := if s.chState e c = Ch.draining then s.setFlag (R.DMA_CH_STATUS e c) 5 true else s
    s.dmaCommit e c St.done false

/-! ### Bus errors (R450, R451) -/

/-- The drain of a bus error is over: every channel stands at its written prefix, and the error record is due (R450, R451). (DEDUCED, log 51) -/
def State.dmaErrEnd (s : State) (e : Nat) : State :=
  match (s.eng e).err with
  | none => s
  | some x =>
    if s.dmaOutstanding e ≠ 0 then s
    else
      let s := s.setEng e { s.eng e with err := none }
      let s := (List.range 16).foldl (fun s c => if s.chState e c = Ch.stopped then s.dmaRewind e c else s) s
      let chan := x.chan.getD 0
      let detail := 2 ^ 15 * b2n x.valid + 2 ^ 14 * b2n x.chan.isSome + x.space % 16 * 2 ^ 10 + chan % 16
      let s := ((s.setReg (R.DMA_ERR_ADDR_LO e) (BitVec.ofNat 32 (if x.valid then x.addr else 0))).setReg (R.DMA_ERR_ADDR_HI e)
        (BitVec.ofNat 32 (if x.valid then x.addr / 2 ^ 32 else 0))).setReg (R.DMA_ERR_INFO e) (BitVec.ofNat 32 detail)
      let r : Rec := ⟨St.busError, 0x30 + e, Kind.dmaError, e, 0, BitVec.ofNat 32 (if x.valid then x.addr / 64 else 0), s.devNow, 0, 0, detail,
        match x.chan with | some c => s.dmaDone e c | none => 0⟩
      let s := s.dmaCqPush e r.words none
      -- an abort that arrived while the engine drained is applied after the stop
      (List.range 16).foldl (fun s c =>
        if (s.chan e c).aborting && s.chState e c == Ch.stopped then s.dmaCommit e c St.aborted true else s) s

/-- A bus error (R450): the engine stops; a second one before RESTART is only counted (R452). (DEDUCED, log 51) -/
def State.dmaBusError (s : State) (e : Nat) (x : DmaErr) : State :=
  let s := s.bump (R.DMA_BUS_ERR_CNT e)
  if s.flag (R.DMA_STATUS e) 16 then s.dmaErrEnd e
  else
    let s := s.setFlag (R.DMA_STATUS e) 16 true
    let s := (List.range 16).foldl (fun s c =>
      let st := s.chState e c
      if st = Ch.running ∨ st = Ch.waitTrig ∨ st = Ch.draining ∨ st = Ch.paused then
        (s.modChan e c (fun y => { y with before := if st = Ch.draining then Ch.paused else st })).setChState e c Ch.stopped
      else s) s
    State.dmaErrEnd ((s.setEng e { s.eng e with err := some x }).dmaCredits e) e

/-! ### Moving bytes (R436, R449) -/

/-- The bytes at a source: status and data. `ext` is what PCI Express returned; a `transient` error is one of this read only. -/
def State.dmaFrom (s : State) (e space core a n : Nat) (ext : List Byte) (transient : Bool) : State × Nat × List Byte :=
  match space with
  | 0 =>
    let (s, st, bs) := s.dramRead (whoPart (0x30 + e) e) a n
    if st = St.done ∧ transient then (s.badBlock (whoPart (0x30 + e) e) (a / 64) false, St.integrity, []) else (s, st, bs)
  | 5 => if s.outOk then (s, St.done, (ext ++ List.replicate n 0).take n) else (s, St.busError, [])
  | 6 => if s.outOk then (s, St.done, (ext ++ List.replicate n 0).take n) else (s, St.busError, [])
  | _ => s.spmRead (0x30 + e) e false false (dmaMem space core) a n

/-- Bytes put at a destination: status. -/
def State.dmaTo (s : State) (e space core a : Nat) (bs : List Byte) : State × Nat :=
  match space with
  | 0 => s.dramWrite (whoPart (0x30 + e) e) a bs
  | 5 => if s.outOk then (s.outWrite false a bs, St.done) else (s, St.busError)
  | 6 => if s.outOk then (s.outWrite true (s.reg64 R.PCI_OBP_BASE_LO R.PCI_OBP_BASE_HI + a) bs, St.done) else (s, St.busError)
  | _ => s.spmWrite (0x30 + e) e false (dmaMem space core) a (bs.map some)

/-- Place `a` of a space lies in banks that a fill takes. -/
def State.dmaWaits (s : State) (space core a n : Nat) : Bool :=
  decide (space ≠ 0 ∧ space ≠ 5 ∧ space ≠ 6) && s.spmWaits (dmaMem space core) a n

/-- A read `r` of descriptor `d`, or the write of its bytes, waits for a fill (R411, R425). (DEDUCED, log 45) -/
def State.dmaHeld (s : State) (d : List Word) (r : DmaRead) : Bool :=
  s.dmaWaits (dmaSrcSpace d) (dmaSrcCore d) r.addr r.len
    || (dmaStarts (dmaDst d) (dmaDstStride d) (dmaLines d)).any (fun a => s.dmaWaits (dmaDstSpace d) (dmaDstCore d) a.toNat (dmaLine d))

/-- Returned reads that extend the written prefix are written, in order (R450); one that failed for good ends the chain (R449);
`fuel` bounds their number. -/
def State.dmaFlush (s : State) (e c : Nat) : Nat → State
  | 0 => s
  | fuel + 1 =>
    let x := s.chan e c
    let d := s.dmaDone e c
    match (s.eng e).reads.find? (fun r => r.chan == c && r.pos == d) with
    | none => s
    | some r =>
      match r.data with
      | none => if r.tries = 3 ∧ s.chState e c ≠ Ch.stopped ∧ !x.aborting then s.dmaCommit e c St.retryExhausted false else s
      | some bs =>
        let dst := dmaAt (dmaDst x.desc) (dmaDstStride x.desc) (dmaLine x.desc) (d - x.total)
        let (s, bs) := s.dmaPayload e c bs
        let (s, st) := s.dmaTo e (dmaDstSpace x.desc) (dmaDstCore x.desc) dst.toNat bs
        if st = St.done then
          let s := s.setEng e { s.eng e with reads := (s.eng e).reads.erase r }
          State.dmaFlush ((s.setReg (R.DMA_CH_DONE_BYTES e c) (BitVec.ofNat 32 (d + bs.length))).dmaShow e c) e c fuel
        else s.dmaBusError e ⟨dmaDstSpace x.desc, dst.toNat, true, some c⟩

/-- After a read came back: the descriptor may be over, a drain for an abort or a pause too, and that of a bus error (R450, R453, R455). -/
def State.dmaSettle (s : State) (e c : Nat) : State :=
  let st := s.chState e c
  let s :=
    if st = Ch.stopped then s
    else if (s.chan e c).aborting then (if s.dmaOpen e c then s else s.dmaCommit e c St.aborted true)
    else
      let s := s.dmaDescEnd e c
      if s.chState e c = Ch.draining ∧ !s.dmaOpen e c then s.setChState e c Ch.paused else s
  (s.dmaCredits e).dmaErrEnd e

end Sys2Proof.Machine
end

