-- ==== Sys2Proof/Machine/Dma.lean ====
section
/-! DEFINITION. The commands of the DMA engines (12_dma.md R433 to R458). -/

namespace Sys2Proof.Machine

/-- A register of engine `e` accepts the write (R458); else it is ignored and reported. -/
def State.dmaWriter (s : State) (ag : Agent) (e : Nat) (f : State → State) : State := if s.ofPart ag e then f s else s.refuse ag e

/-! ### Channel configuration (R439, R442, R443, R458) -/

/-- The trigger source of a configuration word belongs to another partition. -/
def State.dmaForeignTrig (s : State) (e : Nat) (v : Word) : Option Nat :=
  let p := match bits v 31 29 with
    | 1 => s.fld (R.TIM_CTRL (bits v 28 21 % 32)) 31 30
    | 3 => s.groupPart (bits v 28 21)
    | _ => e
  if p = e then none else some p

/-- The pending trigger of a channel without a chain is discarded (R442, R455), with what merged into it. -/
def State.dmaUntrig (s : State) (e c : Nat) : State :=
  (s.setFlag (R.DMA_CH_STATUS e c) 4 false).modChan e c (fun x => { x with merged := false })

/-- A write of DMA_CH_CFG_c. (DEDUCED, log 51) -/
def dmaCfgOp (ag : Agent) (e c : Nat) (v : Word) (s : State) : State :=
  s.dmaWriter ag e (fun s =>
    let old := s.reg (R.DMA_CH_CFG e c)
    let new := v &&& 0xFFFC0001
    if s.chState e c ≠ Ch.disabled then
      if new = old &&& 0xFFFFFFFE then
        let s := s.setReg (R.DMA_CH_CFG e c) new
        if s.chState e c = Ch.armed then (s.dmaUntrig e c).setChState e c Ch.disabled else s
      else s
    else if !bit v 0 then s.setReg (R.DMA_CH_CFG e c) new
    else if 6 ≤ bits v 31 29 then s
    else match s.dmaForeignTrig e v with
      | some p => s.refuse ag p
      | none => (((s.setReg (R.DMA_CH_CFG e c) new).setChState e c Ch.armed).chEnter e c).dmaWatch e c)

/-- DMA_CHANNEL_ENABLE (R439, R443): a configuration written with ENABLE = 1. -/
def execDmaChannelEnable (ag : Agent) (e : Fin 4) (c : Fin 16) (v : Word) (s : State) : Host.Outcome State Fault Refusal :=
  awakeNext s (dmaCfgOp ag e c (v ||| 1) s)

/-- DMA_CHANNEL_DISABLE (R442): ENABLE alone is cleared. -/
def execDmaChannelDisable (ag : Agent) (e : Fin 4) (c : Fin 16) (s : State) : Host.Outcome State Fault Refusal :=
  awakeNext s (dmaCfgOp ag e c (s.reg (R.DMA_CH_CFG e c) &&& 0xFFFFFFFE) s)

/-! ### Channel commands (R439, R453 to R455) -/

/-- DMA_START. -/
def dmaStartOp (ag : Agent) (e c : Nat) (s : State) : State :=
  s.dmaWriter ag e (fun s => if s.trigSrc e c = TrigSrc.task then s else s.chTrigger e c)

def execDmaStart (ag : Agent) (e : Fin 4) (c : Fin 16) (s : State) : Host.Outcome State Fault Refusal := awakeNext s (dmaStartOp ag e c s)

/-- DMA_PAUSE (R453, R454). -/
def dmaPauseOp (ag : Agent) (e c : Nat) (s : State) : State :=
  s.dmaWriter ag e (fun s =>
    let st := s.chState e c
    if (s.chan e c).aborting then s
    else if st = Ch.running then
      let s := s.modChan e c (fun x => { x with beforePause := Ch.running })
      (s.setChState e c (if s.dmaOpen e c then Ch.draining else Ch.paused)).dmaCredits e
    else if st = Ch.waitTrig then (s.modChan e c (fun x => { x with beforePause := Ch.waitTrig })).setChState e c Ch.paused
    else if st = Ch.armed ∨ st = Ch.disabled ∨ st = Ch.heldCq then s.setFlag (R.DMA_CH_STATUS e c) 5 true
    else s)

def execDmaPause (ag : Agent) (e : Fin 4) (c : Fin 16) (s : State) : Host.Outcome State Fault Refusal := awakeNext s (dmaPauseOp ag e c s)

/-- DMA_RESUME (R453). -/
def dmaResumeOp (ag : Agent) (e c : Nat) (s : State) : State :=
  s.dmaWriter ag e (fun s =>
    if s.chState e c = Ch.paused then (s.setChState e c (s.chan e c).beforePause).chEnter e c else s)

def execDmaResume (ag : Agent) (e : Fin 4) (c : Fin 16) (s : State) : Host.Outcome State Fault Refusal := awakeNext s (dmaResumeOp ag e c s)

/-- The waiting record of a committed chain shows the abort (R50). -/
def abortSeenIn (ws : List Word) : List Word :=
  let ws := ws.take 7
  let ws := ws.set 0 (wd ws 0 ||| 4)
  ws ++ [crc32c (wordBytes ws)]

/-- DMA_ABORT (R50 to R55, R455). (DEDUCED, log 51) -/
def dmaAbortOp (ag : Agent) (e c : Nat) (s : State) : State :=
  s.dmaWriter ag e (fun s =>
    let reply (s : State) (st : Nat) : State := s.setFld (R.DMA_CH_STATUS e c) 23 16 st
    let st := s.chState e c
    if st = Ch.disabled ∨ st = Ch.armed then reply (s.dmaUntrig e c) St.abortLate
    else if st = Ch.heldCq then
      reply (s.setEng e { s.eng e with
        cqWait := (s.eng e).cqWait.map (fun (r : List Word × Option Nat) => if r.2 = some c then (abortSeenIn r.1, r.2) else r) }) St.abortLate
    else
      let s := reply s St.done
      if (st = Ch.stopped && (s.eng e).err.isSome) || (st != Ch.stopped && s.dmaOpen e c) then
        s.modChan e c (fun x => { x with aborting := true })
      else s.dmaCommit e c St.aborted true)

def execDmaAbort (ag : Agent) (e : Fin 4) (c : Fin 16) (s : State) : Host.Outcome State Fault Refusal := awakeNext s (dmaAbortOp ag e c s)

/-! ### Engine commands (R452, R456) -/

/-- DMA_RESTART (R452). -/
def dmaRestartOp (ag : Agent) (e : Nat) (s : State) : State :=
  s.dmaWriter ag e (fun s =>
    if !s.flag (R.DMA_STATUS e) 16 || s.flag (R.DMA_STATUS e) 17 || (s.eng e).err.isSome then s
    else
      let s := s.setFlag (R.DMA_STATUS e) 16 false
      (List.range 16).foldl (fun s c =>
        if s.chState e c = Ch.stopped then ((s.setChState e c (s.chan e c).before).chEnter e c).dmaSettle e c else s) s)

def execDmaRestart (ag : Agent) (e : Fin 4) (s : State) : Host.Outcome State Fault Refusal := awakeNext s (dmaRestartOp ag e s)

/-- DMA_ENGINE_ENABLE (R456): pending triggers of ARMED channels are taken when chains may start again. -/
def dmaEnableOp (ag : Agent) (e : Nat) (on : Bool) (s : State) : State :=
  s.dmaWriter ag e (fun s =>
    let s := s.setFlag (R.DMA_CTRL e) 0 on
    if on then (List.range 16).foldl (fun s c => s.chEnter e c) s else s)

def execDmaEngineEnable (ag : Agent) (e : Fin 4) (on : Bool) (s : State) : Host.Outcome State Fault Refusal := awakeNext s (dmaEnableOp ag e on s)

/-- DMA_CLEAR_COUNTS (R456). -/
def dmaClearOp (ag : Agent) (e : Nat) (s : State) : State :=
  s.dmaWriter ag e (fun s => s.zeroRegs [R.DMA_CHAINS_CNT e, R.DMA_BUS_ERR_CNT e, R.DMA_TRIG_MERGE_CNT e, R.DMA_RETRY_CNT e, R.DMA_CQ_HELD_US e])

def execDmaClearCounts (ag : Agent) (e : Fin 4) (s : State) : Host.Outcome State Fault Refusal := awakeNext s (dmaClearOp ag e s)

/-- DMA_CQ_WRITE (R446, R447): BASE_LO (0), BASE_HI (1), SIZE (2) or HEAD (3). -/
def dmaCqWriteOp (ag : Agent) (e k : Nat) (v : Word) (s : State) : State :=
  s.dmaWriter ag e (fun s =>
    let s := match k with
      | 0 => s.setReg (R.DMA_CQ_BASE_LO e) v
      | 1 => s.setReg (R.DMA_CQ_BASE_HI e) v
      | 2 => s.setReg (R.DMA_CQ_SIZE e) v
      | _ => s.setReg (R.DMA_CQ_HEAD e) v
    (s.dmaCqRetry e ((s.eng e).cqWait.length)).dmaCqIrq e)

def execDmaCqWrite (ag : Agent) (e k : Fin 4) (v : Word) (s : State) : Host.Outcome State Fault Refusal := awakeNext s (dmaCqWriteOp ag e k v s)

/-! ### Running a chain (R436 to R449) -/

/-- A descriptor's 64 bytes, read again after an integrity error at most twice (R449). -/
def State.dmaDescRead (s : State) (e c a : Nat) : Nat → State × Nat × List Byte
  | 0 => s.dramRead (whoPart (0x30 + e) e) a 64
  | k + 1 =>
    let (s, st, bs) := s.dramRead (whoPart (0x30 + e) e) a 64
    if st = St.integrity then
      State.dmaDescRead ((s.bump (R.DMA_RETRY_CNT e)).modChan e c (fun x => { x with retried := true })) e c a k
    else (s, st, bs)

/-- A head descriptor that was never read gives no USER_TAG and no FRAME_TAG: the record's are free values. (DEDUCED, log 51) -/
def State.dmaHeadless (s : State) (e c : Nat) : State :=
  if (s.chan e c).idx ≠ 0 then s
  else
    let (q, s) := s.draw
    let (q', s) := s.draw
    s.modChan e c (fun x => { x with headUser := Config.freeWord q, headTag := Config.freeWord q' })

/-- DMA_DESC_FETCH (R435 to R438, R442): the channel reaches its next descriptor. (DEDUCED, log 51) -/
def dmaFetchOp (e c : Nat) (s : State) : State :=
  let x := s.chan e c
  if s.chState e c ≠ Ch.running ∨ !x.desc.isEmpty ∨ x.aborting then s
  else
    let a := x.next
    if a % 64 ≠ 0 then (s.dmaHeadless e c).dmaCommit e c St.alignFault false
    else if dramEnd < a + 64 then (s.dmaHeadless e c).dmaCommit e c St.rangeFault false
    else
      let (s, st, bs) := s.dmaDescRead e c a 2
      if st = St.busError then s.dmaBusError e ⟨0, a, true, none⟩
      else if st ≠ St.done then (s.dmaHeadless e c).dmaCommit e c (exhausted st) false
      else
        let d := (List.range 16).map (wordAt bs)
        let s := if x.idx = 0 then s.modChan e c (fun x => { x with headUser := wd d 1, headTag := wd d 10 }) else s
        let s := (s.setReg (R.DMA_CH_CUR_DESC_LO e c) (BitVec.ofNat 32 a)).setReg (R.DMA_CH_CUR_DESC_HI e c) (BitVec.ofNat 32 (a / 2 ^ 32))
        let st := s.dmaCheck e d x.task.isSome (s.dmaDone e c)
        if st ≠ St.done then s.dmaCommit e c st false
        else
          let n := s.dmaDone e c
          let s := (s.modChan e c (fun x => x.fetched d n)).dmaShow e c
          if dmaWaits d && x.idx != 0 then
            (((s.modChan e c (fun x => { x with paced := true })).setChState e c Ch.waitTrig).dmaCredits e).chEnter e c
          else s

def execDmaDescFetch (e : Fin 4) (c : Fin 16) (s : State) : Host.Outcome State Fault Refusal := awakeNext s (dmaFetchOp e c s)

/-- A channel has a byte to read (R444). -/
def State.dmaReady (s : State) (e c : Nat) : Bool :=
  let x := s.chan e c
  s.chState e c == Ch.running && !x.desc.isEmpty && !x.aborting && decide (x.issued < x.total + dmaBytes x.desc)
    && !(s.eng e).reads.any (fun r => r.chan == c && r.tries == 3)

/-- DMA_READ_ISSUE (R23, R444, R582): the next RUNNING channel in rotation issues one read; those of `pass` do not accept writes now. The
first read of the engine asks for its credits, and waits for them. -/
def dmaIssueOp (e : Nat) (pass : List Nat) (s : State) : State :=
  let en := s.eng e
  if s.flag (R.DMA_STATUS e) 16 || decide (256 ≤ s.dmaOutstanding e) then s
  else match ((List.range 16).map (fun k => (en.last + 1 + k) % 16)).find? (fun c => s.dmaReady e c && !pass.contains c) with
    | none => s
    | some c =>
      let id := 0x30 + e
      if s.creditWaits id then s
      else
        let (s, wait) := if s.power.held.any (·.agent == id) then (s, false) else s.creditRequest id e
        if wait then s
        else
          let x := s.chan e c
          let k := x.issued - x.total
          let a := (dmaAt (dmaSrc x.desc) (dmaSrcStride x.desc) (dmaLine x.desc) k).toNat
          let n := min (64 - a % 64) (dmaLine x.desc - k % dmaLine x.desc)
          let s := s.setEng e { s.eng e with last := c, reads := (s.eng e).reads ++ [⟨c, a, n, x.issued, 0, none⟩] }
          s.modChan e c (fun x => { x with issued := x.issued + n })

def execDmaReadIssue (e : Fin 4) (pass : List Nat) (s : State) : Host.Outcome State Fault Refusal := awakeNext s (dmaIssueOp e pass s)

/-- Read `k` of engine `e` in issue order, while it is outstanding. -/
def State.dmaRead? (s : State) (e k : Nat) : Option DmaRead := ((s.eng e).reads[k]?).bind (fun r => if r.isOpen then some r else none)

/-- Read `r` replaced. -/
def State.setRead (s : State) (e : Nat) (r r' : DmaRead) : State :=
  s.setEng e { s.eng e with reads := (s.eng e).reads.map (fun x => if x = r then r' else x) }

/-- DMA_READ_RETURN (R436, R449, R450, R453): read `k` returns; `ext` is the data that PCI Express returned for a HOST or PEER source. (DEDUCED, log 51) -/
def dmaReturnOp (e k : Nat) (ext : List Byte) (transient : Bool) (s : State) : State :=
  match s.dmaRead? e k with
  | none => s
  | some r =>
    let c := r.chan
    let d := (s.chan e c).desc
    if s.dmaHeld d r then s
    else
    let (s, st, bs) := s.dmaFrom e (dmaSrcSpace d) (dmaSrcCore d) r.addr r.len ext transient
    if st = St.done then
      State.dmaSettle ((s.setRead e r { r with data := some bs }).dmaFlush e c 300) e c
    else if st = St.integrity then
      let s := s.setRead e r { r with tries := r.tries + 1 }
      if r.tries < 2 then
        let s := (s.bump (R.DMA_RETRY_CNT e)).modChan e c (fun x => { x with retried := true })
        match (s.chan e c).task with | some i => s.modTask i (fun t => { t with recomputed := true }) | none => s
      else (s.dmaFlush e c 300).dmaSettle e c
    else
      let s := s.setEng e { s.eng e with reads := (s.eng e).reads.erase r }
      s.dmaBusError e ⟨dmaSrcSpace d, r.addr, true, none⟩

def execDmaReadReturn (e : Fin 4) (k : Nat) (ext : List Byte) (transient : Bool) (s : State) : Host.Outcome State Fault Refusal :=
  awakeNext s (dmaReturnOp e k ext transient s)

/-- DMA_BUS_ERROR (R450 to R452): an error response to read `k`, or (`wr`) to the write of its bytes; `valid` says that the response
gives the address. -/
def dmaBusErrorOp (e k : Nat) (wr valid : Bool) (s : State) : State :=
  match s.dmaRead? e k with
  | none => s
  | some r =>
    let x := s.chan e r.chan
    let dst := dmaAt (dmaDst x.desc) (dmaDstStride x.desc) (dmaLine x.desc) (r.pos - x.total)
    let s := s.setEng e { s.eng e with reads := (s.eng e).reads.erase r }
    if wr then s.dmaBusError e ⟨dmaDstSpace x.desc, dst.toNat, valid, some r.chan⟩
    else s.dmaBusError e ⟨dmaSrcSpace x.desc, r.addr, valid, none⟩

def execDmaBusError (e : Fin 4) (k : Nat) (wr valid : Bool) (s : State) : Host.Outcome State Fault Refusal := awakeNext s (dmaBusErrorOp e k wr valid s)

end Sys2Proof.Machine
end

