-- ==== Sys2Proof/Machine/AgeOps.lean ====
section
/-! DEFINITION. Rails, margins, derate steps, life, and the checks that power a domain off (17_power_clocks_ageing.md R576 to R594). -/

namespace Sys2Proof.Machine

/-! ### Rails and margins (R576, R590, R591) -/

/-- The adaptive rail of a domain: 0 VDD_MAC, 1 VDD_LOGIC, 2 VDD_CPU (R576). -/
def railOf (d : Nat) : Nat := if d = 3 ∨ d = 4 then 0 else if d = 7 ∨ d = 8 then 2 else 1

/-- The maximum of an adaptive rail in mV (R590). -/
def railMax (r : Nat) : Nat := [750, 800, 950].getD r 0

/-- The setpoints in mV of the rails that do not adapt, in the order of R639 (R652). -/
def railNominal (r : Nat) : Nat := [0, 0, 0, 750, 1100, 500, 800, 1800, 1800, 750, 1200].getD r 0

/-- Margin steps of a domain. -/
def State.steps (s : State) (d : Nat) : Nat := s.fld (R.PMG_MARGIN d) 3 0

/-- The required voltage of a domain (R590). -/
def State.requiredMv (s : State) (d : Nat) : Nat := Config.baseMv d s.derate + 5 * s.steps d

/-- The setpoint of rail `r` in mV (R590). -/
def State.setpoint (s : State) (r : Nat) : Nat :=
  if r < 3 then min ((((List.range 10).filter (fun d => railOf d == r)).map s.requiredMv).foldl max 0) (railMax r) else railNominal r

/-- The headroom of a domain is exhausted (R591). -/
def State.exhausted (s : State) (d : Nat) : Bool := decide (12 ≤ s.steps d) || decide (railMax (railOf d) < s.requiredMv d + 5)

/-- PMG_MARGIN_d shows the required voltage and the headroom. -/
def State.showMargin (s : State) (d : Nat) : State :=
  (s.setFld (R.PMG_MARGIN d) 31 16 (s.requiredMv d)).setFlag (R.PMG_MARGIN d) 4 (s.exhausted d)

/-- STEPS of a domain change: the change goes to the flash log (R591, R597, R642). -/
def State.setSteps (s : State) (d n : Nat) (ps : Int) : State :=
  let old := s.steps d
  (s.setFld (R.PMG_MARGIN d) 3 0 n).logRec 3 [BitVec.ofNat 32 d, BitVec.ofNat 32 old, BitVec.ofNat 32 n, BitVec.ofInt 32 ps]

/-- The next major-cycle boundary after now, in local ns (R205). -/
def State.nextMajor (s : State) : Nat := if s.majorNs = 0 then s.now else (s.now / s.majorNs + 1) * s.majorNs

/-- A domain needs a derate step (R592): at the next major-cycle boundary, or at once below 0 ps. -/
def State.needDerate (s : State) (d : Nat) (ps : Int) : State :=
  if 8 ≤ s.derate then s
  else
    let due := if ps < 0 then s.now else s.nextMajor
    match s.age.need with
    | some (_, t) => if due < t then { s with age := { s.age with need := some (d, due) } } else s
    | none => { s with age := { s.age with need := some (d, due) } }

/-- 24 h in ns. -/
abbrev dayNs : Nat := 86400000000000

/-- One domain's sample (R589, R591, R592). (DEDUCED, log 64) -/
def State.slackOne (s : State) (d : Nat) (x : SlackReading) : State :=
  let s := s.setReg (R.PMG_SLACK d) (BitVec.ofNat 32 (x.monitor % 64 * 65536 + unsext 16 x.ps))
  let good (s : State) (v : Option Nat) : State := { s with age := { s.age with good := setAt s.age.good d v } }
  let s :=
    if x.ps < 40 then
      let s := good s none
      if s.exhausted d then s.needDerate d x.ps else s.setSteps d (s.steps d + 1) x.ps
    else if 65 ≤ x.ps then
      match s.age.good.getD d none with
      | none => good s (some s.now)
      | some t => if t + dayNs ≤ s.now ∧ s.steps d ≠ 0 then (good s (some s.now)).setSteps d (s.steps d - 1) x.ps else s
    else good s none
  s.showMargin d

/-- The end of life (R592, R588): at step 8 with headroom exhausted LIFE_END is set, and slack below 0 ps for 10 ms is POWER_THERMAL. (DEDUCED, log 64) -/
def State.lifeEnd (s : State) (d : Nat) (ps : Int) : State :=
  if s.derate = 8 ∧ s.exhausted d then
    let s := s.setFlag R.PMG_CLK_STATUS 6 true
    let since (v : Option Nat) : State := { s with age := { s.age with negSince := setAt s.age.negSince d v } }
    if 0 ≤ ps then since none
    else match s.age.negSince.getD d none with
      | none => since (some s.now)
      | some t => if 10000000 + t ≤ s.now then s.cause Cause.powerThermal 0xFF 0 0 else s
  else s

/-- The headroom left in mV (R594). -/
def State.headroom (s : State) : Nat :=
  (((List.range 10).map (fun d => (12 - s.steps d) * 5)).foldl min 60) + 20 * (8 - s.derate)

/-- LIFE_DAYS (R594): H over the slope of the least-squares line through the days, rounded down. (DEDUCED, log 64) -/
def lifeDays (h : Nat) (days : List (Nat × Nat)) : Nat :=
  let n : Int := days.length
  let sx : Int := (days.map (fun e => (e.1 : Int))).sum
  let sy : Int := (days.map (fun e => (e.2 : Int))).sum
  let num := n * (days.map (fun e => (e.1 : Int) * e.2)).sum - sx * sy
  let den := n * (days.map (fun e => (e.1 : Int) * e.1)).sum - sx * sx
  if days.length < 30 ∨ num ≤ 0 then 65535 else min ((h : Int) * den / num).toNat 65535

/-- The day's highest margin is kept for 90 days, and PMG_LIFE is computed (R594). -/
def State.showLife (s : State) : State :=
  let day := s.devNow / dayNs
  let v := (((List.range 10).map (fun d => s.steps d * 5)).foldl max 0) + 20 * s.derate
  let today := match s.age.days.find? (fun e => e.1 == day) with | some e => max e.2 v | none => v
  let days := s.age.days.filter (fun e => e.1 != day && decide (day < e.1 + 90)) ++ [(day, today)]
  let s : State := { s with age := { s.age with days := days } }
  s.setReg R.PMG_LIFE (BitVec.ofNat 32 (65536 * lifeDays s.headroom days + s.headroom))

/-! ### Derate steps (R573, R574, R593) -/

/-- The clock rates at the present step (R573). -/
def State.showClocks (s : State) : State :=
  let k := 32 - s.derate
  (((s.setReg R.PMG_CORE_HZ (BitVec.ofNat 32 (62500000 * k))).setReg R.PMG_NOC_HZ (BitVec.ofNat 32 (31250000 * k))).setReg R.PMG_PIPE_HZ
    (BitVec.ofNat 32 (15625000 * k))).setReg R.PMG_MAC_HZ (BitVec.ofNat 32 (7812500 * k))

/-- The header of the image of an admitted segment. -/
def State.segHead (s : State) (g : Graph) (x : SegAdm) : Option (List Word) :=
  (s.nc.segs.find? (fun y => y.part == g.part && y.addr == x.addr && y.cores == x.cores)).map (·.head)

/-- The demands of a graph's segments at the present MAC_CLK. (DEDUCED, log 62) -/
def State.redemand (s : State) (g : Graph) : Graph :=
  { g with segs := g.segs.map (fun x =>
    match s.segHead g x with
    | none => x
    | some h => match s.demand g.part h (wd (g.node x.node).args 2).toNat (g.node x.node).inst with
      | none => x
      | some (w, e) => { x with west := w, east := e }) }

/-- What repeated admission says of a graph (R364 to R366): check, domain and excess in µs, or nothing. -/
def State.overGraph (s : State) (g : Graph) : Option (Nat × Nat × Nat) :=
  let unit := 250 * (32 - s.derate)
  let tile := g.segs.findSome? (fun x => (s.segHead g x).bind (fun h =>
    let t := segMaxTile h * 32 * 1000
    if 38000 * unit < t then some (5, 0, ceilDiv (t - 38000 * unit) (1000 * unit)) else none))
  -- streamed weights without a rate take an unbounded time (R365)
  let endless := g.segs.find? (fun x => (s.segHead g x).elim false (fun h => (s.runTime g.part h).isNone))
  match tile, endless with
  | some e, _ => some e
  | none, some x => some (6, (let n := (g.node x.node).inst; if 4 ≤ n ∧ n ≤ 7 ∨ n = 9 then 1 else 0), 0xFFFFFFFF)
  | none, none =>
    let sum (east : Bool) : Nat × Nat :=
      ((s.fgs.graphs.filter (fun x => x.part == g.part && decide (x.id ≤ g.id))).flatMap (fun x => x.segs)).foldl
        (fun a x => fracAdd a (if east then x.east else x.west)) (0, 1)
    let ow := overBudget (sum false) (s.timeBudget g.part 6)
    let oe := overBudget (sum true) (s.timeBudget g.part 7)
    if g.segs.isEmpty then none else if ow ≠ 0 then some (6, 0, ow) else if oe ≠ 0 then some (6, 1, oe) else none

/-- Admission is repeated for every resident graph (R366, R593): those that no longer fit are kept and reported. (DEDUCED, log 62) -/
def State.readmit (s : State) : State :=
  let s : State := { s with fgs := { s.fgs with graphs := s.fgs.graphs.map s.redemand } }
  let gs := (List.range 256).filterMap (fun i => s.graph? i)
  let ovr := gs.filterMap (fun g => (s.overGraph g).map (fun e => (g, e)))
  let s := ovr.foldl (fun s e => s.admResult St.timeBudget e.2.1 e.2.2.1 e.1.part e.1.id e.2.2.2) s
  State.ncShow { s with age := { s.age with ovr := ovr.map (fun e => e.1.id) } }

/-- The 8 words of graphs over budget (R642). -/
def overWords (ovr : List Nat) : List Word :=
  (List.range 8).map (fun w => BitVec.ofNat 32 (((List.range 32).map (fun b => if ovr.contains (32 * w + b) then 2 ^ b else 0)).sum))

/-- The device moves to the next derate step (R574, R592, R593), which domain `d` required. (DEDUCED, log 62) -/
def State.derateStep (s : State) (d : Nat) : State :=
  let s := s.ncClock
  let s := (s.setFld R.PMG_CLK_STATUS 3 0 (s.derate + 1)).setFlag R.PMG_CLK_STATUS 5 true
  let s := ({ s with age := { s.age with need := none } }).showClocks
  let s := (List.range 10).foldl State.showMargin (s.count 6 1)
  let s := s.readmit
  s.logRec 2 ([BitVec.ofNat 32 s.derate, BitVec.ofNat 32 d, BitVec.ofInt 32 (sext 16 (s.fld (R.PMG_SLACK d) 15 0))] ++ overWords s.age.ovr)

/-! ### Power-off (R577 to R579) -/

/-- A domain that may power off, and the engines in it (R576). -/
def mayPowerOff (d : Nat) : Bool := d == 1 || d == 2 || d == 3 || d == 4 || d == 8
def domEngines (d : Nat) : List Nat := workers.filter (fun w => domainOf w == d)

/-- The domain serves P0 (R577). -/
def State.servesP0 (s : State) (d : Nat) : Bool :=
  (domEngines d).any (fun w => match tableOf w with | some t => (s.windows t).any (fun e => e.1 == 0) | none => false)
    || (d == 8 && (List.range 4).any (fun k => s.homeOf (4 + k) == 0))

/-- An engine of the domain holds a RUNNING task, a yielded job, a READY task or an end of a granted slot ring (R577). -/
def State.domHolds (s : State) (d : Nat) : Bool :=
  s.hts.tasks.any (fun e =>
    (e.2.state == .running && (match e.2.worker with | some w => domainOf w == d | none => false))
    || (match e.2.bank with | some w => domainOf w == d | none => false)
    || (e.2.state == .ready && (domEngines d).any (fun w => s.servesTask w e.2)))
  || s.isp.queue.any (fun _ => d == 1)
  || s.fgs.rings.any (fun x => x.owner.isSome && (match s.graph? x.graph with
    | none => false
    | some g => (g.edges.filter (fun e => e.typ == Edge.ring && e.ring == x.idx)).any (fun e =>
        [e.src, e.dst].any (fun n => (domEngines d).any (fun w =>
          s.servesTask w { Task.freeOf 1 with cls := nodeClass (g.node n), inst := (g.node n).inst, part := g.part })))))

/-- A domain powers off (R577): `wfi` says that every core of CPU_B has been in WFI for IDLE_US. -/
def State.mayOffNow (s : State) (d : Nat) (wfi : Bool) : Bool :=
  let idle := max (s.fld (R.PMG_DOM_CFG d) 15 0) 100
  mayPowerOff d && s.domState d == Dom.on && s.flag (R.PMG_DOM_CFG d) 31 && !(s.locked && s.servesP0 d) && !s.domHolds d
    && decide ((s.power.lastBusy.getD d 0) + 1000 * idle ≤ s.now) && (d != 8 || wfi)

/-- What a power-off loses (R426, R579): activation and partial-sum memory of the domain's cores, which read zero after the wake. (DEDUCED, log 45) -/
def State.domLose (s : State) (d : Nat) : State :=
  if d = 3 ∨ d = 4 then
    (List.range 4).foldl (fun s k =>
      let c := 4 * (d - 3) + k
      (s.spmZeroMem (spmMem 1 c)).spmZeroMem (spmMem 2 c)) s
  else s

/-- The domain is ON again (R578, R579): FTE0 has its pair tables from their images; one whose image cannot be read is resident no more. (DEDUCED, log 49) -/
def State.domRestore (s : State) (d : Nat) : State :=
  if d ≠ 2 then s
  else (List.range 4).foldl (fun s k =>
    match s.fte.getD k none with
    | none => s
    | some t =>
      let (s, st, bs) := s.readAgain (whoPart 0x29 t.owner) t.addr 1024 2
      { s with fte := setAt s.fte k (if st = St.done then some { t with words := (List.range 256).map (wordAt bs) } else none) }) s

end Sys2Proof.Machine
end

