-- ==== Sys2Proof/Machine/Power.lean ====
section
/-! DEFINITION. The commands of clocks, power domains, the budget, heat, ageing and the flash log (17_power_clocks_ageing.md). -/

namespace Sys2Proof.Machine

/-! ### Clocks (R574, R592) -/

/-- DERATE_STEP (R574, R592): the step that a domain needs, once it is due. -/
def derateStepOp (s : State) : State :=
  match s.age.need with
  | some (d, due) => if due ≤ s.now ∧ s.derate < 8 then s.derateStep d else s
  | none => s

def execDerateStep (s : State) : Host.Outcome State Fault Refusal := awakeNext s (derateStepOp s)

/-- PLL_SLEW_DONE (R574). -/
def execPllSlewDone (s : State) : Host.Outcome State Fault Refusal := awakeNext s (s.setFlag R.PMG_CLK_STATUS 5 false)

/-! ### Domains (R577 to R579) -/

/-- DOMAIN_POWER_OFF (R577). (DEDUCED, log 62) -/
def domainOffOp (d : Nat) (wfi : Bool) (s : State) : State :=
  if s.mayOffNow d wfi then s.setFld (R.PMG_DOM_STATUS d) 2 0 Dom.poweringOff else s

def execDomainPowerOff (d : Fin 10) (wfi : Bool) (s : State) : Host.Outcome State Fault Refusal := awakeNext s (domainOffOp d wfi s)

/-- DOMAIN_POWER_OFF_DONE (R578, R579): POWERING_OFF → OFF; a wake that arrived meanwhile follows at once. -/
def domainOffDoneOp (d : Nat) (s : State) : State :=
  if s.domState d = Dom.poweringOff then
    let s := (s.setFld (R.PMG_DOM_STATUS d) 2 0 Dom.off).domLose d
    if s.power.wakeAfterOff.contains d then
      State.wakeDomain { s with power := { s.power with wakeAfterOff := s.power.wakeAfterOff.filter (· != d) } } d
    else s
  else s

def execDomainPowerOffDone (d : Fin 10) (s : State) : Host.Outcome State Fault Refusal := awakeNext s (domainOffDoneOp d s)

/-- DOMAIN_WAKE (R578): a cause to wake reaches the domain. -/
def execDomainWake (d : Fin 10) (s : State) : Host.Outcome State Fault Refusal := awakeNext s (s.wakeDomain d)

/-- DOMAIN_WAKE_DONE (R578, R579). -/
def domainWakeDoneOp (d : Nat) (s : State) : State :=
  if s.domState d = Dom.waking then ((s.setFld (R.PMG_DOM_STATUS d) 2 0 Dom.on).domRestore d).domBusy d else s

def execDomainWakeDone (d : Fin 10) (s : State) : Host.Outcome State Fault Refusal := awakeNext s (domainWakeDoneOp d s)

/-! ### The budget (R580 to R584) -/

/-- The request to be served next: the first of P0, or, with none waiting, the first of all (R583). -/
def State.nextCredit (s : State) : Option Credit :=
  match s.power.waiting.find? (fun c => c.part == 0) with
  | some c => some c
  | none => s.power.waiting.head?

/-- The records of the work that waited for its grant carry POWER_DELAYED (R583). (DEDUCED, log 62) -/
def State.markDelayed (s : State) (id : Nat) : State :=
  if 0x30 ≤ id ∧ id ≤ 0x33 then
    (List.range 16).foldl (fun s c =>
      if s.chState (id - 0x30) c = Ch.running then s.modChan (id - 0x30) c (fun x => { x with delayed := true }) else s) s
  else match s.runningOn id with
    | some i => s.modTask i (fun t => { t with powerDelayed := true })
    | none => s

/-- POWER_CREDIT_GRANT (R583): the next waiting request, once it fits. (DEDUCED, log 62) -/
def creditGrantOp (s : State) : State :=
  match s.nextCredit with
  | none => s
  | some c =>
    if s.creditFits c.part c.units then
      let s : State := { s with power := { s.power with held := s.power.held ++ [c], waiting := s.power.waiting.erase c } }
      ((s.markDelayed c.agent).bump R.PMG_DELAYED_CNT).bumpN R.PMG_GRANT_DELAY_US ((s.now - c.since) / 1000)
    else s

def execPowerCreditGrant (s : State) : Host.Outcome State Fault Refusal := awakeNext s (creditGrantOp s)

/-- A filtered value lies between the smallest and the largest sample. (UNVERIFIED, log 63) -/
def baseOf (l : List Nat) : Nat :=
  match l with
  | [] => 0
  | a :: t => max (t.foldl min a) (min (t.foldl max a) (Config.baseFilter l))

/-- POWER_BASE_UPDATE (R581): the rails' power less the credits held, filtered over 8 s, in units of 0.125 W rounded up. (UNVERIFIED, log 63) -/
def powerBaseOp (s : State) : State :=
  let uw := (s.power.rails.map (fun r => r.1 * r.2)).sum - 125000 * s.creditsUsed
  let l := (uw :: s.power.baseSamples).take 8
  let s : State := { s with power := { s.power with baseSamples := l } }
  s.setFld R.PMG_BASE 9 0 (min (ceilDiv (baseOf l) 125000) 1023)

def execPowerBaseUpdate (s : State) : Host.Outcome State Fault Refusal := awakeNext s (powerBaseOp s)

/-! ### Heat and rails (R585 to R588) -/

/-- THERMAL_CAP_UPDATE (R586, R588): the ten junction sensors are read; THERM_CAP falls or rises by 4 units within its bounds. (DEDUCED, log 64) -/
def thermalCapOp (tj : List (BitVec 16)) (s : State) : State :=
  let codes := (List.range 10).map (fun d => (tj.getD d 0).toNat)
  let temp (d : Nat) : Int := sext 16 (codes.getD d 0)
  let hot := (List.range 10).foldl (fun b d => if temp b < temp d then d else b) 0
  let s : State := { s with power := { s.power with tj := codes } }
  let s := s.setReg R.PMG_TJ (BitVec.ofNat 32 (2 ^ 28 * hot + codes.getD hot 0))
  let dram := (List.range 4).map (fun d => sext 16 (s.fld (R.DMC_TEMP d) 15 0) - 8 * (s.fld R.PMG_THERM_CFG 15 8 : Int))
  let h := dram.foldl max (temp hot - 8 * (s.fld R.PMG_THERM_CFG 7 0 : Int))
  let cap := s.fld R.PMG_BUDGET_EFF 25 16
  let cap := if 0 < h then cap - 4 else if h < -24 then cap + 4 else cap
  let lo := max 200 (s.fld R.PMG_BASE 9 0 + s.fld R.PMG_P0_RESERVE 9 0)
  let hi := min (s.fld R.PMG_BUDGET_LIMIT 9 0) (s.fld R.PMG_BUDGET_MAX 9 0)
  let s := s.setFld R.PMG_BUDGET_EFF 25 16 (min (max cap lo) hi)
  if 110 * 8 < temp hot then s.cause Cause.powerThermal 0xFF 0 0 else s

def execThermalCapUpdate (tj : List (BitVec 16)) (s : State) : Host.Outcome State Fault Refusal := awakeNext s (thermalCapOp tj s)

/-- How far a reading lies from the setpoint. -/
def absDiff (a b : Nat) : Nat := if a ≤ b then b - a else a - b

/-- One rail's reading (R587, R588): the Bool says that a limit is violated. (DEDUCED, log 64) -/
def State.railOne (s : State) (r : Nat) (x : RailReading) : State × Bool :=
  if !x.valid then (s, false)
  else
    let n := if 30 < absDiff x.mv (s.setpoint r) then s.power.railBad.getD r 0 + 1 else 0
    ({ s with power := { s.power with rails := setAt s.power.rails r (x.mv, x.ma), railBad := setAt s.power.railBad r n },
              age := { s.age with lastRead := some s.now } },
     x.fault || decide (2 ≤ n))

/-- RAIL_READ (R587, R588): every rail in the order of R639. -/
def railReadOp (rs : List RailReading) (s : State) : State :=
  let s : State := if s.age.lastRead.isNone then { s with age := { s.age with lastRead := some s.now } } else s
  let (s, bad) := (rs.take 11).zipIdx.foldl (fun (a : State × Bool) e =>
    let (s, b) := a.1.railOne e.2 e.1
    (s, a.2 || b)) (s, false)
  let mute := match s.age.lastRead with | some t => decide (10000000 + t ≤ s.now) | none => false
  if bad || mute then s.cause Cause.powerThermal 0xFF 0 0 else s

def execRailRead (rs : List RailReading) (s : State) : Host.Outcome State Fault Refusal := awakeNext s (railReadOp rs s)

/-- DROOP (R585): NE_W and NE_E skip MAC_CLK pulses until the supply recovers; other domains count the event. -/
def droopOp (d : Nat) (s : State) : State :=
  if d = 3 ∨ d = 4 then
    if s.age.droop.contains d then s else { s with age := { s.age with droop := s.age.droop ++ [d] } }
  else s.bump R.PMG_DROOP_EVT_CNT

def execDroopEvent (d : Fin 10) (s : State) : Host.Outcome State Fault Refusal := awakeNext s (droopOp d s)

/-- DROOP_RECOVERY (R585): `pulses` were skipped. (DEDUCED, log 64) -/
def droopRecoveryOp (d pulses : Nat) (s : State) : State :=
  if s.age.droop.contains d then
    let s : State := { s with age := { s.age with droop := s.age.droop.filter (· != d) } }
    s.bumpN (if d = 3 then R.PMG_DROOP_SKIP_W else R.PMG_DROOP_SKIP_E) pulses
  else s

def execDroopRecovery (d : Fin 10) (pulses : Nat) (s : State) : Host.Outcome State Fault Refusal := awakeNext s (droopRecoveryOp d pulses s)

/-! ### Ageing (R589 to R594) -/

/-- SLACK_SAMPLE (R589, R591, R592, R594): the readings of the ten domains. -/
def slackSampleOp (xs : List SlackReading) (s : State) : State :=
  let l := (xs.take 10).zipIdx
  let s := l.foldl (fun s e => s.slackOne e.2 e.1) s
  (l.foldl (fun s e => s.lifeEnd e.2 e.1.ps) s).showLife

def execSlackSample (xs : List SlackReading) (s : State) : Host.Outcome State Fault Refusal := awakeNext s (slackSampleOp xs s)

/-! ### Registers (R598, R599) -/

/-- A write that the SMC and the island make, and P3 agents too where `p3` says so (R599). -/
def State.pmgWrite (s : State) (ag : Agent) (p3 : Bool) (f : State → State) : State :=
  if isFull ag || (p3 && s.partOf ag == 3) then f s else s.refuseSys ag

/-- PMG_BUDGET_LIMIT_WRITE (R580, R599): below 200 ignored. -/
def budgetLimitOp (ag : Agent) (v : Word) (s : State) : State :=
  s.pmgWrite ag true (fun s => if bits v 9 0 < 200 then s else s.setFld R.PMG_BUDGET_LIMIT 9 0 (bits v 9 0))

def execPmgBudgetLimitWrite (ag : Agent) (v : Word) (s : State) : Host.Outcome State Fault Refusal := awakeNext s (budgetLimitOp ag v s)

/-- PMG_BUDGET_MAX_WRITE (R599): outside 200 to 760 ignored; RO after the lock. -/
def budgetMaxOp (ag : Agent) (v : Word) (s : State) : State :=
  s.pmgWrite ag false (fun s =>
    if s.locked ∨ bits v 9 0 < 200 ∨ 760 < bits v 9 0 then s else s.setFld R.PMG_BUDGET_MAX 9 0 (bits v 9 0))

def execPmgBudgetMaxWrite (ag : Agent) (v : Word) (s : State) : Host.Outcome State Fault Refusal := awakeNext s (budgetMaxOp ag v s)

/-- PMG_P0_RESERVE_WRITE (R599): above PMG_BUDGET_MAX − 200 ignored; RO after the lock. -/
def p0ReserveOp (ag : Agent) (v : Word) (s : State) : State :=
  s.pmgWrite ag false (fun s =>
    if s.locked ∨ s.fld R.PMG_BUDGET_MAX 9 0 - 200 < bits v 9 0 then s else s.setFld R.PMG_P0_RESERVE 9 0 (bits v 9 0))

def execPmgP0ReserveWrite (ag : Agent) (v : Word) (s : State) : Host.Outcome State Fault Refusal := awakeNext s (p0ReserveOp ag v s)

/-- PMG_THERM_CFG_WRITE (R586, R599): a field out of range makes it ignored; RO after the lock. -/
def thermCfgOp (ag : Agent) (v : Word) (s : State) : State :=
  s.pmgWrite ag false (fun s =>
    if s.locked ∨ bits v 15 8 < 70 ∨ 100 < bits v 15 8 ∨ bits v 7 0 < 70 ∨ 104 < bits v 7 0 then s
    else s.setFld R.PMG_THERM_CFG 15 0 (bits v 15 0))

def execPmgThermCfgWrite (ag : Agent) (v : Word) (s : State) : Host.Outcome State Fault Refusal := awakeNext s (thermCfgOp ag v s)

/-- The counters of the block (R598). -/
def pmgCounters : List Nat := [R.PMG_GRANT_DELAY_US, R.PMG_DELAYED_CNT, R.PMG_DROOP_SKIP_W, R.PMG_DROOP_SKIP_E, R.PMG_DROOP_EVT_CNT,
  R.PMG_DESKEW_STALE_CNT]

/-- PMG_CLEAR_COUNTS (R598, R599). -/
def pmgClearOp (ag : Agent) (s : State) : State := s.pmgWrite ag true (fun s => s.zeroRegs pmgCounters)

def execPmgClearCounts (ag : Agent) (s : State) : Host.Outcome State Fault Refusal := awakeNext s (pmgClearOp ag s)

/-! ### The flash log (R597, R642) -/

/-- The log area: 32 MiB from here (R604). -/
abbrev logBase : Nat := 0x1E000000
abbrev logSize : Nat := 0x2000000

/-- An unlisted byte of the flash reads erased. (DESIGN CHOICE, log 4) -/
def flashBlank : Nat → Byte := fun _ => 0xFF

/-- Bytes of the flash. -/
def State.flashBytes (s : State) (a n : Nat) : List Byte := Store.getList flashBlank s.sec.flash a n

/-- A range erased, and bytes programmed. -/
def State.flashErase (s : State) (a n : Nat) : State := { s with sec := { s.sec with flash := Store.clear a (a + n) s.sec.flash } }
def State.flashPut (s : State) (a : Nat) (bs : List Byte) : State :=
  { s with sec := { s.sec with flash := Store.putList flashBlank a bs s.sec.flash } }

/-- The 512 bytes of a record (R642). -/
def logBytes (r : LogRec) (seq boot : Nat) : List Byte :=
  let ws := [BitVec.ofNat 32 (r.kind % 256 * 2 ^ 24 + 2 ^ 16 + r.body.length % 65536), BitVec.ofNat 32 seq, BitVec.ofNat 32 r.time,
    BitVec.ofNat 32 (r.time / 2 ^ 32), BitVec.ofNat 32 boot] ++ (List.range 122).map (fun k => wd r.body k)
  wordBytes (ws ++ [crc32c (wordBytes ws)])

/-- The block at `a` erased and counted when a record begins there. (DEDUCED, log 65) -/
def State.logErase (s : State) (a : Nat) : State :=
  if a % 65536 = 0 then
    State.flashErase { s with sec := { s.sec with erases := Store.put (fun _ => 0) (a / 65536) (Store.get (fun _ => 0) s.sec.erases (a / 65536) + 1) s.sec.erases } } a 65536
  else s

/-- One record written at the log's next address, and where the log stands after it. (DEDUCED, log 65) -/
def State.logAppend (s : State) (r : LogRec) (hour used : Nat) : State :=
  let a := s.sec.logAddr
  let s := (s.logErase a).flashPut a (logBytes r s.sec.logSeq s.saf.bootSeq)
  let next := if a + 512 = logBase + logSize then logBase else a + 512
  { s with sec := { s.sec with logAddr := next, logSeq := s.sec.logSeq + 1, logHour := hour, logBytes := used + 512 } }

/-- FLASH_LOG_APPEND (R597): the oldest held record, while LOG_RATE (256 KiB per hour) allows; a block is erased before it is entered. (DEDUCED, log 65) -/
def flashLogOp (s : State) : State :=
  match s.flashLog with
  | [] => s
  | r :: t =>
    let hour := s.now / 3600000000000
    let used := if s.sec.logHour = hour then s.sec.logBytes else 0
    if 262144 < used + 512 then s else { s.logAppend r hour used with flashLog := t }

def execFlashLogAppend (s : State) : Host.Outcome State Fault Refusal := awakeNext s (flashLogOp s)

end Sys2Proof.Machine
end

