-- ==== Sys2Proof/Machine/SecOps.lean ====
section
/-! DEFINITION. Flash slots, image headers and their verification, fuses and the debug exchange (18_boot_security_pcie.md R604 to
R616). -/

namespace Sys2Proof.Machine

/-- A list of exactly `n` bytes. -/
def fitBytes (n : Nat) (l : List Byte) : List Byte := (l ++ List.replicate n 0).take n

/-- SM3 of bytes: 32 bytes. (UNVERIFIED, log 7) -/
def hash32 (bs : List Byte) : List Byte := fitBytes 32 (Config.sm3 bs)

/-- `n` bytes of `l` from position `a` on. -/
def slice (l : List Byte) (a n : Nat) : List Byte := (l.drop a).take n

/-! ### The flash (R603 to R605) -/

/-- Base of a slot, and the size of its image area; its trailer follows (R604). -/
def slotBase (k : Nat) : Nat := if k = 0 then 0 else 0x0F000000
abbrev slotSize : Nat := 0x0F000000
abbrev slotImage : Nat := 0x0EFF0000

/-- The 64 KiB blocks that [a, a + n) meets, erased; each erase is counted (R597, R603). -/
def State.eraseBlocks (s : State) (a n : Nat) : State :=
  (List.range (n / 65536)).foldl (fun s i =>
    let b := a / 65536 + i
    State.flashErase { s with sec := { s.sec with erases := Store.put (fun _ => 0) b (Store.get (fun _ => 0) s.sec.erases b + 1) s.sec.erases } }
      (65536 * b) 65536) s

/-- States of a slot (R605). -/
abbrev Slot.empty : Nat := 0
abbrev Slot.trial : Nat := 1
abbrev Slot.confirmed : Nat := 2
abbrev Slot.bad : Nat := 3

/-- The 16 words of a trailer. -/
def State.trailerWords (s : State) (k : Nat) : List Word :=
  let bs := s.flashBytes (slotBase k + slotImage) 64
  (List.range 16).map (wordAt bs)

/-- A trailer's STATE and TRIES; one that fails its check reads EMPTY (R605). -/
def State.trailer (s : State) (k : Nat) : Nat × Nat :=
  let ws := s.trailerWords k
  if wd ws 0 = 0x4C494154 ∧ wd ws 15 = crc32c (wordBytes (ws.take 15)) then (bits (wd ws 1) 1 0, bits (wd ws 1) 9 8) else (Slot.empty, 0)

/-- The trailer's block rewritten with STATE and TRIES (R605). -/
def State.setTrailer (s : State) (k st tries : Nat) : State :=
  let ws := [0x4C494154#32, BitVec.ofNat 32 (tries % 4 * 256 + st % 4)] ++ List.replicate 13 0#32
  (s.eraseBlocks (slotBase k + slotImage) 65536).flashPut (slotBase k + slotImage) (wordBytes (ws ++ [crc32c (wordBytes ws)]))

/-! ### Images (R607 to R609) -/

/-- The 512-byte header of a slot's image, and its fields. -/
def State.imgHead (s : State) (k : Nat) : List Byte := s.flashBytes (slotBase k) 512
def imgSections (h : List Byte) : Nat := bits (wordAt h 1) 15 0
def imgVersion (h : List Byte) : Word := wordAt h 2
def imgRollback (h : List Byte) : Nat := bits (wordAt h 3) 5 0
def imgTable (h : List Byte) : Nat := (wordAt h 4).toNat

/-- The entries of the section table, 16 words each (R608). -/
def State.imgEntries (s : State) (k : Nat) : List (List Word) :=
  let h := s.imgHead k
  (List.range (imgSections h)).map (fun i =>
    let bs := s.flashBytes (slotBase k + imgTable h + 64 * i) 64
    (List.range 16).map (wordAt bs))

/-- Fields of a section table entry. -/
def secType (e : List Word) : Nat := bits (wd e 0) 31 24
def secSigner (e : List Word) : Nat := bits (wd e 0) 23 23
def secId (e : List Word) : Nat := bits (wd e 0) 15 0
def secOff (e : List Word) : Nat := (wd e 1).toNat
def secBytes (e : List Word) : Nat := (wd e 2).toNat
def secLoad (e : List Word) : Nat := (wd e 3).toNat + 2 ^ 32 * bits (wd e 4) 7 0
def secHash (e : List Word) : List Byte := wordBytes (e.drop 8)

/-- A section as stored, and whether it is what its entry says. -/
def State.secData (s : State) (k : Nat) (e : List Word) : List Byte := s.flashBytes (slotBase k + secOff e) (secBytes e)
def State.secOk (s : State) (k : Nat) (e : List Word) : Bool := hash32 (s.secData k e) == secHash e

/-- The header fields satisfy R607. -/
def headOk (h : List Byte) : Bool :=
  wordAt h 0 == 0x314E5242 && decide (bits (wordAt h 1) 31 24 = 1) && decide (bits (wordAt h 1) 23 16 = 0)
    && decide (1 ≤ imgSections h) && decide (imgSections h ≤ 256) && decide (bits (wordAt h 3) 31 6 = 0) && decide (imgTable h % 64 = 0)
    && (slice h 20 44).all (· == 0) && (slice h 320 192).all (· == 0)

/-- No two of the ranges (first, length) overlap. -/
def apartAll : List (Nat × Nat) → Bool
  | [] => true
  | (a, n) :: t => t.all (fun x => decide (a + n ≤ x.1) || decide (x.1 + x.2 ≤ a)) && apartAll t

/-- The four sections that stand exactly once, with their signer (R608, R609). -/
def typesOk (es : List (List Word)) : Bool :=
  [(1, 0), (2, 0), (3, 0), (0x10, 1)].all (fun x =>
    match es.filter (fun e => secType e == x.1) with
    | [e] => secSigner e == x.2
    | _ => false)

/-- What a signer signs: header bytes 0 to 63 followed by its entries in table order (R609). -/
def signedBytes (h : List Byte) (es : List (List Word)) (signer : Nat) : List Byte :=
  h.take 64 ++ (es.filter (fun e => secSigner e == signer)).flatMap wordBytes

/-- A hash is an enrolled owner hash that is not revoked (R610). -/
def Fuses.ownerOk (f : Fuses) (h : List Byte) : Bool := (f.owner0 == some h && !f.revoke0) || f.owner1 == some h

/-- The device is OWNED (R610). -/
def Fuses.owned (f : Fuses) : Bool := (f.owner0.isSome && !f.revoke0) || f.owner1.isSome

/-- The image of a slot verifies (R609). (DEDUCED, log 67) -/
def State.slotVerifies (s : State) (k : Nat) : Bool :=
  let h := s.imgHead k
  let f := s.sec.fuses
  let es := s.imgEntries k
  headOk h && decide (imgTable h + 64 * imgSections h ≤ slotImage)
    && es.all (fun e => decide (secOff e + secBytes e ≤ slotImage)) && apartAll (es.map (fun e => (secOff e, secBytes e)))
    && typesOk es
    && hash32 (slice h 64 64) == f.aqnHash && Config.sm2Verify (slice h 64 64) (signedBytes h es 0) (slice h 128 64)
    && (!f.owned || (f.ownerOk (hash32 (slice h 192 64)) && Config.sm2Verify (slice h 192 64) (signedBytes h es 1) (slice h 256 64)))
    && decide (f.rb ≤ imgRollback h)

/-- The section of the running image with a SECTION_ID (R508). -/
def State.sectionOf (s : State) (k id : Nat) : Option (List Word) := (s.imgEntries k).find? (fun e => secId e == id)

/-! ### Debug (R616) -/

/-- `n` bytes that nothing fixes. -/
def State.freeBytes (s : State) (n : Nat) : List Byte × State :=
  let (q, s) := s.draw
  ((List.range n).map (fun i => Config.freeByte q i), s)

/-- A challenge is issued (R616): the status and its 68 bytes. (DEDUCED, log 70) -/
def State.debugChallenge (s : State) (scope : Word) : State × Nat × List Byte :=
  if scope = 1 ∨ scope = 2 then
    let (r, s) := s.freeBytes 32
    let bs := r ++ hash32 s.sec.fuses.devicePub ++ leBytes 4 scope.toNat
    ({ s with sec := { s.sec with challenge := some ⟨bs, scope.toNat, s.now, false⟩ } }, St.done, bs)
  else (s, St.descInvalid, [])

/-- The response of 64 bytes of signature and 64 bytes of key unlocks (R616). (DEDUCED, log 70) -/
def State.unlocks (s : State) (c : Challenge) (bs : List Byte) : Bool :=
  let f := s.sec.fuses
  let key := slice bs 64 64
  !f.debugOff && !c.used && decide (s.now ≤ 60000000000 + c.issued) && decide (s.sec.fails < 8)
    && !(c.scope == 2 && (s.island == Island.lockedSt || s.island == Island.run))
    && Config.sm2Verify key c.bytes (bs.take 64) && (hash32 key == f.aqnHash || f.ownerOk (hash32 key))

/-- A response is checked (R616); one that does not unlock has failed, and its challenge is used. (DEDUCED, log 70) -/
def State.debugResponse (s : State) (bs : List Byte) : State × Nat :=
  match s.sec.challenge with
  | none => ({ s with sec := { s.sec with fails := s.sec.fails + 1 } }, St.partitionFault)
  | some c =>
    let used : State := { s with sec := { s.sec with challenge := some { c with used := true } } }
    if s.unlocks c bs then ({ used with sec := { used.sec with scope := max used.sec.scope c.scope } }, St.done)
    else ({ used with sec := { used.sec with fails := used.sec.fails + 1 } }, St.partitionFault)

end Sys2Proof.Machine
end

