-- ==== Sys2Proof/Machine/Pcie.lean ====
section
/-! DEFINITION. The commands of the PCI Express endpoint: reset, link, configuration space, result queues, the outbound windows
(18_boot_security_pcie.md R601, R602, R617 to R629). -/

namespace Sys2Proof.Machine

/-- Inbound packets reach the device. -/
def State.inboundOk (s : State) : Bool := !s.sec.por && !s.sec.railsOff && !s.pci.perst && s.linkUp

/-! ### Responses of the management queue (R626) -/

/-- The management queue is enabled with a usable size. -/
def State.mgqOn (s : State) : Bool :=
  s.flag R.PCI_MGQ_CFG 31 && decide (4 ≤ s.fld R.PCI_MGQ_CFG 3 0) && decide (s.fld R.PCI_MGQ_CFG 3 0 ≤ 10)

/-- Responses leave in order while the queue can take them (R602, R626); with the link down a write is a bus error, and the response lost. -/
def State.mgqFlush (s : State) : State :=
  if !s.mgqOn || !s.pci.busMaster then s
  else
    let t : State := { s with sec := { s.sec with answers := [] } }
    if !s.linkUp then t
    else s.sec.answers.foldl (fun (t : State) ws =>
      let a := t.reg64 R.PCI_MGQ_CQ_LO R.PCI_MGQ_CQ_HI / 32 * 32 + 32 * (t.sec.cqTail % 2 ^ t.fld R.PCI_MGQ_CFG 3 0)
      let t := t.outWrite false a (wordBytes ws)
      State.vector { t with sec := { t.sec with cqTail := (t.sec.cqTail + 1) % 2 ^ 32 } } 0) t

/-- Everything that waits for Bus Master Enable or an ENABLE goes on. -/
def State.pciResume (s : State) : State :=
  (((s.pci.waiting.map (fun e => e.queue)).eraseDups).foldl (fun s q => s.emitResume q (s.pci.waiting.length + 1)) s).mgqFlush

/-! ### PERST_N (R18, R602) -/

/-- Result and telemetry records that wait are discarded, and the EMIT nodes end (R602). (DEDUCED, log 71) -/
def State.perstDrop (s : State) : State :=
  s.pci.waiting.foldl (fun s e =>
    let i := s.emitTask e
    let t := State.dropResult { s with pci := { s.pci with waiting := s.pci.waiting.erase e } } e.queue
    match i with | some i => t.emitEnd i St.deadlineMissed 0 | none => t) s

/-- The registers PERST_N clears (R602). (DEDUCED, log 71) -/
def State.perstRegs (s : State) : State :=
  let s := (List.range 256).foldl (fun s q => s.setFlag (R.PCI_RQ_CFG q) 31 false) s
  (((s.setFlag R.PCI_MGQ_CFG 31 false).setFlag R.PCI_TELEM_CFG 31 false).setReg R.PCI_MGQ_SQ_HEAD 0)

/-- The link goes down: the status reads so, and DMA reads outstanding over it end in bus errors (R450, R621). (DEDUCED, log 87) -/
def State.linkLost (s : State) : State :=
  if !s.linkUp then s
  else
    let s := (s.setReg R.PCI_LINK_STATUS 0).count 1222 1
    (List.range 4).foldl (fun s e =>
      (s.eng e).reads.foldl (fun s r =>
        let x := s.chan e r.chan
        if (dmaSrcSpace x.desc = 5 ∨ dmaSrcSpace x.desc = 6) ∧ r.data.isNone then
          State.dmaBusError (s.setEng e { s.eng e with reads := (s.eng e).reads.erase r }) e ⟨dmaSrcSpace x.desc, r.addr, true, none⟩
        else s) s) s

/-- PERST_ASSERT (R602). (DEDUCED, log 87) -/
def perstAssertOp (s : State) : State :=
  let s := s.linkLost.perstDrop.perstRegs
  { s with pci := { s.pci with perst := true, busMaster := false, cfg := [] }
           sec := { s.sec with cmds := [], answers := [] } }

def execPerstAssert (s : State) : Host.Outcome State Fault Refusal := .next (perstAssertOp s)

/-- PERST_RELEASE (R601): link training starts, and configuration space becomes ready within t_CFG. -/
def perstReleaseOp (s : State) : State :=
  if s.pci.perst then { s with pci := { s.pci with perst := false, perstAt := s.now } } else s

def execPerstRelease (s : State) : Host.Outcome State Fault Refusal := .next (perstReleaseOp s)

/-- LINK_UP (R617): the rates and widths of R617. -/
def linkUpOp (rate width : Nat) (s : State) : State :=
  if s.sec.por ∨ s.sec.railsOff ∨ s.pci.perst ∨ rate < 1 ∨ 6 < rate ∨ !([1, 2, 4, 8] : List Nat).contains width then s
  else s.setReg R.PCI_LINK_STATUS (BitVec.ofNat 32 (256 + width * 16 + rate))

def execLinkUp (rate : Fin 8) (width : Fin 16) (s : State) : Host.Outcome State Fault Refusal := awakeNext s (linkUpOp rate width s)

/-- LINK_DOWN (R621). -/
def execLinkDown (s : State) : Host.Outcome State Fault Refusal := awakeNext s s.linkLost

/-- The read of no bytes by which core `n` ends a HALO to a PEER region fails (R404): its run ends with BUS_ERROR. -/
def haloTimeoutOp (n : Nat) (s : State) : State :=
  match s.ncNow n with
  | none => s
  | some (r, x) =>
    let peer (h : Nat) : Bool := s.descIs x.part h (fun d => match s.region? d.region with | some g => g.kind == RK.peer | none => false)
    match r.fly.find? (fun f => (s.ncCmd r x f.idx).op == 0x28 && (s.ncCmd r x f.idx).outputs.any peer) with
    | none => s
    | some f =>
      let d := s.ncRun n x.part (s.ncCmd r x f.idx) f.raced
      s.ncAdvance r x f { d with s := d.s.count 1221 1, st := firstBad d.st St.busError } false

/-- COMPLETION_TIMEOUT (R404, R617, R621): read `k` of DMA engine `e` over PCI Express, or for `e` from 4 on the read that ends a HALO of neural
core `e − 4`, got no completion; AER counts it as uncorrectable. (DEDUCED, log 10, DEDUCED, log 71) -/
def completionTimeoutOp (e k : Nat) (s : State) : State :=
  if 4 ≤ e then haloTimeoutOp (e - 4) s
  else match s.dmaRead? e k with
  | none => s
  | some r =>
    let x := s.chan e r.chan
    if (dmaSrcSpace x.desc = 5 ∨ dmaSrcSpace x.desc = 6) ∧ r.data.isNone then
      State.dmaBusError ((s.count 1221 1).setEng e { s.eng e with reads := (s.eng e).reads.erase r }) e ⟨dmaSrcSpace x.desc, r.addr, true, none⟩
    else s

def execCompletionTimeout (e : Fin 12) (k : Nat) (s : State) : Host.Outcome State Fault Refusal := awakeNext s (completionTimeoutOp e k s)

/-! ### Configuration space (R601, R602, R617) -/

/-- Configuration space is ready (R601). -/
def State.cfgReady (s : State) : Bool := decide (s.pci.perstAt + Config.tCfg.val ≤ s.now)

/-- What a configuration register reads. (PRESUMED, log 30) -/
def State.cfgRead (s : State) (r : Nat) : Word :=
  let raw := Store.get Config.cfgDword s.pci.cfg r
  if r = 0 then BitVec.ofNat 32 (0x5120 * 65536 + Config.vendorId.toNat)
  else if r = 1 then setBits raw 2 2 (b2n s.pci.busMaster)
  else if r = 2 then BitVec.ofNat 32 (0x120000 * 256 + bits raw 7 0)
  else raw

/-- A write of a configuration register: Bus Master Enable and the size of BAR 2 are the model's; what the rest then reads, which is
PCI Express 6.0's, is free. (PRESUMED, log 30) -/
def State.cfgWrite (s : State) (r : Nat) (v : Word) : State :=
  if r = 0 ∨ r = 2 then s
  else if r = 1 then State.pciResume { s with pci := { s.pci with busMaster := bit v 2 } }
  else if r = Config.rebarCtl then
    { s with pci := { s.pci with cfg := (r, setBits (Store.get Config.cfgDword s.pci.cfg r) 13 8 (bits v 13 8)) :: s.pci.cfg.filter (fun x => x.1 != r) } }
  else
    let (q, s) := s.draw
    { s with pci := { s.pci with cfg := (r, Config.freeWord q) :: s.pci.cfg.filter (fun x => x.1 != r) } }

/-- CONFIG_REQUEST (R601). (PRESUMED, log 30) -/
def configRequestOp (c : CfgReq) (s : State) : State :=
  if !s.inboundOk then s
  else if !s.cfgReady then s.answer .requestRetry
  else if c.write then (s.cfgWrite c.reg c.data).answer .nothing
  else s.answer (.data (s.cfgRead c.reg))

def execConfigRequest (c : CfgReq) (s : State) : Host.Outcome State Fault Refusal := awakeNext s (configRequestOp c s)

/-- log2 of the size of BAR 2 in GiB: as Resizable BAR set it (sizes 1 GiB to 32 GiB are its codes 10 to 15), else the default (R618). -/
def State.bar2Log (s : State) : Nat :=
  match s.pci.cfg.find? (fun x => x.1 == Config.rebarCtl) with
  | some (_, v) => if 10 ≤ bits v 13 8 ∧ bits v 13 8 ≤ 15 then bits v 13 8 - 10 else Config.bar2Default.val
  | none => Config.bar2Default.val

/-! ### Result queues (R622, R629) -/

/-- RQ_HEAD_WRITE (R622): the host frees room, and records that wait for the queue go out. -/
def rqHeadOp (q : Nat) (pay : Bool) (v : Word) (s : State) : State :=
  if !s.inboundOk then s
  else
    let s : State := { s with pci := { s.pci with bar4 := Store.put (fun _ => 0#32) (8 * q + 4 * b2n pay) v s.pci.bar4 } }
    (s.bwCount 40 4).emitResume q (s.pci.waiting.length + 1)

def execRqHeadWrite (q : Fin 256) (pay : Bool) (v : Word) (s : State) : Host.Outcome State Fault Refusal := awakeNext s (rqHeadOp q pay v s)

/-- A write of a PCI_ register: from PCIE_HOST, P3 agents and the SMC (R629). -/
def State.pciWrite (s : State) (ag : Agent) (f : State → State) : State :=
  if ag == .smc || ag == .pcieHost || (!isFull ag && s.partOf ag == 3) then f s else s.refuseSys ag

/-- The configuration register of the queue that a queue register belongs to, and the register's writable bits (R628). -/
def pciQueueReg (off : Nat) : Option (Nat × Nat) :=
  if R.PCI_RQ_CFG 0 ≤ off ∧ off < R.PCI_RQ_CFG 256 ∧ off % 4 = 0 then
    let q := (off - R.PCI_RQ_CFG 0) / 0x20
    match (off - R.PCI_RQ_CFG 0) % 0x20 / 4 with
    | 0 => some (R.PCI_RQ_CFG q, 0xC0001F1F)
    | 1 => some (R.PCI_RQ_CFG q, 0xFFFFFFC0)
    | 3 => some (R.PCI_RQ_CFG q, 0xFFFFFFC0)
    | 5 => some (R.PCI_RQ_CFG q, 0xFFFFFFC0)
    | 7 => none
    | _ => some (R.PCI_RQ_CFG q, 0xFFFFFFFF)
  else if off = R.PCI_MGQ_SQ_LO then some (R.PCI_MGQ_CFG, 0xFFFFFFC0)
  else if off = R.PCI_MGQ_CQ_LO then some (R.PCI_MGQ_CFG, 0xFFFFFFE0)
  else if off = R.PCI_MGQ_SQ_HI ∨ off = R.PCI_MGQ_CQ_HI then some (R.PCI_MGQ_CFG, 0xFFFFFFFF)
  else if off = R.PCI_MGQ_CFG then some (R.PCI_MGQ_CFG, 0x8000000F)
  else none

/-- PCI_QUEUE_CONFIG_WRITE (R628, R629): with ENABLE 1 only a write that clears ENABLE and nothing else is taken. (DEDUCED, log 71) -/
def pciQueueOp (ag : Agent) (off : Nat) (v : Word) (s : State) : State :=
  match pciQueueReg off with
  | none => s
  | some (cfg, mask) =>
    s.pciWrite ag (fun s =>
      let v := v &&& BitVec.ofNat 32 mask
      if s.flag cfg 31 then
        if off = cfg ∧ v = setBits (s.reg cfg) 31 31 0 then s.setReg cfg v else s
      else (s.setReg off v).pciResume)

def execPciQueueConfigWrite (ag : Agent) (off : Nat) (v : Word) (s : State) : Host.Outcome State Fault Refusal :=
  awakeNext s (pciQueueOp ag off v s)

/-! ### Outbound windows (R463, R602, R619, R621) -/

/-- The address an access of the windows goes to: the space and the address there. -/
def State.outboundAddr (s : State) (a : Nat) : Option (Bool × Nat) :=
  if 0x8000000000 ≤ a ∧ a < 0xC000000000 then some (false, s.reg64 R.PCI_OBH_BASE_LO R.PCI_OBH_BASE_HI + (a - 0x8000000000))
  else if 0xC000000000 ≤ a ∧ a < 0x10000000000 then some (true, s.reg64 R.PCI_OBP_BASE_LO R.PCI_OBP_BASE_HI + (a - 0xC000000000))
  else none

/-- HOST_OUTBOUND_ACCESS: a store of `data`, or a load of `len` bytes that completes with `ext` (none: Unsupported Request, Completer
Abort or no completion). Without Bus Master Enable a load faults and a store is dropped. (DEDUCED, log 71, DESIGN CHOICE, log 77) -/
def hostOutboundOp (a len : Nat) (data ext : Option (List Byte)) (s : State) : State :=
  match s.outboundAddr a with
  | none => s
  | some (peer, b) =>
    match data with
    | some bs => if s.outOk then (s.outWrite peer (b % 2 ^ 64) bs).answer .nothing else s.answer (if s.pci.busMaster then .busError else .dropped)
    | none =>
      match s.outOk, ext with
      | true, some bs => (s.bwCount 40 len).answer (.bytes (fitBytes len bs))
      | _, _ => s.answer .accessFault

def execHostOutboundAccess (_n : Fin 8) (a len : Nat) (data ext : Option (List Byte)) (s : State) : Host.Outcome State Fault Refusal :=
  awakeNext s (if s.host.inReset then s else hostOutboundOp a len data ext s)

end Sys2Proof.Machine
end

