-- ==== Sys2Proof/Machine/Mgq.lean ====
section
/-! DEFINITION. The management command queue and what its commands do (18_boot_security_pcie.md R605, R606, R611, R612, R615, R616, R626,
R627). -/

namespace Sys2Proof.Machine

/-- The device stays in RECOVERY (R606). -/
def State.recovery (s : State) : Bool := s.flag R.SEC_STATUS 2

/-- Commands are executed: by the runtime once it runs, by the ROM in RECOVERY (R606, R626). -/
def State.mgqRuns (s : State) : Bool := !s.sec.por && !s.sec.railsOff && (decide (6 ≤ s.sec.step) || s.recovery)

/-- The opcodes of R627, and those that RECOVERY accepts (R606). -/
def mgqOpcodes : List Nat := [0x01, 0x02, 0x03, 0x04, 0x10, 0x11, 0x12, 0x13, 0x14, 0x15, 0x16, 0x17, 0x18]
def mgqRecovery : List Nat := [0x01, 0x02, 0x10, 0x11, 0x12]

/-- Fields of a command (R626). -/
def mgOp (c : List Word) : Nat := bits (wd c 0) 31 24
def mgId (c : List Word) : Nat := bits (wd c 0) 15 0
def mgAddr (c : List Word) (i : Nat) : Nat := (wd c i).toNat + 2 ^ 32 * (wd c (i + 1)).toNat

/-- A command that is answered with DESC_INVALID: a CRC mismatch, an unknown OPCODE, or one that RECOVERY does not accept. -/
def State.mgBad (s : State) (c : List Word) : Bool :=
  wd c 15 != crc32c (wordBytes ((c ++ List.replicate 15 0#32).take 15))
    || !(if s.recovery then mgqRecovery else mgqOpcodes).contains (mgOp c)

/-- The response to the command in front, which is taken (R626). (DEDUCED, log 69) -/
def State.mgqAnswer (s : State) (st : Nat) (results : List Word) : State :=
  match s.sec.cmds with
  | [] => s
  | c :: rest =>
    let ws := [BitVec.ofNat 32 (st % 256 * 2 ^ 24 + 65536 * mgOp c + mgId c)] ++ (results ++ List.replicate 6 0#32).take 6
    let s : State := { s with sec := { s.sec with cmds := rest, answers := s.sec.answers ++ [ws ++ [crc32c (wordBytes ws)]] } }
    let s := s.setReg R.PCI_MGQ_SQ_HEAD (BitVec.ofNat 32 ((s.reg R.PCI_MGQ_SQ_HEAD).toNat + 1))
    ((s.irqSet 42 (!rest.isEmpty)).count 1219 1).mgqFlush

/-- Commands in front that are answered without being executed. (DEDUCED, log 69) -/
def State.mgqClean (s : State) : Nat → State
  | 0 => s
  | fuel + 1 =>
    match s.sec.cmds with
    | [] => s
    | c :: _ => if s.mgqRuns && s.mgBad c then State.mgqClean (s.mgqAnswer St.descInvalid []) fuel else s

/-- MGQ_DOORBELL (R626): the new tail, and the commands that the device reads from the ring. (DEDUCED, log 69) -/
def mgqDoorbellOp (tail : Word) (cmds : List (List Word)) (s : State) : State :=
  if !s.inboundOk then s
  else
    let s : State := { s with pci := { s.pci with bar4 := Store.put (fun _ => 0#32) 0x800 tail s.pci.bar4 } }
    let s := s.bwCount 40 4
    if !s.mgqOn || !s.pci.busMaster then s
    else
      let have_ := (s.reg R.PCI_MGQ_SQ_HEAD).toNat + s.sec.cmds.length
      let n := (2 ^ 32 + tail.toNat - have_ % 2 ^ 32) % 2 ^ 32
      let got := (cmds.take n).map (fun c => (c ++ List.replicate 16 0#32).take 16)
      let s : State := { s with sec := { s.sec with cmds := s.sec.cmds ++ got } }
      let s := if s.sec.cmds.isEmpty then s else s.irqRaise 42
      s.mgqClean (s.sec.cmds.length + 1)

def execMgqDoorbell (tail : Word) (cmds : List (List Word)) (s : State) : Host.Outcome State Fault Refusal :=
  awakeNext s (mgqDoorbellOp tail cmds s)

/-- The command in front is executed when it is the one with OPCODE `op`; commands then in front that need no execution follow. -/
def State.mgqRun (s : State) (op : Nat) (f : List Word → State → State) : State :=
  match s.sec.cmds with
  | [] => s
  | c :: _ => if s.mgqRuns && mgOp c == op && !s.mgBad c then (f c s).mgqClean (s.sec.cmds.length + 1) else s

/-- Bytes read from host memory: none without a link or Bus Master Enable (R602, R621). -/
def State.hostRead (s : State) (src : Option (List Byte)) (n : Nat) : Option (List Byte) :=
  match s.outOk, src with
  | true, some bs => some (fitBytes n bs)
  | _, _ => none

/-- Bytes written to host memory, or BUS_ERROR (R621). -/
def State.hostWrite (s : State) (addr : Nat) (bs : List Byte) : State × Nat :=
  if s.outOk then (s.outWrite false addr bs, St.done) else (s, St.busError)

/-! ### Identity and attestation -/

/-- SEC_STATUS as it reads (R628): the fuses and the debug session beside the fields the boot sets. -/
def State.secStatus (s : State) : Word :=
  let v := s.reg R.SEC_STATUS
  let f := s.sec.fuses
  setBits (setBits (setBits (setBits v 25 20 f.rb) 7 7 (b2n (s.sec.scope != 0))) 6 6 (b2n f.debugOff)) 4 4 (b2n f.owned)

/-- IDENTIFY (R627). -/
def execMgqIdentify (s : State) : Host.Outcome State Fault Refusal :=
  awakeNext s (s.mgqRun 0x01 (fun _ s => s.mgqAnswer St.done
    [s.reg R.SMC_DEVICE_ID, s.reg R.SMC_CONTRACT_LEVEL, s.reg R.SEC_IMAGE_VERSION, s.secStatus]))

/-- Bytes 12 to 19 of the report (R615). (DEDUCED, log 69) -/
def State.attestWords (s : State) : List Word :=
  let f := s.sec.fuses
  let w := 2 ^ 30 * s.sec.slot.getD 0 + 2 ^ 24 * s.fld R.SEC_STATUS 19 14 + f.rb % 64 * 2 ^ 16 + s.derate % 16 * 2 ^ 12 + s.island % 8 * 2 ^ 8
    + b2n s.recovery * 8 + b2n f.owned * 4 + b2n s.locked * 2 + b2n (s.sec.scope != 0)
  [s.reg R.SEC_IMAGE_VERSION, BitVec.ofNat 32 w]

/-- The hash of the header and section table of the running image, and of the owner key in use (R615); zeros where none runs. -/
def State.attestImage (s : State) : List Byte :=
  match s.sec.slot with
  | none => List.replicate 64 0
  | some k =>
    let h := s.imgHead k
    hash32 (h.take 64 ++ (s.imgEntries k).flatMap wordBytes)
      ++ (if s.sec.fuses.owned then hash32 (slice h 192 64) else List.replicate 32 0)

/-- The 256-byte report, signed (R615). -/
def State.attestReport (s : State) (nonce : List Byte) : List Byte :=
  let bs := wordBytes ([0x01000000#32, s.reg R.SMC_DEVICE_ID, s.reg R.SMC_CONTRACT_LEVEL] ++ s.attestWords ++ [0#32]) ++ leBytes 8 s.devNow
    ++ fitBytes 32 nonce ++ s.attestImage ++ fitBytes 32 s.sec.chain ++ List.replicate 32 0
  bs ++ fitBytes 64 (Config.sm2Sign s.sec.fuses.deviceKey bs)

/-- ATTEST (R615, R627). -/
def mgqAttestOp (c : List Word) (s : State) : State :=
  let (s, st) := s.hostWrite (mgAddr c 9) (s.attestReport (wordBytes ((c.drop 1).take 8)))
  s.mgqAnswer st []

def execMgqAttest (s : State) : Host.Outcome State Fault Refusal := awakeNext s (s.mgqRun 0x02 mgqAttestOp)

/-! ### Graphs (R506, R627, R649) -/

/-- A pantry entry of P2 for a static area: its three ranges, then VALID (R506). -/
def State.admitEntry (s : State) (e pri copy units : Nat) : State :=
  let s := ((s.setReg (R.DMC_PANTRY_PRI e) (BitVec.ofNat 32 (pri / 65536))).setReg (R.DMC_PANTRY_COPY e) (BitVec.ofNat 32 (copy / 2048))).setReg
    (R.DMC_PANTRY_SIZE e) (BitVec.ofNat 32 units)
  pantryCfgOp .smc e (BitVec.ofNat 32 (2 ^ 31 + 2 * 2 ^ 28)) s

/-- The PART that a graph image's header names (R149). -/
def State.imagePart (s : State) (a : Nat) : Nat := ghPart ((List.range 16).map (wordAt (s.dramBytes a 64)))

/-- The graph of a command is loaded and started under the entry `e`; an entry whose graph does not load is freed again. -/
def State.admitLoad (s : State) (gid addr e : Nat) (place : List Nat) : State :=
  let (s, st, n) := s.loadGraph .smc gid addr place
  let s := s.graphStatus st n
  if st = St.done then
    let img := s.dramBytes addr (ghBytes ((List.range 16).map (wordAt (s.dramBytes addr 64))))
    let s : State := { s with sec := { s.sec with chain := hash32 (s.sec.chain ++ hash32 img), admits := (gid, e) :: s.sec.admits } }
    let (s, st) := s.startGraph .smc gid
    s.mgqAnswer st [BitVec.ofNat 32 st, 0, BitVec.ofNat 32 e]
  else
    let s := s.setFlag (R.DMC_PANTRY_CFG e) 31 false
    s.mgqAnswer st [BitVec.ofNat 32 st, s.reg R.FGS_GRAPH_DETAIL, BitVec.ofNat 32 e]

/-- GRAPH_ADMIT (R155, R506, R627, R649). (DEDUCED, log 69) -/
def mgqGraphAdmitOp (place : List Nat) (c : List Word) (s : State) : State :=
  let gid := (wd c 1).toNat
  let pri := mgAddr c 4
  let copy := mgAddr c 7
  let units := (wd c 6).toNat
  match (List.range 32).find? (fun e => !s.pantryValid e) with
  | none => s.mgqAnswer St.busy [BitVec.ofNat 32 St.busy]
  | some e =>
    if 256 ≤ gid ∨ dramEnd < mgAddr c 2 + 64 ∨ dramEnd < pri ∨ dramEnd < copy then s.mgqAnswer St.rangeFault [BitVec.ofNat 32 St.rangeFault]
    else if pri % 65536 ≠ 0 ∨ copy % 2048 ≠ 0 then s.mgqAnswer St.alignFault [BitVec.ofNat 32 St.alignFault]
    else if s.imagePart (mgAddr c 2) ≠ 2 then s.mgqAnswer St.partitionFault [BitVec.ofNat 32 St.partitionFault]
    else
      let t := s.admitEntry e pri copy units
      if t.pantryValid e then t.admitLoad gid (mgAddr c 2) e place else t.mgqAnswer St.descInvalid [BitVec.ofNat 32 St.descInvalid]

def execMgqGraphAdmit (place : List Nat) (s : State) : Host.Outcome State Fault Refusal := awakeNext s (s.mgqRun 0x03 (mgqGraphAdmitOp place))

/-- GRAPH_REMOVE (R156, R627): STOP; the command then waits in front until no job of the graph is in flight. (DEDUCED, log 69) -/
def mgqGraphRemoveOp (c : List Word) (s : State) : State :=
  let gid := (wd c 1).toNat
  let (s, st) := s.stopGraph .smc gid
  if st ≠ St.done then s.mgqAnswer st []
  else if s.fgs.jobs.any (fun j => j.graph == gid) then s
  else
    let (s, st) := s.unloadGraph .smc gid
    let s := (s.sec.admits.filter (fun x => x.1 == gid)).foldl (fun s x => s.setFlag (R.DMC_PANTRY_CFG x.2) 31 false) s
    State.mgqAnswer { s with sec := { s.sec with admits := s.sec.admits.filter (fun x => x.1 != gid) } } st []

def execMgqGraphRemove (s : State) : Host.Outcome State Fault Refusal := awakeNext s (s.mgqRun 0x04 mgqGraphRemoveOp)

/-! ### Flash (R603, R627) -/

/-- A flash range that a command names: its address, or a status. -/
def State.flashRange (s : State) (c : List Word) (wr : Bool) : Nat ⊕ Nat :=
  let k := (wd c 1).toNat
  let o := (wd c 2).toNat
  let n := (wd c 3).toNat
  if (if wr then 1 else 2) < k then .inr St.rangeFault
  else if o % 65536 ≠ 0 ∨ n % 256 ≠ 0 ∨ 1048576 < n then .inr St.descInvalid
  else if (if k = 2 then logSize else slotSize) < o + n ∨ (wr ∧ s.sec.slot = some k) then .inr St.rangeFault
  else .inl ((if k = 2 then logBase else slotBase k) + o)

/-- FLASH_WRITE (R627): the 64 KiB blocks that the range meets are erased, and the range programmed. (DEDUCED, log 69) -/
def mgqFlashWriteOp (src : Option (List Byte)) (c : List Word) (s : State) : State :=
  match s.flashRange c true with
  | .inr st => s.mgqAnswer st []
  | .inl a =>
    match s.hostRead src (wd c 3).toNat with
    | none => s.mgqAnswer St.busError []
    | some bs => ((s.eraseBlocks a (65536 * ceilDiv bs.length 65536)).flashPut a bs).mgqAnswer St.done []

def execMgqFlashWrite (src : Option (List Byte)) (s : State) : Host.Outcome State Fault Refusal := awakeNext s (s.mgqRun 0x10 (mgqFlashWriteOp src))

/-- FLASH_READ (R627). -/
def mgqFlashReadOp (c : List Word) (s : State) : State :=
  match s.flashRange c false with
  | .inr st => s.mgqAnswer st []
  | .inl a =>
    let (s, st) := s.hostWrite (mgAddr c 4) (s.flashBytes a (wd c 3).toNat)
    s.mgqAnswer st []

def execMgqFlashRead (s : State) : Host.Outcome State Fault Refusal := awakeNext s (s.mgqRun 0x11 mgqFlashReadOp)

/-- SET_TRIAL (R627). (DEDUCED, log 69) -/
def mgqSetTrialOp (c : List Word) (s : State) : State :=
  let k := (wd c 1).toNat
  if k ≤ 1 ∧ s.slotVerifies k then (s.setTrailer k Slot.trial 0).mgqAnswer St.done [] else s.mgqAnswer St.descInvalid []

def execMgqSetTrial (s : State) : Host.Outcome State Fault Refusal := awakeNext s (s.mgqRun 0x12 mgqSetTrialOp)

/-! ### Fuses (R610 to R612, R616) -/

/-- The fuses after a burn. -/
def State.burn (s : State) (f : Fuses) : State := { s with sec := { s.sec with fuses := f } }

/-- The first free owner hash takes the hash of the key `k` (R611). -/
def Fuses.enrol (f : Fuses) (k : List Byte) : Fuses :=
  if f.owner0.isNone then { f with owner0 := some (hash32 k) } else { f with owner1 := some (hash32 k) }

/-- ADVANCE_ROLLBACK (R612). -/
def mgqAdvanceOp (_c : List Word) (s : State) : State :=
  if s.sec.fuseOps % 2 = 0 then s.mgqAnswer St.partitionFault []
  else (s.burn { s.sec.fuses with rb := max s.sec.fuses.rb (s.fld R.SEC_STATUS 19 14) }).mgqAnswer St.done []

def execMgqAdvanceRollback (s : State) : Host.Outcome State Fault Refusal := awakeNext s (s.mgqRun 0x13 mgqAdvanceOp)

/-- ENROL_OWNER (R611). -/
def mgqEnrolOp (key : Option (List Byte)) (_c : List Word) (s : State) : State :=
  let f := s.sec.fuses
  if f.owner0.isSome ∧ f.owner1.isSome then s.mgqAnswer St.busy []
  else match s.hostRead key 64 with
    | none => s.mgqAnswer St.busError []
    | some k => (s.burn (f.enrol k)).mgqAnswer St.done []

def execMgqEnrolOwner (key : Option (List Byte)) (s : State) : Host.Outcome State Fault Refusal := awakeNext s (s.mgqRun 0x14 (mgqEnrolOp key))

/-- The running image is signed with the key of OWNER_HASH1 (R611). -/
def State.runsOwner1 (s : State) : Bool :=
  match s.sec.slot, s.sec.fuses.owner1 with
  | some k, some h => hash32 (slice (s.imgHead k) 192 64) == h
  | _, _ => false

/-- REVOKE_OWNER0 (R611). -/
def mgqRevokeOp (_c : List Word) (s : State) : State :=
  if s.runsOwner1 ∧ s.sec.fuseOps / 4 % 2 = 1 then
    (s.burn { s.sec.fuses with revoke0 := true }).mgqAnswer St.done []
  else s.mgqAnswer St.partitionFault []

def execMgqRevokeOwner0 (s : State) : Host.Outcome State Fault Refusal := awakeNext s (s.mgqRun 0x15 mgqRevokeOp)

/-- DISABLE_DEBUG (R616). -/
def mgqDisableDebugOp (_c : List Word) (s : State) : State :=
  if s.sec.fuseOps / 2 % 2 = 1 then
    (s.burn { s.sec.fuses with debugOff := true }).mgqAnswer St.done []
  else s.mgqAnswer St.partitionFault []

def execMgqDisableDebug (s : State) : Host.Outcome State Fault Refusal := awakeNext s (s.mgqRun 0x16 mgqDisableDebugOp)

/-! ### Debug (R616) -/

/-- DEBUG_CHALLENGE. -/
def mgqChallengeOp (c : List Word) (s : State) : State :=
  let (s, st, bs) := s.debugChallenge (wd c 1)
  if st = St.done then
    let (s, st) := s.hostWrite (mgAddr c 2) bs
    s.mgqAnswer st []
  else s.mgqAnswer st []

def execMgqDebugChallenge (s : State) : Host.Outcome State Fault Refusal := awakeNext s (s.mgqRun 0x17 mgqChallengeOp)

/-- DEBUG_RESPONSE: the signature, then the public key. -/
def mgqResponseOp (src : Option (List Byte)) (_c : List Word) (s : State) : State :=
  match s.hostRead src 128 with
  | none => s.mgqAnswer St.busError []
  | some bs =>
    let (s, st) := s.debugResponse bs
    s.mgqAnswer st []

def execMgqDebugResponse (src : Option (List Byte)) (s : State) : Host.Outcome State Fault Refusal :=
  awakeNext s (s.mgqRun 0x18 (mgqResponseOp src))

/-! ### The running slot (R605) -/

/-- CONFIRM (R605, R629): from P3 agents and the SMC. (DEDUCED, log 69) -/
def secConfirmOp (ag : Agent) (s : State) : State :=
  if ag == .smc || (!isFull ag && s.partOf ag == 3) then
    match s.sec.slot with
    | some k => s.setTrailer k Slot.confirmed (s.trailer k).2
    | none => s
  else s.refuseSys ag

def execSecConfirm (ag : Agent) (s : State) : Host.Outcome State Fault Refusal := awakeNext s (secConfirmOp ag s)

end Sys2Proof.Machine
end

