-- ==== Sys2Proof/Machine/Pins.lean ====
section
/-! DEFINITION. The commands at GPIO, JTAG and the console (21_pins_electrical.md R662 to R665; 18_boot_security_pcie.md R616). -/

namespace Sys2Proof.Machine

/-! ### GPIO -/

/-- GPIO_EDGE (R663, R664): the outside drives GPIO `n` to `level`; what the ball then shows is sampled in every mode. -/
def gpioEdgeOp (n : Nat) (level : Bool) (s : State) : State :=
  if s.awake then State.gpioSense { s.strobesEnd with gpio := { s.strobesEnd.gpio with ext := setAt s.strobesEnd.gpio.ext n level } } n
  else { s with gpio := { s.gpio with ext := setAt s.gpio.ext n level } }

def execGpioEdge (n : Fin 16) (level : Bool) (s : State) : Host.Outcome State Fault Refusal := .next (gpioEdgeOp n level s)

/-- The writable fields beside PART are taken (R662); outside STROBE mode no pulse runs. -/
def State.gpioSet (s : State) (n : Nat) (v : Word) : State :=
  let r := R.SMC_GPIO_CFG n
  let s := (((s.setFld r 12 8 (bits v 12 8)).setFld r 5 4 (bits v 5 4)).setFld r 3 2 (bits v 3 2)).setFlag r 0 (bit v 0)
  let s : State := if bits v 5 4 = 2 then s else { s with gpio := { s.gpio with strobe := setAt s.gpio.strobe n none } }
  s.gpioSense n

/-- GPIO_CFG_WRITE (R662, R663): by the owner partition PART, the SMC and the island; PART itself is a system field until the lock. (DEDUCED, log 75) -/
def gpioCfgOp (ag : Agent) (n : Nat) (v : Word) (s : State) : State :=
  let r := R.SMC_GPIO_CFG n
  let p := s.fld r 31 30
  let tp := s.fld (R.TIM_CTRL (bits v 12 8)) 31 30
  let p' := if isFull ag && !s.locked then bits v 31 30 else p
  if !s.ofPart ag p then s.refuse ag p
  else if bits v 5 4 = 2 ∧ tp ≠ p' then s.refuse ag tp
  else
    let s := if bits v 31 30 = p then s else s.systemWrite ag (fun s => s.setFld r 31 30 (bits v 31 30))
    s.gpioSet n v

def execGpioCfgWrite (ag : Agent) (n : Fin 16) (v : Word) (s : State) : Host.Outcome State Fault Refusal := awakeNext s (gpioCfgOp ag n v s)

/-! ### JTAG (R665) -/

/-- An instruction is selected, and its data register captures `bs`. (DEDUCED, log 75) -/
def State.jtagSelect (s : State) (ir : Nat) (bs : List Byte) : State := { s with jtag := { s.jtag with ir := ir, dr := bs } }

/-- EXTEST and SAMPLE/PRELOAD select the boundary register, whose cells the spec does not order. (DEDUCED, log 75) -/
def State.jtagBoundary (s : State) (ir : Nat) : State :=
  if s.awake then
    let (bs, s) := s.freeBytes Config.boundaryBytes
    s.jtagSelect ir bs
  else s

def execJtagExtest (s : State) : Host.Outcome State Fault Refusal := awakeNext s (s.jtagBoundary 0)

def execJtagSamplePreload (s : State) : Host.Outcome State Fault Refusal := awakeNext s (s.jtagBoundary 1)

/-- The identification register (R665). -/
def idcodeWord : Nat := 0xA * 2 ^ 28 + 0x5120 * 2 ^ 12 + Config.jep106.toNat * 2 + 1

/-- IDCODE. -/
def execJtagIdcode (s : State) : Host.Outcome State Fault Refusal :=
  awakeNext s (if s.awake then s.jtagSelect 2 (leBytes 4 idcodeWord) else s)

/-- The instructions with a data register of their own. -/
def jtagDefined : List Nat := [0x00, 0x01, 0x02, 0x10, 0x11]

/-- BYPASS, or a reserved instruction `code`, selects the 1-bit register, which captures 0 under IEEE 1149.1. (DEDUCED, log 75) -/
def jtagBypassOp (code : Nat) (s : State) : State :=
  if s.awake ∧ !jtagDefined.contains code then s.jtagSelect code [0] else s

def execJtagBypass (code : Fin 64) (s : State) : Host.Outcome State Fault Refusal := awakeNext s (jtagBypassOp code s)

/-- DBG_CHAL (R616, R665): a challenge; bits [575:32] of the next capture are its 68 bytes, bits [31:24] the status. Bits no rule
states are free. -/
def dbgChalOp (scope : Word) (s : State) : State :=
  if s.awake then
    let (s, st, bs) := s.debugChallenge scope
    let (f, s) := s.freeBytes 71
    let s : State := { s with jtag := { s.jtag with chalStatus := st } }
    s.jtagSelect 0x10 (f.take 3 ++ [BitVec.ofNat 8 st] ++ (if st = St.done then bs else f.drop 3))
  else s

def execJtagDbgChal (scope : Word) (s : State) : Host.Outcome State Fault Refusal := awakeNext s (dbgChalOp scope s)

/-- DBG_RESP (R616, R665): 128 bytes, the signature and the public key; bits [31:24] of the next capture are the status. -/
def dbgRespOp (bs : List Byte) (s : State) : State :=
  if s.awake then
    let (s, st) := s.debugResponse (fitBytes 128 bs)
    let (f, s) := s.freeBytes 131
    let s : State := { s with jtag := { s.jtag with respStatus := st } }
    s.jtagSelect 0x11 (f.take 3 ++ [BitVec.ofNat 8 st] ++ f.drop 3)
  else s

def execJtagDbgResp (bs : List Byte) (s : State) : Host.Outcome State Fault Refusal := awakeNext s (dbgRespOp bs s)

/-! ### Console (R616, R665) -/

/-- CONSOLE_INPUT: a character is taken as input only while a FULL unlock is in effect. -/
def consoleOp (c : Byte) (s : State) : State :=
  if s.awake ∧ s.sec.scope = 2 then { s with sec := { s.sec with console := s.sec.console ++ [c] } } else s

def execConsoleInput (c : Byte) (s : State) : Host.Outcome State Fault Refusal := awakeNext s (consoleOp c s)

end Sys2Proof.Machine
end

