-- ==== Sys2Proof/Machine/Pmc.lean ====
section
/-! DEFINITION. The commands of performance counters, bandwidth monitors, the crumb ring, telemetry and SMBus (19_counters_trace.md). -/

namespace Sys2Proof.Machine

/-- A write of a PMC_ register: from P3 agents, PCIE_HOST, the SMC and the island (R644). -/
def State.pmcWrite (s : State) (ag : Agent) (f : State → State) : State :=
  if isFull ag || ag == .pcieHost || s.partOf ag == 3 then f s else s.refuseSys ag

/-! ### Event counters (R631 to R633) -/

/-- Registers copied one by one: (from, to). -/
def State.copyRegs (s : State) (l : List (Nat × Nat)) : State := l.foldl (fun s x => s.setReg x.2 (s.reg x.1)) s

/-- SNAPSHOT (R633). -/
def State.pmcSnapshot (s : State) : State :=
  let s : State := { s with pmc := { s.pmc with shadow := s.pmc.cnt } }
  let s := s.copyRegs ((List.range 40).map (fun w => (R.PMC_OVF w, R.PMC_SOVF w)))
  let s := s.copyRegs ((List.range 128).flatMap (fun k =>
    [(R.PMC_BW_LAST k, R.PMC_BW_SLAST k), (R.PMC_BW_PEAK k, R.PMC_BW_SPEAK k)]))
  s.setFld R.PMC_STATUS 31 16 (s.fld R.PMC_STATUS 31 16 + 1)

def execPmcSnapshot (ag : Agent) (s : State) : Host.Outcome State Fault Refusal := awakeNext s (s.pmcWrite ag State.pmcSnapshot)

/-- FREEZE (R633): the present window is touched. -/
def State.pmcFreeze (s : State) (on : Bool) : State :=
  let s := (s.setFlag R.PMC_CTRL 1 on).setFlag R.PMC_STATUS 0 on
  { s with pmc := { s.pmc with touched := s.pmc.touched || on } }

def execPmcFreeze (ag : Agent) (on : Bool) (s : State) : Host.Outcome State Fault Refusal := awakeNext s (s.pmcWrite ag (fun s => s.pmcFreeze on))

/-- CLEAR (R632, R633): the event counters and their overflow bits. -/
def State.pmcClear (s : State) : State :=
  State.zeroRegs { s with pmc := { s.pmc with cnt := [] } } ((List.range 40).map R.PMC_OVF)

def execPmcClear (ag : Agent) (s : State) : Host.Outcome State Fault Refusal := awakeNext s (s.pmcWrite ag State.pmcClear)

/-! ### Bandwidth monitors (R635, R636) -/

/-- CLEAR_PEAK (R636): it acts at the next window end. -/
def State.pmcClearPeak (s : State) : State := { s with pmc := { s.pmc with clearPeak := true } }

def execPmcClearPeak (ag : Agent) (s : State) : Host.Outcome State Fault Refusal := awakeNext s (s.pmcWrite ag State.pmcClearPeak)

/-- PMC_BW_WINDOW_WRITE (R636): outside 1 to 1,000,000 ignored. (DEDUCED, log 73) -/
def bwWindowOp (ag : Agent) (v : Word) (s : State) : State :=
  s.pmcWrite ag (fun s =>
    let w := bits v 19 0
    if 1 ≤ w ∧ w ≤ 1000000 then
      let s : State := { s with pmc := { s.pmc with newWindow := some w } }
      s.setReg R.PMC_BW_WINDOW (BitVec.ofNat 32 w)
    else s)

def execPmcBwWindowWrite (ag : Agent) (v : Word) (s : State) : Host.Outcome State Fault Refusal := awakeNext s (bwWindowOp ag v s)

/-- LAST and PEAK of monitor `k` at a window's end, `clear` the PEAK afterwards (R636). (DEDUCED, log 73) -/
def State.bwMonitor (s : State) (k : Nat) (keep clear : Bool) : State :=
  let last := Store.get (fun _ => 0) s.pmc.bytes k / 64
  let s := if keep then s
    else (s.setReg (R.PMC_BW_LAST k) (BitVec.ofNat 32 last)).setReg (R.PMC_BW_PEAK k)
      (BitVec.ofNat 32 (max last (s.reg (R.PMC_BW_PEAK k)).toNat))
  if clear then s.setReg (R.PMC_BW_PEAK k) 0 else s

/-- BW_WINDOW_END (R636): a window that FREEZE touched leaves LAST and PEAK; a new WINDOW_US and a CLEAR_PEAK take effect here. (DEDUCED, log 73) -/
def bwWindowEndOp (s : State) : State :=
  if s.now < s.pmc.winEnd then s
  else
    let keep := s.pmc.touched
    let clear := s.pmc.clearPeak || s.pmc.newWindow.isSome
    let s := (List.range 128).foldl (fun s k => s.bwMonitor k keep clear) s
    let w := s.pmc.newWindow.getD s.pmc.windowUs
    { s with pmc := { s.pmc with bytes := [], touched := s.flag R.PMC_CTRL 1, newWindow := none, windowUs := w,
                                 winEnd := (s.now / (1000 * w) + 1) * (1000 * w), clearPeak := false } }

def execBwWindowEnd (s : State) : Host.Outcome State Fault Refusal := awakeNext s (bwWindowEndOp s)

/-! ### Crumb trail (R637, R638) -/

/-- A write of PMC_CT_CTRL: MODE ignores it while ENABLE is 1. -/
def State.ctCtrl (s : State) (on mode : Bool) : State :=
  let s := if s.flag R.PMC_CT_CTRL 0 then s else s.setFlag R.PMC_CT_CTRL 1 mode
  s.setFlag R.PMC_CT_CTRL 0 on

/-- CRUMB_TRAIL_ENABLE (R637). -/
def execCrumbTrailEnable (ag : Agent) (mode : Bool) (s : State) : Host.Outcome State Fault Refusal :=
  awakeNext s (s.pmcWrite ag (fun s => s.ctCtrl true mode))

/-- CRUMB_TRAIL_DISABLE (R638): the records already buffered stay to be written. -/
def execCrumbTrailDisable (ag : Agent) (mode : Bool) (s : State) : Host.Outcome State Fault Refusal :=
  awakeNext s (s.pmcWrite ag (fun s => s.ctCtrl false mode))

/-- A crumb record dropped (R637). (DEDUCED, log 73) -/
def State.crumbDrop (s : State) : State := (s.incReg R.PMC_CT_DROP_CNT 1).count 841 1

/-- CRUMB_RECORD_WRITE (R637): the oldest buffered record goes to the ring; under DROP_NEW a full ring drops it. (DEDUCED, log 55, DEDUCED, log 73) -/
def crumbWriteOp (s : State) : State :=
  match s.pmc.crumbs with
  | [] => s
  | c :: rest =>
    if s.dramStopped then s
    else
      let s : State := { s with pmc := { s.pmc with crumbs := rest } }
      let size := (s.reg R.PMC_CT_SIZE).toNat
      let tail := (s.reg R.PMC_CT_TAIL).toNat
      let fill := (2 ^ 32 + tail - (s.reg R.PMC_CT_HEAD).toNat) % 2 ^ 32
      if !s.ctSizeOk ∨ (!s.flag R.PMC_CT_CTRL 1 ∧ fill = size) then s.crumbDrop
      else
        let (s, st) := s.dramWrite (whoPart 0x39 3) (s.reg64 R.PMC_CT_BASE_LO R.PMC_CT_BASE_HI / 16 * 16 + 16 * (tail % size)) (wordBytes c)
        if st = St.done then (s.setReg R.PMC_CT_TAIL (BitVec.ofNat 32 (tail + 1))).count 840 1 else s.crumbDrop

def execCrumbRecordWrite (s : State) : Host.Outcome State Fault Refusal := awakeNext s (crumbWriteOp s)

/-! ### Telemetry (R639, R640) -/

/-- Two 16-bit codes in a word, low half first. -/
def pairWord (lo hi : Nat) : Word := BitVec.ofNat 32 (hi % 65536 * 65536 + lo % 65536)

/-- Word of rail `r`: mV above, units of 10 mA below (R639). -/
def State.railWord (s : State) (r : Nat) : Word :=
  let x := s.power.rails.getD r (0, 0)
  pairWord (x.2 / 10) x.1

/-- Margin steps of eight domains from `d` on, 4 bits each. -/
def State.stepsWord (s : State) (d n : Nat) : Word := BitVec.ofNat 32 (((List.range n).map (fun i => s.steps (d + i) * 16 ^ i)).sum)

/-- Words 32 to 41 of a telemetry record. -/
def telemCounters : List Nat := [R.CRC_ERR_CNT, R.RESTORE_CNT, R.PANTRY_LOST_CNT, R.SCRUB_ERR_CNT, R.DMC_FLIT_REPLAY_CNT, R.SPM_PARITY_CNT,
  R.SPM_SCRUB_ERR_CNT, R.MBX_HC_CLEAN_ERR_CNT, R.SAF_UNTRUSTED_CNT, R.SAF_PROOF_MISS_CNT]

/-- Words 4 to 8 of a telemetry record. -/
def State.telemPower (s : State) : List Word :=
  [s.reg R.PMG_LIFE,
   BitVec.ofNat 32 (256 * s.fld R.DMC_STATUS 7 0 + b2n (s.flag R.PMG_CLK_STATUS 6) * 128 + s.island % 8 * 16 + s.derate % 16),
   BitVec.ofNat 32 (s.budgetEff % 1024 * 65536 + s.fld R.PMG_BASE 9 0),
   BitVec.ofNat 32 (s.creditsUsedP0 % 1024 * 65536 + s.creditsUsed % 1024),
   s.reg R.PMG_DELAYED_CNT]

/-- The 64 words of a record with TELEM_SEQ `n` (R639). (DEDUCED, log 65, DEDUCED, log 74) -/
def State.telemRecord (s : State) (n : Nat) : List Word :=
  let ws := [BitVec.ofNat 32 (2 ^ 24 + 64), BitVec.ofNat 32 n, BitVec.ofNat 32 s.devNow, BitVec.ofNat 32 (s.devNow / 2 ^ 32)] ++ s.telemPower
    ++ [pairWord (s.fld (R.DMC_TEMP 0) 15 0) (s.fld (R.DMC_TEMP 1) 15 0), pairWord (s.fld (R.DMC_TEMP 2) 15 0) (s.fld (R.DMC_TEMP 3) 15 0)]
    ++ (List.range 5).map (fun k => pairWord (s.power.tj.getD (2 * k) 0) (s.power.tj.getD (2 * k + 1) 0))
    ++ (List.range 11).map s.railWord ++ [s.stepsWord 0 8, s.stepsWord 8 2]
    ++ [s.reg R.DMC_SCRUB_POS, s.reg R.SCRUB_PASS_CNT, s.reg R.SPM_SCRUB_PASS_CNT] ++ telemCounters.map s.reg
    ++ (List.range 10).map (fun b => BitVec.ofNat 32 (Store.get (fun _ => 0) s.pmc.cnt (776 + b)).toNat) ++ List.replicate 11 0#32
  ws ++ [crc32c (wordBytes ws)]

/-- Telemetry records that waited since the last sample are discarded (R640). (DEDUCED, log 74) -/
def State.telemExpire (s : State) : State :=
  (s.pci.waiting.filter (fun e => e.node.isNone)).foldl (fun s e =>
    State.dropResult { s with pci := { s.pci with waiting := s.pci.waiting.erase e } } e.queue) s

/-- A record is sent as a result record (R640); FS_TIME, which no rule states without a frame, is free. (DEDUCED, log 74) -/
def State.telemSend (s : State) (n : Nat) (ws : List Word) : State :=
  let q := s.fld R.PCI_TELEM_CFG 7 0
  let (f, s) := s.draw
  let fs := (Config.freeWord f).toNat
  let (s, head) := s.newResult q (BitVec.ofNat 32 (0xFF * 65536 + 256 * q + 3 * 64 + 1)) (BitVec.ofNat 32 n) 0 (0xFF * 256 + 0x7F) 256 fs
  let e : WaitEmit := ⟨q, head, wordBytes ws, none, St.done⟩
  if s.emitHeld q 256 then { s with pci := { s.pci with waiting := s.pci.waiting ++ [e] } }
  else if s.linkUp then s.writeResult e else s.dropResult q

/-- TELEMETRY_SAMPLE (R639, R640, R642): once a second from step 4 of the boot on; the last sample of an hour goes to the flash log. (DEDUCED, log 74) -/
def telemetryOp (s : State) : State :=
  if s.sec.step < 4 ∨ s.now < s.pmc.telemAt then s
  else
    let s := if !s.pmc.telem.isEmpty ∧ (s.pmc.telemAt - 1000000000) / 3600000000000 < s.now / 3600000000000 then s.logRec 4 s.pmc.telem else s
    let s := s.telemExpire
    let n := s.pmc.telemSeq + 1
    let ws := s.telemRecord n
    let s : State := { s with pmc := { s.pmc with telem := ws, telemSeq := n, telemAt := 1000000000 * (s.now / 1000000000 + 1) } }
    if s.flag R.PCI_TELEM_CFG 31 then s.telemSend n ws else s

def execTelemetrySample (s : State) : Host.Outcome State Fault Refusal := awakeNext s (telemetryOp s)

/-! ### SMBus (R641) -/

/-- The SMBus address at which the device acknowledges: from step 4 on, as CONFIG set it, while it is powered (R641, R658). -/
def State.smbusAddr (s : State) : Option Nat := if s.sec.por ∨ s.sec.railsOff ∨ s.sec.step < 4 then none else s.sec.smbus

/-- The bytes that a PEC covers: address with write, command, address with read, and the data. (DEDUCED, log 74) -/
def smbusPec (a cmd : Nat) (data : List Byte) : Byte :=
  BitVec.ofNat 8 (crc8 ([BitVec.ofNat 8 (2 * a), BitVec.ofNat 8 cmd, BitVec.ofNat 8 (2 * a + 1)] ++ data))

/-- A read answers its data, a block with its count first, and the PEC. (DEDUCED, log 74) -/
def State.smbusRead (s : State) (cmd : Nat) (block : Bool) (data : List Byte) : State :=
  match s.smbusAddr with
  | none => s.answer .notAcknowledged
  | some a =>
    let bs := if block then BitVec.ofNat 8 data.length :: data else data
    s.answer (.bytes (bs ++ [smbusPec a cmd bs]))

def execSmbusReadIdentity (s : State) : Host.Outcome State Fault Refusal :=
  awakeNext s (s.smbusRead 0x01 true (wordBytes [s.reg R.SMC_DEVICE_ID, s.reg R.SMC_CONTRACT_LEVEL]))

/-- SMBUS_READ_TELEMETRY_LOW: the latest record is latched. -/
def smbusLowOp (s : State) : State :=
  let s : State := if s.smbusAddr.isSome then { s with pmc := { s.pmc with telemLatch := s.pmc.telem } } else s
  s.smbusRead 0x20 true (fitBytes 128 (wordBytes (s.pmc.telemLatch.take 32)))

def execSmbusReadTelemetryLow (s : State) : Host.Outcome State Fault Refusal := awakeNext s (smbusLowOp s)

def execSmbusReadTelemetryHigh (s : State) : Host.Outcome State Fault Refusal :=
  awakeNext s (s.smbusRead 0x21 true (fitBytes 128 (wordBytes (s.pmc.telemLatch.drop 32))))

def execSmbusReadBudget (s : State) : Host.Outcome State Fault Refusal :=
  awakeNext s (s.smbusRead 0x30 false (leBytes 2 (s.fld R.PMG_BUDGET_LIMIT 9 0)))

/-- SMBUS_WRITE_BUDGET (R599, R641): without a valid PEC ignored; the SMC makes the write. (DEDUCED, log 74) -/
def smbusWriteOp (v : BitVec 16) (pec : Option Byte) (s : State) : State :=
  match s.smbusAddr with
  | none => s.answer .notAcknowledged
  | some a =>
    let want := BitVec.ofNat 8 (crc8 ([BitVec.ofNat 8 (2 * a), 0x30] ++ leBytes 2 v.toNat))
    if pec = some want then budgetLimitOp .smc (BitVec.ofNat 32 v.toNat) s else s

def execSmbusWriteBudget (v : BitVec 16) (pec : Option Byte) (s : State) : Host.Outcome State Fault Refusal := awakeNext s (smbusWriteOp v pec s)

end Sys2Proof.Machine
end

