-- ==== Sys2Proof/Machine/Tdu.lean ====
section
/-! DEFINITION. The commands of the tensor descriptor unit and of the scratchpads (10_tensor_descriptors.md R379 to R407,
11_scratchpads.md R412 to R432). -/

namespace Sys2Proof.Machine

/-! ### Descriptors -/

/-- The result of a descriptor command of partition `p`. -/
def State.tduResult (s : State) (p st check dim : Nat) : State :=
  let s := s.setReg (R.TDU_STATUS p) (BitVec.ofNat 32 (2 ^ 24 * st))
  let s := s.setReg (R.TDU_DETAIL p) (BitVec.ofNat 32 (check * 16 + dim))
  s.setReg (R.TDU_USED p) (BitVec.ofNat 32 (s.table p).used.length)

/-- A command of set `p` is accepted from agents of the partition (R407, R231). -/
def State.tduFor (s : State) (ag : Agent) (p : Nat) (f : State → State) : State :=
  if s.ofPart ag p then f s else s.refuse ag p

/-- A descriptor command of set `p` (R407): ignored while PENDING, which then lasts at most 2 µs. -/
def State.tduCmd (s : State) (ag : Agent) (p : Nat) (f : State → State) : State :=
  s.tduFor ag p (fun s => if s.cmdBusy (R.TDU_STATUS p) then s else (f s).cmdBegin (R.TDU_STATUS p) 2000)

/-- A region command (R407): likewise. -/
def State.regionCmd (s : State) (f : State → State) : State :=
  if s.cmdBusy R.TDU_REG_STATUS then s else (f s).cmdBegin R.TDU_REG_STATUS 2000

/-- The staged descriptor: 16 words, or 32 with SHARD (R401). -/
def State.staged (s : State) (p : Nat) : Desc :=
  let n := if bit (s.reg (R.TDU_STAGE p 0)) 6 then 32 else 16
  ⟨(List.range n).map (fun w => s.reg (R.TDU_STAGE p w)), 0⟩

/-- TDU_CREATE (R391). -/
def tduCreateOp (ag : Agent) (p : Nat) (s : State) : State :=
  s.tduCmd ag p (fun s =>
    let d := s.staged p
    match s.createCheck ag p d with
    | some (row, dim, st) => s.tduResult p st row dim
    | none =>
      let t := s.table p
      match t.head with
      | none => s.tduResult p St.busy 8 15
      | some h =>
        let t := if t.fresh < 16384 then { t with fresh := t.fresh + 1 } else { t with freed := t.freed.drop 1 }
        let s := s.setTable p { t with used := t.used ++ [(h, d)] }
        (s.setReg (R.TDU_HANDLE p) (BitVec.ofNat 32 h)).tduResult p St.done 0 15)

def execTduCreate (ag : Agent) (p : Fin 4) (s : State) : Host.Outcome State Fault Refusal := awakeNext s (tduCreateOp ag p s)

/-- TDU_DESTROY (R392): refused while an operation pins the descriptor, or while it is the companion of another. -/
def tduDestroyOp (ag : Agent) (p : Nat) (s : State) : State :=
  s.tduCmd ag p (fun s =>
    let h := s.fld (R.TDU_HANDLE p) 15 0
    match s.desc? p h with
    | none => s.tduResult p St.descInvalid 0 15
    | some d =>
      if d.pins ≠ 0 ∨ (s.table p).used.any (fun e => e.2.elem == El.se8 && e.2.companion == h) then s.tduResult p St.busy 0 15
      else
        let t := s.table p
        (s.setTable p { t with used := t.used.filter (fun e => e.1 != h), freed := t.freed ++ [h] }).tduResult p St.done 0 15)

def execTduDestroy (ag : Agent) (p : Fin 4) (s : State) : Host.Outcome State Fault Refusal := awakeNext s (tduDestroyOp ag p s)

/-- TDU_READ (R405): the descriptor of TDU_HANDLE_p to the staging words. -/
def tduReadOp (ag : Agent) (p : Nat) (s : State) : State :=
  s.tduCmd ag p (fun s =>
    match s.desc? p (s.fld (R.TDU_HANDLE p) 15 0) with
    | none => s.tduResult p St.descInvalid 0 15
    | some d =>
      ((List.range d.words.length).foldl (fun s w => s.setReg (R.TDU_STAGE p w) (wd d.words w)) s).tduResult p St.done 0 15)

def execTduRead (ag : Agent) (p : Fin 4) (s : State) : Host.Outcome State Fault Refusal := awakeNext s (tduReadOp ag p s)

/-- TDU_CLEAR_COUNTS (R405): zeroes both out-of-bounds counters. -/
def tduClearOp (ag : Agent) (p : Nat) (s : State) : State :=
  s.tduCmd ag p (fun s => (s.zeroRegs [R.TDU_OOB_READ_CNT p, R.TDU_OOB_WRITE_CNT p]).tduResult p St.done 0 15)

def execTduClearCounts (ag : Agent) (p : Fin 4) (s : State) : Host.Outcome State Fault Refusal := awakeNext s (tduClearOp ag p s)

/-! ### Regions -/

/-- The checks of a region create (R379) in table order. -/
def State.regionCheck (s : State) (ag : Agent) (ws : List Word) : Nat :=
  let r := regionOf ws
  let w1 := wd ws 1
  if 1 < r.kind ∨ bits w1 31 24 ≠ 0 ∨ bit w1 18 ∨ bits w1 15 12 ≠ 0 ∨ bits (wd ws 3) 31 8 ≠ 0 ∨ r.size = 0 then St.descInvalid
  else if r.base % 64 ≠ 0 ∨ r.size % 64 ≠ 0 then St.alignFault
  else if (if r.kind = RK.dram then dramEnd else peerSize) < r.base + r.size then St.rangeFault
  else
    let w : Who := whoPart 0x3A r.owner
    let refused := r.kind == RK.dram && (unitsOf r.base r.size).any (fun u =>
      !s.fwAllows w false u || (r.writeOk && !s.fwAllows w true u))
    if refused || (s.locked && decide (r.owner ≤ 1) && ag != .safety) then St.partitionFault
    else if s.freeRegion.isNone then St.busy
    else St.done

/-- REGION_CREATE (R379, R407): accepted from any agent and checked against OWNER. -/
def regionCreateOp (ag : Agent) (s : State) : State :=
  s.regionCmd (fun s =>
  let ws := (List.range 4).map (fun w => s.reg (R.TDU_REG_STAGE w))
  let st := s.regionCheck ag ws
  if st ≠ St.done then s.regionStatus st
  else match s.freeRegion with
    | none => s.regionStatus St.busy
    | some id => ((s.addRegion id (regionOf ws)).setFld R.TDU_REG_CMD 11 0 id).regionStatus St.done)

def execRegionCreate (ag : Agent) (s : State) : Host.Outcome State Fault Refusal := awakeNext s (regionCreateOp ag s)

/-- REGION_DESTROY (R380, R407). -/
def regionDestroyOp (ag : Agent) (id : Nat) (s : State) : State :=
  s.regionCmd (fun s =>
  let id := id % 4096
  let s := s.setFld R.TDU_REG_CMD 11 0 id
  match s.region? id with
  | none => s.regionStatus St.descInvalid
  | some r =>
    if 2 ≤ r.kind ∨ (s.locked ∧ r.owner ≤ 1 ∧ ag ≠ .safety) then s.regionStatus St.partitionFault
    else if s.tdu.tables.any (fun t => t.used.any (fun e => e.2.region == id)) then s.regionStatus St.busy
    else (s.dropRegion id).regionStatus St.done)

def execRegionDestroy (ag : Agent) (id : Nat) (s : State) : Host.Outcome State Fault Refusal := awakeNext s (regionDestroyOp ag id s)

/-- REGION_READ (R380, R407). -/
def regionReadOp (ag : Agent) (id : Nat) (s : State) : State :=
  s.regionCmd (fun s =>
  let id := id % 4096
  let s := s.setFld R.TDU_REG_CMD 11 0 id
  match s.region? id with
  | none => s.regionStatus St.descInvalid
  | some r =>
    if 2 ≤ r.kind ∧ !isFull ag ∧ !r.readable (s.partOf ag) then s.regionStatus St.partitionFault
    else ((List.range 4).foldl (fun s w => s.setReg (R.TDU_REG_STAGE w) (wd r.words w)) s).regionStatus St.done)

def execRegionRead (ag : Agent) (id : Nat) (s : State) : Host.Outcome State Fault Refusal := awakeNext s (regionReadOp ag id s)

/-! ### Scratchpads -/

/-- Words of memory `m` whose parity fails from now on: (64-bit word, parity bits). -/
def State.spmSpoil (s : State) (l : List SpmBad) : State :=
  { s with spm.bad := s.spm.bad.filter (fun b => !(l.any (fun x => x.mem == b.mem && x.lane == b.lane))) ++ l }

/-- Host cores and DMA engines access scratchpads by address alone, which SHARE never extends (R419). -/
def usesHandles : Agent → Bool
  | .hc _ => false
  | .dmae _ => false
  | _ => true

/-- Whether a read by agent `ag` through handle `h` is covered by a region of memory `m` that its partition may read (R419). -/
def State.sharedRead (s : State) (ag : Agent) (h : Option Nat) (m off len : Nat) : Bool :=
  let p := s.partOf ag
  if !usesHandles ag then false
  else match h with
  | none => false
  | some h => match s.desc? p h with
    | none => false
    | some d => match s.region? d.region with
      | none => false
      | some r => r.mem == some m && r.readable p && decide (r.base ≤ off) && decide (off + len ≤ r.base + r.size)

/-- SCRATCHPAD_ACCESS (R412, R419, R425, R429): one bank word or a byte-masked part of it; `h` is the handle it goes through,
`newBad` are words whose parity has failed since. An access that spans bank words is none of these. (DEDUCED, log 45, DESIGN CHOICE, log 56) -/
def spmAccessOp (ag : Agent) (m off len : Nat) (data : Option (List (Option Byte))) (h : Option Nat) (newBad : List (Nat × Nat))
    (s : State) : State :=
  let len := match data with | some l => l.length | none => len
  if len = 0 ∨ 64 < off % 64 + len then s.answer .busError
  else
    let s := s.spmSpoil (newBad.map (fun e => ⟨m, e.1, e.2⟩))
    s.spmAccess ⟨agentId ag, s.partOf ag, isFull ag, m, off, len, data, s.sharedRead ag h m off len⟩

def execScratchpadAccess (ag : Agent) (mem : Fin 25) (off len : Nat) (data : Option (List (Option Byte))) (h : Option Nat)
    (newBad : List (Nat × Nat)) (s : State) : Host.Outcome State Fault Refusal := awakeNext s (spmAccessOp ag mem off len data h newBad s)

/-- A region of a memory that meets granules [first, first + count). -/
def State.regionMeets (s : State) (m first count : Nat) : Bool :=
  s.tdu.regions.any (fun e => e.2.mem == some m && decide (e.2.base < (first + count) * granuleSize m)
    && decide (first * granuleSize m < e.2.base + e.2.size))

/-- A yielded run rests in a bank of a core (R291). -/
def State.coreHoldsYield (s : State) (core : Nat) : Bool :=
  s.hts.tasks.any (fun e => e.2.state == .ready && e.2.bank == some (0x10 + core))

/-- OWNERSHIP_CHANGE (R424, R425, R432): a write of SPM_OWN_CMD; with GO it starts the zero-fill, or refuses it. (DEDUCED, log 45) -/
def ownChangeOp (ag : Agent) (v : Word) (s : State) : State :=
  if s.spm.fill.isSome then s
  else
    let s := s.setReg R.SPM_OWN_CMD (v &&& 0x7F003F3F)
    if !bit v 31 then s
    else
      let core := bits v 26 24
      let m := spmMem (bits v 28 27) core
      let first := bits v 5 0
      let count := bits v 13 8 + 1
      let status (s : State) (st : Nat) : State := s.setReg R.SPM_OWN_STATUS (BitVec.ofNat 32 (2 ^ 24 * st))
      if granules m < first + count ∨ (m = 24 ∧ core ≠ 0) then status s St.descInvalid
      else if s.regionMeets m first count then status s St.busy
      else if m ≠ 24 ∧ ((s.runningOn (0x10 + core)).isSome ∨ s.coreHoldsYield core) then status s St.busy
      else if s.locked ∧ ag ≠ .safety then status (s.refuseSys ag) St.partitionFault
      else
        let s := { s with spm.fill := some ⟨m, first, count, bits v 30 29⟩ }
        s.setReg R.SPM_OWN_STATUS 3

def execOwnershipChange (ag : Agent) (v : Word) (s : State) : Host.Outcome State Fault Refusal := awakeNext s (ownChangeOp ag v s)

/-- ZERO_FILL_DONE (R425, R432): the granules are zero and take their new owner; the accesses that waited proceed. (DEDUCED, log 45) -/
def zeroFillOp (s : State) : State :=
  match s.spm.fill with
  | none => s
  | some f =>
    let z := granuleSize f.mem
    let s := s.modSpm f.mem (Store.clear (f.first * z) ((f.first + f.count) * z))
    let s := { s with spm.bad := s.spm.bad.filter (fun b => !(b.mem == f.mem && decide (f.first * z ≤ b.lane * 8)
      && decide (b.lane * 8 < (f.first + f.count) * z))) }
    let s := (List.range f.count).foldl (fun s g => s.setGranuleOwner f.mem (f.first + g) f.owner) s
    let l := s.spm.waiting
    let s := { s with spm.fill := none, spm.waiting := [] }
    let s := (s.setReg R.SPM_OWN_STATUS 0).bump R.SPM_ZERO_FILL_CNT
    l.foldl (fun s x => s.spmAccess x) s

def execZeroFillDone (s : State) : Host.Outcome State Fault Refusal := awakeNext s (zeroFillOp s)

/-- Every bank: memory and bank number, in the order of the scrubber's positions. -/
def allBanks : List (Nat × Nat) :=
  (List.range 8).flatMap (fun c => (List.range 3).flatMap (fun k => (List.range (spmBanks (3 * c + k))).map (fun b => (3 * c + k, b))))
    ++ (List.range 64).map (fun b => (24, b))

/-- SCRATCHPAD_SCRUB (R430): one word of every bank but those of `busy`, whose wheel slot 6 a DMA engine uses; banks being filled
are left out too (R411). -/
def spmScrubOp (busy : List Nat) (newBad : List (Nat × Nat × Nat)) (s : State) : State :=
  if !s.flag R.SPM_CTRL 0 then s
  else
    let s := s.spmSpoil (newBad.map (fun e => ⟨e.1, e.2.1, e.2.2⟩))
    (allBanks.zipIdx).foldl (fun s e =>
      let ((m, b), k) := e
      let pos := s.spm.scrub.getD k 0
      let a := spmOffset m b pos
      if busy.contains k || s.fillHolds m (a / granuleSize m) then s
      else
        let s := match s.spmBadIn m a 64 with
          | [] => s
          | x :: _ =>
            let s := (s.bump R.SPM_SCRUB_ERR_CNT).spmLog x true
            if spmKind m = 0 ∧ !s.spm.found.contains (m, x.lane) then { s with spm.found := s.spm.found ++ [(m, x.lane)] } else s
        let nxt := if pos + 1 = bankWords m then 0 else pos + 1
        let s := { s with spm.scrub := setAt s.spm.scrub k nxt }
        if nxt = 0 then s.bump R.SPM_SCRUB_PASS_CNT else s) s

def execScratchpadScrub (busy : List Nat) (newBad : List (Nat × Nat × Nat)) (s : State) : Host.Outcome State Fault Refusal :=
  awakeNext s (spmScrubOp busy newBad s)

/-- The scratchpad counters (R431). -/
def spmCounters : List Nat :=
  [R.SPM_PARITY_CNT, R.SPM_SCRUB_ERR_CNT, R.SPM_PART_FAULT_CNT, R.SPM_SCRUB_PASS_CNT, R.SPM_ZERO_FILL_CNT]

/-- SPM_CLEAR_COUNTS (R431, R432). -/
def spmClearOp (ag : Agent) (s : State) : State := if isFull ag then s.zeroRegs spmCounters else s.refuseSys ag

def execSpmClearCounts (ag : Agent) (s : State) : Host.Outcome State Fault Refusal := awakeNext s (spmClearOp ag s)

end Sys2Proof.Machine
end

