-- ==== Sys2Proof/Machine/Time.lean ====
section
/-! DEFINITION. The commands of device time and of control-block faults (01_architecture.md R26, R43 to R45). -/

namespace Sys2Proof.Machine

/-- The selected alignment source (SMC_TIME_CTRL.SOURCE). -/
def State.timeSource (s : State) : Option TimeSource :=
  match s.fld R.SMC_TIME_CTRL 1 0 with
  | 1 => some .ptm
  | 2 => some .pps
  | _ => none

/-- Device time stepped forward by `n` ns at once, which ends any slew. -/
def State.stepTime (s : State) (n : Nat) : State := { s with tm.devCount := s.tm.devCount + 2 ^ 32 * n, tm.slew := 0 }

/-- TIME_CORRECTION (R44): an update of the selected source by `delta` ns. A forward correction above 1 ms is one step; every
other one is slewed. ALIGNED states whether the correction was below 1 µs. (DESIGN CHOICE, log 88, DESIGN CHOICE, log 89) -/
def timeCorrectionOp (src : TimeSource) (delta : Int) (s : State) : State :=
  if s.timeSource ≠ some src then s
  else
    let t : State := { s with tm.lastUpdate := s.now }
    let t := t.setFlag R.SMC_TIME_STATUS 0 (decide (delta.natAbs < 1000))
    if 1000000 < delta then
      (((t.stepTime delta.toNat).setFld R.SMC_TIME_STATUS 31 16 0).setFlag R.SMC_TIME_STATUS 2 true).irqRaise 43
    else { t with tm.slew := delta * (2 ^ 32 : Nat) }

def execTimeCorrection (src : TimeSource) (delta : Int) (s : State) : Host.Outcome State Fault Refusal :=
  awakeNext s (timeCorrectionOp src delta s)

/-- TIME_SOURCE_LOST (R45): no update of the selected source for 3 s. Device time runs on without correction. -/
def timeLostOp (s : State) : State :=
  if s.timeSource.isSome ∧ 3000000000 + s.tm.lastUpdate ≤ s.now then
    ((({ s with tm.slew := 0, tm.lastUpdate := s.now }).setFld R.SMC_TIME_STATUS 31 16 0).setFlag R.SMC_TIME_STATUS 1 true).irqRaise 43
  else s

def execTimeSourceLost (s : State) : Host.Outcome State Fault Refusal := awakeNext s (timeLostOp s)

/-- The node kind an engine serves (R151); none for a control block without one. -/
def nodeKindOf (id : Nat) : Option Nat :=
  if id ≤ 7 then some 7 else if 0x10 ≤ id ∧ id ≤ 0x17 then some 6
  else if id = 0x20 ∨ id = 0x21 then some 0 else if id = 0x22 ∨ id = 0x23 then some 1 else if id = 0x24 ∨ id = 0x25 then some 2
  else if id = 0x26 ∨ id = 0x27 then some 3 else if id = 0x28 then some 4 else if id = 0x29 then some 5
  else if 0x30 ≤ id ∧ id ≤ 0x33 then some 8 else none

/-- A resident P0 or P1 graph that the engine serves (R540); a control block without a node kind serves every graph. (DEDUCED, log 61) -/
def State.servesSafety (s : State) (id : Nat) : Bool :=
  s.fgs.graphs.any (fun g => decide (g.part ≤ 1) &&
    (match nodeKindOf id with | some k => g.nodes.any (fun n => n.kind == k) | none => true))

/-- CONTROL_BLOCK_FAULT (R26, R540): the fault is reported; a block that reports INTERNAL and serves a P0 or P1 graph is the
cause CONTROL_FAULT, else a notice. -/
def controlFaultOp (ag : Agent) (code : Byte) (s : State) : State :=
  let id := agentId ag
  let s := s.report id code.toNat (s.partOf ag)
  if code.toNat = St.internal then
    if s.servesSafety id then s.cause Cause.controlFault id (s.partOf ag) 0 else s.notice Notice.controlFault
  else s

def execControlBlockFault (ag : Agent) (code : Byte) (s : State) : Host.Outcome State Fault Refusal :=
  awakeNext s (controlFaultOp ag code s)

end Sys2Proof.Machine
end

