-- ==== Sys2Proof/Machine/RegView.lean ====
section
/-! DEFINITION. What a register reads (00_scope.md R11, R14, R17; the register tables of every chapter): fields that show other
state of the block, registers held once per reader, capability records, and who may read. -/

namespace Sys2Proof.Machine

/-! ### Capability records (R33, R34) -/

/-- The value words of kinds 1 to 10. -/
def capRecords : List (List Nat) :=
  [[2000000, 1000000, 500000, 250000, 4, 64], [8, 1024, 8, 300000], [2, 8, 64], [2, 2, 2, 1, 1], [8, 131072, 4096, 3072, 1024],
    [256, 128, 256, 1024, 4, 8192, 64, 16, 256, 32, 512], [24576, 32, 16384, 64, 4096, 16384], [4, 16, 256, 65536], [8, 64, 64],
    [8, 64, 512, 256, 32]]

/-- The header of entry `i`: KIND, VERSION 1, LENGTH. -/
def capHeader (i : Nat) : Word := BitVec.ofNat 32 (65536 * (i + 1) + 256 + (capRecords.getD i []).length)

/-- A word of the directory or of a record, by its offset in BAR 0. (DEDUCED, log 14) -/
def capWord (off : Nat) : Option Word :=
  if 0x108 ≤ off ∧ off < 0x158 then
    let i := (off - 0x108) / 8
    some (if off % 8 = 0 then capHeader i else BitVec.ofNat 32 (0x1000 + 0x40 * i))
  else if 0x1000 ≤ off ∧ off < 0x1280 then
    let i := (off - 0x1000) / 0x40
    if off % 0x40 = 0 then some (capHeader i) else ((capRecords.getD i [])[off % 0x40 / 4 - 1]?).map (fun n => BitVec.ofNat 32 n)
  else none

/-! ### Blocks and pairs (R17, R32) -/

/-- The row of the block map that an offset lies in (R32). (DEDUCED, log 13) -/
def blockOf (off : Nat) : Nat :=
  ([0x100000, 0x200000, 0x400000, 0x480000, 0x500000, 0x800000, 0x900000, 0xA00000, 0xC00000, 0xE00000, 0xE80000, 0xF00000, 0x1000000,
    0x1100000, 0x1200000, 0x1300000, 0x1400000].filter (fun b => decide (b ≤ off))).length

/-- The low registers of the 64-bit quantities, by family: base, count, stride, count, stride. The high register follows. (DEDUCED, log 13) -/
def pairFams : List (Nat × Nat × Nat × Nat × Nat) :=
  [(R.SMC_LOCAL_TIME_LO, 1, 0, 1, 0), (R.SMC_DEV_TIME_LO, 1, 0, 1, 0), (R.SAF_PS_ADDR_LO 0, 8, 0x10, 1, 0), (R.SAF_LAST_CAUSE 2, 1, 0, 1, 0), (R.ISP_CTX_ADDR_LO, 1, 0, 1, 0),
    (R.FGS_GRAPH_ADDR_LO, 1, 0, 1, 0), (R.FGS_CQ_BASE_LO 0, 4, 0x20, 1, 0), (R.FTE_PT_ADDR_LO, 1, 0, 1, 0),
    (R.DMA_CQ_BASE_LO 0, 4, 0x40000, 1, 0), (R.DMA_ERR_ADDR_LO 0, 4, 0x40000, 1, 0)] ++
  [(R.DMA_CH_HEAD_LO 0 0, 4, 0x40000, 16, 0x40), (R.DMA_CH_CUR_DESC_LO 0 0, 4, 0x40000, 16, 0x40), (R.DMA_CH_SRC_LO 0 0, 4, 0x40000, 16, 0x40),
    (R.DMA_CH_DST_LO 0 0, 4, 0x40000, 16, 0x40), (R.MBX_HC_ERR_LO 0, 8, 8, 1, 0), (R.PMC_CT_BASE_LO, 1, 0, 1, 0),
    (R.PMC_CNT_LO 0, 1280, 8, 1, 0), (R.PMC_SHD_LO 0, 1280, 8, 1, 0), (R.DMC_ERR_ADDR_LO, 1, 0, 1, 0), (R.DMC_FW_ADDR_LO, 1, 0, 1, 0)] ++
  [(R.PCI_OBH_BASE_LO, 1, 0, 1, 0), (R.PCI_OBP_BASE_LO, 1, 0, 1, 0), (R.PCI_MGQ_SQ_LO, 1, 0, 1, 0), (R.PCI_MGQ_CQ_LO, 1, 0, 1, 0),
    (R.PCI_RQ_BASE_LO 0, 256, 0x20, 1, 0), (R.PCI_RQ_PBASE_LO 0, 256, 0x20, 1, 0), (R.PCI_RQ_SHADOW_LO 0, 256, 0x20, 1, 0)]

/-- The register at `off` is the low word of a 64-bit quantity. (DEDUCED, log 13) -/
def isPairLow (off : Nat) : Bool := pairFams.any (fun f => RegRow.holds ⟨"", f.1, f.2.1, f.2.2.1, f.2.2.2.1, f.2.2.2.2, 0, 0, 0, 0⟩ off)

/-! ### Fields that show other state -/

/-- The frame tag of the work of task `i`; zeros for work without a frame (R39). -/
def State.taskTag (s : State) (i : Nat) : Word :=
  match (s.task i).owner with
  | .node jid n =>
    match s.job? jid with
    | none => 0
    | some j => match s.graph? j.graph with
      | none => 0
      | some g => (nodeFrame g j n).tag
  | _ => 0

/-- Bit p: the bank of partition p in the engine holds yielded work (R293). -/
def State.banksOf (s : State) (id : Nat) : Nat :=
  ((List.range 4).map (fun p => b2n (s.hts.tasks.any (fun e => e.2.state == .ready && e.2.bank == some id && e.2.part == p)) * 2 ^ p)).sum

/-- STATUS (0x4), CUR_TAG (0x8) and the progress register (0xC) of engine `e` (numbered as in ENGINE_ABORT); an idle engine shows zeros. (DESIGN CHOICE, log 17) -/
def State.liveEngine (s : State) (e o : Nat) (w : Word) : State × Word :=
  let id := engineId e
  let banks := if bankedEngine id then s.banksOf id else 0
  match s.runningOn id with
  | none =>
    if o = 4 then
      let fill := match s.spm.fill with | some f => decide (8 ≤ e ∧ f.mem < 24 ∧ spmCore f.mem = e - 8) | none => false
      (s, setBits (setBits w 19 16 banks) 2 0 (if fill then 5 else 0))
    else (s, 0)
  | some i =>
    if o = 4 then
      let (s, ph) := s.engineState id i
      (s, setBits (setBits (setBits w 19 16 banks) 9 8 (s.task i).part) 2 0 ph)
    else if o = 8 then (s, s.taskTag i)
    else
      let (s, n) := if e = 7 then s.fteProgress i else s.countShown id i
      (s, BitVec.ofNat 32 n)

/-- The same of ISP instance `n` (R144). (DESIGN CHOICE, log 17) -/
def State.liveIsp (s : State) (n o : Nat) (w : Word) : State × Word :=
  match s.ispFrame n with
  | none => if o = 4 then (s, setBits (setBits w 19 10 0) 2 0 0) else (s, 0)
  | some f =>
    if o = 4 then
      let (s, ph) := s.ispState f
      (s, setBits (setBits w 19 10 f.stream) 2 0 ph)
    else if o = 8 then (s, frameTag f.stream ((s.stream f.stream).slot f.slot).frame)
    else
      let (s, c) := s.countShown (0x20 + n) f.task
      (s, BitVec.ofNat 32 c)

/-- The code of a task state (R227). -/
def taskCode : TaskState → Nat
  | .free => 0
  | .waiting => 1
  | .delayed => 2
  | .ready => 3
  | .running => 4
  | .done => 5
  | .posting => 6

/-- HTS_QUERY_RESULT (R227): STATUS is valid in DONE alone, and free in every other state of an entry. (DESIGN CHOICE, log 17) -/
def State.queryResult (s : State) : State × Word :=
  match s.named (s.reg R.HTS_QUERY_HANDLE) with
  | none => (s, 0)
  | some i =>
    let t := s.task i
    let (k, s) := s.draw
    let st := if t.state = .done then t.status else if t.state = .free then 0 else (Config.freeByte k 0).toNat
    (s, BitVec.ofNat 32 (2 ^ 24 * st + 256 * b2n t.timedOut + taskCode t.state))

/-- HTS_HC_STATUS_n (R216, R221, R229). -/
def State.hcStatus (s : State) (n : Nat) : Word :=
  let pre := b2n (s.hcs n).preempt.isSome
  match s.runningOn n with
  | none => BitVec.ofNat 32 pre
  | some i => BitVec.ofNat 32 (b2n (s.task i).timedOut * 4 + b2n (s.task i).abortPending * 2 + pre)

/-- Registers of the blocks below 0x500000 and PMG_. -/
def State.liveLow (s : State) (off : Nat) (w : Word) : Word :=
  if off = R.SMC_LOCAL_TIME_LO then BitVec.ofNat 32 s.now
  else if off = R.SMC_LOCAL_TIME_HI then BitVec.ofNat 32 (s.now / 2 ^ 32)
  else if off = R.SMC_DEV_TIME_LO then BitVec.ofNat 32 s.devNow
  else if off = R.SMC_DEV_TIME_HI then BitVec.ofNat 32 (s.devNow / 2 ^ 32)
  else if off = R.PMG_BUDGET_EFF then setBits w 9 0 s.budgetEff
  else if off = R.PMG_USED then BitVec.ofNat 32 (s.creditsUsedP0 % 1024 * 65536 + s.creditsUsed % 1024)
  else if R.PMG_DOM_STATUS 0 ≤ off ∧ off < R.PMG_DOM_STATUS 10 ∧ off % 16 = 4 then
    setBits w 3 3 (b2n (s.servesP0 ((off - R.PMG_DOM_STATUS 0) / 16)))
  else if off = R.SAF_LOCK_STATUS then setBits w 0 0 (b2n (s.cmdBusy off))
  else if off = R.SAF_STATUS then setBits w 7 7 (b2n s.faultNLow)
  else if R.SAF_TP_STATE 0 ≤ off ∧ off < R.SAF_TP_STATE 16 ∧ off % 16 = 4 then
    let i := (off - R.SAF_TP_STATE 0) / 16
    let h := (s.saf.hist.getD i []).take (s.fld (R.SAF_TP_CFG i) 23 16)
    BitVec.ofNat 32 (65536 * h.length + 256 * (h.filter id).length)
  else if 0x400000 ≤ off ∧ off < 0x480000 ∧ off % 0x10000 = 4 then
    setBits w 26 16 ((bufSize - (s.port ((off - 0x400000) / 0x10000)).bufUsed) / 16)
  else w

/-- FGS_CQ_STATUS_p (R193): the queue counts as full, too, while a record whose write was refused is held. (DEDUCED, log 36) -/
def State.fgsCqView (s : State) (p : Nat) (w : Word) : Word := setBits w 0 0 (b2n (s.fgsCqFull p || !(s.cqWaiting p).isEmpty))

/-- Registers of the sequencer and the scheduler. -/
def State.liveSeq (s : State) (off : Nat) (w : Word) : Word :=
  if off = R.FGS_GRAPH_STATUS ∨ off = R.FGS_ABORT_STATUS ∨ off = R.HTS_ABORT_STATUS then setBits w 0 0 (b2n (s.cmdBusy off))
  else if off = R.FGS_STATUS then BitVec.ofNat 32 (65536 * b2n s.fgsHeld + s.fgs.jobs.length % 2048)
  else if R.FGS_CQ_STATUS 0 ≤ off ∧ off < R.FGS_CQ_STATUS 4 ∧ off % 0x20 = 0x14 then s.fgsCqView ((off - R.FGS_CQ_STATUS 0) / 0x20) w
  else if off = R.HTS_STATUS then
    BitVec.ofNat 32 (65536 * b2n (decide (postqSize < s.hts.postq.length) || s.fgsHeld) + min s.hts.postq.length postqSize)
  else if R.HTS_QUOTA 0 ≤ off ∧ off < R.HTS_QUOTA 4 then setBits w 29 16 (s.quotaUsed ((off - R.HTS_QUOTA 0) / 4))
  else if R.HTS_HC_STATUS 0 ≤ off ∧ off < R.HTS_HC_STATUS 8 ∧ off % 0x40 = 0x24 then s.hcStatus ((off - R.HTS_HC_STATUS 0) / 0x40)
  else w

/-- DMA_STATUS, DMA_CQ_STATUS and DMA_CH_STATUS_c (R456, R457). -/
def State.liveDma (s : State) (off : Nat) (w : Word) : Word :=
  let e := (off - 0xF00000) / 0x40000
  let o := off % 0x40000
  if o = 4 then setBits w 8 0 (s.dmaOutstanding e)
  else if o = 0x28 then setBits w 0 0 (b2n (s.dmaCqFull e || !(s.eng e).cqWait.isEmpty))
  else if 0x1000 ≤ o ∧ o < 0x1400 ∧ o % 0x40 = 8 then
    let st := s.chState e ((o - 0x1000) / 0x40)
    if st = Ch.paused then setBits w 31 24 St.paused else if st = Ch.heldCq then setBits w 31 24 St.cqFull else w
  else w

/-- Registers of the tensor unit, mailboxes, counters and security. -/
def State.liveHigh (s : State) (off : Nat) (w : Word) : Word :=
  if 0xE00000 ≤ off ∧ off < 0xE00400 ∧ off % 0x100 = 0x10 then BitVec.ofNat 32 (s.table ((off - 0xE00000) / 0x100)).used.length
  else if off = R.TDU_REG_STATUS then
    let n := s.tdu.regions.length
    setBits (setBits (setBits w 13 13 (b2n (n == 4096))) 12 1 (n % 4096)) 0 0 (b2n (s.cmdBusy off))
  else if 0xE00000 ≤ off ∧ off < 0xE00400 ∧ off % 0x100 = 4 then setBits w 0 0 (b2n (s.cmdBusy off))
  else if R.MBX_STATE 0 ≤ off ∧ off < R.MBX_STATE 64 ∧ off % 0x80 = 0x44 then
    let b := s.mailbox ((off - R.MBX_STATE 0) / 0x80)
    setBits (setBits w 31 16 b.seq) 0 0 (b2n b.full)
  else if 0x1101000 ≤ off ∧ off < 0x1103800 then
    let c := (Store.get (fun _ => 0) s.pmc.cnt ((off - 0x1101000) / 8)).toNat
    BitVec.ofNat 32 (if off % 8 = 0 then c else c / 2 ^ 32)
  else if 0x1104000 ≤ off ∧ off < 0x1106800 then
    let c := (Store.get (fun _ => 0) s.pmc.shadow ((off - 0x1104000) / 8)).toNat
    BitVec.ofNat 32 (if off % 8 = 0 then c else c / 2 ^ 32)
  else if off = R.SEC_STATUS then s.secStatus
  else if R.SEC_DEVICE_PUB 0 ≤ off ∧ off < R.SEC_DEVICE_PUB 16 then
    BitVec.ofNat 32 (leNat ((slice s.sec.fuses.devicePub (off - R.SEC_DEVICE_PUB 0) 4).reverse))
  else w

/-- The value that the register at `off` holds for every reader; a field that the model does not determine is a free value, drawn here. -/
def State.live (s : State) (off : Nat) : State × Word :=
  let w := s.reg off
  match capWord off with
  | some v => (s, v)
  | none =>
    if off < 0x500000 then (s, s.liveLow off w)
    else if off = R.ISP_QUEUE_STATUS then (s, BitVec.ofNat 32 (s.isp.queue.length % 128))
    else if off = R.ISP_CTX_STATUS then (s, setBits w 0 0 (b2n (s.cmdBusy off)))
    else if off < 0x700000 then
      let o := off % 0x100000
      if o = 4 ∨ o = 8 ∨ o = 0xC then s.liveIsp ((off - 0x500000) / 0x100000) o w else (s, w)
    else if off = R.HTS_QUERY_RESULT then s.queryResult
    else if off < 0xA00000 then (s, s.liveSeq off w)
    else if off = R.FTE_PT_STATUS then 
      (s, setBits (setBits w 7 4 ((List.range 4).map (fun k => b2n (s.pairTable k).isSome * 2 ^ k)).sum) 0 0 (b2n (s.cmdBusy off)))
    else if off < 0xA80000 then
      let o := off % 0x10000
      if o = 4 ∨ o = 8 ∨ o = 0xC then s.liveEngine ((off - 0xA00000) / 0x10000) o w else (s, w)
    else if 0xC00000 ≤ off ∧ off < 0xE00000 then
      let o := off % 0x40000
      if o = 4 ∨ o = 8 ∨ o = 0xC then s.liveEngine (8 + (off - 0xC00000) / 0x40000) o w else (s, w)
    else if 0xF00000 ≤ off ∧ off < 0x1000000 then (s, s.liveDma off w)
    else (s, s.liveHigh off w)

/-! ### Registers held once per reader, and restricted reads -/

/-- What a read by agent `ag` shows: a value, or nothing because the reader is not of partition `owner` (none: of no partition). -/
inductive RegRead where
  | value (v : Word)
  | foreign (owner : Option Nat) (v : Word)
deriving DecidableEq, Repr

/-- TPP_CTL_RSP0 (0x38) and TPP_CTL_RSP1 (0x3C) of port `n` (R101): for the owner partition of the stream of the last direct command;
others see REFUSED of their own partition. -/
def State.ctlView (s : State) (ag : Agent) (n o : Nat) : Word :=
  let mine := match (s.port n).directStream with
    | some st => s.ofPart ag (s.streamOwner (s.stream st))
    | none => isFull ag
  if o = 0x38 then
    setBits (if mine then s.reg (R.TPP_CTL_RSP0 n) else 0) 30 30 (b2n (s.flag (banked (R.TPP_CTL_RSP0 n) (s.lndBank ag)) 30))
  else if mine then s.reg (R.TPP_CTL_RSP1 n) else 0

/-- Port and landing registers (R101). -/
def State.viewPort (s : State) (ag : Agent) (off : Nat) : RegRead :=
  let n := (off - 0x400000) / 0x10000
  let o := off % 0x10000
  if off < 0x480000 then
    if o = 0 ∧ !s.p3UntilLock ag then .foreign none 0
    else if o = 0x30 ∨ o = 0x34 then .value (s.reg (banked off (s.lndBank ag)))
    else if o = 0x38 ∨ o = 0x3C then .value (s.ctlView ag n o)
    else .value (s.live off).2
  else if off = R.LND_CTRL ∧ !s.p3UntilLock ag then .foreign none 0
  else if R.LND_CTX_WORD 0 ≤ off ∧ off < R.LND_CTX_WORD 16 then .value (s.reg (banked off (s.lndBank ag)))
  else if off = R.LND_CTX_STATUS then .value (setBits (s.reg off) 0 0 (b2n (s.cmdBusy off)))
  else .value (s.reg off)

/-- Mailbox and lock registers (R470, R473, R479, R483, R486). -/
def State.viewMbx (s : State) (ag : Agent) (off : Nat) : State × RegRead :=
  if off = R.MBX_STAGE 0 then (s, .value 0)
  else if off < R.MBX_SEND then (s, .value (match senderBank ag with | some b => s.reg (banked off b) | none => 0))
  else if off = R.MBX_SEND_STATUS then (s, .value (match senderBank ag with | some b => s.reg (banked off b) | none => 0))
  else if R.MBX_MSG 0 0 ≤ off ∧ off < R.MBX_MSG 64 0 then
    let m := (off - R.MBX_MSG 0 0) / 0x80
    let o := off % 0x80
    if o = 0x4C then (s, .value (s.reg off))
    else if !s.ofPart ag (s.mbxOwner m) then (s, .foreign (some (s.mbxOwner m)) 0)
    else if o < 0x40 then (s, .value (wd (s.mailbox m).window (o / 4)))
    else (s, .value (s.live off).2)
  else if R.LCK_PEEK 0 ≤ off ∧ off < R.LCK_PEEK 64 then
    let n := (off - R.LCK_PEEK 0) / 4
    if !s.ofPart ag (s.lockPart n) then (s, .foreign (some (s.lockPart n)) 0xFF)
    else match s.host.lockOwner.getD n none with
      | some o => (s, .value (lockView (some o) o))
      | none =>
        let (k, s) := s.draw
        (s, .value (Config.freeWord k))
  else (s, .value (s.reg off))

/-- A read without effect of its own. (DESIGN CHOICE, log 77) -/
def State.regView (s : State) (ag : Agent) (off : Nat) : State × RegRead :=
  if 0x400000 ≤ off ∧ off < 0x500000 then (s, s.viewPort ag off)
  else if 0x1000000 ≤ off ∧ off < 0x1100000 then s.viewMbx ag off
  else
    let (s, v) := s.live off
    (s, .value v)

/-- The power domain whose blocks hold the register (R24, R578). (DEDUCED, log 18) -/
def regDomain (off : Nat) : Nat :=
  if 0x500000 ≤ off ∧ off < 0x800000 then 1 else if 0xA00000 ≤ off ∧ off < 0xC00000 then 2
  else if 0xC00000 ≤ off ∧ off < 0xD00000 then 3 else if 0xD00000 ≤ off ∧ off < 0xE00000 then 4 else 9

/-- A register read by agent `ag` (R13, R14, R17, R29): the state after it and the value. (DEDUCED, log 14, DEDUCED, log 18) -/
def State.busRead (s : State) (ag : Agent) (off : Nat) : State × Word :=
  if (regRow off).isNone && (capWord off).isNone then (s, 0)
  else
    let s := s.wakeDomain (regDomain off)
    let (s, r) := s.regView ag off
    match r with
    | .foreign (some p) v => (s.refuse ag p, v)
    | .foreign none v => (s.refuseSys ag, v)
    | .value v =>
      let id := agentId ag
      let blk := blockOf off
      if isPairLow off then
        let (s, h) := s.live (off + 4)
        ({ s with latches := ⟨id, blk, off + 4, h⟩ :: s.latches.filter (fun l => !(l.agent == id && l.block == blk)) }, v)
      else
        match s.latches.find? (fun l => l.agent == id && l.block == blk && l.pair == off) with
        | some l => (s, l.high)
        | none => (s, v)

/-- A read of BAR 0 with the effect of RL registers (R11, R13); the value is the answer. -/
def busReadOp (ag : Agent) (off : Nat) (s : State) : State :=
  if R.HTS_PS_POST_TRY 0 ≤ off ∧ off < R.HTS_PS_POST_TRY 8 ∧ off % 0x40 = 0x30 then postTryOp ag ((off - R.HTS_PS_POST_TRY 0) / 0x40) s
  else if R.HTS_PS_EVENT_TRY 0 ≤ off ∧ off < R.HTS_PS_EVENT_TRY 8 ∧ off % 0x40 = 0x34 then
    eventTryOp ag ((off - R.HTS_PS_EVENT_TRY 0) / 0x40) s
  else if R.HTS_TAKE 0 ≤ off ∧ off < R.HTS_TAKE 8 ∧ off % 0x40 = 4 then takeOp ag ((off - R.HTS_TAKE 0) / 0x40) s
  else if R.MBX_MSG 0 0 ≤ off ∧ off < R.MBX_MSG 64 0 ∧ off % 0x80 = 0 then mbxLatchOp ag ((off - R.MBX_MSG 0 0) / 0x80) s
  else if R.LCK 0 ≤ off ∧ off < R.LCK 64 ∧ off % 4 = 0 then lockReadOp ag ((off - R.LCK 0) / 4) s
  else
    let (s, v) := s.busRead ag off
    s.answer (.data v)

end Sys2Proof.Machine
end

