-- ==== Sys2Proof/Machine/Bus.lean ====
section
/-! DEFINITION. Accesses of registers: writes by access code and by the permissions of each block (00_scope.md R11, R14, R15; the
register sections of every chapter), reads of register pairs (R17), and inbound PCI Express accesses (R499, R618). -/

namespace Sys2Proof.Machine

/-! ### Fields -/

/-- The register at `tgt`, a copy of the one at `off`, takes `v` in the RW bits, in the bits that are RW until the lock where `lk` says that
the writer may write them, and loses its W1C bits that `v` holds (R11, R15). -/
def State.fieldWriteAt (s : State) (off tgt : Nat) (v : Word) (lk : Bool) : State :=
  match regRow off with
  | none => s
  | some r =>
    let m := BitVec.ofNat 32 (if lk && !s.locked then r.rw ||| r.lk else r.rw)
    s.setReg tgt (((s.reg tgt &&& ~~~m) ||| (v &&& m)) &&& ~~~(v &&& BitVec.ofNat 32 r.w1c))

/-- The same in place. (DEDUCED, log 16) -/
def State.fieldWrite (s : State) (off : Nat) (v : Word) (lk : Bool) : State := s.fieldWriteAt off off v lk

/-- The bits of a write that differ from what the system fields of the register hold (the fields that are RW until the lock). (DEDUCED, log 16) -/
def State.sysDiffers (s : State) (off : Nat) (v : Word) : Bool :=
  match regRow off with
  | none => false
  | some r => (s.reg off ^^^ v) &&& BitVec.ofNat 32 r.lk != 0

/-- A register whose RW fields the writer may write, and whose fields RW until the lock are the SMC's and the island's (R231): an agent that
writes another value to those is reported, and they keep theirs. (DEDUCED, log 16) -/
def State.mixedWrite (s : State) (ag : Agent) (off : Nat) (v : Word) : State :=
  let s := if s.sysDiffers off v && !isFull ag then s.refuseSys ag else s
  s.fieldWrite off v (isFull ag)

/-- A write that the SMC and the island alone may make. (DEDUCED, log 16) -/
def State.fullWrite (s : State) (ag : Agent) (f : State → State) : State := if isFull ag then f s else s.refuseSys ag

/-- A write that agents of partition `p`, the SMC and the island may make. (DEDUCED, log 16) -/
def State.partWrite (s : State) (ag : Agent) (p : Nat) (f : State → State) : State := if s.ofPart ag p then f s else s.refuse ag p

/-- `f` where `b` holds. -/
def whenB (b : Bool) (f : State → State) (s : State) : State := if b then f s else s

/-! ### SMC_ and PMG_ -/

/-- SMC_TIME_CTRL (R45): a newly selected source has from now on 3 s for its first update. -/
def timeCtrlWrite (v : Word) (s : State) : State :=
  let t := s.fieldWrite R.SMC_TIME_CTRL v false
  if bits v 1 0 = s.fld R.SMC_TIME_CTRL 1 0 then t else { t with tm := { t.tm with lastUpdate := t.now } }

/-- Source 43 pends while STEPPED or LOST is set (R469). -/
def timeStatusWrite (v : Word) (s : State) : State :=
  let s := s.fieldWrite R.SMC_TIME_STATUS v false
  if s.flag R.SMC_TIME_STATUS 2 || s.flag R.SMC_TIME_STATUS 1 then s else s.irqDrop 43

def writeSmc (ag : Agent) (off : Nat) (v : Word) (s : State) : State :=
  if R.SMC_GPIO_CFG 0 ≤ off ∧ off < R.SMC_GPIO_CFG 16 then gpioCfgOp ag ((off - R.SMC_GPIO_CFG 0) / 4) v s
  else if off = R.SMC_TIME_CTRL then timeCtrlWrite v s
  else if off = R.SMC_TIME_STATUS then timeStatusWrite v s
  else s

/-- R598, R599. -/
def writePmg (ag : Agent) (off : Nat) (v : Word) (s : State) : State :=
  if off = R.PMG_CTRL then (if bit v 0 then pmgClearOp ag s else s.pmgWrite ag true id)
  else if off = R.PMG_BUDGET_LIMIT then budgetLimitOp ag v s
  else if off = R.PMG_BUDGET_MAX then budgetMaxOp ag v s
  else if off = R.PMG_P0_RESERVE then p0ReserveOp ag v s
  else if off = R.PMG_THERM_CFG then thermCfgOp ag v s
  else s.pmgWrite ag false (fun s => s.fieldWrite off v true)

/-! ### SAF_ (R548, R549) -/

/-- SAF_NOTICE_PEND: source 25 pends while a notice does (R541). -/
def noticeClear (v : Word) (s : State) : State :=
  let s := s.fieldWrite R.SAF_NOTICE_PEND v false
  if s.reg R.SAF_NOTICE_PEND = 0 then s.irqDrop 25 else s

/-- A value that its register ignores (R549). -/
def safIgnores (off : Nat) (v : Word) : Bool :=
  if R.SAF_TP_CFG 0 ≤ off ∧ off < R.SAF_TP_CFG 16 ∧ off % 16 = 0 then bits v 23 16 == 0 || decide (bits v 23 16 < bits v 15 8)
  else if off = R.SAF_PROOF_CFG then decide (bits v 9 0 < 10) || decide (1000 < bits v 9 0)
  else if off = R.SAF_PROOF_LEN then bits v 16 0 == 0
  else if off = R.SAF_HB_CFG then decide (100000 < bits v 16 0)
  else false

def writeSaf (ag : Agent) (off : Nat) (v : Word) (s : State) : State :=
  if s.isSafe then s
  else if off = R.SAF_CTRL then
    if bits v 2 0 = 0 then s.safWrite ag id
    else whenB (bit v 2) (safClearOp ag) (whenB (bit v 1) (armOp ag) (whenB (bit v 0) (lockReqOp ag) s))
  else if off = R.SAF_HEARTBEAT then safHeartbeatOp ag s
  else if off = R.SAF_FORCE then (if bit v 31 then safForceOp ag s else s.safWrite ag id)
  else if off = R.SAF_CAUSE_CLEAR then (if bit v 31 then causeClearOp ag s else s.safWrite ag id)
  else if off = R.SAF_NOTICE_PEND then s.safWrite ag (noticeClear v)
  else if off = R.SAF_REACT then s.safWrite ag (fun s => s.mixedWrite ag off v)
  else if safIgnores off v then s.fullWrite ag id
  else s.fullWrite ag (fun s => s.fieldWrite off v true)

/-! ### TPP_ and LND_ (R96 to R101) -/

/-- TPP_CTRL: the fields first, then RETRAIN and CLEAR_COUNTS. -/
def portCtrlWrite (ag : Agent) (n : Nat) (v : Word) (s : State) : State :=
  if !s.p3UntilLock ag then s.refuseSys ag
  else
    let s := if bit v 0 then portEnableOp ag n s else if s.flag (R.TPP_CTRL n) 0 then portDisableOp ag n s else s
    let s := ctlEnableOp ag n (bit v 3) s
    whenB (bit v 1) (tppClearOp ag n) (whenB (bit v 2) (tppRetrainOp ag n) s)

/-- TPP_CTL_CMD0 and TPP_CTL_CMD1 (R101): for the stream that STREAM_ID names; else REFUSED of the writer's partition. -/
def ctlCmdWrite (ag : Agent) (n : Nat) (cmd0 : Bool) (v : Word) (s : State) : State :=
  let b := s.lndBank ag
  let st := bits (if cmd0 then v else s.reg (banked (R.TPP_CTL_CMD0 n) b)) 25 16
  let owner := s.streamOwner (s.stream st)
  if !(s.ofPart ag owner || s.p3UntilLock ag) then (s.refuse ag owner).setFlag (banked (R.TPP_CTL_RSP0 n) b) 30 true
  else if cmd0 then
    let s := s.fieldWriteAt (R.TPP_CTL_CMD0 n) (banked (R.TPP_CTL_CMD0 n) b) v false
    whenB (bit v 31) (tppSendOp ag n) s
  else s.setReg (banked (R.TPP_CTL_CMD1 n) b) v

/-- TPP_CTL_RSP0: VALID by those who read it, REFUSED of the writer's own partition. -/
def ctlRspWrite (ag : Agent) (n : Nat) (v : Word) (s : State) : State :=
  let b := s.lndBank ag
  let mine := match (s.port n).directStream with
    | some st => s.ofPart ag (s.streamOwner (s.stream st))
    | none => isFull ag
  let s := if bit v 30 then s.setFlag (banked (R.TPP_CTL_RSP0 n) b) 30 false else s
  if bit v 31 && mine then s.setFlag (R.TPP_CTL_RSP0 n) 31 false else s

def writePort (ag : Agent) (off : Nat) (v : Word) (s : State) : State :=
  let n := (off - 0x400000) / 0x10000
  let o := off % 0x10000
  if off < 0x480000 then
    if o = 0 then portCtrlWrite ag n v s
    else if o = 0x30 then ctlCmdWrite ag n true v s
    else if o = 0x34 then ctlCmdWrite ag n false v s
    else if o = 0x38 then ctlRspWrite ag n v s
    else s.fullWrite ag (fun s => s.fieldWrite off v true)
  else if off = R.LND_CTRL then
    if !s.p3UntilLock ag then s.refuseSys ag else whenB (bit v 1) (lndClearOp ag) (landingEnableOp ag (bit v 0) s)
  else if off = R.LND_CTX_CMD then
    let st := bits v 9 0
    if s.cmdBusy R.LND_CTX_STATUS then s
    else whenB (bit v 30) (lndCtxReadGo ag st) (whenB (bit v 31) (lndCtxWriteGo ag st) (s.setFld R.LND_CTX_CMD 9 0 st))
  else if off = R.LND_RELEASE then
    let st := bits v 25 16
    if bit v 31 then lndReleaseOp ag st (bits v 2 0) s
    else s.partWrite ag (s.streamOwner (s.stream st)) (fun s => s.fieldWrite off v false)
  else if R.LND_CTX_WORD 0 ≤ off ∧ off < R.LND_CTX_WORD 8 then s.setReg (banked off (s.lndBank ag)) v
  else if R.LND_CTX_WORD 8 ≤ off ∧ off < R.LND_CTX_WORD 16 then s
  else s.fullWrite ag id

/-! ### Engines (R144 to R147, R260, R261, R328, R329, R374 to R376) -/

/-- A control register of an engine with ENABLE in bit 0, ABORT in bit 1 and CLEAR_COUNTS in bit 2, each judged by its own rule (R261). -/
def ctrlWrite (ctrl : Nat) (v : Word) (enable : Bool → State → State) (abort clear : State → State) (s : State) : State :=
  let s := if bit v 0 = s.flag ctrl 0 then s else enable (bit v 0) s
  whenB (bit v 2) clear (whenB (bit v 1) abort s)

def writeIsp (ag : Agent) (off : Nat) (v : Word) (s : State) : State :=
  if off = R.ISP_CTX_CMD then ctxCmdOp ag v s
  else if R.ISP_SR_CTRL 0 ≤ off ∧ off < R.ISP_SR_CTRL 8 ∧ off % 0x40 = 0 ∧ bit v 31 then postOp ag ((off - R.ISP_SR_CTRL 0) / 0x40) v s
  else if off % 0x100000 = 0 then
    let n := (off - 0x500000) / 0x100000
    ctrlWrite off v (fun on => ispEnableOp ag n on) (ispAbortOp ag n) (ispClearOp ag n) s
  else s.fieldWrite off v false

def writePipe (ag : Agent) (off : Nat) (v : Word) (s : State) : State :=
  let e := (off - 0xA00000) / 0x10000
  if off % 0x10000 = 0 then ctrlWrite off v (fun on => engineEnableOp ag e on) (engineAbortOp ag e) (engineClearOp ag e) s
  else if off = R.FTE_PT_CMD then pairTableLoadOp ag v s
  else if R.FTE_TS_CFG 0 ≤ off ∧ off < R.FTE_TS_CFG 16 then
    let k := (off - R.FTE_TS_CFG 0) / 8
    if off % 8 = 4 then trackSetOp ag k v s
    else
      let own := s.fld (R.FTE_TS_CFG k) 31 30
      s.partWrite ag own (fun s =>
        if s.locked then s
        else
          let s := s.setFlag (R.FTE_TS_CFG k) 0 (bit v 0)
          if bits v 31 30 = own then s else s.systemWrite ag (fun s => s.setFld (R.FTE_TS_CFG k) 31 30 (bits v 31 30)))
  else s.fieldWrite off v false

def writeNc (ag : Agent) (off : Nat) (v : Word) (s : State) : State :=
  let c := (off - 0xC00000) / 0x40000
  let o := off % 0x40000
  if o = 0 then ctrlWrite off v (fun on => engineEnableOp ag (8 + c) on) (engineAbortOp ag (8 + c)) (engineClearOp ag (8 + c)) s
  else if 0x40 ≤ o ∧ o < 0x80 then ncQuotaOp ag c ((o - 0x40) / 0x10) (o % 0x10 / 4) v s
  else if R.NC_SCRATCH_QUOTA 0 ≤ off ∧ off < R.NC_SCRATCH_QUOTA 4 then ncQuotaOp ag 0 ((off - R.NC_SCRATCH_QUOTA 0) / 4) 3 v s
  else if R.NC_STREAM_RATE 0 ≤ off ∧ off < R.NC_STREAM_RATE 4 then
    s.partWrite ag ((off - R.NC_STREAM_RATE 0) / 4) (fun s => s.fieldWrite off v true)
  else if R.NC_SCRATCH_BASE 0 ≤ off ∧ off < R.NC_SCRATCH_BASE 4 then
    s.partWrite ag ((off - R.NC_SCRATCH_BASE 0) / 4) (fun s => s.fieldWrite off v true)
  else s

/-! ### FGS_, HTS_ and TIM_ (R194, R195, R227 to R231) -/

def writeFgs (ag : Agent) (off : Nat) (v : Word) (s : State) : State :=
  if off = R.FGS_CTRL then whenB (bit v 1) fgsClearOp (fgsEnableOp (bit v 0) s)
  else if off = R.FGS_GRAPH_CMD then graphCmdOp ag v s
  else if off = R.FGS_ABORT then (if bit v 31 then fgsAbortOp ag v s else s.fieldWrite off v false)
  else if R.FGS_CQ_BASE_LO 0 ≤ off ∧ off < R.FGS_CQ_BASE_LO 4 then
    let p := (off - R.FGS_CQ_BASE_LO 0) / 0x20
    let k := off % 0x20 / 4
    if k < 4 then fgsCqWriteOp ag p k v s
    else if !(ag == .smc || (!isFull ag && s.partOf ag == p)) then s.refuse ag p
    else s.fieldWrite off v false
  else s.fieldWrite off v false

/-- HTS_HC_CFG_n (R231): MODE is the system's, the other fields the core's home partition's. -/
def hcCfgWrite (ag : Agent) (n : Nat) (v : Word) (s : State) : State :=
  s.partWrite ag (s.homeOf n) (fun s => (s.mixedWrite ag (R.HTS_HC_CFG n) v).checkPreempts)

/-- A write of TIM_PERIOD_n or TIM_PHASE_n: an enabled timer that could not expire is armed by it (R212). (DEDUCED, log 39) -/
def timerParamWrite (off n : Nat) (v : Word) (s : State) : State :=
  let s := s.setReg off v
  if (s.timer n).due.isNone && s.flag (R.TIM_CTRL n) 0 then s.timerArm n s.nowUs else s

def writeTim (ag : Agent) (off : Nat) (v : Word) (s : State) : State :=
  let n := (off - 0x903000) / 0x20
  let o := off % 0x20
  if o = 0 then timerCtrlOp ag n v s
  else s.partWrite ag (s.fld (R.TIM_CTRL n) 31 30) (fun s => if o = 4 ∨ o = 8 then timerParamWrite off n v s else s.fieldWrite off v false)

/-- Post sets and host-core registers. (DEDUCED, log 49) -/
def writeSets (ag : Agent) (off : Nat) (v : Word) (s : State) : State :=
  if off < 0x900400 then
    let h := (off - 0x900100) / 0x40
    if off % 0x40 = 0x3C then s.systemWrite ag (fun s => s.fieldWrite off v true)
    else s.partWrite ag (s.setPart h) (fun s => s.fieldWrite off v false)
  else
    let n := (off - 0x900400) / 0x40
    match off % 0x40 with
    | 0 => hcCfgWrite ag n v s
    | 0x1C => htsDoneOp ag n v s
    | 0x20 => htsYieldOp ag n v s
    | _ => s

def writeHts (ag : Agent) (off : Nat) (v : Word) (s : State) : State :=
  if off = R.HTS_CTRL then whenB (bit v 1) (fun s => s.zeroRegs htsCounters) (s.setFlag R.HTS_CTRL 0 (bit v 0))
  else if off = R.HTS_TICK then htsTickOp v s
  else if off = R.HTS_MAJOR_CYCLE then majorCycleOp ag v s
  else if R.HTS_QUOTA 0 ≤ off ∧ off < R.HTS_QUOTA 4 then htsQuotaOp ag ((off - R.HTS_QUOTA 0) / 4) v s
  else if off = R.HTS_ABORT_CTRL then htsAbortOp ag v s
  else if off = R.HTS_FREE then htsFreeOp ag v s
  else if 0x900100 ≤ off ∧ off < 0x900600 then writeSets ag off v s
  else if R.HTS_GROUP_FLAGS 0 ≤ off ∧ off < R.HTS_GROUP_FLAGS 256 then groupClearOp ag ((off - R.HTS_GROUP_FLAGS 0) / 4) v s
  else if R.HTS_GROUP_PART 0 ≤ off ∧ off < 0x903000 then s.systemWrite ag (fun s => s.fieldWrite off v true)
  else if 0x903000 ≤ off then writeTim ag off v s
  else s.fieldWrite off v false

/-! ### TDU_, SPM_ and DMA_ (R405 to R407, R431, R432, R456 to R458) -/

def writeTdu (ag : Agent) (off : Nat) (v : Word) (s : State) : State :=
  if off = R.TDU_REG_CMD then
    if s.cmdBusy R.TDU_REG_STATUS then s
    else match bits v 31 29 with
    | 4 => regionCreateOp ag (s.fieldWrite off v false)
    | 2 => regionDestroyOp ag (bits v 11 0) (s.fieldWrite off v false)
    | 1 => regionReadOp ag (bits v 11 0) (s.fieldWrite off v false)
    | 0 => s.fieldWrite off v false
    | _ => s
  else if 0xE01000 ≤ off then s.fieldWrite off v false
  else
    let p := (off - 0xE00000) / 0x100
    if off % 0x100 = 0 then
      match bits v 31 28 with
      | 8 => tduCreateOp ag p s
      | 4 => tduDestroyOp ag p s
      | 2 => tduReadOp ag p s
      | 1 => tduClearOp ag p s
      | _ => s.tduFor ag p id
    else s.tduFor ag p (fun s => s.fieldWrite off v false)

/-- Source 44 pends while an error log holds an entry (R469, R513). (DEDUCED, log 54) -/
def State.logIrq (s : State) : State :=
  if s.flag R.SPM_ERR_LOG 31 || s.flag R.DMC_ERR_LOG 31 || s.flag R.DMC_FW_LOG 31 then s else s.irqDrop 44

/-- A W1C bit that P3 agents clear too, serving source 44 (R432, R513). -/
def logWrite (ag : Agent) (off : Nat) (v : Word) (s : State) : State :=
  if isFull ag || s.partOf ag == 3 then (s.fieldWrite off v false).logIrq else s.refuseSys ag

def writeSpm (ag : Agent) (off : Nat) (v : Word) (s : State) : State :=
  if off = R.SPM_CTRL then s.fullWrite ag (fun s => whenB (bit v 1) (spmClearOp ag) (s.fieldWrite off v false))
  else if off = R.SPM_OWN_CMD then ownChangeOp ag v s
  else if off = R.SPM_ERR_LOG then logWrite ag off v s
  else s.fullWrite ag id

/-- The registers of a channel (R457, R458). -/
def writeChan (ag : Agent) (e c : Nat) (off : Nat) (v : Word) (s : State) : State :=
  match off % 0x40 with
  | 0x00 => dmaCfgOp ag e c v s
  | 0x04 =>
    match bits v 31 28 with
    | 8 => dmaStartOp ag e c s
    | 4 => dmaPauseOp ag e c s
    | 2 => dmaResumeOp ag e c s
    | 1 => dmaAbortOp ag e c s
    | _ => s.dmaWriter ag e id
  | 0x08 => s.dmaWriter ag e (fun s => s.fieldWrite off v false)
  | _ => s.dmaWriter ag e (fun s => if s.chState e c = Ch.disabled then s.fieldWrite off v false else s)

def writeDma (ag : Agent) (off : Nat) (v : Word) (s : State) : State :=
  let e := (off - 0xF00000) / 0x40000
  let o := off % 0x40000
  if 0x1000 ≤ o then writeChan ag e ((o - 0x1000) / 0x40) off v s
  else if o = 0 then
    s.dmaWriter ag e (fun s =>
      let s := if bit v 0 = s.flag off 0 then s else dmaEnableOp ag e (bit v 0) s
      whenB (bit v 2) (dmaClearOp ag e) (whenB (bit v 1) (dmaRestartOp ag e) s))
  else if 0x10 ≤ o ∧ o < 0x20 then dmaCqWriteOp ag e ((o - 0x10) / 4) v s
  else if o = 0x24 then s.dmaWriter ag e (fun s => (s.fieldWrite off v false).dmaCqRetry e ((s.eng e).cqWait.length))
  else s.dmaWriter ag e (fun s => s.fieldWrite off v false)

/-! ### MBX_ and LCK_ (R470 to R487) -/

/-- The registers of mailbox `m` (R486). (DEDUCED, log 53) -/
def writeMbox (ag : Agent) (off : Nat) (v : Word) (s : State) : State :=
  let m := (off - R.MBX_MSG 0 0) / 0x80
  match off % 0x80 with
  | 0x48 => mbxReleaseOp ag m v s
  | 0x4C => s
  | _ => s.partWrite ag (s.mbxOwner m) (fun s => s.fieldWrite off v true)

/-- MBX_HC_PART (R461, R487): cores that the SMC holds in reset take their new home. (DEDUCED, log 19, DESIGN CHOICE, log 86) -/
def hcPartWrite (ag : Agent) (v : Word) (s : State) : State :=
  s.systemWrite ag (fun s =>
    let s := s.setReg R.MBX_HC_PART v
    if s.host.inReset then { s with host := { s.host with home := (List.range 8).map (fun n => bits v (2 * n + 1) (2 * n)) } } else s)

/-- MBX_HC_ERR_LO_n: source 45 pends while an error is logged (R468, R469). -/
def hcErrWrite (off : Nat) (v : Word) (s : State) : State :=
  let s := s.fieldWrite off v false
  if (List.range 8).any (fun n => s.flag (R.MBX_HC_ERR_LO n) 0) then s else s.irqDrop 45

def writeMbx (ag : Agent) (off : Nat) (v : Word) (s : State) : State :=
  if off = R.MBX_STAGE 0 then s
  else if off < R.MBX_SEND then (match senderBank ag with | some b => s.setReg (banked off b) v | none => s)
  else if off = R.MBX_SEND then mbxSendOp ag v s
  else if R.MBX_MSG 0 0 ≤ off ∧ off < R.MBX_MSG 64 0 then writeMbox ag off v s
  else if R.LCK 0 ≤ off ∧ off < R.LCK 64 then lockReleaseOp ag ((off - R.LCK 0) / 4) v s
  else if R.LCK_PART 0 ≤ off ∧ off < R.LCK_PART 4 then s.systemWrite ag (fun s => s.fieldWrite off v true)
  else if off = R.LCK_FORCE then lckForceOp ag v s
  else if off = R.MBX_HC_PART then hcPartWrite ag v s
  else if off = R.MBX_L3_WAYS_LO ∨ off = R.MBX_L3_WAYS_HI then s.systemWrite ag (fun s => s.fieldWrite off v true)
  else if R.MBX_HC_ERR_LO 0 ≤ off ∧ off < R.MBX_HC_ERR_LO 8 then hcErrWrite off v s
  else s

/-! ### PMC_, DMC_, PCI_ and SEC_ (R512, R513, R628, R629, R643, R644) -/

def writePmc (ag : Agent) (off : Nat) (v : Word) (s : State) : State :=
  s.pmcWrite ag (fun s =>
    if off = R.PMC_CTRL then
      let s := if bit v 1 = s.flag off 1 then s else s.pmcFreeze (bit v 1)
      whenB (bit v 3) State.pmcClearPeak (whenB (bit v 2) State.pmcClear (whenB (bit v 0) State.pmcSnapshot s))
    else if off = R.PMC_BW_WINDOW then bwWindowOp ag v s
    else if off = R.PMC_CT_CTRL then s.ctCtrl (bit v 0) (bit v 1)
    else if (off = R.PMC_CT_BASE_LO ∨ off = R.PMC_CT_BASE_HI ∨ off = R.PMC_CT_SIZE) ∧ s.flag R.PMC_CT_CTRL 0 then s
    else s.fieldWrite off v false)

/-- DMC_PANTRY_PRI_e, COPY and SIZE (R513): not while VALID; after the lock entries of P0 and P1 are the island's. -/
def pantryRangeWrite (ag : Agent) (off : Nat) (v : Word) (s : State) : State :=
  let c := R.DMC_PANTRY_CFG ((off - R.DMC_PANTRY_PRI 0) / 0x10)
  if !isFull ag || (s.locked && ag != .safety && decide (s.fld c 29 28 ≤ 1)) then s.refuseSys ag
  else if s.flag c 31 then s else s.fieldWrite off v false

def writeDmc (ag : Agent) (off : Nat) (v : Word) (s : State) : State :=
  if off = R.DMC_CTRL then s.fullWrite ag (fun s => whenB (bit v 1) (dmcClearOp ag) (s.fieldWrite off v false))
  else if off = R.DMC_SCRUB_CFG then dmcScrubCfgOp ag v s
  else if R.DMC_SHARE 0 ≤ off ∧ off < R.DMC_SHARE 4 then dmcShareOp ag ((off - R.DMC_SHARE 0) / 4) v s
  else if off = R.DMC_STATUS ∨ off = R.DMC_ERR_LOG ∨ off = R.DMC_FW_LOG then logWrite ag off v s
  else if R.DMC_FW_BASE 0 ≤ off ∧ off < R.DMC_FW_BASE 64 then firewallOp ag ((off - R.DMC_FW_BASE 0) / 0x10) (off % 0x10 / 4) v s
  else if R.DMC_PANTRY_PRI 0 ≤ off ∧ off < R.DMC_PANTRY_PRI 32 then
    if off % 0x10 = 0xC then pantryCfgOp ag ((off - R.DMC_PANTRY_PRI 0) / 0x10) v s else pantryRangeWrite ag off v s
  else s.fullWrite ag id

/-- Bits [11:0] of the window bases are 0 (R628). -/
def writePci (ag : Agent) (off : Nat) (v : Word) (s : State) : State :=
  if off = R.SEC_BOOT_CTRL then (if bit v 0 then secConfirmOp ag s else s)
  else if R.SEC_STATUS ≤ off then s
  else if (pciQueueReg off).isSome then pciQueueOp ag off v s
  else if off = R.PCI_BAR2_DRAM_BASE then
    s.pciWrite ag (fun s => if bits v 4 0 % 2 ^ s.bar2Log = 0 then s.fieldWrite off v false else s)
  else if off = R.PCI_OBH_BASE_LO ∨ off = R.PCI_OBP_BASE_LO then s.pciWrite ag (fun s => s.setReg off (v &&& 0xFFFFF000))
  else s.pciWrite ag (fun s => s.fieldWrite off v false)

/-! ### A write of BAR 0 -/

/-- The write reaches the register's block. -/
def blockWrite (ag : Agent) (off : Nat) (v : Word) (s : State) : State :=
  match blockOf off with
  | 0 => writeSmc ag off v s
  | 1 => writePmg ag off v s
  | 2 => writeSaf ag off v s
  | 3 => writePort ag off v s
  | 4 => writePort ag off v s
  | 5 => writeIsp ag off v s
  | 6 => writeFgs ag off v s
  | 7 => writeHts ag off v s
  | 8 => writePipe ag off v s
  | 9 => writeNc ag off v s
  | 10 => writeTdu ag off v s
  | 11 => writeSpm ag off v s
  | 12 => writeDma ag off v s
  | 13 => writeMbx ag off v s
  | 14 => writePmc ag off v s
  | 15 => writeDmc ag off v s
  | _ => writePci ag off v s

/-- A register write by agent `ag` (R11, R14, R15, R578): an offset without a register ignores it. (DEDUCED, log 18) -/
def busWriteOp (ag : Agent) (off : Nat) (v : Word) (s : State) : State :=
  if (regRow off).isNone then s else blockWrite ag off v (s.wakeDomain (regDomain off))

/-! ### Accesses from outside and by host cores -/

/-- APLIC target registers (R463, R469; the place of the registers is the RISC-V APLIC's): the source whose target an address names. (DESIGN CHOICE, log 12) -/
def aplicSource (a : Nat) : Option Nat :=
  if 0xC003004 ≤ a ∧ a < 0xC003100 ∧ a % 4 = 0 then some ((a - 0xC003004) / 4 + 1)
  else if 0xC103004 ≤ a ∧ a < 0xC103100 ∧ a % 4 = 0 then some ((a - 0xC103004) / 4 + 1) else none

/-- The partition whose cores may be the source's target (R469); none: its target is fixed, or nothing raises it. -/
def State.sourceOwner (s : State) (src : Nat) : Option Nat :=
  if 17 ≤ src ∧ src ≤ 24 then some ((src - 17) % 4)
  else if src = 25 then some 0
  else if 26 ≤ src ∧ src ≤ 41 then some (s.fld (R.SMC_GPIO_CFG (src - 26)) 31 30)
  else if 42 ≤ src ∧ src ≤ 44 then some 3 else none

/-- A write of an APLIC target register (R469): a core of another partition is refused and reported. -/
def aplicWrite (ag : Agent) (src : Nat) (v : Word) (s : State) : State :=
  match s.sourceOwner src with
  | none => s
  | some p =>
    if bits v 31 18 < 8 ∧ s.homeOf (bits v 31 18) = p then
      { s with host := { s.host with aplicTarget := Store.put (fun _ => 0#32) src v s.host.aplicTarget } }
    else s.refuse ag p

/-- A natural 32-bit access. (DESIGN CHOICE, log 12) -/
def natural (off size : Nat) : Bool := decide (size = 4) && decide (off % 4 = 0)

/-- An inbound BAR 0 access of `size` bytes, a write of `v` or a read (R14, R601, R618); monitor 40 counts it (R635). (DESIGN CHOICE, log 12, DEDUCED, log 71) -/
def inboundBar0 (ag : Agent) (off size : Nat) (v : Option Word) (s : State) : State :=
  if !s.inboundOk || ag != .pcieHost && ag != .pciePeer then s
  else
    let s := s.bwCount 40 size
    let staged := decide (R.MBX_STAGE 1 ≤ off ∧ off ≤ R.MBX_SEND_STATUS)
    if !natural off size || decide (bankStride ≤ off) || (ag == .pciePeer && !staged) then s.answer .unsupportedRequest
    else
      let shown := decide (6 ≤ s.sec.step) || blockOf off == 0 || blockOf off == 16
      match v with
      | some v => (if shown then busWriteOp ag off v s else s).answer .nothing
      | none => if shown then busReadOp ag off s else s.answer (.data 0)

def execInboundBar0Access (ag : Agent) (off size : Nat) (v : Option Word) (s : State) : Host.Outcome State Fault Refusal :=
  awakeNext s (inboundBar0 ag off size v s)

/-- REGISTER_WRITE (R11, R14, R15, R464): any register write, by a host core at the register's offset or at an APLIC target, by the host or
a peer through BAR 0, or by another agent. A core held in reset writes nothing. (DESIGN CHOICE, log 12) -/
def registerWriteOp (ag : Agent) (off size : Nat) (v : Word) (s : State) : State :=
  match ag with
  | .pcieHost => inboundBar0 ag off size (some v) s
  | .pciePeer => inboundBar0 ag off size (some v) s
  | .hc _ =>
    if !s.awake || s.host.inReset then s
    else match aplicSource off with
      | some src => (aplicWrite ag src v s).answer .nothing
      | none =>
        if !natural off size ∨ bankStride ≤ off then s.answer .accessFault else (busWriteOp ag off v s).answer .nothing
  | _ =>
    if !s.awake then s
    else if !natural off size ∨ bankStride ≤ off then s.answer .unsupportedRequest else (busWriteOp ag off v s).answer .nothing

def execRegisterWrite (ag : Agent) (off size : Nat) (v : Word) (s : State) : Host.Outcome State Fault Refusal :=
  awakeNext s (registerWriteOp ag off size v s)

/-- A 64-bit load of a register pair (R17, R464): its low word and at once its high word. (DEDUCED, log 13) -/
def pairLoad (ag : Agent) (off : Nat) (s : State) : State :=
  let (s, lo) := s.busRead ag off
  let (s, hi) := s.busRead ag (off + 4)
  s.answer (.data64 lo hi)

/-- PAIR_LOW_WORD_READ (R14, R17, R464): a register read; the low word of a pair latches the high word for its reader. (DESIGN CHOICE, log 12, DEDUCED, log 13) -/
def registerReadOp (ag : Agent) (off size : Nat) (s : State) : State :=
  match ag with
  | .pcieHost => inboundBar0 ag off size none s
  | .pciePeer => inboundBar0 ag off size none s
  | .hc _ =>
    if !s.awake || s.host.inReset then s
    else if natural off size ∧ off < bankStride then busReadOp ag off s
    else if size = 8 ∧ off % 8 = 0 ∧ isPairLow off then pairLoad ag off s
    else s.answer .accessFault
  | _ =>
    if !s.awake then s
    else if natural off size ∧ off < bankStride then busReadOp ag off s else s.answer .unsupportedRequest

def execPairLowWordRead (ag : Agent) (off size : Nat) (s : State) : Host.Outcome State Fault Refusal := awakeNext s (registerReadOp ag off size s)

/-! ### BAR 2 (R498, R499, R618, R621) -/

/-- The DRAM address of offset `o` of BAR 2. (DEDUCED, log 57) -/
def State.bar2Addr (s : State) (o : Nat) : Nat := 2 ^ 30 * s.fld R.PCI_BAR2_DRAM_BASE 4 0 + o

/-- An inbound access of BAR 2: `data` written, or `n` bytes read. Its agent is PCIE_PEER when the Requester ID is that of a valid
PCI_PEER_RID_k. A poisoned write is dropped and counted; AER takes it as an uncorrectable error. A stopped controller holds the access (R511). (DEDUCED, log 55, DEDUCED, log 57) -/
def inboundBar2 (rid o n : Nat) (data : Option (List Byte)) (poison : Bool) (s : State) : State :=
  if !s.inboundOk || decide (2 ^ (s.bar2Log + 30) ≤ o) then s
  else
    let ag : Agent := if (List.range 8).any (fun k => s.flag (R.PCI_PEER_RID k) 16 && s.fld (R.PCI_PEER_RID k) 15 0 == rid) then .pciePeer else .pcieHost
    let len := match data with | some bs => bs.length | none => n
    let s := s.bwCount 40 len
    let a := s.bar2Addr o
    if dramEnd < a + len then s.answer .unsupportedRequest
    else if s.dramStopped then s
    else match data with
      | some bs =>
        if poison then (((s.bump R.PCI_POISON_CNT).count 1221 1).answer .dropped)
        else
          let (s, st) := s.dramWrite (s.whoOf ag) a bs
          s.answer (if st = St.done then .nothing else .dropped)
      | none =>
        let (s, st, bs) := s.dramRead (s.whoOf ag) a n
        s.answer (if st = St.done then .bytes bs else .completerAbort)

def execInboundBar2Access (rid : Fin 65536) (o n : Nat) (data : Option (List Byte)) (poison : Bool) (s : State) :
    Host.Outcome State Fault Refusal := awakeNext s (inboundBar2 rid o n data poison s)

end Sys2Proof.Machine
end

