-- ==== Sys2Proof/Machine/Boot.lean ====
section
/-! DEFINITION. Reset and boot, removal of the rails, and the rewrite of pantry ranges from the boot image (18_boot_security_pcie.md R600
to R613; 14_dram_integrity.md R492, R508; 15_functional_safety.md R547; 21_pins_electrical.md R654, R655). -/

namespace Sys2Proof.Machine

/-! ### Reset (R18, R547, R554, R654) -/

/-- What POR_N low leaves: the state after reset, but for what lies outside the reset: the queue, the flash and the fuses, the retention
memory on VDD_AON, the levels at the pins, the days the SMC keeps, and the model's own traces. (DESIGN CHOICE, log 66) -/
def State.underReset (s : State) : State :=
  { State.reset with
    pending := s.pending
    freeCtr := s.freeCtr
    reports := s.reports
    sec := { SecSt.reset with por := true, railsOff := s.sec.railsOff, flash := s.sec.flash, fuses := s.sec.fuses, erases := s.sec.erases }
    saf := { SafSt.reset with retention := s.saf.retention, bootSeq := s.saf.bootSeq }
    pci := { PciSt.reset with perst := s.pci.perst }
    gpio := { State.reset.gpio with ext := s.gpio.ext }
    age := { State.reset.age with days := s.age.days } }

def execPorAssert (s : State) : Host.Outcome State Fault Refusal := .next s.underReset

/-- POWER_RAIL_REMOVAL (R554, R654): in an ordinary power-down POR_N is low first; on a low SAFE_OFF_N it need not be. Nothing runs without
rails, and what was not in flash, fuses or retention memory is lost. (DESIGN CHOICE, log 66) -/
def railRemovalOp (s : State) : State :=
  if s.sec.por then { s.underReset with sec := { s.underReset.sec with railsOff := true } }
  else if !s.saf.offN then { s with sec := { s.sec with railsOff := true } }
  else s

def execPowerRailRemoval (s : State) : Host.Outcome State Fault Refusal := .next (railRemovalOp s)

/-- VDD_AON_LOSS (R547): every rail is gone, and with VDD_AON the retained record. -/
def aonLossOp (s : State) : State :=
  let t := s.underReset
  { t with saf := { t.saf with retention := [], bootSeq := 0 }, sec := { t.sec with railsOff := true } }

def execVddAonLoss (s : State) : Host.Outcome State Fault Refusal := .next (aonLossOp s)

/-! ### Step 1: the flash log and the derate step (R574, R597, R642) -/

/-- The words of the record at place `i` of the log area. -/
def State.logWords (s : State) (i : Nat) : List Word :=
  let bs := s.flashBytes (logBase + 512 * i) 512
  (List.range 128).map (wordAt bs)

/-- A record of the log: FORMAT 0x01 and its CRC (R642). -/
def logValid (ws : List Word) : Bool := decide (bits (wd ws 0) 23 16 = 1) && wd ws 127 == crc32c (wordBytes (ws.take 127))

/-- The places of the log that hold a programmed byte; an erased place holds no valid record. -/
def State.logPlaces (s : State) : List Nat :=
  ((s.sec.flash.filter (fun e => decide (logBase ≤ e.1) && decide (e.1 < logBase + logSize))).map (fun e => (e.1 - logBase) / 512)).eraseDups

/-- The place and words of the newest valid record that `p` holds of (R642). (DEDUCED, log 65) -/
def State.newestLog (s : State) (p : List Word → Bool) : Option (Nat × List Word) :=
  ((s.logPlaces.map (fun i => (i, s.logWords i))).filter (fun e => logValid e.2 && p e.2)).foldl
    (fun a e => match a with
      | none => some e
      | some b => if (wd b.2 1).toNat < (wd e.2 1).toNat then some e else some b) none

/-- The log goes on after its newest record. (DEDUCED, log 68) -/
def State.bootLog (s : State) : State :=
  match s.newestLog (fun _ => true) with
  | none => s
  | some (i, ws) =>
    { s with sec := { s.sec with logAddr := logBase + 512 * ((i + 1) % 65536), logSeq := (wd ws 1).toNat + 1 } }

/-- The PLL is set to the step of the last derate record (R574, R600). (DEDUCED, log 68) -/
def State.bootDerate (s : State) : State :=
  let step := match s.newestLog (fun ws => bits (wd ws 0) 31 24 == 2) with
    | some (_, ws) => min (wd ws 5).toNat 8
    | none => 0
  (List.range 10).foldl State.showMargin (s.setFld R.PMG_CLK_STATUS 3 0 step).showClocks

/-- A valid retained record is copied to SAF_LAST_CAUSE_w and to the flash log (R547). (DEDUCED, log 61) -/
def State.bootCause (s : State) : State :=
  let ws := s.saf.retention
  if bits (wd ws 0) 31 24 = 1 ∧ wd ws 7 = crc32c (wordBytes (ws.take 7)) then
    ((List.range 8).foldl (fun (s : State) w => s.setReg (R.SAF_LAST_CAUSE w) (wd ws w)) s).logRec 1 (ws.take 8)
  else s

/-! ### Steps 3 to 6: one slot -/

/-- One record of CONFIG (R609): a setting, or a register write with SMC authority; an ownership change it starts completes. -/
def State.configRecord (s : State) (off : Nat) (v : Word) : State :=
  if off = 0x03FFF000 then { s with sec := { s.sec with pmbus := some (bits v 6 0) } }
  else if off = 0x03FFF004 then { s with sec := { s.sec with smbus := some (bits v 6 0) } }
  else if off = 0x03FFF008 then { s with sec := { s.sec with fuseOps := bits v 2 0 } }
  else zeroFillOp (busWriteOp .smc off v s)

/-- The records of CONFIG in order, up to its end (R609). (DEDUCED, log 67) -/
def State.applyConfig (s : State) : List Word → State
  | off :: v :: t => if off = 0xFFFFFFFF then s else State.applyConfig (s.configRecord off.toNat v) t
  | _ => s

/-- The words of bytes. -/
def bytesWords (bs : List Byte) : List Word := (List.range (bs.length / 4)).map (wordAt bs)

/-- The model key from the entry of a KEYS section that names the device (R613). -/
def State.keyIn (s : State) (bs : List Byte) : Option (List Byte) :=
  let name := (hash32 s.sec.fuses.devicePub).take 16
  ((List.range (bs.length / 128)).find? (fun i => slice bs (128 * i) 16 == name)).map
    (fun i => fitBytes 16 (Config.sm2Decrypt s.sec.fuses.deviceKey (slice bs (128 * i + 16) 112)))

/-- One of the other sections at step 5: to its LOAD address with SMC authority, and a key from KEYS (R600, R608, R613). -/
def State.loadSection (s : State) (k : Nat) (e : List Word) : State :=
  let bs := s.secData k e
  let s := if secType e = 2 then s else (s.dramWrite ⟨0x3C, 3, 1⟩ (secLoad e) bs).1
  if secType e = 0x12 ∧ s.nc.key.isNone then { s with nc := { s.nc with key := s.keyIn bs } } else s

/-- Step 5 (R600): the other sections in table order; a hash that differs ends the boot of the slot. (DEDUCED, log 67) -/
def State.loadSections (s : State) (k : Nat) : List (List Word) → State × Bool
  | [] => (s, true)
  | e :: t => if s.secOk k e then State.loadSections (s.loadSection k e) k t else (s, false)

/-- Step 6 (R427, R487, R600): scratchpads zero, the island and the host cores start. -/
def State.bootStart (s : State) (k : Nat) : State :=
  let h := s.imgHead k
  let s := (s.setFlag R.SEC_STATUS 0 (k == 1)).setFld R.SEC_STATUS 19 14 (imgRollback h)
  let s := (s.setReg R.SEC_IMAGE_VERSION (imgVersion h)).setFlag R.SEC_STATUS 5 s.nc.key.isNone
  let v := s.reg R.MBX_HC_PART
  { s with
    sec := { s.sec with step := 6, slot := some k }
    host := { s.host with inReset := false, home := (List.range 8).map (fun n => bits v (2 * n + 1) (2 * n)) } }

/-- The sections of a type. -/
def ofType (t : Nat) (es : List (List Word)) : List (List Word) := es.filter (fun e => secType e == t)

/-- Slot `k` verifies and its sections load, or it does not boot (R600, R605, R609): the state, and whether it booted. (DEDUCED, log 67) -/
def State.trySlot (s : State) (k : Nat) : State × Bool :=
  let es := s.imgEntries k
  if !s.slotVerifies k || !(ofType 1 es).all (s.secOk k) || !(ofType 0x10 es).all (s.secOk k) then (s, false)
  else
    let s := s.applyConfig ((ofType 0x10 es).flatMap (fun e => bytesWords (s.secData k e)))
    let (s, ok) := s.loadSections k (es.filter (fun e => secType e != 1 && secType e != 0x10))
    if ok then (s.bootStart k, true) else ({ s with nc := { s.nc with key := none } }, false)

/-! ### The order of the slots (R605, R606) -/

/-- The order in which the slots are tried: TRIAL, then CONFIRMED with the higher IMAGE_VERSION first, then any other but BAD. (DEDUCED, log 67) -/
def State.slotOrder (s : State) : List Nat :=
  let st (k : Nat) : Nat := (s.trailer k).1
  let conf := [0, 1].filter (fun k => st k == Slot.confirmed)
  let conf := if conf.length = 2 ∧ (imgVersion (s.imgHead 0)).toNat < (imgVersion (s.imgHead 1)).toNat then [1, 0] else conf
  [0, 1].filter (fun k => st k == Slot.trial) ++ conf ++ [0, 1].filter (fun k => st k == Slot.empty)

/-- RECOVERY: no slot boots, and the device stays in the ROM (R606). (DEDUCED, log 67) -/
def State.enterRecovery (s : State) : State :=
  State.setFlag { s with sec := { s.sec with step := 3, slot := none } } R.SEC_STATUS 2 true

/-- The slots in order: a TRIAL slot at TRIES = 3 is set to BAD and not tried, one below it gets its TRIES raised before it is loaded, and
a slot that does not boot is set to BAD (R605). (DEDUCED, log 67) -/
def State.trySlots (s : State) : List Nat → State
  | [] => s.enterRecovery
  | k :: t =>
    let (st, tries) := s.trailer k
    if st = Slot.trial ∧ tries = 3 then State.trySlots (s.setTrailer k Slot.bad tries) t
    else
      let s := if st = Slot.trial then s.setTrailer k Slot.trial (tries + 1) else s
      let r := s.trySlot k
      if r.2 then r.1 else State.trySlots (r.1.setTrailer k Slot.bad (r.1.trailer k).2) t

/-- An UNOWNED device boots without the lock (R609): its runtime is ready when its cores run. (DESIGN CHOICE, log 66) -/
def State.bootReady (s : State) : State :=
  if s.sec.step = 6 ∧ !s.sec.fuses.owned then State.setFlag { s with sec := { s.sec with step := 7 } } R.SEC_STATUS 3 true else s

/-- POR_RELEASE (R492, R547, R600, R655): the device leaves reset and boots. (DESIGN CHOICE, log 66) -/
def porReleaseOp (s : State) : State :=
  if s.sec.por || s.sec.step == 0 then
    let s : State := { s with sec := { s.sec with por := false, railsOff := false, step := 2 }, saf := { s.saf with bootSeq := s.saf.bootSeq + 1 } }
    let s := (s.bootLog.bootCause.bootDerate).setFlag R.DMC_STATUS 9 true
    (s.trySlots s.slotOrder).bootReady
  else s

def execPorRelease (s : State) : Host.Outcome State Fault Refusal := .next (porReleaseOp s)

/-! ### The rewrite of lost pantry ranges (R508) -/

/-- The section of the running image that entry `e` names, when it is what its table entry says. (DEDUCED, log 57) -/
def State.reloadBytes (s : State) (e : Nat) : Option (List Byte) :=
  match s.sec.slot with
  | none => none
  | some k =>
    match s.sectionOf k (s.fld (R.DMC_PANTRY_CFG e) 15 0) with
    | none => none
    | some x => if s.secOk k x then some (s.secData k x) else none

/-- PANTRY_RELOAD (R508): the whole blocks of the section are written to both ranges; without a good section the entry behaves as with
RELOAD = 0, and nothing is written. -/
def pantryReloadOp (e : Nat) (s : State) : State :=
  if s.dram.reload.contains e then
    let t : State := { s with dram := { s.dram with reload := s.dram.reload.filter (· != e) } }
    match s.reloadBytes e with
    | none => t
    | some bs =>
      let n := min (ceilDiv bs.length 64 * 64) (t.pantryLen e * 64)
      (t.dramWrite ⟨0x3C, 3, 1⟩ (t.pantryPri e * 64) (fitBytes n bs)).1
  else s

def execPantryReload (e : Fin 32) (s : State) : Host.Outcome State Fault Refusal := awakeNext s (pantryReloadOp e s)

end Sys2Proof.Machine
end

