-- ==== Sys2Proof/Machine/Dispatch.lean ====
section
/-! DEFINITION. One arm per command: each calls its meaning (block rule: exec has no effect on the queue). -/

namespace Sys2Proof.Machine

def exec (i : Instr) (s : State) : Host.Outcome State Fault Refusal :=
  match i with
  | .registerWrite ag off size v => Sys2Proof.Machine.execRegisterWrite ag off size v s
  | .pairLowWordRead ag off size => Sys2Proof.Machine.execPairLowWordRead ag off size s
  | .porAssert => Sys2Proof.Machine.execPorAssert s
  | .porRelease => Sys2Proof.Machine.execPorRelease s
  | .perstAssert => Sys2Proof.Machine.execPerstAssert s
  | .configRequest c => Sys2Proof.Machine.execConfigRequest c s
  | .timeCorrection src delta => Sys2Proof.Machine.execTimeCorrection src delta s
  | .timeSourceLost => Sys2Proof.Machine.execTimeSourceLost s
  | .controlBlockFault ag code => Sys2Proof.Machine.execControlBlockFault ag code s
  | .portEnable ag n => Sys2Proof.Machine.execPortEnable ag n s
  | .portDisable ag n => Sys2Proof.Machine.execPortDisable ag n s
  | .tppRetrain ag n => Sys2Proof.Machine.execTppRetrain ag n s
  | .tppClearCounts ag n => Sys2Proof.Machine.execTppClearCounts ag n s
  | .ctlEnable ag n on => Sys2Proof.Machine.execCtlEnable ag n on s
  | .trainingComplete n => Sys2Proof.Machine.execTrainingComplete n s
  | .clockLost n cut => Sys2Proof.Machine.execClockLost n cut s
  | .clockReturn n => Sys2Proof.Machine.execClockReturn n s
  | .deskewRecalibration n => Sys2Proof.Machine.execDeskewRecalibration n s
  | .deskewStale n => Sys2Proof.Machine.execDeskewStale n s
  | .frameStartLine n p => Sys2Proof.Machine.execFrameStartLine n p s
  | .activeLine n p => Sys2Proof.Machine.execActiveLine n p s
  | .embeddedLine n p => Sys2Proof.Machine.execEmbeddedLine n p s
  | .frameEndLine n p => Sys2Proof.Machine.execFrameEndLine n p s
  | .landingWriteDrain n transfers => Sys2Proof.Machine.execLandingWriteDrain n transfers s
  | .frameLateTimeout st => Sys2Proof.Machine.execFrameLateTimeout st s
  | .ctlCommandSend n => Sys2Proof.Machine.execCtlCommandSend n s
  | .ctlReply n frame => Sys2Proof.Machine.execCtlReply n frame s
  | .ctlCommandTimeout n => Sys2Proof.Machine.execCtlCommandTimeout n s
  | .tppSend ag n => Sys2Proof.Machine.execTppSend ag n s
  | .lndCtxWrite ag st => Sys2Proof.Machine.execLndCtxWrite ag st s
  | .lndCtxRead ag st => Sys2Proof.Machine.execLndCtxRead ag st s
  | .landingEnable ag on => Sys2Proof.Machine.execLandingEnable ag on s
  | .lndClearCounts ag => Sys2Proof.Machine.execLndClearCounts ag s
  | .lndRelease ag st slot => Sys2Proof.Machine.execLndRelease ag st slot s
  | .ispFrameStart n out ts stats => Sys2Proof.Machine.execIspFrameStart n out ts stats s
  | .ispContextLoad n => Sys2Proof.Machine.execIspContextLoad n s
  | .ispFrameComplete n stalled => Sys2Proof.Machine.execIspFrameComplete n stalled s
  | .ispParityError n => Sys2Proof.Machine.execIspParityError n s
  | .ispYield n rows => Sys2Proof.Machine.execIspYield n rows s
  | .ispAbort ag n => Sys2Proof.Machine.execIspAbort ag n s
  | .ispEnable ag n on => Sys2Proof.Machine.execIspEnable ag n on s
  | .ispClearCounts ag n => Sys2Proof.Machine.execIspClearCounts ag n s
  | .ispSwap ag st => Sys2Proof.Machine.execIspSwap ag st s
  | .ispResetModel ag st => Sys2Proof.Machine.execIspResetModel ag st s
  | .ispPost ag h v => Sys2Proof.Machine.execIspPost ag h v s
  | .graphLoad ag g place => Sys2Proof.Machine.execGraphLoad ag g place s
  | .graphUnload ag g => Sys2Proof.Machine.execGraphUnload ag g s
  | .graphStart ag g => Sys2Proof.Machine.execGraphStart ag g s
  | .graphStop ag g => Sys2Proof.Machine.execGraphStop ag g s
  | .fgsEnable ag on => Sys2Proof.Machine.execFgsEnable ag on s
  | .fgsClearCounts ag => Sys2Proof.Machine.execFgsClearCounts ag s
  | .jobInstantiate => Sys2Proof.Machine.execJobInstantiate s
  | .jobTaskPost => Sys2Proof.Machine.execJobTaskPost s
  | .joinWaitExpiry => Sys2Proof.Machine.execJoinWaitExpiry s
  | .watchdogClose => Sys2Proof.Machine.execWatchdogClose s
  | .jobTimeout => Sys2Proof.Machine.execJobTimeout s
  | .fgsAbort ag v => Sys2Proof.Machine.execFgsAbort ag v s
  | .fgsCqWrite ag p k v => Sys2Proof.Machine.execFgsCqWrite ag p k v s
  | .ringGrant g r => Sys2Proof.Machine.execRingGrant g r s
  | .ringSlotCommit g r bs last => Sys2Proof.Machine.execRingSlotCommit g r bs last s
  | .ringSlotRelease g r => Sys2Proof.Machine.execRingSlotRelease g r s
  | .slotRingTimeout g r => Sys2Proof.Machine.execSlotRingTimeout g r s
  | .postTry ag h => Sys2Proof.Machine.execPostTry ag h s
  | .eventTry ag h => Sys2Proof.Machine.execEventTry ag h s
  | .postQueueTake => Sys2Proof.Machine.execPostQueueTake s
  | .delayExpiry => Sys2Proof.Machine.execDelayExpiry s
  | .taskTimeout => Sys2Proof.Machine.execTaskTimeout s
  | .taskDispatch w => Sys2Proof.Machine.execTaskDispatch w s
  | .windowOpen => Sys2Proof.Machine.execWindowOpen s
  | .htsTake ag n => Sys2Proof.Machine.execHtsTake ag n s
  | .takeTimeout n => Sys2Proof.Machine.execTakeTimeout n s
  | .htsDone ag n v => Sys2Proof.Machine.execHtsDone ag n v s
  | .htsYield ag n v => Sys2Proof.Machine.execHtsYield ag n v s
  | .htsAbort ag v => Sys2Proof.Machine.execHtsAbort ag v s
  | .htsFree ag v => Sys2Proof.Machine.execHtsFree ag v s
  | .groupFlagsClear ag g v => Sys2Proof.Machine.execGroupFlagsClear ag g v s
  | .htsTickWrite ag v => Sys2Proof.Machine.execHtsTickWrite ag v s
  | .htsMajorCycleWrite ag v => Sys2Proof.Machine.execHtsMajorCycleWrite ag v s
  | .htsQuotaWrite ag p v => Sys2Proof.Machine.execHtsQuotaWrite ag p v s
  | .htsEnable ag on => Sys2Proof.Machine.execHtsEnable ag on s
  | .htsClearCounts ag => Sys2Proof.Machine.execHtsClearCounts ag s
  | .timerExpiry n held => Sys2Proof.Machine.execTimerExpiry n held s
  | .timerEnable ag n v => Sys2Proof.Machine.execTimerEnable ag n v s
  | .pgeJobComplete n => Sys2Proof.Machine.execPgeJobComplete n s
  | .pgeYield n rows => Sys2Proof.Machine.execPgeYield n rows s
  | .wpeJobComplete n => Sys2Proof.Machine.execWpeJobComplete n s
  | .wpeYield n rows => Sys2Proof.Machine.execWpeYield n rows s
  | .pipelineParityError e => Sys2Proof.Machine.execPipelineParityError e s
  | .engineAbort ag e => Sys2Proof.Machine.execEngineAbort ag e s
  | .engineEnable ag e on => Sys2Proof.Machine.execEngineEnable ag e on s
  | .engineClearCounts ag e => Sys2Proof.Machine.execEngineClearCounts ag e s
  | .ofeJobComplete n => Sys2Proof.Machine.execOfeJobComplete n s
  | .sgeJobComplete => Sys2Proof.Machine.execSgeJobComplete s
  | .stateBankYield e rows => Sys2Proof.Machine.execStateBankYield e rows s
  | .flowStereoParityError e => Sys2Proof.Machine.execFlowStereoParityError e s
  | .fteJobComplete => Sys2Proof.Machine.execFteJobComplete s
  | .fteParityError => Sys2Proof.Machine.execFteParityError s
  | .pairTableLoad ag v => Sys2Proof.Machine.execPairTableLoad ag v s
  | .pairTableParityError k => Sys2Proof.Machine.execPairTableParityError k s
  | .trackSetNextIdWrite ag k v => Sys2Proof.Machine.execTrackSetNextIdWrite ag k v s
  | .ncNop n => Sys2Proof.Machine.execNcNop n s
  | .ncConv n => Sys2Proof.Machine.execNcConv n s
  | .ncMatmul n => Sys2Proof.Machine.execNcMatmul n s
  | .ncPool n => Sys2Proof.Machine.execNcPool n s
  | .ncEltwise n => Sys2Proof.Machine.execNcEltwise n s
  | .ncAct n => Sys2Proof.Machine.execNcAct n s
  | .ncSoftmax n => Sys2Proof.Machine.execNcSoftmax n s
  | .ncNorm n => Sys2Proof.Machine.execNcNorm n s
  | .ncResize n => Sys2Proof.Machine.execNcResize n s
  | .ncTopk n => Sys2Proof.Machine.execNcTopk n s
  | .ncGather n => Sys2Proof.Machine.execNcGather n s
  | .ncScatterSet n => Sys2Proof.Machine.execNcScatterSet n s
  | .ncScatterAdd n => Sys2Proof.Machine.execNcScatterAdd n s
  | .ncScatterMax n => Sys2Proof.Machine.execNcScatterMax n s
  | .ncHalo n => Sys2Proof.Machine.execNcHalo n s
  | .ncCommandComplete n unit => Sys2Proof.Machine.execNcCommandComplete n unit s
  | .ncParityError n kind => Sys2Proof.Machine.execNcParityError n kind s
  | .ncQuotaWrite ag c p k v => Sys2Proof.Machine.execNcQuotaWrite ag c p k v s
  | .tduCreate ag p => Sys2Proof.Machine.execTduCreate ag p s
  | .tduDestroy ag p => Sys2Proof.Machine.execTduDestroy ag p s
  | .tduRead ag p => Sys2Proof.Machine.execTduRead ag p s
  | .tduClearCounts ag p => Sys2Proof.Machine.execTduClearCounts ag p s
  | .regionCreate ag => Sys2Proof.Machine.execRegionCreate ag s
  | .regionDestroy ag id => Sys2Proof.Machine.execRegionDestroy ag id s
  | .regionRead ag id => Sys2Proof.Machine.execRegionRead ag id s
  | .scratchpadAccess ag mem off len data h newBad => Sys2Proof.Machine.execScratchpadAccess ag mem off len data h newBad s
  | .ownershipChange ag v => Sys2Proof.Machine.execOwnershipChange ag v s
  | .zeroFillDone => Sys2Proof.Machine.execZeroFillDone s
  | .scratchpadScrub busy newBad => Sys2Proof.Machine.execScratchpadScrub busy newBad s
  | .spmClearCounts ag => Sys2Proof.Machine.execSpmClearCounts ag s
  | .dmaChannelEnable ag e c v => Sys2Proof.Machine.execDmaChannelEnable ag e c v s
  | .dmaChannelDisable ag e c => Sys2Proof.Machine.execDmaChannelDisable ag e c s
  | .dmaStart ag e c => Sys2Proof.Machine.execDmaStart ag e c s
  | .dmaPause ag e c => Sys2Proof.Machine.execDmaPause ag e c s
  | .dmaResume ag e c => Sys2Proof.Machine.execDmaResume ag e c s
  | .dmaAbort ag e c => Sys2Proof.Machine.execDmaAbort ag e c s
  | .dmaRestart ag e => Sys2Proof.Machine.execDmaRestart ag e s
  | .dmaEngineEnable ag e on => Sys2Proof.Machine.execDmaEngineEnable ag e on s
  | .dmaClearCounts ag e => Sys2Proof.Machine.execDmaClearCounts ag e s
  | .dmaDescFetch e c => Sys2Proof.Machine.execDmaDescFetch e c s
  | .dmaReadIssue e pass => Sys2Proof.Machine.execDmaReadIssue e pass s
  | .dmaReadReturn e k ext transient => Sys2Proof.Machine.execDmaReadReturn e k ext transient s
  | .dmaBusError e k wr valid => Sys2Proof.Machine.execDmaBusError e k wr valid s
  | .dmaCqWrite ag e k v => Sys2Proof.Machine.execDmaCqWrite ag e k v s
  | .mbxSend ag v => Sys2Proof.Machine.execMbxSend ag v s
  | .mbxMsgLatch ag m => Sys2Proof.Machine.execMbxMsgLatch ag m s
  | .mbxRelease ag m v => Sys2Proof.Machine.execMbxRelease ag m v s
  | .lockAcquire readers n => Sys2Proof.Machine.execLockAcquire readers n s
  | .lockRelease ag n v => Sys2Proof.Machine.execLockRelease ag n v s
  | .lckForce ag v => Sys2Proof.Machine.execLckForce ag v s
  | .cacheCleanParityError n => Sys2Proof.Machine.execCacheCleanParityError n s
  | .cacheDirtyParityError n a => Sys2Proof.Machine.execCacheDirtyParityError n a s
  | .dramRead ag a n newBad transient => Sys2Proof.Machine.execDramRead ag a n newBad transient s
  | .dramWrite ag a bs => Sys2Proof.Machine.execDramWrite ag a bs s
  | .pantryReload e => Sys2Proof.Machine.execPantryReload e s
  | .dramScrub newBad => Sys2Proof.Machine.execDramScrub newBad s
  | .dieTempSample d temp => Sys2Proof.Machine.execDieTempSample d temp s
  | .flitCrcFail ag replays dead => Sys2Proof.Machine.execFlitCrcFail ag replays dead s
  | .dmcShareWrite ag p v => Sys2Proof.Machine.execDmcShareWrite ag p v s
  | .pantryEntryWrite ag e v => Sys2Proof.Machine.execPantryEntryWrite ag e v s
  | .firewallRegionWrite ag r w v => Sys2Proof.Machine.execFirewallRegionWrite ag r w v s
  | .dmcClearCounts ag => Sys2Proof.Machine.execDmcClearCounts ag s
  | .dmcScrubCfgWrite ag v => Sys2Proof.Machine.execDmcScrubCfgWrite ag v s
  | .safLockReq ag => Sys2Proof.Machine.execSafLockReq ag s
  | .safArm ag => Sys2Proof.Machine.execSafArm ag s
  | .safForce ag => Sys2Proof.Machine.execSafForce ag s
  | .safHeartbeat ag => Sys2Proof.Machine.execSafHeartbeat ag s
  | .heartbeatTimeout => Sys2Proof.Machine.execHeartbeatTimeout s
  | .lockstepMismatch => Sys2Proof.Machine.execLockstepMismatch s
  | .clockFault => Sys2Proof.Machine.execClockFault s
  | .tasterCompareComplete => Sys2Proof.Machine.execTasterCompareComplete s
  | .tasterVerdict => Sys2Proof.Machine.execTasterVerdict s
  | .safeOffDrop => Sys2Proof.Machine.execSafeOffDrop s
  | .proofIntervalOpen => Sys2Proof.Machine.execProofIntervalOpen s
  | .proofWindowClose => Sys2Proof.Machine.execProofWindowClose s
  | .wdEventArrival => Sys2Proof.Machine.execWdEventArrival s
  | .safCauseClear ag => Sys2Proof.Machine.execSafCauseClear ag s
  | .safClearCounts ag => Sys2Proof.Machine.execSafClearCounts ag s
  | .derateStep => Sys2Proof.Machine.execDerateStep s
  | .pllSlewDone => Sys2Proof.Machine.execPllSlewDone s
  | .domainPowerOff d wfi => Sys2Proof.Machine.execDomainPowerOff d wfi s
  | .domainWake d => Sys2Proof.Machine.execDomainWake d s
  | .domainWakeDone d => Sys2Proof.Machine.execDomainWakeDone d s
  | .powerCreditGrant => Sys2Proof.Machine.execPowerCreditGrant s
  | .powerBaseUpdate => Sys2Proof.Machine.execPowerBaseUpdate s
  | .thermalCapUpdate tj => Sys2Proof.Machine.execThermalCapUpdate tj s
  | .railRead rs => Sys2Proof.Machine.execRailRead rs s
  | .droopEvent d => Sys2Proof.Machine.execDroopEvent d s
  | .slackSample xs => Sys2Proof.Machine.execSlackSample xs s
  | .flashLogAppend => Sys2Proof.Machine.execFlashLogAppend s
  | .pmgBudgetLimitWrite ag v => Sys2Proof.Machine.execPmgBudgetLimitWrite ag v s
  | .pmgBudgetMaxWrite ag v => Sys2Proof.Machine.execPmgBudgetMaxWrite ag v s
  | .pmgP0ReserveWrite ag v => Sys2Proof.Machine.execPmgP0ReserveWrite ag v s
  | .pmgThermCfgWrite ag v => Sys2Proof.Machine.execPmgThermCfgWrite ag v s
  | .pmgClearCounts ag => Sys2Proof.Machine.execPmgClearCounts ag s
  | .inboundBar0Access ag off size v => Sys2Proof.Machine.execInboundBar0Access ag off size v s
  | .inboundBar2Access rid o n data poison => Sys2Proof.Machine.execInboundBar2Access rid o n data poison s
  | .rqHeadWrite q pay v => Sys2Proof.Machine.execRqHeadWrite q pay v s
  | .mgqDoorbell tail cmds => Sys2Proof.Machine.execMgqDoorbell tail cmds s
  | .mgqIdentify => Sys2Proof.Machine.execMgqIdentify s
  | .mgqAttest => Sys2Proof.Machine.execMgqAttest s
  | .mgqGraphAdmit place => Sys2Proof.Machine.execMgqGraphAdmit place s
  | .mgqGraphRemove => Sys2Proof.Machine.execMgqGraphRemove s
  | .mgqFlashWrite src => Sys2Proof.Machine.execMgqFlashWrite src s
  | .mgqFlashRead => Sys2Proof.Machine.execMgqFlashRead s
  | .mgqSetTrial => Sys2Proof.Machine.execMgqSetTrial s
  | .mgqAdvanceRollback => Sys2Proof.Machine.execMgqAdvanceRollback s
  | .mgqEnrolOwner key => Sys2Proof.Machine.execMgqEnrolOwner key s
  | .mgqRevokeOwner0 => Sys2Proof.Machine.execMgqRevokeOwner0 s
  | .mgqDisableDebug => Sys2Proof.Machine.execMgqDisableDebug s
  | .mgqDebugChallenge => Sys2Proof.Machine.execMgqDebugChallenge s
  | .mgqDebugResponse src => Sys2Proof.Machine.execMgqDebugResponse src s
  | .secConfirm ag => Sys2Proof.Machine.execSecConfirm ag s
  | .pciQueueConfigWrite ag off v => Sys2Proof.Machine.execPciQueueConfigWrite ag off v s
  | .linkDown => Sys2Proof.Machine.execLinkDown s
  | .completionTimeout e k => Sys2Proof.Machine.execCompletionTimeout e k s
  | .pmcSnapshot ag => Sys2Proof.Machine.execPmcSnapshot ag s
  | .pmcFreeze ag on => Sys2Proof.Machine.execPmcFreeze ag on s
  | .pmcClear ag => Sys2Proof.Machine.execPmcClear ag s
  | .pmcClearPeak ag => Sys2Proof.Machine.execPmcClearPeak ag s
  | .pmcBwWindowWrite ag v => Sys2Proof.Machine.execPmcBwWindowWrite ag v s
  | .bwWindowEnd => Sys2Proof.Machine.execBwWindowEnd s
  | .crumbTrailEnable ag mode => Sys2Proof.Machine.execCrumbTrailEnable ag mode s
  | .crumbTrailDisable ag mode => Sys2Proof.Machine.execCrumbTrailDisable ag mode s
  | .crumbRecordWrite => Sys2Proof.Machine.execCrumbRecordWrite s
  | .telemetrySample => Sys2Proof.Machine.execTelemetrySample s
  | .smbusReadIdentity => Sys2Proof.Machine.execSmbusReadIdentity s
  | .smbusReadTelemetryLow => Sys2Proof.Machine.execSmbusReadTelemetryLow s
  | .smbusReadTelemetryHigh => Sys2Proof.Machine.execSmbusReadTelemetryHigh s
  | .smbusReadBudget => Sys2Proof.Machine.execSmbusReadBudget s
  | .smbusWriteBudget v pec => Sys2Proof.Machine.execSmbusWriteBudget v pec s
  | .gpioEdge n level => Sys2Proof.Machine.execGpioEdge n level s
  | .gpioCfgWrite ag n v => Sys2Proof.Machine.execGpioCfgWrite ag n v s
  | .jtagExtest => Sys2Proof.Machine.execJtagExtest s
  | .jtagSamplePreload => Sys2Proof.Machine.execJtagSamplePreload s
  | .jtagIdcode => Sys2Proof.Machine.execJtagIdcode s
  | .jtagBypass code => Sys2Proof.Machine.execJtagBypass code s
  | .jtagDbgChal scope => Sys2Proof.Machine.execJtagDbgChal scope s
  | .jtagDbgResp bs => Sys2Proof.Machine.execJtagDbgResp bs s
  | .powerRailRemoval => Sys2Proof.Machine.execPowerRailRemoval s
  | .vddAonLoss => Sys2Proof.Machine.execVddAonLoss s
  | .perstRelease => Sys2Proof.Machine.execPerstRelease s
  | .linkUp rate width => Sys2Proof.Machine.execLinkUp rate width s
  | .domainPowerOffDone d => Sys2Proof.Machine.execDomainPowerOffDone d s
  | .droopRecovery d pulses => Sys2Proof.Machine.execDroopRecovery d pulses s
  | .consoleInput c => Sys2Proof.Machine.execConsoleInput c s
  | .hostOutboundAccess n a len data ext => Sys2Proof.Machine.execHostOutboundAccess n a len data ext s

end Sys2Proof.Machine
end

