-- ==== Sys2Proof/Machine/Tick.lean ====
section
/-! DEFINITION. What time does by itself: one NOC_CLK cycle, which the block runs when no command waits (01_architecture.md R43, R44;
05_task_scheduler.md R209, R210; the counters in µs). -/

namespace Sys2Proof.Machine

/-- The rate-corrected increment of one NOC_CLK cycle, in units of 2⁻³² ns (R43, R573). (DESIGN CHOICE, log 2) -/
def State.tickUnits (s : State) : Nat := 2 ^ 32 * 32 / (32 - s.derate)

/-- One cycle of both counts; what happened in the cycle before is over (R52, R201). A correction that is still to be applied slews device time by 200 ppm (R44). (DESIGN CHOICE, log 2, DESIGN CHOICE, log 89) -/
def State.advance (s : State) : State :=
  let u := s.tickUnits
  let m : Int := (u / 5000 : Nat)
  let adj := clampI (-m) m s.tm.slew
  let t : State := { s with
    tm := { s.tm with
      localCount := s.tm.localCount + u
      devCount := ((s.tm.devCount + u : Nat) + adj).toNat
      slew := s.tm.slew - adj }
    hts := { s.hts with ended := [], groupNow := [] }
    fgs := { s.fgs with ended := [] } }
  t.setFld R.SMC_TIME_STATUS 31 16 (if adj = 0 then 0 else if adj < 0 then unsext 16 (-200) else 200)

/-- A register counted where `b` holds. -/
def State.bumpIf (s : State) (b : Bool) (off : Nat) : State := if b then s.bump off else s

/-- The µs that engines stall (R144, R260, R298, R328, R374): where that is a matter of speed, a free bit. (DESIGN CHOICE, log 78) -/
def State.stallCounts (s : State) : State :=
  if stallRegs.all (fun e => s.stallsNow e.1 == some false) then s
  else
    let (q, s) := s.draw
    stallRegs.zipIdx.foldl (fun s e => s.bumpIf ((s.stallsNow e.1.1).getD (bit (Config.freeWord q) e.2)) e.1.2) s

/-- One µs has passed: the counters in µs. (DESIGN CHOICE, log 2) -/
def State.microsecond (s : State) : State :=
  let s := (List.range 8).foldl (fun (s : State) n => s.bumpIf (s.flag (R.TPP_STATUS n) 3) (R.TPP_HOLD_US n)) s
  let s := s.bumpIf s.fgsHeld R.FGS_HELD_US
  let s := s.bumpIf (decide (postqSize < s.hts.postq.length) || s.fgsHeld) R.HTS_HELD_US
  let s := s.stallCounts
  let s := (List.range 8).foldl (fun s c => s.bumpIf (s.runningOn (0x10 + c)).isSome (R.NC_BUSY_US c)) s
  (List.range 4).foldl (fun s e => s.bumpIf (!(s.eng e).cqWait.isEmpty) (R.DMA_CQ_HELD_US e)) s

/-- A tick boundary of the delay list: every entry is one tick nearer, and a new tick length is in force (R209, R210). -/
def State.delayTick (s : State) : State :=
  { s with hts := { s.hts with
    delays := s.hts.delays.map (fun d => { d with ticks := d.ticks - 1 })
    tickUs := s.fld R.HTS_TICK 9 0 } }

/-- A boundary of `n` ns lies between two local times. -/
def crosses (n before after : Nat) : Bool := n != 0 && decide (before / n < after / n)

/-- Refresh slots of an accounting window, by the thermal state of the die (R510). -/
def refreshSlots (state : Nat) : Nat := [2, 4, 8, 64].getD state 0

/-- An accounting window of 80 ns has passed on every channel (R493, R510, R634): its refresh slots, and the slots that requests waited at a
cap, which is a matter of traffic. (DESIGN CHOICE, log 78) -/
def State.dramWindow (s : State) : State :=
  if !s.flag R.DMC_STATUS 9 then s
  else
    let (q, s) := s.draw
    (List.range 32).foldl (fun s c =>
      (s.count (1088 + 4 * c + 2) ((Config.freeByte q c).toNat % 65)).count (1088 + 4 * c + 3)
        (refreshSlots (s.fld R.DMC_STATUS (2 * (c / 8) + 1) (2 * (c / 8))))) s

/-- One NOC_CLK cycle with no command. (DESIGN CHOICE, log 2) -/
def tick (s : State) : State :=
  if !s.awake then s
  else
    let t := s.advance
    let t := if crosses 80 s.now t.now then t.dramWindow else t
    let t := if crosses 1000 s.now t.now then t.microsecond else t
    let t := if crosses (1000 * t.hts.tickUs) s.now t.now then t.delayTick else t
    let t := if t.saf.proofs.isEmpty then t else t.postProofs
    t.strobesEnd

end Sys2Proof.Machine
end

