-- ==== Sys2Proof/Machine/Step.lean ====
section
/-! DEFINITION. One step of the block: the command at the front of its queue, or one cycle of time. -/

namespace Sys2Proof.Machine

/-- The state with `q` as its queue. (DESIGN CHOICE, log 1) -/
def State.withPending (s : State) (q : List Instr) : State := { s with pending := q }

/-- The command at the front is taken and run with the rest of the queue; with nothing waiting one NOC_CLK cycle passes. (DESIGN CHOICE, log 1, DESIGN CHOICE, log 2) -/
def step (s : State) : Host.Outcome State Fault Refusal :=
  match s.pending with
  | [] => .next (tick s)
  | c :: rest => exec c (s.withPending rest)

/-- The state with the command that the word spells, if any, in front of its queue. (DESIGN CHOICE, log 1) -/
def State.withFetchWord (s : State) (nbits w : Nat) : State :=
  match Sys2Proof.decodeTableWord nbits w with
  | some c => s.withPending (c :: s.pending)
  | none => s

end Sys2Proof.Machine
end

