-- ==== Sys2Proof/Safety.lean ====
section
/-! DEFINITION. What claims about the block are stated in: the canonical form of its memories, what every command keeps, and what a device
held in reset shows. -/

namespace Sys2Proof.Machine

/-- The canonical form of DRAM: addresses strictly rising, no listed byte equal to what an unlisted one reads as. -/
def Memory.wf (m : List Host.Cell) : Bool := Store.wf dramZero m

/-- The register file, DRAM, the scratchpads and the flash are in canonical form. -/
def State.canonical (s : State) : Prop :=
  Store.wf regReset s.regs = true ∧ Memory.wf s.dram.mem = true ∧ (∀ m ∈ s.spm.mem, Store.wf spmZero m = true)
    ∧ Store.wf flashBlank s.sec.flash = true

/-- The fuses only burn (18_boot_security_pcie.md R610 to R612, R616): an enrolled hash stays, a revocation and a disabled debug stay, and
the rollback count does not fall. -/
def Fuses.le (a b : Fuses) : Prop :=
  b.deviceKey = a.deviceKey ∧ b.devicePub = a.devicePub ∧ b.aqnHash = a.aqnHash
    ∧ (a.owner0.isSome = true → b.owner0 = a.owner0) ∧ (a.owner1.isSome = true → b.owner1 = a.owner1)
    ∧ (a.revoke0 = true → b.revoke0 = true) ∧ a.rb ≤ b.rb ∧ (a.debugOff = true → b.debugOff = true)

/-- What no command but a reset changes: the queue, POR_N and the rails, the local count; device time and the draws of free values only rise,
reports are only added, fuses only burn, and canonical memories stay canonical. -/
structure Keeps (s t : State) : Prop where
  pending : t.pending = s.pending
  por : t.sec.por = s.sec.por
  rails : t.sec.railsOff = s.sec.railsOff
  localCount : t.tm.localCount = s.tm.localCount
  devCount : s.tm.devCount ≤ t.tm.devCount
  freeCtr : s.freeCtr ≤ t.freeCtr
  reports : s.reports <+: t.reports
  fuses : s.sec.fuses.le t.sec.fuses
  canonical : s.canonical → t.canonical

/-- What even a reset and a loss of the rails keep: the queue, the draws, the reports, the burnt fuses, and the canonical form. -/
structure Lasts (s t : State) : Prop where
  pending : t.pending = s.pending
  freeCtr : s.freeCtr ≤ t.freeCtr
  reports : s.reports <+: t.reports
  fuses : s.sec.fuses.le t.sec.fuses
  canonical : s.canonical → t.canonical

/-- Every register but those listed reads in `t` as it reads in `s`. -/
def RegsBut (offs : List Nat) (s t : State) : Prop := ∀ o, o ∉ offs → t.reg o = s.reg o

/-- Nothing but registers differs, and of them only those listed. -/
def OnlyRegs (offs : List Nat) (s t : State) : Prop := RegsBut offs s t ∧ t = { s with regs := t.regs }

/-- Nothing but registers, those listed, and the time until which a command is in progress differs. -/
def OnlyCmd (offs : List Nat) (s t : State) : Prop :=
  RegsBut offs s t ∧ t = { s with regs := t.regs, tm := { s.tm with busy := t.tm.busy } }

/-- The commands that reset the device or take its rails away. -/
def resetsDevice : Instr → Bool
  | .porAssert => true
  | .porRelease => true
  | .powerRailRemoval => true
  | .vddAonLoss => true
  | _ => false

/-- The commands whose effect does not wait for POR_N and the rails: those of the reset pins and the rails, and the level at a GPIO ball. (DEDUCED, log 3) -/
def actsAsleep : Instr → Bool
  | .perstAssert => true
  | .perstRelease => true
  | .gpioEdge _ _ => true
  | c => resetsDevice c

/-! ### Situations that statements speak of -/

/-- Line packet `p` at port `n` passes the first four checks of R70 for stream `st`, and its trailer is good. -/
def GoodLine (s : State) (n : Nat) (p : LinePacket) (st : Nat) : Prop :=
  let a := wd p.words 0
  let b := wd p.words 1
  s.tppState n = Tpp.active ∧ s.flag R.LND_CTRL 0 = true ∧ p.overrun = false ∧ (s.port n).bufUsed + p.words.length ≤ 16384
    ∧ p.words.length = 16 * hdrLen b + 3 ∧ hdrCheck a b = bits b 7 0 ∧ hdrStream a = st ∧ bits a 31 28 = 1 ∧ bits a 27 26 = 0
    ∧ (s.stream st).enabled = true ∧ (s.stream st).port = n ∧ s.proofStream st = false
    ∧ (s.stream st).lineOk (hdrKind b) (hdrLine b) (hdrLen b) = true
    ∧ trailerOf (p.words.take (p.words.length - 1)) = wd p.words (p.words.length - 1)

/-- The state in which the bytes of a line packet are counted, its transfers buffered, and a disagreement of FS with KIND counted (R58, R72). -/
def State.lineIn (s : State) (n : Nat) (p : LinePacket) : State :=
  let u := ((s.bwCount (32 + n) (4 * p.words.length)).modPort n
    (fun q => { q with bufUsed := min (q.bufUsed + p.words.length) 16384 })).holdPin n
  if p.fs0 != (hdrKind (wd p.words 1) == 2) || p.fsLater then u.bump (R.TPP_FS_MISMATCH_CNT n) else u

/-- No graph is resident and no frame job lives: nothing follows from a frame. -/
def NoGraphs (s : State) : Prop := s.fgs.graphs = [] ∧ s.fgs.jobs = []

/-- Task `i` of node `n` of frame job `j` runs on worker `id`, and nothing follows from the node's commit: its graph has no edge and gives it
no window, and another node of the job has not committed. -/
def Lone (s : State) (id i j n : Nat) : Prop :=
  (s.task i).state = .running ∧ (s.task i).worker = some id ∧ (s.task i).owner = .node j n ∧ ∃ x g, s.job? j = some x ∧ s.graph? x.graph = some g ∧ g.edges = [] ∧ (g.node n).wdClose = 0
    ∧ (x.node n).committed = false ∧ (x.node n).task = some i ∧ n < x.nodes.length
    ∧ ∃ m, m < x.nodes.length ∧ m ≠ n ∧ (x.node m).committed = false

/-- Task `i` has ended and its node has committed in a run of its worker. -/
def Ended (t : State) (i j n : Nat) : Prop :=
  (t.task i).state = .done ∧ (t.task i).worker = none ∧ ∃ y, t.job? j = some y ∧ (y.node n).committed = true ∧ (y.node n).ran = true

end Sys2Proof.Machine
end

