-- ==== Sys2Proof/Certificates/Slice0/Obligations.lean ====
section
/-! DEFINITION. The statements about the block that the provers prove or refute. -/

set_option linter.unusedVariables false

open Sys2Proof Sys2Proof.Machine

/-- O1. For every state s, queue rest q and command c, a step of the state whose queue is c followed by q is the command c on the state whose
queue is q. That commands wait in a first-in first-out queue is the model's form (log 1). (01_architecture.md) -/
def Obligations.StepRunsFront : Prop :=
  ∀ (s : State) (q : List Instr) (c : Instr), step (s.withPending (c :: q)) = exec c (s.withPending q)

/-- O2. For every state with an empty queue, a step answers a next state. Out of reset and with the rails there, its local count is the old
one plus 2^32 × 32 / (32 − derate step), in units of 2^-32 ns, which is exactly 1 ns where no derate step is taken, and its queue is
empty; else the state is unchanged. That time passes where no command waits is the model's choice (log 2). (01_architecture.md, R43, R573) -/
def Obligations.IdleStepPassesOneCycle : Prop :=
  ∀ s : State, s.pending = [] → ∃ t, step s = .next t ∧ t.pending = [] ∧
    (s.awake = true → t.tm.localCount = s.tm.localCount + 2 ^ 32 * 32 / (32 - s.derate) ∧
      (s.derate = 0 → t.tm.localCount = s.tm.localCount + 2 ^ 32)) ∧
    (s.awake = false → t = s)

/-- O3. For every state, a step answers a next state: no command ends the block with a fault or a refusal, whatever its operands and whatever
the state. What a command cannot do it reports or leaves undone. (00_scope.md, 95_what_each_step_holds.md) -/
def Obligations.StepAlwaysAnswers : Prop :=
  ∀ s : State, ∃ t, step s = .next t

/-- O4. State.reset has an empty queue, no reports, a running device (POR_N released, rails present) before the first step of boot, and
canonical stores: registers, DRAM, scratchpads and flash list nothing that equals what an unlisted address reads as. What DRAM and flash
hold after power-on is the model's choice (log 4). (00_scope.md, R18) -/
def Obligations.ResetIsCanonical : Prop :=
  State.reset.canonical ∧ State.reset.pending = [] ∧ State.reset.reports = [] ∧ State.reset.awake = true ∧ State.reset.sec.step = 0

/-- O5. For every state whose register file, DRAM, scratchpads and flash are in canonical form, the state after a step has them in canonical
form, whatever command ran and whatever its operands, and also where one cycle passed. (12_dma.md, 14_dram_integrity.md,
11_scratchpads.md) -/
def Obligations.StepKeepsMemoriesCanonical : Prop :=
  ∀ s t : State, s.canonical → step s = .next t → t.canonical

/-- O6. For every command that is not POR_ASSERT, POR_RELEASE, POWER_RAIL_REMOVAL or VDD_AON_LOSS, and every state, the state it answers has
the queue, the POR_N and rail state and the local count it found; its device time is not less than before; the reports made before are
still there in their order; and every fuse burnt before is burnt (an enrolled hash stays, a revocation and a disabled debug stay, the
rollback count does not fall). (01_architecture.md, R44, 18_boot_security_pcie.md, R610, R612) -/
def Obligations.CommandsKeepClockAndReset : Prop :=
  ∀ (c : Instr) (s t : State), resetsDevice c = false → exec c s = .next t →
    t.pending = s.pending ∧ t.sec.por = s.sec.por ∧ t.sec.railsOff = s.sec.railsOff ∧ t.tm.localCount = s.tm.localCount ∧
      s.tm.devCount ≤ t.tm.devCount ∧ s.reports <+: t.reports ∧ s.sec.fuses.le t.sec.fuses

/-- O7. For every state and the state a step answers: a burnt fuse stays burnt (enrolled owner hashes, the revocation of owner 0, the disabled
debug port, the rollback count, which never falls), the device key stays, reports made stay, and the queue is the old queue without its
front. (18_boot_security_pcie.md, R610, R612, R616) -/
def Obligations.StepOnlyBurnsFuses : Prop :=
  ∀ s t : State, step s = .next t → s.sec.fuses.le t.sec.fuses ∧ s.reports <+: t.reports ∧ t.pending = s.pending.drop 1

/-- O8. For every state and the state a step answers, unless the step ran POR_ASSERT, POR_RELEASE, POWER_RAIL_REMOVAL or VDD_AON_LOSS, device
time is not less than before: a negative correction is slewed, at 200 ppm, and never steps the count back. (R44) -/
def Obligations.DeviceTimeNeverDecreases : Prop :=
  ∀ s t : State, step s = .next t → (∀ c, s.pending.head? = some c → resetsDevice c = false) → s.tm.devCount ≤ t.tm.devCount

/-- O9. For every command but POR_ASSERT, POR_RELEASE, POWER_RAIL_REMOVAL, VDD_AON_LOSS, PERST_ASSERT, PERST_RELEASE and GPIO_EDGE, and every
state in which POR_N is low or the rails are off, the command answers the state unchanged. This is the model's reading of a device held in
reset (log 3). (00_scope.md, R18, 21_pins_electrical.md) -/
def Obligations.AsleepCommandsChangeNothing : Prop :=
  ∀ (c : Instr) (s : State), actsAsleep c = false → s.awake = false → exec c s = .next s

/-- O10. For every state that runs and whose selected source gives a correction of delta ns: above 1,000,000 ns device time rises by delta at
once, nothing is left to slew and STEPPED (SMC_TIME_STATUS bit 2) is set; at most 1,000,000 ns, negative ones included, device time is
unchanged and delta is left to slew, registers other than SMC_TIME_STATUS unchanged. A correction of another source changes nothing. The 3
s supervision restarts. (R44, R45, 01_architecture.md) -/
def Obligations.TimeCorrectionSlewsOrSteps : Prop :=
  ∀ (src : TimeSource) (delta : Int) (s : State), s.awake = true →
    (s.timeSource = some src → 1000000 < delta → ∃ t, exec (.timeCorrection src delta) s = .next t ∧
      t.tm.devCount = s.tm.devCount + 2 ^ 32 * delta.toNat ∧ t.tm.slew = 0 ∧ t.flag R.SMC_TIME_STATUS 2 = true ∧
      t.tm.lastUpdate = s.now ∧ RegsBut [R.SMC_TIME_STATUS] s t) ∧
    (s.timeSource = some src → delta ≤ 1000000 → ∃ t, exec (.timeCorrection src delta) s = .next t ∧
      t.tm.devCount = s.tm.devCount ∧ t.tm.slew = delta * (2 ^ 32 : Nat) ∧ t.tm.lastUpdate = s.now ∧
      RegsBut [R.SMC_TIME_STATUS] s t) ∧
    (s.timeSource ≠ some src → exec (.timeCorrection src delta) s = .next s)

/-- O11. A selected time source that gave nothing for 3 s: what was left to slew is dropped, the holdover bit (SMC_TIME_STATUS bit 1) is set
and source 43 pends. A fault that a control block reports with any status but INTERNAL adds exactly that report and changes nothing else;
with INTERNAL the report is added after those made before, and memory and the local count are unchanged. (R26, R44, R540,
15_functional_safety.md) -/
def Obligations.LostSourceAndBlockFaultAreReported : Prop :=
  (∀ s : State, s.awake = true → s.timeSource.isSome = true → 3000000000 + s.tm.lastUpdate ≤ s.now →
    ∃ t, exec .timeSourceLost s = .next t ∧ t.tm.slew = 0 ∧ t.flag R.SMC_TIME_STATUS 1 = true ∧ 43 ∈ t.host.irq ∧
      RegsBut [R.SMC_TIME_STATUS] s t ∧ t.dram = s.dram) ∧
  (∀ (ag : Agent) (code : Byte) (s : State), s.awake = true → code.toNat ≠ St.internal →
    exec (.controlBlockFault ag code) s = .next { s with reports := s.reports ++ [⟨agentId ag, code.toNat, s.partOf ag⟩] }) ∧
  (∀ (ag : Agent) (code : Byte) (s : State), s.awake = true → code.toNat = St.internal →
    ∃ t, exec (.controlBlockFault ag code) s = .next t ∧ t.reports = s.reports ++ [⟨agentId ag, St.internal, s.partOf ag⟩] ∧
      t.dram = s.dram ∧ t.tm = s.tm)

/-- O12. POR_ASSERT leaves every register at its reset value, no task, no stream and DRAM as unwritten, POR_N low, and keeps the queue, the
flash, the fuses and the retention record. POR_RELEASE of a device in reset, or of one that has not booted, ends the reset.
POWER_RAIL_REMOVAL takes the rails away from a device in reset, or once SAFE_OFF_N has dropped (then with the rest of the state as it
stands). VDD_AON_LOSS also clears the retention record and the boot sequence. PERST_ASSERT shows PERST_N low, clears bus mastering, the
configuration registers and the management commands read, and leaves the local count. PERST_RELEASE only ends it. (R18, R602, R654, R547,
18_boot_security_pcie.md) -/
def Obligations.ResetsAndRails : Prop :=
  (∀ s : State, ∃ t, exec .porAssert s = .next t ∧ (∀ o, t.reg o = regReset o) ∧ t.dram.mem = [] ∧ t.hts.tasks = [] ∧ t.streams = [] ∧
    t.sec.por = true ∧ t.sec.flash = s.sec.flash ∧ t.sec.fuses = s.sec.fuses ∧ t.saf.retention = s.saf.retention ∧
    t.pending = s.pending) ∧
  (∀ s : State, s.sec.por = true ∨ s.sec.step = 0 → ∃ t, exec .porRelease s = .next t ∧ t.sec.por = false ∧ t.sec.railsOff = false ∧
    t.pending = s.pending) ∧
  (∀ s : State, s.sec.por = true → ∃ t, exec .powerRailRemoval s = .next t ∧ t.sec.railsOff = true ∧ t.sec.por = true ∧
    (∀ o, t.reg o = regReset o)) ∧
  (∀ s : State, s.sec.por = false → s.saf.offN = false →
    exec .powerRailRemoval s = .next { s with sec := { s.sec with railsOff := true } }) ∧
  (∀ s : State, ∃ t, exec .vddAonLoss s = .next t ∧ t.saf.retention = [] ∧ t.saf.bootSeq = 0 ∧ t.sec.railsOff = true ∧
    t.sec.flash = s.sec.flash ∧ t.sec.fuses = s.sec.fuses) ∧
  (∀ s : State, ∃ t, exec .perstAssert s = .next t ∧ t.pci.perst = true ∧ t.pci.busMaster = false ∧ t.pci.cfg = [] ∧ t.sec.cmds = [] ∧
    t.tm.localCount = s.tm.localCount) ∧
  (∀ s : State, s.pci.perst = true →
    exec .perstRelease s = .next { s with pci := { s.pci with perst := false, perstAt := s.now } })

/-- O13. For every state that runs and every port: a drain of k transfers takes k from what the buffer holds (not below 0) and leaves every
other part of every port; then, where landing is on and the port not DISABLED, HOLD_N (TPP_STATUS bit 3) is asserted when less than 4,352
of the 16,384 transfers are free, released when at least 8,192 are, and as before in between; else it is released. DRAM and the streams
are unchanged. (02_pixel_ports.md, R72, R73) -/
def Obligations.HoldFollowsFreeSpace : Prop :=
  ∀ (n : Fin 8) (k : Nat) (s : State), s.awake = true →
    ∃ t, exec (.landingWriteDrain n k) s = .next t ∧
      t.ports = modAt s.ports n (fun p => { p with bufUsed := p.bufUsed - k }) ∧
      (let free := 16384 - (t.port n).bufUsed
       t.flag (R.TPP_STATUS n) 3 =
         if s.flag R.LND_CTRL 0 = false ∨ s.tppState n = Tpp.disabled then false
         else if free < 4352 then true else if 8192 ≤ free then false else s.flag (R.TPP_STATUS n) 3) ∧
      t.dram = s.dram ∧ t.streams = s.streams ∧ t.tppState n = s.tppState n

/-- O14. For every port n and state that runs. PORT_ENABLE by an agent with authority sets ENABLE and takes a DISABLED port to TRAINING,
another port's state staying; PORT_DISABLE clears ENABLE, takes the port to DISABLED and releases HOLD_N; RETRAIN takes an ACTIVE port to
TRAINING. TRAINING_COMPLETE takes a TRAINING port to ACTIVE; CLOCK_LOST takes an ACTIVE one to CLOCK_LOST with CLOCK_LOST_SEEN, and a
packet it cut off counts in TPP_LENGTH_CNT, which saturates; CLOCK_RETURN takes a CLOCK_LOST one to TRAINING. In any other state of the
port the three events change nothing. Beside the registers named nothing changes (for TRAINING_COMPLETE also the time of the last training
gap). (02_pixel_ports.md, R58, R59, R96, R101) -/
def Obligations.PortStates : Prop :=
  ∀ (n : Fin 8) (s : State), s.awake = true →
    (∀ ag, s.p3UntilLock ag = true →
      (∃ t, exec (.portEnable ag n) s = .next t ∧ t.flag (R.TPP_CTRL n) 0 = true ∧
        t.tppState n = (if s.tppState n = Tpp.disabled then Tpp.training else s.tppState n) ∧
        OnlyRegs [R.TPP_CTRL n, R.TPP_STATUS n] s t) ∧
      (∃ t, exec (.portDisable ag n) s = .next t ∧ t.flag (R.TPP_CTRL n) 0 = false ∧ t.tppState n = Tpp.disabled ∧
        t.flag (R.TPP_STATUS n) 3 = false ∧ OnlyRegs [R.TPP_CTRL n, R.TPP_STATUS n] s t) ∧
      (s.tppState n = Tpp.active → ∃ t, exec (.tppRetrain ag n) s = .next t ∧ t.tppState n = Tpp.training ∧
        OnlyRegs [R.TPP_STATUS n] s t)) ∧
    (s.tppState n = Tpp.training → ∃ t, exec (.trainingComplete n) s = .next t ∧ t.tppState n = Tpp.active ∧
      t.ports = modAt s.ports n (fun p => { p with lastGap := s.now }) ∧ RegsBut [R.TPP_STATUS n] s t ∧ t.dram = s.dram) ∧
    (s.tppState n ≠ Tpp.training → exec (.trainingComplete n) s = .next s) ∧
    (s.tppState n = Tpp.active →
      (∃ t, exec (.clockLost n false) s = .next t ∧ t.tppState n = Tpp.clockLost ∧ t.flag (R.TPP_STATUS n) 5 = true ∧
        OnlyRegs [R.TPP_STATUS n] s t) ∧
      (∃ t, exec (.clockLost n true) s = .next t ∧ t.tppState n = Tpp.clockLost ∧ t.flag (R.TPP_STATUS n) 5 = true ∧
        (t.reg (R.TPP_LENGTH_CNT n)).toNat = min ((s.reg (R.TPP_LENGTH_CNT n)).toNat + 1) 0xFFFFFFFF ∧ t.ports = s.ports)) ∧
    (s.tppState n ≠ Tpp.active → ∀ cut, exec (.clockLost n cut) s = .next s) ∧
    (s.tppState n = Tpp.clockLost → ∃ t, exec (.clockReturn n) s = .next t ∧ t.tppState n = Tpp.training ∧
      OnlyRegs [R.TPP_STATUS n] s t) ∧
    (s.tppState n ≠ Tpp.clockLost → exec (.clockReturn n) s = .next s)

/-- O15. For every port n and state that runs. With authority, TPP_CLEAR_COUNTS zeroes the seven counters of the port and changes nothing
else; CTL_ENABLE sets or clears TPP_CTRL.CTL_ENABLE and changes nothing else. A recalibration of an ACTIVE port marks its deskew fresh; in
another state it changes nothing. A deskew of an ACTIVE port that is 1 s old counts in PMG_DESKEW_STALE_CNT, which saturates, and is
counted again only a second later; a fresher one changes nothing. Without authority the agent is reported PARTITION_FAULT and nothing else
changes. (02_pixel_ports.md, R57, R88, R96, R101, R596) -/
def Obligations.PortControls : Prop :=
  ∀ (n : Fin 8) (s : State), s.awake = true →
    (∀ ag, s.p3UntilLock ag = true →
      (∃ t, exec (.tppClearCounts ag n) s = .next t ∧ (∀ o ∈ tppCounters n, t.reg o = 0) ∧ OnlyRegs (tppCounters n) s t) ∧
      (∀ on, ∃ t, exec (.ctlEnable ag n on) s = .next t ∧ t.flag (R.TPP_CTRL n) 3 = on ∧
        (∀ k, k ≠ 3 → t.flag (R.TPP_CTRL n) k = s.flag (R.TPP_CTRL n) k) ∧ OnlyRegs [R.TPP_CTRL n] s t)) ∧
    (∀ ag, s.p3UntilLock ag = false → ∀ c ∈ [Instr.portEnable ag n, .portDisable ag n, .tppRetrain ag n, .tppClearCounts ag n,
        .ctlEnable ag n true, .ctlEnable ag n false, .landingEnable ag true, .landingEnable ag false, .lndClearCounts ag],
      exec c s = .next { s with reports := s.reports ++ [⟨agentId ag, St.partitionFault, s.partOf ag⟩] }) ∧
    (s.tppState n = Tpp.active → exec (.deskewRecalibration n) s =
      .next { s with ports := modAt s.ports n (fun p => { p with lastGap := s.now }) }) ∧
    (s.tppState n ≠ Tpp.active → exec (.deskewRecalibration n) s = .next s ∧ exec (.deskewStale n) s = .next s) ∧
    (s.tppState n = Tpp.active → 1000000000 + (s.port n).lastGap ≤ s.now → ∃ t, exec (.deskewStale n) s = .next t ∧
      (t.reg R.PMG_DESKEW_STALE_CNT).toNat = min ((s.reg R.PMG_DESKEW_STALE_CNT).toNat + 1) 0xFFFFFFFF ∧
      t.ports = modAt s.ports n (fun p => { p with lastGap := 1000000000 + p.lastGap })) ∧
    (s.now < 1000000000 + (s.port n).lastGap → exec (.deskewStale n) s = .next s)

/-- O16. For every port, packet and state that runs: the four line events act alike, since the packet's own header says what it is. A packet
at a port that is not ACTIVE changes nothing. Where landing is off it changes only the counted bytes of the port. A packet that overruns
the buffer raises OVERRUN_SEEN; one whose length in transfers is not 16 × PAY_LEN + 3 counts in TPP_LENGTH_CNT; one with a bad HCHK counts
in TPP_ORPHAN_CNT; DRAM and the streams are then unchanged. (02_pixel_ports.md, R58, R63, R66, R68, R69, R70, R71, R98) -/
def Obligations.LinePacketsAreChecked : Prop :=
  ∀ (n : Fin 8) (p : LinePacket) (s : State), s.awake = true →
    exec (.frameStartLine n p) s = exec (.activeLine n p) s ∧ exec (.embeddedLine n p) s = exec (.activeLine n p) s ∧
    exec (.frameEndLine n p) s = exec (.activeLine n p) s ∧
    (s.tppState n ≠ Tpp.active → exec (.activeLine n p) s = .next s) ∧
    (s.tppState n = Tpp.active → s.flag R.LND_CTRL 0 = false → ∃ t, exec (.activeLine n p) s = .next t ∧
      t = { s with pmc := t.pmc } ∧ t.pmc.cnt = s.pmc.cnt) ∧
    (s.tppState n = Tpp.active → s.flag R.LND_CTRL 0 = true →
      (p.overrun = true ∨ 16384 < (s.port n).bufUsed + p.words.length →
        ∃ t, exec (.activeLine n p) s = .next t ∧ t.flag (R.TPP_STATUS n) 4 = true ∧ t.dram = s.dram) ∧
      (p.overrun = false → (s.port n).bufUsed + p.words.length ≤ 16384 →
        (p.words.length ≠ 16 * hdrLen (wd p.words 1) + 3 → ∃ t, exec (.activeLine n p) s = .next t ∧
          (t.reg (R.TPP_LENGTH_CNT n)).toNat = min ((s.reg (R.TPP_LENGTH_CNT n)).toNat + 1) 0xFFFFFFFF ∧
          t.dram = s.dram ∧ t.streams = s.streams) ∧
        (p.words.length = 16 * hdrLen (wd p.words 1) + 3 → hdrCheck (wd p.words 0) (wd p.words 1) ≠ bits (wd p.words 1) 7 0 →
          ∃ t, exec (.activeLine n p) s = .next t ∧
          (t.reg (R.TPP_ORPHAN_CNT n)).toNat = min ((s.reg (R.TPP_ORPHAN_CNT n)).toNat + 1) 0xFFFFFFFF ∧
          t.dram = s.dram ∧ t.streams = s.streams)))

/-- O17. The header check of words A and B is the CRC-8 with polynomial 0x07, initial value 0, no reflection and no final XOR, over A[31:24],
A[23:16], A[15:8], A[7:0], B[31:24], B[23:16], B[15:8]; over the bytes of the ASCII string 123456789 that CRC-8 is 0xF4. The CRC-8 is
stated by its bitwise rule: each byte is taken into the register by exclusive or, which is then shifted left 8 times, 0x07 added in where
a 1 leaves. (R66) -/
def Obligations.HeaderCheckOfLines : Prop :=
  (∀ a b : Word, hdrCheck a b = crc8 [a.extractLsb' 24 8, a.extractLsb' 16 8, a.extractLsb' 8 8, a.extractLsb' 0 8,
    b.extractLsb' 24 8, b.extractLsb' 16 8, b.extractLsb' 8 8]) ∧
  (∀ bs : List Byte, crc8 bs = (bs.foldl (fun (r : Byte) (x : Byte) =>
    (List.range 8).foldl (fun (r : Byte) _ => if r.getLsbD 7 then (r <<< 1) ^^^ 0x07#8 else r <<< 1) (r ^^^ x)) 0#8).toNat) ∧
  crc8 [0x31, 0x32, 0x33, 0x34, 0x35, 0x36, 0x37, 0x38, 0x39] = 0xF4

/-- O18. For every state that runs, an ACTIVE port with landing on and room, and a packet that passes the first four checks: the event answers
what accepting the line answers on the state in which its bytes are counted and its transfers buffered. A FRAME_START line of a newer
frame opens it (or drops it, where no slot is FREE); a FRAME_END line of the open frame closes it; a duplicate row leaves DRAM as it was.
With a good trailer, whichever of the four events brings it: FRAME_START of a newer frame, with a FREE slot, leaves it the open frame with
no row landed and the device time as its capture time; ACTIVE and EMBEDDED lines of the open frame, written to their row's address, add
their row to it (for an active one where no first-lines trigger and no image context wait for the row); FRAME_END leaves no frame open,
the slot LANDED and no drop pending (where no graph is resident). (02_pixel_ports.md, R70, R75, R77, R79, R80, R82, R83, R86, R87) -/
def Obligations.AcceptedLineLands : Prop :=
  (∀ (n : Fin 8) (p : LinePacket) (s : State), s.awake = true → s.tppState n = Tpp.active → s.flag R.LND_CTRL 0 = true →
    p.overrun = false → (s.port n).bufUsed + p.words.length ≤ 16384 → p.words.length = 16 * hdrLen (wd p.words 1) + 3 →
    hdrCheck (wd p.words 0) (wd p.words 1) = bits (wd p.words 1) 7 0 →
    (let a := wd p.words 0
     let b := wd p.words 1
     let st := hdrStream a
     bits a 31 28 = 1 → bits a 27 26 = 0 → (s.stream st).enabled = true → (s.stream st).port = n → s.proofStream st = false →
     (s.stream st).lineOk (hdrKind b) (hdrLine b) (hdrLen b) = true →
     exec (.activeLine n p) s = .next ((s.lineIn n p).acceptLine n st (hdrKind b) (hdrFrame a) (hdrLine b)
       ((p.words.drop 2).take (p.words.length - 3))
       (trailerOf (p.words.take (p.words.length - 1)) != wd p.words (p.words.length - 1))))) ∧
  (∀ (n st num row : Nat) (ws : List Word) (s : State), (s.stream st).openF = none → (s.stream st).newer num = true →
    let u := s.openFrame st num false
    (s.acceptLine n st 2 num row ws false) = if (u.stream st).discarding = some num then u else u.count (128 + 16 * n + 7) 1) ∧
  (∀ (n st num row : Nat) (ws : List Word) (s : State) (f : OpenFrame), (s.stream st).openF = some f → f.frame = num →
    (s.acceptLine n st 3 num row ws false) = ((s.count (128 + 16 * n + 7) 1).closeFrame st false false)) ∧
  (∀ (n st num row : Nat) (ws : List Word) (s : State) (f : OpenFrame) (emb : Bool), (s.stream st).openF = some f → f.frame = num →
    (if emb then f.emb else f.active).contains row = true →
    (s.acceptLine n st (if emb then 1 else 0) num row ws false).dram = s.dram) ∧
  (∀ (n : Fin 8) (p : LinePacket) (st : Nat) (s : State), s.awake = true → GoodLine s n p st →
    ∀ c ∈ [Instr.frameStartLine n p, .activeLine n p, .embeddedLine n p, .frameEndLine n p],
    let a := wd p.words 0
    let b := wd p.words 1
    let u := s.lineIn n p
    let x := s.stream st
    let pay := wordBytes ((p.words.drop 2).take (p.words.length - 3))
    (hdrKind b = 2 → x.openF = none → x.newer (hdrFrame a) = true → ∀ k, x.pickSlot = some (k, false) → ∃ t, exec c s = .next t ∧
      (t.stream st).openF = some ⟨k, hdrFrame a, s.devNow, s.now, false, [], [], 0, 0, false, [], false, false⟩ ∧
      (t.stream st).lastFrame = hdrFrame a) ∧
    (∀ f, x.openF = some f → f.frame = hdrFrame a →
      (hdrKind b = 0 → f.active.contains (hdrLine b) = false → x.earlyLines = 0 → (s.ispStream st).ctx = none →
        let w := u.dramWrite (u.lndWho st) (x.rowAddr f.slot (hdrLine b)) pay
        w.2 = St.done → ∃ t, exec c s = .next t ∧ (t.stream st).openF = some { f with active := f.active ++ [hdrLine b] } ∧ t.dram = w.1.dram) ∧
      (hdrKind b = 1 → f.emb.contains (hdrLine b) = false →
        let w := u.dramWrite (u.lndWho st) (x.embAddr f.slot (hdrLine b)) pay
        w.2 = St.done → ∃ t, exec c s = .next t ∧ (t.stream st).openF = some { f with emb := f.emb ++ [hdrLine b] } ∧ t.dram = w.1.dram) ∧
      (hdrKind b = 3 → NoGraphs s → f.slot < x.slots.length → ∃ t, exec c s = .next t ∧ (t.stream st).openF = none ∧
        (t.stream st).drops = 0 ∧ ((t.stream st).slot f.slot).state = .landed)))

/-- O19. For every state and stream with an open frame f: the record written to offset 0 of its slot is 64 bytes whose first word is the frame
tag (FT_VALID, stream, frame number), whose second word carries the marks, and whose last word is the CRC-32C of the 60 bytes before it.
The FRAME_LATE_TIMEOUT of a stream whose frame has been open LATE_US closes it with LATE and FE_MISSING, and before that changes nothing,
as it does with no frame open. Where no graph is resident the closed frame's slot is LANDED, no frame is open and no drop is pending.
(02_pixel_ports.md, R78, R81, R84, R86) -/
def Obligations.FrameCloseWritesRecord : Prop :=
  (∀ (st : Nat) (f : OpenFrame) (marks : Nat) (fe : Bool) (close seq drops : Nat),
    let ws := landingRecord st f marks fe close seq drops
    ws.length = 16 ∧ ws.getD 0 0 = frameTag st f.frame ∧ bits (ws.getD 1 0) 31 16 = marks % 65536 ∧
      ws.getD 15 0 = crc32c (wordBytes (ws.take 15)) ∧ bits (ws.getD 13 0) 15 0 = drops % 65536) ∧
  (∀ (st : Fin 1024) (s : State) (f : OpenFrame), s.awake = true → (s.stream st).openF = some f →
    (f.fsLocal + 1000 * (s.stream st).lateUs ≤ s.now → exec (.frameLateTimeout st) s = .next (s.closeFrame st true true)) ∧
    (f.fsLocal + 1000 * (s.stream st).lateUs ≤ s.now → NoGraphs s → f.slot < (s.stream st).slots.length →
      ∃ t, exec (.frameLateTimeout st) s = .next t ∧ (t.stream st).openF = none ∧ (t.stream st).drops = 0 ∧
        ((t.stream st).slot f.slot).state = .landed) ∧
    (s.now < f.fsLocal + 1000 * (s.stream st).lateUs → exec (.frameLateTimeout st) s = .next s)) ∧
  (∀ (st : Fin 1024) (s : State), s.awake = true → (s.stream st).openF = none → exec (.frameLateTimeout st) s = .next s)

/-- O20. For every state that runs. With no context command in progress, LND_CTX_WRITE by an agent with access, whose staged words pass the
checks, installs them and reads DONE; where they fail, the status is the failing check's and the streams are unchanged. While one is in
progress a context command is ignored. LND_CTX_READ by an agent with access copies the 16 words of the context into the agent's bank and
reads DONE. Without access both read PARTITION_FAULT and the streams are unchanged. LND_ENABLE sets the enable; LND_CLEAR_COUNTS leaves
the open frames of the streams; LND_RELEASE by the owner's agent lowers the slot's hold count by 1, a LANDED slot that reaches 0 becomes
FREE, and a release of an unheld slot leaves the streams unchanged. (02_pixel_ports.md, R93, R94, R95, R98, R101) -/
def Obligations.LandingContexts : Prop :=
  ∀ (ag : Agent) (st : Fin 1024) (s : State), s.awake = true →
    (s.cmdBusy R.LND_CTX_STATUS = true → exec (.lndCtxWrite ag st) s = .next s ∧ exec (.lndCtxRead ag st) s = .next s) ∧
    (s.cmdBusy R.LND_CTX_STATUS = false → s.ctxAccess ag st = true →
      (let u := s.setFld R.LND_CTX_CMD 9 0 st
       let cfg := (List.range 8).map (fun w => u.reg (banked (R.LND_CTX_WORD w) (u.lndBank ag)))
       (u.ctxCheck st cfg = St.done → ∃ t, exec (.lndCtxWrite ag st) s = .next t ∧
         (t.stream st).cfg = cfg ∧ t.reg R.LND_CTX_STATUS = 0 ∧ t.streams = (u.installCtx st cfg).streams) ∧
       (u.ctxCheck st cfg ≠ St.done → ∃ t, exec (.lndCtxWrite ag st) s = .next t ∧ t.streams = s.streams ∧
         t.reg R.LND_CTX_STATUS = BitVec.ofNat 32 (2 ^ 24 * u.ctxCheck st cfg))) ∧
      (∃ t, exec (.lndCtxRead ag st) s = .next t ∧ t.streams = s.streams ∧ t.dram = s.dram ∧ t.reg R.LND_CTX_STATUS = 0 ∧
        ∀ w < 16, t.reg (banked (R.LND_CTX_WORD w) (s.lndBank ag)) = wd (s.stream st).words w)) ∧
    (s.cmdBusy R.LND_CTX_STATUS = false → s.ctxAccess ag st = false → ∀ c ∈ [Instr.lndCtxWrite ag st, .lndCtxRead ag st],
      ∃ t, exec c s = .next t ∧ t.streams = s.streams ∧ t.reg R.LND_CTX_STATUS = BitVec.ofNat 32 (2 ^ 24 * St.partitionFault)) ∧
    (s.p3UntilLock ag = true →
      (∀ on, ∃ t, exec (.landingEnable ag on) s = .next t ∧ t.flag R.LND_CTRL 0 = on ∧ t.streams = s.streams ∧ t.dram = s.dram ∧
        t.ports = s.ports) ∧
      (∃ t, exec (.lndClearCounts ag) s = .next t ∧ t = { s with streams := t.streams } ∧
        ∀ k, (t.stream k).openF = (s.stream k).openF ∧ (t.stream k).slots = (s.stream k).slots ∧
          (k ∈ s.streams.map (·.1) → (t.stream k).counts = List.replicate 6 0))) ∧
    (s.ofPart ag (s.streamOwner (s.stream st)) = true → ∀ slot : Fin 8, ((s.stream st).slot slot).hold ≠ 0 →
      ∃ t, exec (.lndRelease ag st slot) s = .next t ∧
        t.stream st = (s.stream st).modSlot slot (fun x => { x with hold := x.hold - 1, state := if x.hold = 1 ∧ x.state = .landed then .free else x.state }) ∧
        RegsBut [R.LND_RELEASE] s t ∧ t.dram = s.dram) ∧
    (s.ofPart ag (s.streamOwner (s.stream st)) = true → ∀ slot : Fin 8, ((s.stream st).slot slot).hold = 0 →
      ∃ t, exec (.lndRelease ag st slot) s = .next t ∧ t.streams = s.streams ∧ t.dram = s.dram)

/-- O21. For every port n and state that runs. With CTL_ENABLE set and fewer than 8 commands outstanding, the first waiting command goes out:
it leaves the queue, becomes outstanding with the next SEQ and the present time, and its 56-bit frame is sent on CTL_DO; with 8
outstanding, or none waiting, nothing changes. With CTL_ENABLE set, a reply with a good CRC that matches an outstanding command by stream
and SEQ ends it with the reply's result, and one that matches none, or has a bad CRC, counts in TPP_CTL_CRC_CNT; with it clear no reply is
sampled. A command outstanding for 500 µs ends as if NAK had been received. SEND by an agent with authority, no direct command of the port
open and fewer than 8 queued or outstanding, appends the staged command and clears VALID and the former reply. (02_pixel_ports.md, R89,
R90, R91, R92, R97, R101) -/
def Obligations.ControlChannel : Prop :=
  ∀ (n : Fin 8) (s : State), s.awake = true →
    (∀ c q, (s.port n).ctlQueue = c :: q → s.flag (R.TPP_CTRL n) 3 = true → (s.port n).ctlOut.length < 8 →
      exec (.ctlCommandSend n) s = .next { s with ports := modAt s.ports n (fun p => { p with
        ctlQueue := q, ctlOut := p.ctlOut ++ [{ c with seq := (s.port n).ctlSeq, sent := s.now }], ctlSeq := (p.ctlSeq + 1) % 16,
        ctlDo := p.ctlDo ++ [ctlFrame (ctlBits c.stream c.op (s.port n).ctlSeq c.addr (if c.op = 0 then c.data else 0))] }) }) ∧
    ((s.port n).ctlQueue = [] ∨ 8 ≤ (s.port n).ctlOut.length → exec (.ctlCommandSend n) s = .next s) ∧
    (∀ (frame : BitVec 56), let v := frame.toNat
      let found := (s.port n).ctlOut.find? (fun c => c.stream == nbits v 55 46 && c.seq == nbits v 43 40)
      (s.flag (R.TPP_CTRL n) 3 = false → exec (.ctlReply n frame) s = .next s) ∧
      (∀ c, s.flag (R.TPP_CTRL n) 3 = true → found = some c → ctlFrame (v / 256) = frame → c.source = .direct → ∃ t, exec (.ctlReply n frame) s = .next t ∧
        t.ports = modAt s.ports n (fun p => { p with ctlOut := p.ctlOut.filter (· != c) }) ∧
        t.flag (R.TPP_CTL_RSP0 n) 31 = true ∧ t.fld (R.TPP_CTL_RSP0 n) 13 12 = nbits v 45 44 ∧
        OnlyRegs [R.TPP_CTL_RSP0 n, R.TPP_CTL_RSP1 n] { s with ports := t.ports } t) ∧
      (s.flag (R.TPP_CTRL n) 3 = true → found = none ∨ ctlFrame (v / 256) ≠ frame → ∃ t, exec (.ctlReply n frame) s = .next t ∧ t.ports = s.ports ∧
        (t.reg (R.TPP_CTL_CRC_CNT n)).toNat = min ((s.reg (R.TPP_CTL_CRC_CNT n)).toNat + 1) 0xFFFFFFFF)) ∧
    (∀ c, (s.port n).ctlOut.find? (fun c => decide (500000 + c.sent ≤ s.now)) = some c → c.source = .direct →
      ∃ t, exec (.ctlCommandTimeout n) s = .next t ∧
        t.ports = modAt s.ports n (fun p => { p with ctlOut := p.ctlOut.filter (· != c) }) ∧
        (t.reg (R.TPP_CTL_TIMEOUT_CNT n)).toNat = min ((s.reg (R.TPP_CTL_TIMEOUT_CNT n)).toNat + 1) 0xFFFFFFFF ∧
        t.fld (R.TPP_CTL_RSP0 n) 13 12 = 1) ∧
    (∀ ag, s.p3UntilLock ag = true → ((s.port n).ctlQueue ++ (s.port n).ctlOut).any (fun c => c.source == .direct) = false →
      ((s.port n).ctlQueue ++ (s.port n).ctlOut).length < 8 → ∃ t, exec (.tppSend ag n) s = .next t ∧ t.flag (R.TPP_CTL_RSP0 n) 31 = false ∧
        (let c0 := s.reg (banked (R.TPP_CTL_CMD0 n) (s.lndBank ag))
         let c1 := s.reg (banked (R.TPP_CTL_CMD1 n) (s.lndBank ag))
         t.ports = modAt s.ports n (fun p => { p with
           directStream := some (bits c0 25 16), ctlQueue := p.ctlQueue ++ [⟨bits c0 25 16, bits c0 13 12, bits c1 31 16, bits c1 15 0, .direct, 0, 0⟩] })) ∧
        t.reg (R.TPP_CTL_RSP1 n) = 0 ∧ OnlyRegs [R.TPP_CTL_RSP0 n, R.TPP_CTL_RSP1 n] { s with ports := t.ports } t)

/-- O22. For every instance n and state that runs. With HTS_CTRL.ENABLE set, an idle, enabled, powered instance takes the task the selection
names: a new frame of the pipeline holds the stream, slot and context with no context data yet; a frame that yielded before is taken up
again on this instance. The context load copies the 65,536 bytes read, once, when the read and the destination check succeed. A frame that
is not loaded or whose rows have not landed does not complete; one that is there ends with the outputs and the record of a job that is
done, and where nothing follows from its node's commit its task is DONE and its node has committed. A parity error repeats a frame that
may be repeated from its first row. A yield asked for, at a boundary of 4 rows that the frame can have come to, leaves the task READY with
those rows kept, at the queue's end. ABORT of a running frame by an agent of its partition ends it, its node committed; of an instance
whose job has committed in the same cycle it answers ABORT_LATE; of an idle one, and other commands of one that runs nothing, change
nothing. (03_image_pipeline.md, R50, R52, R125, R126, R127, R130, R131, R132, R670) -/
def Obligations.IspFramesRun : Prop :=
  ∀ (n : Fin 2) (s : State), s.awake = true →
    (∀ out ts stats i, s.runningOn (0x20 + n) = none → s.flag R.HTS_CTRL 0 = true → s.flag (R.ISP_CTRL n) 0 = true → s.domState 1 = Dom.on →
      s.ispSelect n = some i →
      let u := (s.startOn i (0x20 + n)).takeCredits i (0x20 + n)
      (∀ f, u.isp.frames.find? (·.task == i) = some f → ∃ t, exec (.ispFrameStart n out ts stats) s = .next t ∧
        t.isp.frames = u.isp.frames.map (fun x => if x.task = i then { x with inst := some n.val, data := [] } else x) ∧
        t.hts = u.hts ∧ t.dram = u.dram) ∧
      (∀ st k c, u.isp.frames.find? (·.task == i) = none → (u.task i).frame = some (st, k) → (u.ispStream st).ctx = some c →
        bit (u.ctxWord c 0) 31 = true → ∃ t f, exec (.ispFrameStart n out ts stats) s = .next t ∧ t.isp.frames = u.isp.frames ++ [f] ∧
          f.task = i ∧ f.inst = some n.val ∧ f.ctx = c ∧ f.data = [] ∧ f.stream = st ∧ f.slot = k ∧ t.dram = u.dram)) ∧
    (∀ f, s.ispFrame n = some f → f.data = [] →
      let r := s.dramRead (whoPart (0x20 + n) (s.ownerOf f.stream)) f.ctx 65536
      let u := r.1.count (320 + 32 * n + 3) 1
      r.2.1 = St.done → u.ispDestCheck f.task (u.stream f.stream) r.2.2 = St.done → ∃ t, exec (.ispContextLoad n) s = .next t ∧
        t.isp.frames = u.isp.frames.map (fun x => if x.task = f.task then { x with data := r.2.2 } else x) ∧ t.hts = u.hts) ∧
    (∀ f, s.ispFrame n = some f → f.data ≠ [] → exec (.ispContextLoad n) s = .next s) ∧
    (∀ f stalled, s.ispFrame n = some f → f.data = [] ∨ s.rowsLanded f ≠ (s.stream f.stream).height →
      exec (.ispFrameComplete n stalled) s = .next s) ∧
    (∀ f stalled, s.ispFrame n = some f → s.jobOn (0x20 + n) = some f.task → f.data ≠ [] → s.rowsLanded f = (s.stream f.stream).height →
      (let r := s.pipeDone f.task (0x20 + n) (fun o => o.chased f.early stalled)
       exec (.ispFrameComplete n stalled) s =
         .next ((if r.2.status = St.done then r.1.bump (R.ISP_FRAMES_CNT n) else r.1).finishTask f.task r.2)) ∧
      (∀ j k, Lone s (0x20 + n) f.task j k → ∃ t, exec (.ispFrameComplete n stalled) s = .next t ∧ Ended t f.task j k)) ∧
    (∀ f, s.ispFrame n = some f → s.mayRepeat f.task = true → exec (.ispParityError n) s =
      .next (s.modTask f.task (fun t => { t with repeats := t.repeats + 1, recomputed := true, progress := 0 }))) ∧
    (∀ i rows, s.runningOn (0x20 + n) = some i → (s.task i).yieldAsked = true → s.creditWaits (0x20 + n) = false → rows % 4 = 0 →
      (s.task i).progress ≤ rows → rows < (s.task i).total →
      let o := (s.engRun (0x20 + n) i 0).2.2
      o.counts.contains rows = true → s.canReach i o rows = true → ∃ t, exec (.ispYield n rows) s = .next t ∧
        (t.task i).state = .ready ∧ (t.task i).worker = none ∧ (t.task i).yielded = true ∧ (t.task i).progress = rows ∧
        t.isp.queue = s.isp.queue ++ [i] ∧ t.dram = s.dram ∧ t.streams = s.streams) ∧
    (∀ i rows, s.runningOn (0x20 + n) = some i → (s.task i).yieldAsked = false ∨ rows % 4 ≠ 0 → exec (.ispYield n rows) s = .next s) ∧
    (s.ispFrame n = none → exec (.ispContextLoad n) s = .next s ∧ exec (.ispFrameComplete n false) s = .next s ∧
      exec (.ispParityError n) s = .next s) ∧
    (∀ ag, s.runningOn (0x20 + n) = none →
      (s.hts.ended.find? (·.1 == 0x20 + n.val) = none → exec (.ispAbort ag n) s = .next s) ∧
      (∀ e, s.hts.ended.find? (·.1 == 0x20 + n.val) = some e → s.ofPart ag e.2 = true → ∃ t, exec (.ispAbort ag n) s = .next t ∧
        t.fld (R.ISP_STATUS n) 31 24 = St.abortLate ∧ t.hts = s.hts ∧ t.dram = s.dram)) ∧
    (∀ ag i j k, s.runningOn (0x20 + n) = some i → s.ofPart ag (s.task i).part = true → (s.task i).owner = .node j k →
      exec (.ispAbort ag n) s = .next ((s.setFld (R.ISP_STATUS n) 31 24 St.done).doTodo [.abort j k]) ∧
      (Lone s (0x20 + n) i j k → ∃ t, exec (.ispAbort ag n) s = .next t ∧ Ended t i j k))

/-- O23. For every state that runs. P3's agents and full agents set an instance's enable and zero its three counters; another agent is
reported and changes nothing else. With no context command in progress, SWAP answers the status of its checks in ISP_CTX_STATUS and only
with DONE makes the staged address the stream's context; while one is in progress SWAP and RESET_MODEL are ignored. RESET_MODEL by the
owner's agent forgets the stream's settings and requests. POST by the owner's agent with a valid stream and at most 6 writes: with four
requests open it reads BUSY and no request is added; else it reads DONE, the request has the staged ID, exposure, gain and white balance,
and its targets are shown. (03_image_pipeline.md, R123, R124, R134, R139, R144, R146, R147) -/
def Obligations.IspRegistersAndSettings : Prop :=
  ∀ (ag : Agent) (s : State), s.awake = true →
    (∀ (n : Fin 2), s.p3OrFull ag = true →
      (∀ on, ∃ t, exec (.ispEnable ag n on) s = .next t ∧ t.flag (R.ISP_CTRL n) 0 = on ∧ RegsBut [R.ISP_CTRL n] s t ∧ t.dram = s.dram) ∧
      (∃ t, exec (.ispClearCounts ag n) s = .next t ∧ (∀ o ∈ [R.ISP_FRAMES_CNT n, R.ISP_STALL_US n, R.ISP_YIELD_CNT n], t.reg o = 0) ∧
        OnlyRegs [R.ISP_FRAMES_CNT n, R.ISP_STALL_US n, R.ISP_YIELD_CNT n] s t)) ∧
    (∀ (n : Fin 2), s.p3OrFull ag = false → ∀ c ∈ [Instr.ispEnable ag n true, .ispEnable ag n false, .ispClearCounts ag n],
      exec c s = .next { s with reports := s.reports ++ [⟨agentId ag, St.partitionFault, s.partOf ag⟩] }) ∧
    (∀ (st : Fin 1024), s.cmdBusy R.ISP_CTX_STATUS = true → exec (.ispSwap ag st) s = .next s ∧ exec (.ispResetModel ag st) s = .next s) ∧
    (∀ (st : Fin 1024), s.cmdBusy R.ISP_CTX_STATUS = false → let u := s.setFld R.ISP_CTX_CMD 9 0 st
      let r := u.swapCheck ag st u.ctxAddr
      (r.2 = St.done → ∃ t, exec (.ispSwap ag st) s = .next t ∧ (t.ispStream st).ctx = some u.ctxAddr ∧ t.reg R.ISP_CTX_STATUS = 0) ∧
      (r.2 ≠ St.done → ∃ t, exec (.ispSwap ag st) s = .next t ∧ t.isp.streams = r.1.isp.streams ∧
        t.reg R.ISP_CTX_STATUS = BitVec.ofNat 32 (2 ^ 24 * r.2))) ∧
    (∀ (st : Fin 1024), s.cmdBusy R.ISP_CTX_STATUS = false → s.ofPart ag (s.ownerOf st) = true → ∃ t, exec (.ispResetModel ag st) s = .next t ∧
      (t.ispStream st).base = none ∧ (t.ispStream st).reqs = [] ∧ (t.ispStream st).ctx = (s.ispStream st).ctx ∧
      RegsBut [R.ISP_CTX_CMD] s t ∧ t.dram = s.dram) ∧
    (∀ (h : Fin 8) (v : Word), let st := bits v 25 16
      s.ofPart ag (s.ownerOf st) = true → bits v 2 0 ≠ 7 →
      let u := (s.setFld (R.ISP_SR_CTRL h) 25 16 st).setFld (R.ISP_SR_CTRL h) 2 0 (bits v 2 0)
      u.ofPart ag (u.ownerOf st) = true → u.postEnabled st = true →
      (4 ≤ u.openRequests st → ∃ t, exec (.ispPost ag h v) s = .next t ∧ t.isp = s.isp ∧ t.ports = s.ports ∧
        t.reg (R.ISP_SR_RESULT h) = BitVec.ofNat 32 (2 ^ 24 * St.busy)) ∧
      (u.openRequests st < 4 → ∃ t r, exec (.ispPost ag h v) s = .next t ∧ t.isp.serial = s.isp.serial + 1 ∧
        (t.ispStream st).reqs = (s.ispStream st).reqs ++ [r] ∧ r.id = s.reg (R.ISP_SR_ID h) ∧ r.exposure = s.reg (R.ISP_SR_EXPOSURE h) ∧
        t.reg (R.ISP_SR_RESULT h) = 0 ∧ t.dram = s.dram))

/-- O24. For every agent, graph ID and state that runs. While a graph command is in progress the four are ignored. Otherwise LOAD at an
address that is no multiple of 64 answers ALIGN_FAULT, one past DRAM RANGE_FAULT, each with registers alone changed; otherwise it answers
what the load of the image answers; an image without rings and neural nodes that is read and passes the checks makes the graph resident,
stopped, and answers DONE. UNLOAD, START and STOP of a graph that is not resident answer RANGE_FAULT, and where R155 refuses the agent
PARTITION_FAULT, the graphs being unchanged. UNLOAD of a started graph, or of one with jobs, is BUSY; else the graph is gone. START marks
the graph started; STOP unmarks it and discards its pending triggers. (04_frame_graphs.md, R154, R155, R156, R157) -/
def Obligations.GraphCommands : Prop :=
  ∀ (ag : Agent) (g : Fin 256) (s : State), s.awake = true →
    (s.cmdBusy R.FGS_GRAPH_STATUS = true → (∀ place, exec (.graphLoad ag g place) s = .next s) ∧
      ∀ c ∈ [Instr.graphUnload ag g, .graphStart ag g, .graphStop ag g], exec c s = .next s) ∧
    (s.cmdBusy R.FGS_GRAPH_STATUS = false →
     let u := s.setFld R.FGS_GRAPH_CMD 7 0 g
     let show_ (n : Nat) : Word := BitVec.ofNat 32 (2 ^ 24 * n + 0xFF * 65536)
     (∀ place, u.graphAddr % 64 ≠ 0 → ∃ t, exec (.graphLoad ag g place) s = .next t ∧ t.reg R.FGS_GRAPH_STATUS = show_ St.alignFault ∧
        OnlyCmd [R.FGS_GRAPH_CMD, R.FGS_GRAPH_STATUS] s t) ∧
     (∀ place, u.graphAddr % 64 = 0 → dramEnd < u.graphAddr + 64 → ∃ t, exec (.graphLoad ag g place) s = .next t ∧
        t.reg R.FGS_GRAPH_STATUS = show_ St.rangeFault ∧ OnlyCmd [R.FGS_GRAPH_CMD, R.FGS_GRAPH_STATUS] s t) ∧
     (∀ place, u.graphAddr % 64 = 0 → u.graphAddr + 64 ≤ dramEnd → ∃ t, exec (.graphLoad ag g place) s = .next t ∧
        (let r := u.loadHeader ag g u.graphAddr place
         t.reg R.FGS_GRAPH_STATUS = BitVec.ofNat 32 (2 ^ 24 * r.2.1 + r.2.2 % 256 * 65536) ∧ t.fgs = r.1.fgs ∧ t.dram = r.1.dram)) ∧
     (∀ place, u.graphAddr % 64 = 0 → u.graphAddr + 64 ≤ dramEnd →
        let hr := u.readAgain ⟨0x38, 3, 1⟩ u.graphAddr 64 2
        let h := (List.range 16).map (wordAt hr.2.2)
        let ir := hr.1.readAgain (whoPart 0x38 (ghPart h)) u.graphAddr (ghBytes h) 2
        let p := parseGraph g u.graphAddr h ir.2.2
        hr.2.1 = St.done → u.graphAddr + ghBytes h ≤ dramEnd → ir.2.1 = St.done → (ir.1.loadCheck ag p h ir.2.2).1 = St.done →
        p.graph.rings = [] → (∀ n < p.graph.nodes.length, (p.graph.node n).kind ≠ NK.nc) → ∃ t, exec (.graphLoad ag g place) s = .next t ∧
          t.reg R.FGS_GRAPH_STATUS = show_ St.done ∧ t.fgs.graphs = s.fgs.graphs ++ [p.graph] ∧ t.fgs.jobs = s.fgs.jobs) ∧
     (s.graph? g = none → ∀ c ∈ [Instr.graphUnload ag g, .graphStart ag g, .graphStop ag g], ∃ t, exec c s = .next t ∧
        t.reg R.FGS_GRAPH_STATUS = show_ St.rangeFault ∧ OnlyCmd [R.FGS_GRAPH_CMD, R.FGS_GRAPH_STATUS] s t) ∧
     (∀ x, s.graph? g = some x → s.graphRefused ag x = true → ∀ c ∈ [Instr.graphUnload ag g, .graphStart ag g, .graphStop ag g],
        ∃ t, exec c s = .next t ∧ t.reg R.FGS_GRAPH_STATUS = show_ St.partitionFault ∧ t.fgs = s.fgs) ∧
     (∀ x, s.graph? g = some x → s.graphRefused ag x = false →
        (x.started || s.fgs.jobs.any (·.graph == g) → ∃ t, exec (.graphUnload ag g) s = .next t ∧
          t.reg R.FGS_GRAPH_STATUS = show_ St.busy ∧ OnlyCmd [R.FGS_GRAPH_CMD, R.FGS_GRAPH_STATUS] s t) ∧
        (x.started = false → s.fgs.jobs.any (·.graph == g) = false → ∃ t, exec (.graphUnload ag g) s = .next t ∧
          t.reg R.FGS_GRAPH_STATUS = show_ St.done ∧ t.fgs.graphs = s.fgs.graphs.filter (·.id != x.id) ∧ t.fgs.jobs = s.fgs.jobs) ∧
        (∃ t, exec (.graphStart ag g) s = .next t ∧ t.reg R.FGS_GRAPH_STATUS = show_ St.done ∧
          t.fgs.graphs = s.fgs.graphs.map (fun y => if y.id = g.val then { y with started := true } else y) ∧
          RegsBut [R.FGS_GRAPH_CMD, R.FGS_GRAPH_STATUS] s t) ∧
        (∃ t, exec (.graphStop ag g) s = .next t ∧ t.reg R.FGS_GRAPH_STATUS = show_ St.done ∧
          t.fgs.graphs = s.fgs.graphs.map (fun y => if y.id = g.val then { y with started := false, pending := [] } else y) ∧
          RegsBut [R.FGS_GRAPH_CMD, R.FGS_GRAPH_STATUS] s t)))

/-- O25. For every state that runs. While the sequencer is held, the device safe or no trigger waits, JOB_INSTANTIATE changes nothing; else a
job of the selected trigger is added behind the others, POSTING, with the next job number, its graph's partition and nodes and the
trigger's tag. With no job POSTING, JOB_TASK_POST changes nothing; with its next task unposted and the queue full it records the
backpressure alone; with room the task joins the post queue, HTS_POSTS_CNT counts, and the job's JOINs are judged. The expiry of a JOIN's
wait judges the JOINs of every job: the only JOIN of the only job, with no edge, no window and its wait over, commits with the frames it
has. WATCHDOG_CLOSE marks every node LATE that is past its close and neither late nor committed. JOB_TIMEOUT aborts a job as old as its
graph's limit and no other: a RUNNING job whose open nodes run on host cores is ABORTING and timed out, with the abort pending at each.
With no job and no result waiting, none of the three changes anything. (04_frame_graphs.md, R162, R163, R164, R177, R183, R184, R190) -/
def Obligations.JobsAreInstantiatedAndPosted : Prop :=
  ∀ (s : State), s.awake = true →
    (s.fgsHeld = true ∨ s.isSafe = true ∨ s.nextTrigger = none → exec .jobInstantiate s = .next s) ∧
    (s.fgsHeld = false → s.isSafe = false → ∀ g tr, s.nextTrigger = some (g, tr) → ∃ t j, exec .jobInstantiate s = .next t ∧
      t.fgs.jobs = s.fgs.jobs ++ [j] ∧ j.id = s.fgs.nextJob ∧ t.fgs.nextJob = s.fgs.nextJob + 1 ∧ j.graph = g.id ∧ j.part = g.part ∧
      j.state = .posting ∧ j.trig.tag = tr.tag ∧ j.nodes.length = g.nodes.length ∧ t.dram = (s.imageRead g).dram) ∧
    (s.fgs.jobs.find? (·.state == .posting) = none → exec .jobTaskPost s = .next s) ∧
    (∀ j n, s.fgs.jobs.find? (·.state == .posting) = some j → (List.range j.nodes.length).find? (fun n => (j.node n).unposted) = some n →
      (∀ i, s.postqFull = true → (j.node n).task = some i →
        exec .jobTaskPost s = .next (s.crumb 6 j.part (s.task i).level (s.task i).cls 0x38 1 0)) ∧
      (∀ i m, s.postqFull = false → s.job? j.id = some j → (j.node n).task = some i → m ≠ n → m < j.nodes.length → (j.node m).unposted = true →
        exec .jobTaskPost s = .next (State.joinsOfJob
          (State.modNode (s.enqueue (s.taskPost i)) j.id n (fun x => { x with posted := true })) j.id))) ∧
    (exec .joinWaitExpiry s = .next (s.fgs.jobs.foldl (fun s j => s.joinsOfJob j.id) s)) ∧
    (∀ j g n m, s.fgs.jobs = [j] → s.graph? j.graph = some g → g.edges = [] → n < g.nodes.length → (g.node n).kind = NK.join →
      (∀ k < g.nodes.length, (g.node k).kind = NK.join → k = n) → (g.node n).wdClose = 0 → n < j.nodes.length → (j.node n).committed = false →
      j.trig.time + 1000 * bits (wd (g.node n).args 0) 15 0 ≤ s.now → m ≠ n → m < j.nodes.length → (j.node m).committed = false →
      ∃ t y, exec .joinWaitExpiry s = .next t ∧ t.fgs.jobs = [y] ∧ (y.node n).committed = true ∧ (y.node n).ran = true ∧
        usable (y.node n).status = true ∧ (y.node m).committed = false) ∧
    (∀ j g, s.fgs.jobs = [j] → s.graph? j.graph = some g →
      exec .watchdogClose s = .next (((List.range g.nodes.length).foldl
        (fun s n => if s.pastClose (g.node n) j then s.raiseLate g j.id n else s) s).emitExpire) ∧
      (∀ n, (j.node n).late = false → (j.node n).committed = false →
        s.raiseLate g j.id n = (s.modNode j.id n (fun x => { x with late := true, raised := x.raised ||| Mark.late })).wdReport g n false) ∧
      (∀ n, s.pci.waiting = [] → n < g.nodes.length → n < j.nodes.length → s.pastClose (g.node n) j = true → (j.node n).late = false →
        (j.node n).committed = false → ∃ t y, exec .watchdogClose s = .next t ∧ t.fgs.jobs = [y] ∧ (y.node n).late = true ∧
          (y.node n).raised = (j.node n).raised ||| Mark.late ∧ t.hts = s.hts ∧ t.dram = s.dram) ∧
      (s.pci.waiting = [] → j.trig.time + 1000 * g.timeoutUs ≤ s.now → j.state = .running → j.nodes.length ≤ 128 →
        (∀ n < j.nodes.length, (j.node n).committed = false → ∃ i c, (j.node n).task = some i ∧ (s.task i).state = .running ∧
          (s.task i).worker = some c ∧ c ≤ 7) →
        ∃ t y, exec .jobTimeout s = .next t ∧ t.fgs.jobs = [y] ∧ y.state = .aborting ∧ y.timedOut = true ∧ y.abortSeen = true ∧
          ∀ n < j.nodes.length, (j.node n).committed = false → ∀ i, (j.node n).task = some i → (t.task i).abortPending = true) ∧
      (s.pci.waiting = [] → (j.trig.time + 1000 * g.timeoutUs ≤ s.now → exec .jobTimeout s = .next (s.abortJob j.id true)) ∧
        (s.now < j.trig.time + 1000 * g.timeoutUs → exec .jobTimeout s = .next s))) ∧
    (s.fgs.jobs = [] → s.pci.waiting = [] → exec .joinWaitExpiry s = .next s ∧ exec .watchdogClose s = .next s ∧ exec .jobTimeout s = .next s)

/-- O26. For every agent and state that runs. FGS_ENABLE sets or clears FGS_CTRL.ENABLE alone. FGS_CLEAR_COUNTS zeroes the eight counters
alone. While an abort is in progress FGS_ABORT is ignored. Otherwise, of a graph with no job it answers RANGE_FAULT, or ABORT_LATE where a
job of it has committed in the same cycle; of one RUNNING job it answers DONE with ABORTED_JOBS 1, and after the lock one of a P0 or P1
graph by any agent but the safety island PARTITION_FAULT, with registers alone changed. A completion queue register of partition p written
by an agent of p or by the SMC, no record being held back, takes the value, and source 17 + p pends exactly where TAIL and HEAD differ;
another agent is refused. (04_frame_graphs.md, R50, R165, R193, R194, R195) -/
def Obligations.SequencerRegisters : Prop :=
  ∀ (ag : Agent) (s : State), s.awake = true →
    (∀ on, ∃ t, exec (.fgsEnable ag on) s = .next t ∧ t.flag R.FGS_CTRL 0 = on ∧
      (∀ k, k ≠ 0 → t.flag R.FGS_CTRL k = s.flag R.FGS_CTRL k) ∧ OnlyRegs [R.FGS_CTRL] s t) ∧
    (∃ t, exec (.fgsClearCounts ag) s = .next t ∧
      (let cs := [R.FGS_TRIGGER_CNT, R.FGS_SUPERSEDED_CNT, R.FGS_JOBS_CNT, R.FGS_EMIT_DROP_CNT, R.FGS_WD_EARLY_CNT, R.FGS_WD_LATE_CNT,
         R.FGS_SLOT_FAULT_CNT, R.FGS_HELD_US]
       (∀ o ∈ cs, t.reg o = 0) ∧ OnlyRegs cs s t)) ∧
    (∀ v, s.cmdBusy R.FGS_ABORT_STATUS = true → exec (.fgsAbort ag v) s = .next s) ∧
    (∀ v, s.cmdBusy R.FGS_ABORT_STATUS = false → s.fgs.jobs.any (fun j => j.graph == bits v 7 0) = false → s.graph? (bits v 7 0) = none →
      (s.fgs.ended = [] → ∃ t, exec (.fgsAbort ag v) s = .next t ∧
        t.fld R.FGS_ABORT_STATUS 31 24 = St.rangeFault ∧ OnlyCmd [R.FGS_ABORT, R.FGS_ABORT_STATUS] s t) ∧
      (bit v 8 = false → s.fgs.ended.any (fun e => e.1 == bits v 7 0) = true → ∃ t, exec (.fgsAbort ag v) s = .next t ∧
        t.fld R.FGS_ABORT_STATUS 31 24 = St.abortLate ∧ OnlyCmd [R.FGS_ABORT, R.FGS_ABORT_STATUS] s t)) ∧
    (∀ v g, s.cmdBusy R.FGS_ABORT_STATUS = false → s.graph? (bits v 7 0) = some g → g.part ≤ 1 → s.locked = true → ag ≠ .safety → ∃ t, exec (.fgsAbort ag v) s = .next t ∧
      t.fld R.FGS_ABORT_STATUS 31 24 = St.partitionFault ∧ OnlyCmd [R.FGS_ABORT, R.FGS_ABORT_STATUS] s t) ∧
    (∀ v j, s.cmdBusy R.FGS_ABORT_STATUS = false → s.fgs.jobs = [j] → j.graph = bits v 7 0 → bit v 8 = false → j.state = .running → (s.locked = false ∨ ag = .safety) →
      ∃ t, exec (.fgsAbort ag v) s = .next t ∧ t.reg R.FGS_ABORT_STATUS = BitVec.ofNat 32 (2 ^ 24 * St.done + 256)) ∧
    (∀ (p k : Fin 4) v, ag = .smc ∨ (isFull ag = false ∧ s.partOf ag = p) → s.cqWaiting p = [] →
      ∃ t, exec (.fgsCqWrite ag p k v) s = .next t ∧
        (let o := [R.FGS_CQ_BASE_LO p, R.FGS_CQ_BASE_HI p, R.FGS_CQ_SIZE p, R.FGS_CQ_HEAD p].getD k 0
         (k ≠ 1 → t.reg o = v) ∧ (k = 1 → t.fld o 7 0 = bits v 7 0) ∧ RegsBut [o] s t) ∧
        (17 + p.val ∈ t.host.irq ↔ t.reg (R.FGS_CQ_TAIL p) ≠ t.reg (R.FGS_CQ_HEAD p)) ∧ t.dram = s.dram) ∧
    (∀ (p k : Fin 4) v, ag ≠ .smc → (isFull ag = true ∨ s.partOf ag ≠ p) → exec (.fgsCqWrite ag p k v) s = .next (s.refuse ag p))

/-- O27. For every graph g, ring r and state that runs. A free ring whose edge some job still needs goes to the first such job, its slots set
free; with no ring nothing changes. A commit by the running producer whose slot is FILLING and whose rows for that slot are formed moves
the producer on to the next slot, the ring still its job's; where the slot is not FILLING nothing changes. A release by the running
consumer whose slot is DRAINING, needed no more and read without a parity error, moves the consumer on with the bytes read; one whose slot
is not DRAINING changes nothing. A consumer stalled for the ring's limit fails with SLOT_STARVED, else a producer with SLOT_BLOCKED: its
task is DONE and its node has committed with that status (where the other end has committed and nothing else follows). With neither
nothing changes. (04_frame_graphs.md, R185, R186, R187, R188, R189) -/
def Obligations.SlotRingsMove : Prop :=
  ∀ (g : Fin 256) (r : Fin 32) (bs : List Byte) (last : Bool) (s : State), s.awake = true →
    (s.ring? g r = none → exec (.ringGrant g r) s = .next s ∧ exec (.ringSlotCommit g r bs last) s = .next s ∧
      exec (.ringSlotRelease g r) s = .next s ∧ exec (.slotRingTimeout g r) s = .next s) ∧
    (∀ x gr e j, s.ring? g r = some x → x.owner = none → s.graph? g = some gr →
      gr.edges.find? (fun e => e.typ == Edge.ring && e.ring == r.val) = some e →
      (s.fgs.jobs.filter (fun j => j.graph == g.val && decide (x.next ≤ j.id) && !((j.node e.src).committed && (j.node e.dst).committed))).head? = some j →
      ∃ t, exec (.ringGrant g r) s = .next t ∧
        t.fgs.rings = s.fgs.rings.map (fun y => if y.graph = g.val ∧ y.idx = r.val then { y.released with owner := some j.id } else y) ∧
        t.spm = s.spm ∧ t.fgs.jobs = s.fgs.jobs) ∧
    (∀ x gr j e, s.ringJob g r = some (x, gr, j, e) →
      (∀ i d id, s.ringEnd gr r j e.src = some (i, d) → (s.task i).worker = some id → (x.at_ x.prod).state = .filling → x.inDone = false →
        s.creditWaits id = false → s.jobWaits i = false →
        (0x20 ≤ id → id ≤ 0x29 →
          let q := s.engRun id i (s.readBudget i)
          let made := (q.1.ringPieces i d.region q.2.2).foldl (fun m o => putOpt m (d.ringOff o.outer + o.first) o.bytes) []
          q.2.1 = St.done → (q.1.ringSend gr x d made).2 = true → ∃ t y, exec (.ringSlotCommit g r bs last) s = .next t ∧ t.ring? g r = some y ∧
            y.prod = x.prod + 1 ∧ y.cons = x.cons ∧ y.owner = x.owner ∧ t.fgs.jobs = s.fgs.jobs) ∧
        (0x10 ≤ id → id ≤ 0x17 → (s.ringSend gr x d (s.ncMade x i d.region)).2 = true → ∃ t y, exec (.ringSlotCommit g r bs last) s = .next t ∧
          t.ring? g r = some y ∧ y.prod = x.prod + 1 ∧ y.cons = x.cons ∧ y.owner = x.owner ∧ t.fgs.jobs = s.fgs.jobs ∧ t.dram = s.dram)) ∧
      ((x.at_ x.prod).state ≠ .filling → exec (.ringSlotCommit g r bs last) s = .next s) ∧
      (∀ i d, s.ringEnd gr r j e.dst = some (i, d) → (x.at_ x.cons).state = .draining → s.creditWaits ((s.task i).worker.getD 0x38) = false →
        s.jobWaits i = false → s.slotSpent x i d = true →
        let u := s.spmRead ((s.task i).worker.getD 0x38) gr.part false true (gr.slotPlace r x.cons).1 (gr.slotPlace r x.cons).2.1 (x.at_ x.cons).bytes
        u.2.1 ≠ St.integrity → ∃ t y, exec (.ringSlotRelease g r) s = .next t ∧ t.ring? g r = some y ∧ y.cons = x.cons + 1 ∧
          y.prod = x.prod ∧ y.data = x.data ++ u.2.2 ∧ y.owner = x.owner ∧ t.fgs.jobs = s.fgs.jobs ∧ t.dram = s.dram) ∧
      ((x.at_ x.cons).state ≠ .draining → exec (.ringSlotRelease g r) s = .next s) ∧
      (let us := (gr.rings.getD r ⟨0, 0, 1, 1, 1⟩).timeoutUs
       (∀ i a, x.consStall = some a → a + 1000 * us ≤ s.now → s.nodeTaskRunning j e.dst = some i →
         exec (.slotRingTimeout g r) s = .next (s.failTask i St.slotStarved)) ∧
       (∀ i a, x.consStall = none → x.prodStall = some a → a + 1000 * us ≤ s.now → s.nodeTaskRunning j e.src = some i →
         exec (.slotRingTimeout g r) s = .next (s.failTask i St.slotBlocked)) ∧
       (∀ i a n k m, gr.edges = [e] → (n = e.dst ∧ k = e.src ∧ x.consStall = some a) ∨ (n = e.src ∧ k = e.dst ∧ x.consStall = none ∧ x.prodStall = some a) →
         a + 1000 * us ≤ s.now → s.nodeTaskRunning j n = some i → (s.task i).worker ≠ none → (s.task i).owner = .node j.id n →
         j.graph = g.val → (j.node k).committed = true → (j.node n).committed = false → (gr.node n).wdClose = 0 → n < j.nodes.length →
         m ≠ n → m < j.nodes.length → (j.node m).committed = false → ∃ t y, exec (.slotRingTimeout g r) s = .next t ∧
           (t.task i).state = .done ∧ t.job? j.id = some y ∧ (y.node n).committed = true ∧
           (y.node n).status = (if n = e.dst then St.slotStarved else St.slotBlocked)) ∧
       (x.consStall = none → x.prodStall = none → exec (.slotRingTimeout g r) s = .next s)))

/-- O28. For every state that runs. POST_TRY of a valid set by an agent of its partition, with room in the queue, quota left and a free entry:
the entry is POSTING with the set's partition, mask and flags, its post is last in the queue, its handle in HTS_PS_HANDLE and the read
answers DONE. An invalid set answers DESC_INVALID, a full queue or a spent quota BUSY, the tasks unchanged. EVENT_TRY with room appends
the event and answers DONE. The scheduler takes the first post: a task with a delay becomes DELAYED; one whose mask is satisfied becomes
READY by the common rule; another becomes WAITING; the post of an entry aborted or given away since does nothing; an event is delivered.
An expired delay makes its task READY, last in order, if satisfied, else WAITING; an expired timeout makes it READY with TIMED_OUT. With
an empty queue, no expired delay or no expired timeout nothing changes. (05_task_scheduler.md, R196, R198, R199, R200, R209, R211, R219,
R223) -/
def Obligations.PostsEnterAndLeaveTheQueue : Prop :=
  ∀ (ag : Agent) (h : Fin 8) (s : State), s.awake = true →
    (s.ofPart ag (s.setPart h) = true →
      (s.postInvalid h = true → exec (.postTry ag h) s = .next { s with reply := .data (BitVec.ofNat 32 (2 ^ 24 * St.descInvalid)) }) ∧
      (s.postInvalid h = false → s.postqFull = true ∨ s.quotaLeft (s.setPart h) = 0 → ∃ t, exec (.postTry ag h) s = .next t ∧ t.hts = s.hts ∧
        t.reply = .data (BitVec.ofNat 32 (2 ^ 24 * St.busy))) ∧
      (s.postInvalid h = false → s.postqFull = false → s.quotaLeft (s.setPart h) ≠ 0 → ∀ i, s.freeHead = some i →
        ∃ t, exec (.postTry ag h) s = .next t ∧ t.hts.postq = s.hts.postq ++ [.task i (s.task i).gen] ∧ (t.task i).state = .posting ∧
          (t.task i).part = s.setPart h ∧ (t.task i).gen = (s.task i).gen ∧ (t.task i).mask = s.reg (R.HTS_PS_MASK h) ∧
          (t.task i).flags = s.reg (R.HTS_PS_FLAGS h) ∧ t.reg (R.HTS_PS_HANDLE h) = s.handle i ∧ t.reply = .data 0 ∧
          (∀ k, k ≠ i → t.task k = s.task k)) ∧
      (s.postqFull = false → ∃ t, exec (.eventTry ag h) s = .next t ∧ t.reply = .data 0 ∧
        t.hts = { s.hts with postq := s.hts.postq ++ [.event (s.reg (R.HTS_PS_EVT_TARGET h)) (s.reg (R.HTS_PS_EVT_FLAGS h)) (agentId ag)
          (s.setPart h) (isFull ag)] } ∧
        (t.reg R.HTS_POSTS_CNT).toNat = min ((s.reg R.HTS_POSTS_CNT).toNat + 1) 0xFFFFFFFF)) ∧
    (s.ofPart ag (s.setPart h) = false → ∀ c ∈ [Instr.postTry ag h, .eventTry ag h], ∃ t, exec c s = .next t ∧ t.hts = s.hts ∧
      t.reply = .data (BitVec.ofNat 32 (2 ^ 24 * St.partitionFault))) ∧
    (s.hts.postq = [] → exec .postQueueTake s = .next s) ∧
    (∀ i gen q, s.hts.postq = .task i gen :: q → (s.task i).state ≠ .posting ∨ (s.task i).gen ≠ gen →
      exec .postQueueTake s = .next { s with hts.postq := q }) ∧
    (∀ i q, s.hts.postq = .task i (s.task i).gen :: q → (s.task i).state = .posting →
      let u : State := { s with hts.postq := q }
      ((s.task i).delay ≠ 0 → ∃ t, exec .postQueueTake s = .next t ∧ (t.task i).state = .delayed ∧ t.hts.postq = q ∧
        t.hts.delays = s.hts.delays ++ [⟨i, false, (s.task i).delay⟩] ∧ t.hts.ready = s.hts.ready) ∧
      ((s.task i).delay = 0 → s.satisfied (s.task i) = true → ∃ t, exec .postQueueTake s = .next t ∧
        t = u.makeReady i 0x39 false ∧ (t.task i).state = .ready ∧ t.hts.ready = s.hts.ready ++ [i] ∧ t.hts.postq = q) ∧
      ((s.task i).delay = 0 → s.satisfied (s.task i) = false → ∃ t, exec .postQueueTake s = .next t ∧ (t.task i).state = .waiting ∧
        t.hts.postq = q ∧ t.hts.ready = s.hts.ready ∧
        t.hts.delays = s.hts.delays ++ (if (s.task i).timeout = 0 then [] else [⟨i, true, (s.task i).timeout⟩]))) ∧
    (∀ target flags a p x q, s.hts.postq = .event target flags a p x :: q →
      exec .postQueueTake s = .next (State.deliverEvent { s with hts.postq := q } target flags a p x)) ∧
    (s.expired false = none → exec .delayExpiry s = .next s) ∧
    (∀ i, s.expired false = some i →
      let u := State.crumbTask { s with hts.delays := s.hts.delays.filter (·.idx != i) } 4 i 0x39 0
      (u.satisfied (u.task i) = true → ∃ t, exec .delayExpiry s = .next t ∧ t = u.makeReady i 0x39 false ∧ (t.task i).state = .ready ∧
        (t.task i).timedOut = false ∧ t.hts.ready = s.hts.ready ++ [i] ∧ t.hts.delays = s.hts.delays.filter (·.idx != i)) ∧
      (u.satisfied (u.task i) = false → ∃ t, exec .delayExpiry s = .next t ∧ (t.task i).state = .waiting ∧ t.hts.ready = s.hts.ready)) ∧
    (s.expired true = none → exec .taskTimeout s = .next s) ∧
    (∀ i, s.expired true = some i → ∃ t, exec .taskTimeout s = .next t ∧
      t = ((s.crumbTask 4 i 0x39 1).bump R.HTS_TIMEOUT_CNT).makeReady i 0x39 true ∧ (t.task i).state = .ready ∧ (t.task i).timedOut = true ∧
      t.hts.ready = s.hts.ready ++ [i] ∧ t.hts.delays = s.hts.delays.filter (·.idx != i))

/-- O29. For every state that runs. With the scheduler off TASK_DISPATCH changes nothing. On: a core in INTERRUPT mode is assigned the
selected task, which runs there; an idle powered engine starts the task selected for it, or resumes it; class 0 feeds the ISP queue; an
EMIT task runs in the sequencer unless a fill holds its payload, and a TASTER task whose arguments are good runs in the island; a DMA
engine serves task channels. WINDOW_OPEN changes no task's state and only asks for yields. HTS_TAKE of an idle core in TAKE mode answers
the handle of the selected task, which runs there, or, with none, waits at most TAKE_TIMEOUT, the wait ending with 0. HTS_DONE ends the
core's task with the status written, or ABORTED where an abort had reached it: DONE with that status, or with its node committed; a core
without a task counts in HTS_PROTO_CNT. HTS_YIELD puts the task back at the head, READY. Another agent's accesses are refused.
(05_task_scheduler.md, R202, R203, R204, R206, R207, R214, R215, R216, R217, R218) -/
def Obligations.WorkersAreGivenTasks : Prop :=
  ∀ (s : State), s.awake = true →
    (∀ w, s.flag R.HTS_CTRL 0 = false → exec (.taskDispatch w) s = .next s) ∧
    (s.flag R.HTS_CTRL 0 = true →
      (∀ (n : Fin 8) i, s.coreTask n = some i → s.takeMode n = false → ∃ t, exec (.taskDispatch (.hc n)) s = .next t ∧
        t = s.giveCore n i ∧ (t.task i).state = .running ∧ (t.task i).worker = some n.val) ∧
      (∀ (n : Fin 8), s.coreTask n = none → exec (.taskDispatch (.hc n)) s = .next s) ∧
      (∀ e ∈ [Agent.nc 0, .nc 1, .nc 2, .nc 3, .nc 4, .nc 5, .nc 6, .nc 7,
          .pge 0, .pge 1, .wpe 0, .wpe 1, .ofe 0, .ofe 1, .sge, .fte], s.runningOn (agentId e) = none →
        s.domState (domainOf (agentId e)) = Dom.on →
        (s.selectFor (agentId e) = none → exec (.taskDispatch e) s = .next s) ∧
        (∀ i, s.selectFor (agentId e) = some i → let u := (s.giveArg i).startOn i (agentId e)
          let r := u.engineStart (agentId e) i
          ((u.task i).started = false → r.2 = St.done → exec (.taskDispatch e) s = .next ((r.1.takeCredits i (agentId e)).ringsAtDispatch i)) ∧
          ((u.task i).started = false → r.2 ≠ St.done → exec (.taskDispatch e) s = .next (r.1.failTask i r.2)) ∧
          ((u.task i).started = true → exec (.taskDispatch e) s = .next (u.engineResume (agentId e) i)))) ∧
      (∀ i, s.bestOf (s.hts.ready.filter (fun i => (s.task i).cls == 0)) = some i → s.isp.queue.length < 64 → ∃ t,
        exec (.taskDispatch (.isp 0)) s = .next t ∧ t.isp.queue = s.isp.queue ++ [i] ∧ t.hts.ready = s.hts.ready.filter (· != i)) ∧
      (∀ i, s.selectFor emitUnit = some i → exec (.taskDispatch .fgs) s =
        .next (if s.emitWaits i then s else (((s.giveArg i).startOn i emitUnit).ringsAtDispatch i).emit i)) ∧
      (∀ i, s.runningOn tasterUnit = none → s.selectFor tasterUnit = some i →
        let r := ((s.giveArg i).startOn i tasterUnit).tasterStart i
        r.2 = St.done → exec (.taskDispatch .safety) s = .next (r.1.ringsAtDispatch i)) ∧
      (∀ (e : Fin 4), exec (.taskDispatch (.dmae e)) s = .next (s.dmaDispatch e))) ∧
    (∃ t, exec .windowOpen s = .next t ∧ t = { s with hts := t.hts } ∧ t.hts.ready = s.hts.ready ∧
      ∀ i, (t.task i).state = (s.task i).state ∧ (t.task i).worker = (s.task i).worker) ∧
    (∀ (ag : Agent) (n : Fin 8), agentId ag = n → (s.hcs n).takeUntil = none →
      (s.takeMode n = false → exec (.htsTake ag n) s = .next { s with reply := .data 0 }) ∧
      (s.takeMode n = true → s.runningOn n = none →
        (∀ i, s.coreTask n = some i → ∃ t, exec (.htsTake ag n) s = .next t ∧ t = s.takeCore n i ∧ t.reply = .data (s.handle i) ∧
          (t.task i).state = .running ∧ (t.task i).worker = some n.val) ∧
        (s.coreTask n = none → s.fld (R.HTS_HC_CFG n) 19 8 = 0 → exec (.htsTake ag n) s = .next { s with reply := .data 0 }) ∧
        (s.coreTask n = none → s.fld (R.HTS_HC_CFG n) 19 8 ≠ 0 → exec (.htsTake ag n) s = .next { s with
          reply := .nothing, hts.hcs := setAt s.hts.hcs n { s.hcs n with takeUntil := some (s.now + 1000 * min (s.fld (R.HTS_HC_CFG n) 19 8) 1000) } }))) ∧
    (∀ (n : Fin 8) a, (s.hcs n).takeUntil = some a →
      (a ≤ s.now → exec (.takeTimeout n) s = .next { s with reply := .data 0, hts.hcs := setAt s.hts.hcs n { s.hcs n with takeUntil := none } }) ∧
      (s.now < a → exec (.takeTimeout n) s = .next s)) ∧
    (∀ (ag : Agent) (n : Fin 8) (v : Word), agentId ag = n →
      (s.runningOn n = none → exec (.htsDone ag n v) s = .next (s.bump R.HTS_PROTO_CNT)) ∧
      (∀ i, s.runningOn n = some i → (s.hcs n).preempt = none → ∃ d, exec (.htsDone ag n v) s = .next ((s.draw.2.clearCore n).finishTask i
        ⟨if (s.task i).abortPending then St.aborted else bits v 31 24, n, Kind.node, d, bits v 23 0, 0,
          recFlags false false (s.task i).abortPending false false, false, true⟩)) ∧
      (∀ i, s.runningOn n = some i → (s.hcs n).preempt = none → (s.task i).owner = .software → (s.task i).ondone = false →
        (s.task i).holdDone = true → ∃ t, exec (.htsDone ag n v) s = .next t ∧ (t.task i).state = .done ∧ (t.task i).worker = none ∧
          (t.task i).status = (if (s.task i).abortPending then St.aborted else bits v 31 24) ∧ t.reg (R.HTS_CUR n) = 0) ∧
      (∀ i j k, s.runningOn n = some i → (s.hcs n).preempt = none → Lone s n i j k → ∃ t, exec (.htsDone ag n v) s = .next t ∧ Ended t i j k) ∧
      (bit v 0 = true → ∀ i, s.runningOn n = some i → (s.hcs n).preempt = none → exec (.htsYield ag n v) s =
        .next (((s.clearCore n).yieldTask i (s.task i).level).reassign n) ∧
        (s.takeMode n = true → ∃ t, exec (.htsYield ag n v) s = .next t ∧ (t.task i).state = .ready ∧ (t.task i).worker = none ∧
          (t.task i).yielded = true ∧ t.hts.ready = i :: s.hts.ready)) ∧
      (bit v 0 = false → exec (.htsYield ag n v) s = .next s)) ∧
    (∀ (ag : Agent) (n : Fin 8) (v : Word), agentId ag ≠ n → ∀ c ∈ [Instr.htsDone ag n v, .htsYield ag n v],
      exec c s = .next { s with reports := s.reports ++ [⟨agentId ag, St.partitionFault, s.partOf ag⟩] })

/-- O30. For every agent and state that runs. While an abort is in progress HTS_ABORT is ignored. HTS_ABORT with a handle that names no task
answers RANGE_FAULT; of another partition's task PARTITION_FAULT; of a task the sequencer posted DESC_INVALID; of a task that is DONE
ABORT_LATE, the tasks unchanged; of a RUNNING task DONE, the abort pending until it ends; of any other task DONE, the task committing
ABORTED. HTS_FREE of the agent's own DONE software task frees its entry for reuse behind the others, with the next generation (255 is
followed by 1). The flags named by a 1 in a group's clear leave the group's word, but for those that an event has set in the same cycle.
(05_task_scheduler.md, R197, R201, R220, R221, R227, R231) -/
def Obligations.TaskAbortAndFree : Prop :=
  ∀ (ag : Agent) (v : Word) (s : State), s.awake = true →
    (s.cmdBusy R.HTS_ABORT_STATUS = true → exec (.htsAbort ag v) s = .next s) ∧
    (bit v 31 = true → s.cmdBusy R.HTS_ABORT_STATUS = false →
      (s.named (s.reg R.HTS_ABORT_HANDLE) = none → ∃ t, exec (.htsAbort ag v) s = .next t ∧ t.fld R.HTS_ABORT_STATUS 31 24 = St.rangeFault ∧
        OnlyCmd [R.HTS_ABORT_STATUS] s t) ∧
      (∀ i, s.named (s.reg R.HTS_ABORT_HANDLE) = some i →
        (s.ofPart ag (s.task i).part = false → ∃ t, exec (.htsAbort ag v) s = .next t ∧ t.hts = s.hts ∧
          t.fld R.HTS_ABORT_STATUS 31 24 = St.partitionFault) ∧
        (s.ofPart ag (s.task i).part = true →
          ((s.task i).owner ≠ .software → ∃ t, exec (.htsAbort ag v) s = .next t ∧ t.fld R.HTS_ABORT_STATUS 31 24 = St.descInvalid ∧
            OnlyCmd [R.HTS_ABORT_STATUS] s t) ∧
          ((s.task i).owner = .software →
            ((s.task i).state = .done → ∃ t, exec (.htsAbort ag v) s = .next t ∧ t.fld R.HTS_ABORT_STATUS 31 24 = St.abortLate ∧
              OnlyCmd [R.HTS_ABORT_STATUS] s t) ∧
            ((s.task i).state = .running → ∃ t, exec (.htsAbort ag v) s = .next t ∧ t.reg R.HTS_ABORT_STATUS = 0 ∧
              (t.task i).abortPending = true ∧ (t.task i).state = .running ∧ (∀ k, k ≠ i → t.task k = s.task k)) ∧
            ((s.task i).state ≠ .done → (s.task i).state ≠ .running →
              ∃ t, exec (.htsAbort ag v) s = .next t ∧ t.reg R.HTS_ABORT_STATUS = 0 ∧ t.hts = (s.commitSoftware i St.aborted).hts))))) ∧
    (bit v 31 = false → exec (.htsAbort ag v) s = .next s) ∧
    (∀ i, s.named v = some i → (s.task i).owner = .software → (s.task i).state = .done → s.ofPart ag (s.task i).part = true →
      ∃ t, exec (.htsFree ag v) s = .next t ∧ (t.task i).state = .free ∧
        (t.task i).gen = (if (s.task i).gen = 255 then 1 else (s.task i).gen + 1) ∧ t.hts.freed = s.hts.freed ++ [i] ∧
        (∀ k, k ≠ i → t.task k = s.task k) ∧ t.regs = s.regs) ∧
    (s.named v = none → exec (.htsFree ag v) s = .next s) ∧
    (∀ (g : Fin 256), s.ofPart ag (s.groupPart g) = true → ∃ t, exec (.groupFlagsClear ag g v) s = .next t ∧
      (∀ k, t.flag (R.HTS_GROUP_FLAGS g) k = (s.flag (R.HTS_GROUP_FLAGS g) k && (!bit v k || bit (s.groupCycle g).2 k))) ∧
      RegsBut [R.HTS_GROUP_FLAGS g] s t ∧ t.hts.tasks = s.hts.tasks ∧ t = { s with regs := t.regs, hts := t.hts })

/-- O31. For every agent and state that runs. HTS_TICK takes 1 to 1,000 and ignores anything else. Before the lock a full agent sets the major
cycle to 10 to 1,000 ms, and a quota whose sum with the others stays within 8,192; other values, and every value after the lock, are
ignored; another agent is reported. HTS_ENABLE sets the enable alone; clearing zeroes the eight counters alone. Enabling a disabled timer
of the agent's partition arms it for its next expiry, disabling disarms it. An expiry before its instant changes nothing; at it TIM_COUNT
counts, a one-shot timer is disabled, and the next expiry is armed before graphs, DMA channels and strobes see it. (05_task_scheduler.md,
R196, R205, R210, R212, R213, R227, R230, R231) -/
def Obligations.SchedulerRegistersAndTimers : Prop :=
  ∀ (ag : Agent) (v : Word) (s : State), s.awake = true →
    (1 ≤ bits v 9 0 ∧ bits v 9 0 ≤ 1000 → ∃ t, exec (.htsTickWrite ag v) s = .next t ∧ t.fld R.HTS_TICK 9 0 = bits v 9 0 ∧ OnlyRegs [R.HTS_TICK] s t) ∧
    (bits v 9 0 = 0 ∨ 1000 < bits v 9 0 → exec (.htsTickWrite ag v) s = .next s) ∧
    (isFull ag = true → s.locked = false →
      (10 ≤ bits v 9 0 ∧ bits v 9 0 ≤ 1000 → ∃ t, exec (.htsMajorCycleWrite ag v) s = .next t ∧ t.fld R.HTS_MAJOR_CYCLE 9 0 = bits v 9 0 ∧
        OnlyRegs [R.HTS_MAJOR_CYCLE] s t) ∧
      (bits v 9 0 < 10 ∨ 1000 < bits v 9 0 → exec (.htsMajorCycleWrite ag v) s = .next s) ∧
      (∀ (p : Fin 4), let others := (((List.range 4).filter (· != p.val)).map (fun q => s.fld (R.HTS_QUOTA q) 13 0)).sum
        (others + bits v 13 0 ≤ 8192 → ∃ t, exec (.htsQuotaWrite ag p v) s = .next t ∧ t.fld (R.HTS_QUOTA p) 13 0 = bits v 13 0 ∧
          OnlyRegs [R.HTS_QUOTA p] s t) ∧
        (8192 < others + bits v 13 0 → exec (.htsQuotaWrite ag p v) s = .next s))) ∧
    (isFull ag = true → s.locked = true → exec (.htsMajorCycleWrite ag v) s = .next s ∧ ∀ p, exec (.htsQuotaWrite ag p v) s = .next s) ∧
    (isFull ag = false → exec (.htsMajorCycleWrite ag v) s = .next (s.refuseSys ag) ∧ ∀ p, exec (.htsQuotaWrite ag p v) s = .next (s.refuseSys ag)) ∧
    (∀ on, ∃ t, exec (.htsEnable ag on) s = .next t ∧ t.flag R.HTS_CTRL 0 = on ∧ (∀ k, k ≠ 0 → t.flag R.HTS_CTRL k = s.flag R.HTS_CTRL k) ∧
      OnlyRegs [R.HTS_CTRL] s t) ∧
    (∃ t, exec (.htsClearCounts ag) s = .next t ∧ (∀ o ∈ htsCounters, t.reg o = 0) ∧ OnlyRegs htsCounters s t) ∧
    (∀ (n : Fin 32), s.ofPart ag (s.fld (R.TIM_CTRL n) 31 30) = true → bits v 31 30 = s.fld (R.TIM_CTRL n) 31 30 →
      (bit v 0 = true → s.flag (R.TIM_CTRL n) 0 = false → ∃ t, exec (.timerEnable ag n v) s = .next t ∧
        t.fld (R.TIM_CTRL n) 2 0 = bits v 2 0 ∧ RegsBut [R.TIM_CTRL n] s t ∧ t.hts.timers = setAt s.hts.timers n { s.timer n with
          due := if s.timerRuns n then some (nextExpiry (s.reg (R.TIM_PERIOD n)).toNat (s.reg (R.TIM_PHASE n)).toNat s.nowUs) else none }) ∧
      (bit v 0 = false → ∃ t, exec (.timerEnable ag n v) s = .next t ∧ t.flag (R.TIM_CTRL n) 0 = false ∧
        t.hts.timers = setAt s.hts.timers n { s.timer n with due := none } ∧ RegsBut [R.TIM_CTRL n] s t)) ∧
    (∀ (n : Fin 32) d, (s.timer n).due = some d → s.timerRuns n = true →
      (s.now < 1000 * d → (s.timer n).undelivered = false → ∀ held, exec (.timerExpiry n held) s = .next s) ∧
      (1000 * d ≤ s.now → s.flag (R.TIM_CTRL n) 2 = false → ∀ held,
        let u := s.setReg (R.TIM_COUNT n) (s.reg (R.TIM_COUNT n) + 1)
        let u := if s.flag (R.TIM_CTRL n) 1 then u else u.setFlag (R.TIM_CTRL n) 0 false
        let u := (((u.timerArm n d).fgsTimer n).dmaTimer n).gpioStrobe n
        u.flag (R.TIM_CTRL n) 2 = false → exec (.timerExpiry n held) s = .next u ∧ u.hts.timers = setAt s.hts.timers n { s.timer n with
          due := if s.flag (R.TIM_CTRL n) 0 && s.flag (R.TIM_CTRL n) 1 then
            some (nextExpiry (s.reg (R.TIM_PERIOD n)).toNat (s.reg (R.TIM_PHASE n)).toNat d) else none } ∧ u.hts.tasks = s.hts.tasks))

/-- O32. For every state that runs: a completion of PGE, WPE, OFE, SGE or FTE with no job that can finish (idle, waiting for credits, for its
ring slots or for a scratchpad fill) changes nothing. With a job i it ends by the common finish with one PIPELINE_JOB record of that
engine. A job whose input reads fail with status q ends with q, RETRY_EXHAUSTED after integrity errors. One that ends DONE has COUNT
whole: for PGE the rows of level 0, for WPE and SGE the output rows, for OFE the rows of its grid. No other node's state in a frame job
changes before the commit. Where nothing follows from the node's commit, the task is DONE without a worker and its node has committed as
run. (R234, R236, R258, R259, R295, R296, R325, R326, R505) -/
def Obligations.EngineJobsComplete : Prop :=
  ∀ (s : State), s.awake = true →
    (let job (c : Instr) (id : Nat) : Prop :=
       (s.jobOn id = none → exec c s = .next s) ∧
       (∀ i, s.jobOn id = some i →
         let a := s.engRun id i (s.readBudget i)
         let r := s.pipeDone i id (fun o => o)
         let w := (s.task i).params
         let p := (s.task i).part
         exec c s = .next (r.1.finishTask i r.2) ∧ r.2.agent = id ∧ r.2.kind = Kind.pipeline ∧ r.2.ran = true ∧ r.1.fgs.jobs = s.fgs.jobs ∧
         (a.2.1 ≠ St.done → r.2.status = exhausted a.2.1) ∧
         (r.2.status = St.done → r.2.count = a.2.2.whole ∧
           ((s.task i).cls = 1 → ∀ d, s.desc? p (pgeIn w) = some d → r.2.count = d.imageH (pgeCh w)) ∧
           ((s.task i).cls = 2 → r.2.count = (s.wpeSize p w).2) ∧ ((s.task i).cls = 3 → r.2.count = ofeGrid w (s.ofeSize p w).2) ∧
           ((s.task i).cls = 4 → r.2.count = (s.sgeSize p w).2)) ∧
         (∀ j k, Lone s id i j k → ∃ t, exec c s = .next t ∧ Ended t i j k))
     (∀ (n : Fin 2), job (.pgeJobComplete n) (0x22 + n) ∧ job (.wpeJobComplete n) (0x24 + n) ∧ job (.ofeJobComplete n) (0x26 + n)) ∧
     job .sgeJobComplete 0x28 ∧ job .fteJobComplete 0x29)

/-- O33. For every state that runs. A yield of an engine that runs nothing, is not asked for, or is not at a yield point of its job changes
nothing. At one that it is asked for (a PGE's save area being written; a neural run's stopping tile complete) the task is READY at the
head of the ready list, no longer on the engine, its bank kept; only a PGE writes memory, and where that write fails the job ends with its
status. A parity error in a job that may be repeated starts it again from its first row, counted, with RECOMPUTED; one that may not ends
RETRY_EXHAUSTED. ENGINE_ABORT of an idle engine changes nothing, but answers ABORT_LATE where a job of the sender's committed in the same
cycle; of a running job of the sender's partition it aborts the node, which commits; another's is refused. The enable and the counters of
an engine are P3's and the full agents'. (R52, R207, R243, R254, R257, R261, R291, R294, R299, R324, R361, R374) -/
def Obligations.EnginesYieldAndRepeat : Prop :=
  ∀ (s : State), s.awake = true →
    (let left (c : Instr) (i id : Nat) : Prop := ∃ t, exec c s = .next t ∧ (t.task i).state = .ready ∧ (t.task i).worker = none ∧
       (t.task i).yielded = true ∧ (t.task i).bank = some id ∧ (s.task i).progress ≤ (t.task i).progress ∧ t.hts.ready = i :: s.hts.ready
     let kept (c : Instr) (id : Nat) : Prop := (s.runningOn id = none → exec c s = .next s) ∧
       (∀ i, s.runningOn id = some i → (s.task i).yieldAsked = false → exec c s = .next s)
     (∀ (n : Fin 2) pos, kept (.pgeYield n pos) (0x22 + n) ∧ kept (.wpeYield n pos) (0x24 + n) ∧
       (∀ i d, s.runningOn (0x22 + n) = some i → s.desc? (s.task i).part (pgeIn (s.task i).params) = some d →
         let W := d.imageW (pgeCh (s.task i).params)
         let H := d.imageH (pgeCh (s.task i).params)
         let a := (s.task i).area
         let r := (s.drawMany 2).2.dramWrite (whoPart (0x22 + n) (s.task i).part) a.1 ((List.range a.2).map (Config.freeByte s.freeCtr))
         (pgeYieldPoint W H pos = false → exec (.pgeYield n pos) s = .next s) ∧
         (pgeYieldPoint W H pos = true → s.yieldOk i (0x22 + n) pos (s.task i).progress = true → s.ringRows i = none →
           (r.2 = St.done → left (.pgeYield n pos) i (0x22 + n)) ∧
           (r.2 ≠ St.done → exec (.pgeYield n pos) s = .next (r.1.failTask i (exhausted r.2))))) ∧
       (∀ i, s.runningOn (0x24 + n) = some i →
         let z := s.wpeSize (s.task i).part (s.task i).params
         let c := wpeRows z.2 (wpeBandsAt z.1 pos)
         (wpeYieldPoint z.1 z.2 pos (s.wpeSplit (0x24 + n) i) = false → exec (.wpeYield n pos) s = .next s) ∧
         (wpeYieldPoint z.1 z.2 pos (s.wpeSplit (0x24 + n) i) = true → s.yieldOk i (0x24 + n) pos c = true →
           s.canReach i (s.wpeRun (0x24 + n) i 0).2.2 c = true → left (.wpeYield n pos) i (0x24 + n)))) ∧
     (∀ (e : Fin 12) pos, e.val < 4 → kept (.stateBankYield e pos) (0x26 + e)) ∧
     (∀ (e : Fin 12) pos i, e.val < 2 → s.runningOn (0x26 + e) = some i →
       let w := (s.task i).params
       let z := s.ofeSize (s.task i).part w
       let c := ofeRows w z.2 ((pos - ofeAbove w z.1 z.2) / max 1 (ceilDiv z.1 64))
       s.yieldOk i (0x26 + e) pos c = true → pos ≤ ofeAbove w z.1 z.2 + ceilDiv z.1 64 * ceilDiv z.2 32 →
       s.canReach i (s.ofeRun (0x26 + e) i 0).2.2 c = true → left (.stateBankYield e pos) i (0x26 + e)) ∧
     (∀ pos i, s.runningOn 0x28 = some i → let H := (s.sgeSize (s.task i).part (s.task i).params).2
       s.yieldOk i 0x28 pos (sgeRows H (pos - (H + 1) / 2)) = true → pos ≤ 2 * ((H + 1) / 2) → left (.stateBankYield 2 pos) i 0x28) ∧
     (∀ pos i, s.runningOn 0x29 = some i → let n := (s.fteRun 0x29 i 0).2.2.whole
       s.yieldOk i 0x29 pos (fteCountAt n pos) = true →
       fteYieldPoint (s.task i).params (s.fteSize (s.task i).part (s.task i).params).2 n pos = true → left (.stateBankYield 3 pos) i 0x29) ∧
     (∀ (e : Fin 12) pos, 4 ≤ e.val → (s.ncNow (e.val - 4) = none → exec (.stateBankYield e pos) s = .next s) ∧
       (∀ r x, s.ncNow (e.val - 4) = some (r, x) →
         let stop := r.stop.getD (stopAt (s.cmdsOn x (e.val - 4)) r.pc)
         ((s.task r.task).yieldAsked = false ∨ r.fly ≠ [] ∨ r.pc ≠ stop + 1 → exec (.stateBankYield e pos) s = .next s) ∧
         ((s.task r.task).yieldAsked = true → r.fly = [] → r.pc = stop + 1 →
           left (.stateBankYield e pos) r.task (0x10 + (e.val - 4)))))) ∧
    (let again (c : Instr) (id : Nat) : Prop := (s.runningOn id = none → exec c s = .next s) ∧
       (∀ i, s.runningOn id = some i → s.mayRepeat i = true → ∃ t, exec c s = .next t ∧ (t.task i).repeats = (s.task i).repeats + 1 ∧
         (t.task i).recomputed = true ∧ (t.task i).progress = 0 ∧ (t.task i).pos = 0 ∧ (t.task i).state = (s.task i).state ∧ t.dram = s.dram ∧
         t.fgs = s.fgs) ∧
       (∀ i, s.runningOn id = some i → s.mayRepeat i = false → exec c s = .next (s.failTask i St.retryExhausted))
     (∀ (e : Fin 4), again (.pipelineParityError e) (0x22 + e)) ∧ (∀ (e : Fin 3), again (.flowStereoParityError e) (0x26 + e)) ∧
     again .fteParityError 0x29) ∧
    (∀ (ag : Agent) (e : Fin 16), (s.runningOn (engineId e) = none →
        (s.hts.ended.find? (·.1 == engineId e) = none → exec (.engineAbort ag e) s = .next s) ∧
        (∀ x p, s.hts.ended.find? (·.1 == engineId e) = some (x, p) →
          (s.ofPart ag p = true → ∃ t, exec (.engineAbort ag e) s = .next t ∧ t.fld (engineStatus e) 31 24 = St.abortLate ∧
            RegsBut [engineStatus e] s t ∧ t.hts = s.hts) ∧
          (s.ofPart ag p = false → exec (.engineAbort ag e) s = .next (s.refuse ag p)))) ∧
      (∀ i, s.runningOn (engineId e) = some i → s.ofPart ag (s.task i).part = false → exec (.engineAbort ag e) s = .next (s.refuse ag (s.task i).part)) ∧
      (∀ i j k, s.runningOn (engineId e) = some i → s.ofPart ag (s.task i).part = true → (s.task i).owner = .node j k →
        exec (.engineAbort ag e) s = .next ((s.setFld (engineStatus e) 31 24 St.done).doTodo [.abort j k]) ∧
        (Lone s (engineId e) i j k → ∃ t, exec (.engineAbort ag e) s = .next t ∧ Ended t i j k)) ∧
      (s.p3OrFull ag = true →
        (∀ on, ∃ t, exec (.engineEnable ag e on) s = .next t ∧ t.flag (engineCtrl e) 0 = on ∧ RegsBut [engineCtrl e] s t ∧ t.dram = s.dram) ∧
        (∃ t, exec (.engineClearCounts ag e) s = .next t ∧ (∀ o ∈ engineCounters e, t.reg o = 0) ∧ OnlyRegs (engineCounters e) s t)) ∧
      (s.p3OrFull ag = false → exec (.engineEnable ag e true) s = .next (s.refuseSys ag) ∧
        exec (.engineClearCounts ag e) s = .next (s.refuseSys ag)))

/-- O34. For every agent and state that runs. A load of table k by an agent whose table it is, with no load in progress: from an address that
is no multiple of 64 ALIGN_FAULT, of a table in use BUSY, before the lock or for P2 or P3 from memory that reads as 256 words of legal
pairs DONE with the table holding them, from words with an illegal pair DESC_INVALID; the tables are changed by DONE alone. A load during
another is ignored; another agent is refused. A parity error in a table that does not exist changes nothing; else the table is read again
from its address, and the running job that uses it starts again or ends. NEXT_ID takes a value other than 0 while no job uses the set.
(R313, R316, R320, R321, R329) -/
def Obligations.PairTablesAndTrackSets : Prop :=
  ∀ (ag : Agent) (v : Word) (s : State), s.awake = true →
    (let k := bits v 1 0
     let a := (s.reg R.FTE_PT_ADDR_LO).toNat + 2 ^ 32 * s.fld R.FTE_PT_ADDR_HI 7 0
     let u := s.setFld R.FTE_PT_CMD 1 0 k
     let r := u.readAgain { u.whoOf ag with agent := 0x29 } a 1024 2
     let ws := (List.range 256).map (wordAt r.2.2)
     let own := match s.pairTable k with | some t => if isFull ag then t.owner else s.partOf ag | none => s.partOf ag
     (∀ t, s.pairTable k = some t → s.ofPart ag t.owner = false → exec (.pairTableLoad ag v) s = .next (s.refuse ag t.owner)) ∧
     ((∀ t, s.pairTable k = some t → s.ofPart ag t.owner = true) → bit v 31 = true →
       (s.cmdBusy R.FTE_PT_STATUS = true → exec (.pairTableLoad ag v) s = .next s) ∧
       (s.cmdBusy R.FTE_PT_STATUS = false →
         (a % 64 ≠ 0 → ∃ t, exec (.pairTableLoad ag v) s = .next t ∧ t.fld R.FTE_PT_STATUS 31 24 = St.alignFault ∧
           OnlyCmd [R.FTE_PT_CMD, R.FTE_PT_STATUS] s t) ∧
         (a % 64 = 0 → s.fteUses (fun w => ftePt w == k) = true → ∃ t, exec (.pairTableLoad ag v) s = .next t ∧
           t.fld R.FTE_PT_STATUS 31 24 = St.busy ∧ OnlyCmd [R.FTE_PT_CMD, R.FTE_PT_STATUS] s t) ∧
         (a % 64 = 0 → s.fteUses (fun w => ftePt w == k) = false → (s.locked = false ∨ 2 ≤ own) → r.2.1 = St.done →
           (ws.all pairOk = true → ∃ t, exec (.pairTableLoad ag v) s = .next t ∧ t.fte = setAt s.fte k (some ⟨a, ws, own⟩) ∧
             t.fld R.FTE_PT_STATUS 31 24 = St.done) ∧
           (ws.all pairOk = false → ∃ t, exec (.pairTableLoad ag v) s = .next t ∧ t.fte = s.fte ∧ t.fld R.FTE_PT_STATUS 31 24 = St.descInvalid))))) ∧
    (∀ (k : Fin 4), (s.pairTable k = none → exec (.pairTableParityError k) s = .next s) ∧
      (∀ t, s.pairTable k = some t →
        let r := s.readAgain (whoPart 0x29 t.owner) t.addr 1024 2
        let u : State := { r.1 with fte := setAt r.1.fte k (some { t with words := (List.range 256).map (wordAt r.2.2) }) }
        ((∀ i, s.runningOn 0x29 = some i → ftePt (s.task i).params ≠ k) →
          (r.2.1 = St.done → exec (.pairTableParityError k) s = .next u) ∧ (r.2.1 ≠ St.done → exec (.pairTableParityError k) s = .next r.1)) ∧
        (∀ i, s.runningOn 0x29 = some i → ftePt (s.task i).params = k →
          exec (.pairTableParityError k) s = .next ((if r.2.1 = St.done then u else r.1).engParity 0x29)))) ∧
    (∀ (k : Fin 16), s.ofPart ag (s.fld (R.FTE_TS_CFG k) 31 30) = true →
      (v ≠ 0 → s.fteUses (fun w => fteSet w == k.val) = false → ∃ t, exec (.trackSetNextIdWrite ag k v) s = .next t ∧
        t.reg (R.FTE_TS_NEXT_ID k) = v ∧ OnlyRegs [R.FTE_TS_NEXT_ID k] s t) ∧
      (v = 0 ∨ s.fteUses (fun w => fteSet w == k.val) = true → exec (.trackSetNextIdWrite ag k v) s = .next s)) ∧
    (∀ (k : Fin 16), s.ofPart ag (s.fld (R.FTE_TS_CFG k) 31 30) = false →
      exec (.trackSetNextIdWrite ag k v) s = .next (s.refuse ag (s.fld (R.FTE_TS_CFG k) 31 30)))

/-- O35. For every core n, state that runs and each of the 15 commands with its opcode: with no run on the core nothing changes. Where the
next command of the run has another opcode, waits for a flag that is not set, or follows the tile that a yield stops at, nothing issues.
Else, if its check fails, the run ends with the check's status naming the command; if it passes, the run goes on to the next command with
this one last in flight, its operands pinned, and DRAM, the registers and the ready list are unchanged. (09_neural_cores.md, R345, R346,
R348, R361) -/
def Obligations.NeuralCommandsIssue : Prop :=
  ∀ (n : Fin 8) (s : State), s.awake = true →
    (let issues (c : Instr) (op : Nat) : Prop :=
       (s.ncNow n = none → exec c s = .next s) ∧
       (∀ r x, s.ncNow n = some (r, x) →
         let cmds := s.cmdsOn x n
         let w := cmds.getD r.pc []
         let ready := (List.range 16).all (fun i => !bit (BitVec.ofNat 32 (cmdWait w)) i || (r.flagBy.getD i none).isSome)
         let stop : Option Nat := if (s.task r.task).yieldAsked then some (r.stop.getD (stopAt cmds r.pc)) else none
         let held := ∃ k, stop = some k ∧ k < r.pc
         (cmds.length ≤ r.pc ∨ cmdOp w ≠ op ∨ ready = false ∨ held → exec c s = .next (s.setRun { r with stop := stop })) ∧
         (r.pc < cmds.length → cmdOp w = op → ready = true → ¬ held →
           let k := s.ncCmd r x r.pc
           (s.ncCheck x.part k ≠ St.done → exec c s = .next (s.ncEnd r x (s.ncCheck x.part k) r.pc)) ∧
           (s.ncCheck x.part k = St.done → ∃ t r', exec c s = .next t ∧
             t.nc.runs = s.nc.runs.map (fun y => if y.task = r.task then r' else y) ∧ r'.task = r.task ∧ r'.pc = r.pc + 1 ∧
             r'.fly.map (·.idx) = r.fly.map (·.idx) ++ [r.pc] ∧ (t.task r.task).pinned = (s.task r.task).pinned ++ k.inputs ++ k.outputs ∧
             t.dram = s.dram ∧ t.regs = s.regs ∧ t.hts.ready = s.hts.ready)))
     issues (.ncNop n) 0x00 ∧ issues (.ncConv n) 0x01 ∧ issues (.ncMatmul n) 0x02 ∧ issues (.ncPool n) 0x10 ∧ issues (.ncEltwise n)
     0x11 ∧ issues (.ncAct n) 0x12 ∧ issues (.ncSoftmax n) 0x13 ∧ issues (.ncNorm n) 0x14 ∧ issues (.ncResize n) 0x15 ∧ issues (.ncTopk
     n) 0x16 ∧ issues (.ncGather n) 0x20 ∧ issues (.ncScatterSet n) 0x21 ∧ issues (.ncScatterAdd n) 0x22 ∧ issues (.ncScatterMax n)
     0x23 ∧ issues (.ncHalo n) 0x28)

/-- O36. For every core n and state that runs. With no run, or no command of the unit in flight, a completion changes nothing; nor while the
command waits: a NOP for an earlier one, any for the rows of its slot rings or a fill of its operands' banks, the last for the run's
rings. One with an operand error ends the run with that status, naming the command. One that completes well and is not the last leaves the
flight, sets its flag, and the run's progress is its completed tiles; the last ends the run DONE, and where nothing follows its node has
committed as run. An error in data repeats the run from its first command, counted, or ends it RETRY_EXHAUSTED; one in weights or commands
has them loaded again first. A quota written by its partition's agent before the lock takes the value when it covers the use admitted, and
is ignored when not, or after the lock; another agent is refused. (09_neural_cores.md, R348, R360, R362, R371, R372, R373, R376, R411) -/
def Obligations.NeuralRunsEnd : Prop :=
  ∀ (n : Fin 8) (s : State), s.awake = true →
    (s.ncNow n = none → (∀ u, exec (.ncCommandComplete n u) s = .next s) ∧ ∀ k, exec (.ncParityError n k) s = .next s) ∧
    (∀ r x (u : Fin 4), s.ncNow n = some (r, x) →
      let cmds := s.cmdsOn x n
      let sel := r.fly.find? (fun f => opUnit (cmdOp (cmds.getD f.idx [])) == u.val)
      (sel = none → exec (.ncCommandComplete n u) s = .next s) ∧
      (∀ f, sel = some f →
        let w := cmds.getD f.idx []
        let k := s.ncCmd r x f.idx
        let rest := r.fly.filter (·.idx != f.idx)
        let last := cmds.length ≤ r.pc ∧ rest = []
        let waits := (cmdOp w = 0 ∧ ∃ g ∈ rest, g.idx < f.idx) ∨ k.inputs.any (s.ringShort x.part) = true ∨ k.outputs.all (s.ringFits x.part) = false ∨
          (last ∧ s.ringsDone r.task = false) ∨ (k.inputs ++ k.outputs).any (s.descWaits x.part) = true
        let d := s.ncRun n x.part k f.raced
        (waits → exec (.ncCommandComplete n u) s = .next s) ∧
        (¬ waits →
          (d.st = St.integrity → ∃ b, exec (.ncCommandComplete n u) s = .next (d.s.ncRepeat r x b)) ∧
          (d.st ≠ St.integrity → d.st ≠ St.done → ∃ r', exec (.ncCommandComplete n u) s = .next (d.s.ncEnd r' x (exhausted d.st) f.idx) ∧
            r'.task = r.task ∧ r'.core = r.core) ∧
          (d.st = St.done → ¬ last → r.core = n.val → ∃ t r', exec (.ncCommandComplete n u) s = .next t ∧
            t.nc.runs = d.s.nc.runs.map (fun y => if y.task = r.task then r' else y) ∧ r'.pc = r.pc ∧ r'.fly = rest ∧
            r'.flagBy = (NcRun.settle { r with fly := rest, flagBy := flagSet w f.idx r.flagBy } cmds).flagBy ∧
            (t.task r.task).progress = r'.tiles cmds ∧ t.dram = d.s.dram ∧ t.spm = d.s.spm) ∧
          (d.st = St.done → last → ∃ s' r', exec (.ncCommandComplete n u) s = .next (State.ncEnd s' r' x St.done 0) ∧ r'.task = r.task ∧
            r'.fly = [] ∧ r'.pc = r.pc) ∧
          (d.st = St.done → last → ∀ j k, Lone s (0x10 + n) r.task j k → ∃ t, exec (.ncCommandComplete n u) s = .next t ∧ Ended t r.task j k))) ∧
      (∀ k : Fin 3,
        let u : State × Nat := if k.val = 0 then (s, St.done) else s.ncReload x r.core
        (u.2 = St.done → u.1.mayRepeat r.task = true → ∃ t, exec (.ncParityError n k) s = .next t ∧
          (t.task r.task).repeats = (s.task r.task).repeats + 1 ∧ (t.task r.task).progress = 0 ∧ (t.task r.task).recomputed = true ∧
          t.nc.runs = s.nc.runs.map (fun y => if y.task = r.task then NcRun.start r.task r.core r.since r.spent else y) ∧ t.dram = u.1.dram) ∧
        (u.2 ≠ St.done ∨ u.1.mayRepeat r.task = false → exec (.ncParityError n k) s = .next (u.1.ncEnd r x St.retryExhausted 0)))) ∧
    (∀ (ag : Agent) (p k : Fin 4) (v : Word),
      (s.ofPart ag p = false → exec (.ncQuotaWrite ag n p k v) s = .next (s.refuse ag p)) ∧
      (s.ofPart ag p = true → s.locked = true → exec (.ncQuotaWrite ag n p k v) s = .next s) ∧
      (s.ofPart ag p = true → s.locked = false →
        (k = 3 → s.scratchUse p ≤ 2 ^ 20 * bits v 15 0 → ∃ t, exec (.ncQuotaWrite ag n p k v) s = .next t ∧
          t.fld (R.NC_SCRATCH_QUOTA p) 15 0 = bits v 15 0 ∧ OnlyRegs [R.NC_SCRATCH_QUOTA p] s t) ∧
        (k = 3 → 2 ^ 20 * bits v 15 0 < s.scratchUse p → exec (.ncQuotaWrite ag n p k v) s = .next s) ∧
        (k ≠ 3 → s.ncUse s.fgs.graphs p n k ≤ 1024 * bits v 12 0 → bits v 12 0 ≤ 64 * s.granulesOf (spmMem k n) p →
          ∃ t, exec (.ncQuotaWrite ag n p k v) s = .next t ∧ t.fld (quotaReg n p k) 12 0 = bits v 12 0 ∧ OnlyRegs [quotaReg n p k] s t) ∧
        (k ≠ 3 → 1024 * bits v 12 0 < s.ncUse s.fgs.graphs p n k ∨ 64 * s.granulesOf (spmMem k n) p < bits v 12 0 →
          exec (.ncQuotaWrite ag n p k v) s = .next s)))

/-- O37. For every agent and state that runs. While a command of its set is in progress a further one is ignored; else, CREATE in partition p
by an agent of p: where a check fails, TDU_STATUS and TDU_DETAIL name it and the tables are unchanged; else the staged descriptor is in
p's table under the handle that HANDLE shows, unpinned. DESTROY of a handle that names nothing is DESC_INVALID, of a pinned descriptor
BUSY; else the handle names nothing more and is last to be used again. READ copies its words to the staging registers. CLEAR zeroes the
two counters. An agent of another partition is refused. A region create answers its check's status; past the checks the staged region
stands under the lowest free ID; destroying a region some descriptor uses is BUSY, one that is not there DESC_INVALID.
(10_tensor_descriptors.md, R379, R381, R391, R392, R405, R406, R407) -/
def Obligations.TensorDescriptorsAndRegions : Prop :=
  ∀ (ag : Agent) (s : State), s.awake = true →
    (∀ (p : Fin 4), s.ofPart ag p = false → ∀ c ∈ [Instr.tduCreate ag p, .tduDestroy ag p, .tduRead ag p, .tduClearCounts ag p],
      exec c s = .next (s.refuse ag p)) ∧
    (∀ (p : Fin 4), s.ofPart ag p = true → s.cmdBusy (R.TDU_STATUS p) = true →
      ∀ c ∈ [Instr.tduCreate ag p, .tduDestroy ag p, .tduRead ag p, .tduClearCounts ag p], exec c s = .next s) ∧
    (s.cmdBusy R.TDU_REG_STATUS = true → ∀ id, ∀ c ∈ [Instr.regionCreate ag, .regionDestroy ag id, .regionRead ag id], exec c s = .next s) ∧
    (∀ (p : Fin 4), s.ofPart ag p = true → s.cmdBusy (R.TDU_STATUS p) = false →
      (∀ row dim st, s.createCheck ag p (s.staged p) = some (row, dim, st) → ∃ t, exec (.tduCreate ag p) s = .next t ∧ t.tdu = s.tdu ∧
        t.reg (R.TDU_STATUS p) = BitVec.ofNat 32 (2 ^ 24 * st) ∧ t.reg (R.TDU_DETAIL p) = BitVec.ofNat 32 (row * 16 + dim) ∧
        OnlyCmd [R.TDU_STATUS p, R.TDU_DETAIL p, R.TDU_USED p] s t) ∧
      (∀ h, s.createCheck ag p (s.staged p) = none → (s.table p).head = some h → ∃ t, exec (.tduCreate ag p) s = .next t ∧
        t.reg (R.TDU_STATUS p) = 0 ∧ t.reg (R.TDU_HANDLE p) = BitVec.ofNat 32 h ∧
        (p.val < s.tdu.tables.length → (t.table p).used = (s.table p).used ++ [(h, s.staged p)]) ∧ (s.staged p).pins = 0 ∧
        t.tdu.regions = s.tdu.regions) ∧
      (let h := s.fld (R.TDU_HANDLE p) 15 0
       (s.desc? p h = none → ∀ c ∈ [Instr.tduDestroy ag p, .tduRead ag p], ∃ t, exec c s = .next t ∧ t.tdu = s.tdu ∧
         t.fld (R.TDU_STATUS p) 31 24 = St.descInvalid) ∧
       (∀ d, s.desc? p h = some d →
         (d.pins ≠ 0 → ∃ t, exec (.tduDestroy ag p) s = .next t ∧ t.tdu = s.tdu ∧ t.fld (R.TDU_STATUS p) 31 24 = St.busy) ∧
         (d.pins = 0 → (s.table p).used.any (fun e => e.2.elem == El.se8 && e.2.companion == h) = false →
           ∃ t, exec (.tduDestroy ag p) s = .next t ∧ t.reg (R.TDU_STATUS p) = 0 ∧
           t.tdu.tables = setAt s.tdu.tables p { s.table p with
             used := (s.table p).used.filter (fun e => e.1 != h), freed := (s.table p).freed ++ [h] }) ∧
         (d.words.length ≤ 32 → ∃ t, exec (.tduRead ag p) s = .next t ∧ t.reg (R.TDU_STATUS p) = 0 ∧ t.tdu = s.tdu ∧
           ∀ w, w < d.words.length → t.reg (R.TDU_STAGE p w) = wd d.words w))) ∧
      (∃ t, exec (.tduClearCounts ag p) s = .next t ∧ t.reg (R.TDU_OOB_READ_CNT p) = 0 ∧ t.reg (R.TDU_OOB_WRITE_CNT p) = 0 ∧ t.tdu = s.tdu)) ∧
    (s.cmdBusy R.TDU_REG_STATUS = false →
     let ws := (List.range 4).map (fun w => s.reg (R.TDU_REG_STAGE w))
     (s.regionCheck ag ws ≠ St.done → ∃ t, exec (.regionCreate ag) s = .next t ∧ t.tdu = s.tdu ∧ OnlyCmd [R.TDU_REG_STATUS] s t ∧
       t.reg R.TDU_REG_STATUS = BitVec.ofNat 32 (2 ^ 24 * s.regionCheck ag ws + 2 ^ 13 * b2n (decide (4096 ≤ s.tdu.regions.length)) +
         s.tdu.regions.length % 4096 * 2)) ∧
     (∀ id, s.regionCheck ag ws = St.done → s.freeRegion = some id → ∃ t, exec (.regionCreate ag) s = .next t ∧
       t.tdu.regions = s.tdu.regions ++ [(id, regionOf ws)] ∧ t.fld R.TDU_REG_CMD 11 0 = id ∧ t.fld R.TDU_REG_STATUS 31 24 = St.done)) ∧
    (s.cmdBusy R.TDU_REG_STATUS = false → ∀ id, id < 4096 →
      (s.region? id = none → ∀ c ∈ [Instr.regionDestroy ag id, .regionRead ag id], ∃ t, exec c s = .next t ∧ t.tdu = s.tdu ∧
        t.fld R.TDU_REG_STATUS 31 24 = St.descInvalid) ∧
      (∀ r, s.region? id = some r → r.kind < 2 → (s.locked = false ∨ 2 ≤ r.owner ∨ ag = .safety) →
        (s.tdu.tables.any (fun t => t.used.any (fun e => e.2.region == id)) = true → ∃ t, exec (.regionDestroy ag id) s = .next t ∧
          t.tdu = s.tdu ∧ t.fld R.TDU_REG_STATUS 31 24 = St.busy) ∧
        (s.tdu.tables.any (fun t => t.used.any (fun e => e.2.region == id)) = false → ∃ t, exec (.regionDestroy ag id) s = .next t ∧
          t.tdu.regions = s.tdu.regions.filter (fun e => e.1 != id) ∧ t.tdu.tables = s.tdu.tables)) ∧
      (∀ r, s.region? id = some r → r.kind < 2 → ∃ t, exec (.regionRead ag id) s = .next t ∧ t.tdu = s.tdu ∧
        ∀ w, w < 4 → t.reg (R.TDU_REG_STAGE w) = wd r.words w))

/-- O38. For every state that runs. An access that crosses a bank word, or past the end of the memory, answers a bus error. A read by an agent
that owns every granule, with no fill at work and no parity error there, answers the bytes that stand there and changes nothing else; a
write by such an agent answers, and the bytes stand there. A fill, which an ownership change starts after its checks, clears its granules
when it is done, gives them to the new owner and lets waiting accesses go on; a change asked for during a fill, or a done with no fill,
changes nothing. With scrubbing off a scrub changes nothing. A full agent zeroes the counters; another is reported. (11_scratchpads.md,
R412, R418, R419, R424, R425, R427, R429, R430, R431, R432) -/
def Obligations.ScratchpadsServeAccesses : Prop :=
  ∀ (s : State), s.awake = true →
    (∀ (ag : Agent) (mem : Fin 25) off len h, len = 0 ∨ 64 < off % 64 + len →
      exec (.scratchpadAccess ag mem off len none h []) s = .next { s with reply := .busError }) ∧
    (∀ (ag : Agent) (mem : Fin 25) off len, 0 < len → off % 64 + len ≤ 64 → off + len ≤ spmSize mem → s.spm.fill = none →
      (isFull ag = true ∨ s.granuleOwner mem (off / granuleSize mem) = s.partOf ag) → s.spmBadIn mem off len = [] →
      exec (.scratchpadAccess ag mem off len none none []) s = .next { s with reply := .bytes (s.spmBytes mem off len) }) ∧
    (∀ (ag : Agent) (mem : Fin 25) off (bs : List Byte), bs ≠ [] → off % 64 + bs.length ≤ 64 → off + bs.length ≤ spmSize mem →
      s.spm.fill = none → mem.val < s.spm.mem.length →
      (isFull ag = true ∨ s.granuleOwner mem (off / granuleSize mem) = s.partOf ag) →
      ∃ t, exec (.scratchpadAccess ag mem off 0 (some (bs.map some)) none []) s = .next t ∧ t.reply = .nothing ∧
        t.spmBytes mem off bs.length = bs ∧ t.regs = s.regs ∧ t.dram = s.dram) ∧
    (∀ (ag : Agent) v, s.spm.fill.isSome = true → exec (.ownershipChange ag v) s = .next s) ∧
    (∀ (ag : Agent) v, s.spm.fill = none → bit v 31 = false → ∃ t, exec (.ownershipChange ag v) s = .next t ∧ OnlyRegs [R.SPM_OWN_CMD] s t) ∧
    (∀ (ag : Agent) v, s.spm.fill = none → bit v 31 = true →
      let m := spmMem (bits v 28 27) (bits v 26 24)
      bits v 5 0 + (bits v 13 8 + 1) ≤ granules m → (m = 24 → bits v 26 24 = 0) → s.regionMeets m (bits v 5 0) (bits v 13 8 + 1) = false →
      (m = 24 ∨ (s.runningOn (0x10 + bits v 26 24) = none ∧ s.coreHoldsYield (bits v 26 24) = false)) → (s.locked = false ∨ ag = .safety) →
      ∃ t, exec (.ownershipChange ag v) s = .next t ∧ t.spm.fill = some ⟨m, bits v 5 0, bits v 13 8 + 1, bits v 30 29⟩ ∧
        t.reg R.SPM_OWN_STATUS = 3 ∧ RegsBut [R.SPM_OWN_CMD, R.SPM_OWN_STATUS] s t ∧ t.spm.mem = s.spm.mem) ∧
    (s.spm.fill = none → exec .zeroFillDone s = .next s) ∧
    (∀ f, s.spm.fill = some f → s.spm.waiting = [] → ∃ t, exec .zeroFillDone s = .next t ∧ t.spm.fill = none ∧ t.reg R.SPM_OWN_STATUS = 0 ∧
      t.spm.mem = modAt s.spm.mem f.mem (Store.clear (f.first * granuleSize f.mem) ((f.first + f.count) * granuleSize f.mem)) ∧
      t.dram = s.dram) ∧
    (∀ busy nb, s.flag R.SPM_CTRL 0 = false → exec (.scratchpadScrub busy nb) s = .next s) ∧
    (∀ busy, s.flag R.SPM_CTRL 0 = true → ∃ t, exec (.scratchpadScrub busy []) s = .next t ∧ t.spm.mem = s.spm.mem ∧ t.spm.bad = s.spm.bad ∧
      t.dram = s.dram ∧ t.hts = s.hts) ∧
    (∀ (ag : Agent), (isFull ag = true → ∃ t, exec (.spmClearCounts ag) s = .next t ∧ (∀ o ∈ spmCounters, t.reg o = 0) ∧ OnlyRegs spmCounters s t) ∧
      (isFull ag = false → exec (.spmClearCounts ag) s = .next (s.refuseSys ag)))

/-- O39. For every engine e, channel c, agent and state that runs. Every command by an agent of another partition, the SMC and the island
excepted, is refused. ENABLE of a DISABLED channel with a trigger source of its partition arms it with that configuration, and with an
EVENT source whose flag word meets its mask the chain starts and the mask's bits are cleared; DISABLE of an ARMED one, nothing else of its
configuration changed, disarms it. START triggers a channel whose source is not TASK: an ARMED one runs, one that runs has its trigger
pending. PAUSE of a RUNNING channel with reads open drains it, with none it is PAUSED; of an ARMED, DISABLED or HELD_CQ one it sets
PAUSE_MISSED alone. RESUME puts a PAUSED channel back. ABORT of a DISABLED or ARMED channel answers ABORT_LATE; of a RUNNING one with no
read open it commits ABORTED, with reads open once they are back. RESTART of an engine that is not stopped changes nothing. Clearing
zeroes the five counters; the completion queue registers take what is written. (12_dma.md, R439, R440, R442, R446, R452, R453, R454, R455,
R456, R457, R458) -/
def Obligations.DmaChannelsObey : Prop :=
  ∀ (ag : Agent) (e : Fin 4) (c : Fin 16) (s : State), s.awake = true →
    (s.ofPart ag e = false → ∀ (v : Word) (k : Fin 4), ∀ i ∈ [Instr.dmaChannelEnable ag e c v, .dmaChannelDisable ag e c, .dmaStart ag e c,
      .dmaPause ag e c, .dmaResume ag e c, .dmaAbort ag e c, .dmaRestart ag e, .dmaEngineEnable ag e true, .dmaClearCounts ag e,
      .dmaCqWrite ag e k v], exec i s = .next (s.refuse ag e)) ∧
    (s.ofPart ag e = true →
      (∀ v, s.chState e c = Ch.disabled → bits v 31 29 < 6 → s.dmaForeignTrig e (v ||| 1) = none → s.trigPending e c = false →
        (bits v 31 29 = TrigSrc.event → s.reg (R.HTS_GROUP_FLAGS (bits v 28 21)) &&& s.reg (R.DMA_CH_EVT_MASK e c) = 0) →
        ∃ t, exec (.dmaChannelEnable ag e c v) s = .next t ∧ t.chState e c = Ch.armed ∧ t.reg (R.DMA_CH_CFG e c) = (v ||| 1) &&& 0xFFFC0001 ∧
          OnlyRegs [R.DMA_CH_CFG e c, R.DMA_CH_STATUS e c] s t) ∧
      (∀ v, s.chState e c = Ch.disabled → bits v 31 29 = TrigSrc.event → s.dmaForeignTrig e (v ||| 1) = none → s.trigPending e c = false →
        let w := s.reg (R.HTS_GROUP_FLAGS (bits v 28 21))
        let m := s.reg (R.DMA_CH_EVT_MASK e c)
        w &&& m ≠ 0 → s.flag (R.DMA_CTRL e) 0 = true → ∃ t, exec (.dmaChannelEnable ag e c v) s = .next t ∧ t.chState e c = Ch.running ∧
          t.reg (R.HTS_GROUP_FLAGS (bits v 28 21)) = (w &&& ~~~m) ||| (w &&& (s.groupCycle (bits v 28 21)).2)) ∧
      (s.chState e c = Ch.armed → s.reg (R.DMA_CH_CFG e c) &&& 0x3FFFE = 0 → ∃ t, exec (.dmaChannelDisable ag e c) s = .next t ∧
        t.chState e c = Ch.disabled ∧ t.trigPending e c = false ∧
        OnlyRegs [R.DMA_CH_CFG e c, R.DMA_CH_STATUS e c] (s.modChan e c (fun x => { x with merged := false })) t) ∧
      (s.trigSrc e c ≠ TrigSrc.task → exec (.dmaStart ag e c) s = .next (s.chTrigger e c) ∧
        (s.chState e c = Ch.armed → s.trigPending e c = false → s.flag (R.DMA_CTRL e) 0 = true → ∃ t, exec (.dmaStart ag e c) s = .next t ∧
          t.chState e c = Ch.running ∧ t.reg (R.DMA_CH_DONE_BYTES e c) = 0 ∧ RegsBut [R.DMA_CH_STATUS e c, R.DMA_CH_DONE_BYTES e c] s t ∧
          t.dram = s.dram) ∧
        (s.chState e c = Ch.running → s.trigPending e c = false → ∃ t, exec (.dmaStart ag e c) s = .next t ∧ t.trigPending e c = true ∧
          t.chState e c = Ch.running ∧ OnlyRegs [R.DMA_CH_STATUS e c] s t)) ∧
      (s.trigSrc e c = TrigSrc.task → exec (.dmaStart ag e c) s = .next s) ∧
      (s.chState e c = Ch.disabled → exec (.dmaStart ag e c) s = .next s) ∧
      ((s.chan e c).aborting = false →
        (s.chState e c = Ch.running → ∃ t, exec (.dmaPause ag e c) s = .next t ∧
          t.chState e c = (if s.dmaOpen e c then Ch.draining else Ch.paused) ∧ t.dram = s.dram ∧ RegsBut [R.DMA_CH_STATUS e c] s t) ∧
        (s.chState e c = Ch.armed ∨ s.chState e c = Ch.disabled ∨ s.chState e c = Ch.heldCq → ∃ t, exec (.dmaPause ag e c) s = .next t ∧
          t.flag (R.DMA_CH_STATUS e c) 5 = true ∧ t.chState e c = s.chState e c ∧ OnlyRegs [R.DMA_CH_STATUS e c] s t)) ∧
      (s.chState e c = Ch.paused → exec (.dmaResume ag e c) s = .next ((s.setChState e c (s.chan e c).beforePause).chEnter e c) ∧
        (s.trigPending e c = false → ∃ t, exec (.dmaResume ag e c) s = .next t ∧ t.chState e c = (s.chan e c).beforePause % 8 ∧
          OnlyRegs [R.DMA_CH_STATUS e c] s t)) ∧
      (s.chState e c ≠ Ch.paused → exec (.dmaResume ag e c) s = .next s) ∧
      (s.chState e c = Ch.disabled ∨ s.chState e c = Ch.armed → ∃ t, exec (.dmaAbort ag e c) s = .next t ∧
        t.fld (R.DMA_CH_STATUS e c) 23 16 = St.abortLate ∧ t.chState e c = s.chState e c ∧ t.trigPending e c = false ∧
        OnlyRegs [R.DMA_CH_STATUS e c] (s.modChan e c (fun x => { x with merged := false })) t) ∧
      (s.chState e c = Ch.running → s.dmaOpen e c = false → exec (.dmaAbort ag e c) s =
        .next ((s.setFld (R.DMA_CH_STATUS e c) 23 16 St.done).dmaCommit e c St.aborted true) ∧
        ((s.chan e c).task = none → s.trigPending e c = false → ∃ t, exec (.dmaAbort ag e c) s = .next t ∧
          t.fld (R.DMA_CH_STATUS e c) 31 24 = St.aborted ∧ t.fld (R.DMA_CH_STATUS e c) 23 16 = St.done ∧
          (t.chState e c = Ch.disabled ∨ t.chState e c = Ch.armed ∨ t.chState e c = Ch.heldCq))) ∧
      (s.chState e c = Ch.running → s.dmaOpen e c = true → ∃ t, exec (.dmaAbort ag e c) s = .next t ∧
        t.fld (R.DMA_CH_STATUS e c) 23 16 = St.done ∧ t.chState e c = Ch.running ∧ RegsBut [R.DMA_CH_STATUS e c] s t ∧
        (e.val < s.dma.length → c.val < (s.eng e).chans.length → (t.chan e c).aborting = true)) ∧
      (s.flag (R.DMA_STATUS e) 16 = false → exec (.dmaRestart ag e) s = .next s) ∧
      (s.flag (R.DMA_STATUS e) 16 = true → s.flag (R.DMA_STATUS e) 17 = false → (s.eng e).err = none → (∀ k, k < 16 → s.chState e k ≠ Ch.stopped) →
        ∃ t, exec (.dmaRestart ag e) s = .next t ∧ t.flag (R.DMA_STATUS e) 16 = false ∧ OnlyRegs [R.DMA_STATUS e] s t) ∧
      (∃ t, exec (.dmaEngineEnable ag e false) s = .next t ∧ t.flag (R.DMA_CTRL e) 0 = false ∧ OnlyRegs [R.DMA_CTRL e] s t) ∧
      (exec (.dmaEngineEnable ag e true) s = .next ((List.range 16).foldl (fun s c => s.chEnter e c) (s.setFlag (R.DMA_CTRL e) 0 true)) ∧
        ((∀ k, k < 16 → s.trigPending e k = false) → ∃ t, exec (.dmaEngineEnable ag e true) s = .next t ∧ t.flag (R.DMA_CTRL e) 0 = true ∧
          OnlyRegs [R.DMA_CTRL e] s t)) ∧
      (∃ t, exec (.dmaClearCounts ag e) s = .next t ∧
        (let cs := [R.DMA_CHAINS_CNT e, R.DMA_BUS_ERR_CNT e, R.DMA_TRIG_MERGE_CNT e, R.DMA_RETRY_CNT e, R.DMA_CQ_HELD_US e]
         (∀ o ∈ cs, t.reg o = 0) ∧ OnlyRegs cs s t)) ∧
      ((s.eng e).cqWait = [] → ∀ (k : Fin 4) (v : Word), ∃ t, exec (.dmaCqWrite ag e k v) s = .next t ∧
        (let o := [R.DMA_CQ_BASE_LO e, R.DMA_CQ_BASE_HI e, R.DMA_CQ_SIZE e, R.DMA_CQ_HEAD e].getD k 0
         t.reg o = v ∧ RegsBut [o] s t) ∧ (21 + e.val ∈ t.host.irq ↔ t.reg (R.DMA_CQ_TAIL e) ≠ t.reg (R.DMA_CQ_HEAD e)) ∧ t.dram = s.dram))

/-- O40. For every engine e, channel c and state that runs. A fetch for a channel that is not RUNNING, has a descriptor or is aborting changes
nothing; at a misaligned address the chain ends ALIGN_FAULT, past DRAM RANGE_FAULT; a descriptor read well that passes its check is held
and nothing of it is moved yet. No read issues from a stopped engine, with 256 outstanding, or with no channel ready; else the next ready
channel in turn issues one read of at most 64 bytes that crosses no 64-byte boundary. A return or a bus error of a read that is not
outstanding changes nothing, nor does a return while a fill holds its source or destination; a good return's data is held for its place
and written in order: data that is not next is kept, data that is next is written to its destination and DONE_BYTES grows; a bus error
takes the read out, is counted, and stops the engine. (12_dma.md, R435, R436, R438, R443, R444, R449, R450, R451) -/
def Obligations.DmaMovesData : Prop :=
  ∀ (e : Fin 4) (s : State), s.awake = true →
    (∀ (c : Fin 16), let x := s.chan e c
      (s.chState e c ≠ Ch.running ∨ x.desc ≠ [] ∨ x.aborting = true → exec (.dmaDescFetch e c) s = .next s) ∧
      (s.chState e c = Ch.running → x.desc = [] → x.aborting = false →
        (x.next % 64 ≠ 0 → exec (.dmaDescFetch e c) s = .next ((s.dmaHeadless e c).dmaCommit e c St.alignFault false)) ∧
        (x.next % 64 = 0 → dramEnd < x.next + 64 → exec (.dmaDescFetch e c) s = .next ((s.dmaHeadless e c).dmaCommit e c St.rangeFault false)) ∧
        (x.next % 64 = 0 → x.next + 64 ≤ dramEnd →
          let r := s.dmaDescRead e c x.next 2
          let d := (List.range 16).map (wordAt r.2.2)
          r.2.1 = St.done → (x.idx = 0 ∨ dmaWaits d = false) →
          let v := if x.idx = 0 then r.1.modChan e c (fun x => { x with headUser := wd d 1, headTag := wd d 10 }) else r.1
          let u := (v.setReg (R.DMA_CH_CUR_DESC_LO e c) (BitVec.ofNat 32 x.next)).setReg (R.DMA_CH_CUR_DESC_HI e c) (BitVec.ofNat 32 (x.next / 2 ^ 32))
          u.dmaCheck e d x.task.isSome (u.dmaDone e c) = St.done → exec (.dmaDescFetch e c) s =
            .next ((u.modChan e c (fun x => x.fetched d (u.dmaDone e c))).dmaShow e c) ∧
            (e.val < s.dma.length → c.val < (s.eng e).chans.length → ∃ t, exec (.dmaDescFetch e c) s = .next t ∧ (t.chan e c).desc = d ∧
              (t.chan e c).issued = s.dmaDone e c ∧ t.reg (R.DMA_CH_CUR_DESC_LO e c) = BitVec.ofNat 32 x.next ∧ t.dram = r.1.dram)))) ∧
    (∀ pass, s.flag (R.DMA_STATUS e) 16 = true ∨ 256 ≤ s.dmaOutstanding e → exec (.dmaReadIssue e pass) s = .next s) ∧
    (∀ pass, s.flag (R.DMA_STATUS e) 16 = false → s.dmaOutstanding e < 256 →
      let sel := ((List.range 16).map (fun k => ((s.eng e).last + 1 + k) % 16)).find? (fun c => s.dmaReady e c && !pass.contains c)
      (sel = none → exec (.dmaReadIssue e pass) s = .next s) ∧
      (∀ c, sel = some c → s.creditWaits (0x30 + e) = false → s.power.held.any (·.agent == 0x30 + e.val) = true → e.val < s.dma.length →
        ∃ t r, exec (.dmaReadIssue e pass) s = .next t ∧ (t.eng e).reads = (s.eng e).reads ++ [r] ∧ r.chan = c ∧ (t.eng e).last = c ∧
          r.len ≤ 64 ∧ r.addr % 64 + r.len ≤ 64 ∧ t.dram = s.dram ∧ t.regs = s.regs)) ∧
    (∀ k, s.dmaRead? e k = none → (∀ ext tr, exec (.dmaReadReturn e k ext tr) s = .next s) ∧
      ∀ wr val, exec (.dmaBusError e k wr val) s = .next s) ∧
    (∀ k r ext tr, s.dmaRead? e k = some r →
      let x := s.chan e r.chan
      let d := x.desc
      let n := s.dmaDone e r.chan
      let g := s.dmaFrom e (dmaSrcSpace d) (dmaSrcCore d) r.addr r.len ext tr
      let h := g.1.setRead e r { r with data := some g.2.2 }
      let running := s.chState e r.chan = Ch.running ∧ r.chan < 16 ∧ x.aborting = false ∧ d ≠ [] ∧ (s.eng e).err = none ∧ e.val < s.dma.length
      (s.dmaHeld d r = true → exec (.dmaReadReturn e k ext tr) s = .next s) ∧
      (s.dmaHeld d r = false → g.2.1 = St.done → exec (.dmaReadReturn e k ext tr) s = .next (State.dmaSettle (h.dmaFlush e r.chan 300) e r.chan) ∧
        (running → (∀ q ∈ (s.eng e).reads, q.chan = r.chan → q.pos ≠ n) → n < x.total + dmaBytes d →
          exec (.dmaReadReturn e k ext tr) s = .next h ∧ h.dram = g.1.dram ∧
            (h.eng e).reads = (s.eng e).reads.map (fun q => if q = r then { r with data := some g.2.2 } else q)) ∧
        (running → (s.eng e).reads = [r] → r.pos = n → n + g.2.2.length < x.total + dmaBytes d → n + g.2.2.length < 2 ^ 32 → g.2.2 ≠ [] →
          h.dmaOverlaps e r.chan = false →
          let w := h.dmaTo e (dmaDstSpace d) (dmaDstCore d) (dmaAt (dmaDst d) (dmaDstStride d) (dmaLine d) (n - x.total)).toNat g.2.2
          w.2 = St.done → ∃ t, exec (.dmaReadReturn e k ext tr) s = .next t ∧ t.dmaDone e r.chan = n + g.2.2.length ∧ (t.eng e).reads = [] ∧
            t.dram = w.1.dram ∧ t.spm = w.1.spm)) ∧
      (s.dmaHeld d r = false → g.2.1 = St.integrity → r.tries < 2 → (g.1.chan e r.chan).task = none → ∃ t,
        exec (.dmaReadReturn e k ext tr) s = .next t ∧ t.dram = g.1.dram ∧
        (t.reg (R.DMA_RETRY_CNT e)).toNat = min ((g.1.reg (R.DMA_RETRY_CNT e)).toNat + 1) 0xFFFFFFFF)) ∧
    (∀ k r val, s.dmaRead? e k = some r → exec (.dmaBusError e k false val) s =
      .next (State.dmaBusError (s.setEng e { s.eng e with reads := (s.eng e).reads.erase r }) e
        ⟨dmaSrcSpace (s.chan e r.chan).desc, r.addr, val, none⟩) ∧
      ((∀ c, (s.chan e c).aborting = false) → ∃ t, exec (.dmaBusError e k false val) s = .next t ∧ t.flag (R.DMA_STATUS e) 16 = true ∧
        (t.reg (R.DMA_BUS_ERR_CNT e)).toNat = min ((s.reg (R.DMA_BUS_ERR_CNT e)).toNat + 1) 0xFFFFFFFF))

/-- O41. For every agent and state that runs. MBX_SEND with GO to a valid mailbox whose senders include the agent's partition: the mailbox is
FULL with word 0 made of the sender's ID, KIND and the next SEQ (1 follows 65,535) and the staged words after it, and the sender reads
DONE with SEQ; to one that is not valid DESC_INVALID; without GO nothing changes; an agent with no staging buffer is reported. Latching by
the owner's agent answers word 0 of a FULL mailbox and shows its words. A release with the slot's SEQ empties it, with another it changes
nothing. A free lock read by one agent of its partition becomes that agent's; a held one is not taken; a release by the owner with 0 frees
it, any other counts; LCK_FORCE is the full agents'. (13_host_cores.md, R470, R471, R472, R473, R474, R475, R479, R480, R481, R482) -/
def Obligations.MailboxesAndLocks : Prop :=
  ∀ (ag : Agent) (s : State), s.awake = true →
    (∀ v b, senderBank ag = some b → bit v 31 = true →
      let m := bits v 5 0
      (s.flag (R.MBX_CFG m) 31 = false → ∃ t, exec (.mbxSend ag v) s = .next t ∧ t.reg (banked R.MBX_SEND_STATUS b) = BitVec.ofNat 32 (2 ^ 24 * St.descInvalid) ∧
        OnlyRegs [banked R.MBX_SEND_STATUS b] s t) ∧
      (s.flag (R.MBX_CFG m) 31 = true → isFull ag = true ∨ s.flag (R.MBX_CFG m) (24 + s.partOf ag) = true → ∃ t seq, exec (.mbxSend ag v) s = .next t ∧
        seq = (if (s.mailbox m).seq % 65536 = 65535 then 1 else (s.mailbox m).seq % 65536 + 1) ∧
        t.reg (banked R.MBX_SEND_STATUS b) = BitVec.ofNat 32 seq ∧
        t.host.mbox = setAt s.host.mbox m { s.mailbox m with
          full := true, seq := seq, words := BitVec.ofNat 32 (agentId ag % 256 * 2 ^ 24 + bits v 23 16 * 2 ^ 16 + seq) ::
            (List.range 15).map (fun w => s.reg (banked (R.MBX_STAGE (w + 1)) b)) } ∧ t.dram = s.dram)) ∧
    (∀ v b, senderBank ag = some b → bit v 31 = false → exec (.mbxSend ag v) s = .next s) ∧
    (∀ v, senderBank ag = none → exec (.mbxSend ag v) s = .next (s.refuseSys ag)) ∧
    (∀ (m : Fin 64), s.ofPart ag (s.mbxOwner m) = true →
      let b := s.mailbox m
      let w := if b.full then b.words else List.replicate 16 0
      (exec (.mbxMsgLatch ag m) s = .next { s with reply := .data (wd w 0), host.mbox := setAt s.host.mbox m { b with window := w } }) ∧
      (∀ v, b.full = true → b.seq = bits v 15 0 → exec (.mbxRelease ag m v) s = .next { s with host.mbox := setAt s.host.mbox m { b with full := false } }) ∧
      (∀ v, b.full = false ∨ b.seq ≠ bits v 15 0 → exec (.mbxRelease ag m v) s = .next s)) ∧
    (∀ (m : Fin 64) v, s.ofPart ag (s.mbxOwner m) = false → exec (.mbxRelease ag m v) s = .next (s.refuse ag (s.mbxOwner m)) ∧
      ∃ t, exec (.mbxMsgLatch ag m) s = .next t ∧ t.reply = .data 0 ∧ t.host.mbox = s.host.mbox) ∧
    (∀ (n : Fin 64), s.ofPart ag (s.lockPart n) = true →
      (s.host.lockOwner.getD n none = none → ∃ t, exec (.lockAcquire [ag] n) s = .next t ∧
        t.host.lockOwner = setAt s.host.lockOwner n (some (agentId ag)) ∧ t.host.lockLast = setAt s.host.lockLast n (agentId ag) ∧
        t.reply = .data (BitVec.ofNat 32 (2 ^ 31 + agentId ag))) ∧
      (∀ o, s.host.lockOwner.getD n none = some o → exec (.lockAcquire [ag] n) s = .next { s with reply := .data (lockView (some o) (agentId ag)) })) ∧
    (∀ (n : Fin 64), s.host.lockOwner.getD n none = some (agentId ag) → exec (.lockRelease ag n 0) s =
      .next { s with host.lockOwner := setAt s.host.lockOwner n none }) ∧
    (∀ (n : Fin 64) v, v ≠ 0 ∨ s.host.lockOwner.getD n none ≠ some (agentId ag) → exec (.lockRelease ag n v) s = .next (s.bump R.LCK_BAD_RELEASE_CNT)) ∧
    (∀ v, isFull ag = true → bit v 31 = true → exec (.lckForce ag v) s = .next { s with host.lockOwner := setAt s.host.lockOwner (bits v 5 0) none }) ∧
    (∀ v, isFull ag = true → bit v 31 = false → exec (.lckForce ag v) s = .next s) ∧
    (∀ v, isFull ag = false → exec (.lckForce ag v) s = .next (s.refuseSys ag))

/-- O42. For every agent, address and state that runs with the controller not stopped. A read that the firewall permits, inside DRAM, of
blocks without an error answers the bytes that stand there and changes no memory. A permitted write, with no pantry entry valid and no bad
block in its range, makes the range read as the bytes written and leaves every byte outside it. A read of good blocks that a region
refuses changes no memory; a write refused in part or whole answers that it was dropped and changes no byte of a refused unit, none at all
when every unit is refused; both raise source 44 when the firewall log is free. A write that starts past DRAM, or over a dead link,
changes nothing but its answer. With the controller stopped neither changes anything. (14_dram_integrity.md, R490, R491, R498, R499, R503,
R504, R507, R511) -/
def Obligations.DramServesAccesses : Prop :=
  ∀ (ag : Agent) (a : Nat) (s : State), s.awake = true →
    (s.dramStopped = true → ∀ n nb tr bs, exec (.dramRead ag a n nb tr) s = .next s ∧ exec (.dramWrite ag a bs) s = .next s) ∧
    (s.dramStopped = false →
      (∀ n, s.dramCheck (s.whoOf ag) false a n = none → (∀ b ∈ blocksOf a n, s.dram.bad.contains b = false) → ∃ t,
        exec (.dramRead ag a n [] []) s = .next t ∧ t.reply = .bytes (s.dramBytes a n) ∧ t.dram = s.dram ∧ t.hts = s.hts ∧ t.spm = s.spm) ∧
      (∀ n u, s.dramCheck (s.whoOf ag) false a n = some (St.partitionFault, u) → (∀ b ∈ blocksOf a n, s.dram.bad.contains b = false) → ∃ t,
        exec (.dramRead ag a n [] []) s = .next t ∧ t.dram = s.dram ∧ (s.flag R.DMC_FW_LOG 31 = false → 44 ∈ t.host.irq)) ∧
      (∀ bs, s.dramCheck (s.whoOf ag) true a bs.length = none → (∀ b ∈ blocksOf a bs.length, s.dram.bad.contains b = false) →
        (∀ e, e < 32 → s.pantryValid e = false) → ∃ t, exec (.dramWrite ag a bs) s = .next t ∧ t.reply = .nothing ∧
          t.dramBytes a bs.length = bs ∧ (∀ x, x < a ∨ a + bs.length ≤ x → t.dramBytes x 1 = s.dramBytes x 1) ∧
          t.hts = s.hts ∧ t.spm = s.spm) ∧
      (∀ bs u, s.dramCheck (s.whoOf ag) true a bs.length = some (St.partitionFault, u) → ∃ t, exec (.dramWrite ag a bs) s = .next t ∧
        t.reply = .dropped ∧ (s.flag R.DMC_FW_LOG 31 = false → 44 ∈ t.host.irq) ∧
        ((∀ v ∈ unitsOf a bs.length, s.unitOk (s.whoOf ag) true v = false) → t.dram = s.dram) ∧
        ((∀ e, e < 32 → s.pantryValid e = false) → ∀ x, s.fwAllows (s.whoOf ag) true x = false → t.dramBytes x 1 = s.dramBytes x 1)) ∧
      (∀ bs u st, s.dramCheck (s.whoOf ag) true a bs.length = some (st, u) → st = St.busError ∨ dramEnd ≤ a →
        exec (.dramWrite ag a bs) s = .next (s.answer (match ag with | .hc _ => .accessFault | _ => .busError))))

/-- O43. For every state that runs. A reload of an entry that none is due for changes nothing. Scrubbing switched off, or the controller
stopped, a scrub changes nothing; on, it moves to the next block, and after the last one counts a pass. A die temperature sets that die's
state by the thresholds, and the first STOP stops DRAM. A flit failure counts its replays; a dead link is a bus error of its agent and a
cause. DMC_SHARE takes a legal pair before the lock, else SHARE_REJECT; a firewall word is taken before the lock; PASS_S takes 60 to
3,600. A pantry entry becomes valid only when its ranges pass the check. All of these are the full agents'. A clean cache parity error
counts; a dirty one is logged once and raises source 45. (14_dram_integrity.md, R468, R493, R494, R498, R502, R506, R508, R509, R510,
R511, R513) -/
def Obligations.DramUpkeep : Prop :=
  ∀ (s : State), s.awake = true →
    (∀ (e : Fin 32), s.dram.reload.contains e.val = false → exec (.pantryReload e) s = .next s) ∧
    (∀ (e : Fin 32), s.dram.reload.contains e.val = true → s.sec.slot = none → exec (.pantryReload e) s =
      .next { s with dram := { s.dram with reload := s.dram.reload.filter (· != e.val) } }) ∧
    (∀ nb, s.flag R.DMC_CTRL 0 = false ∨ s.dramStopped = true → exec (.dramScrub nb) s = .next s) ∧
    (s.flag R.DMC_CTRL 0 = true → s.dramStopped = false → s.dram.bad.contains s.dram.scrubBlk = false → ∃ t, exec (.dramScrub []) s = .next t ∧
      t.dram.scrubBlk = (if (s.dram.scrubBlk + 1) * 64 = dramEnd then 0 else s.dram.scrubBlk + 1) ∧ t.dram.mem = s.dram.mem ∧
      t.reg R.DMC_SCRUB_POS = BitVec.ofNat 32 (t.dram.scrubBlk / 4)) ∧
    (∀ (d : Fin 4) (temp : BitVec 16), let st := dieNext (s.fld (R.DMC_TEMP d) 17 16) (sext 16 temp.toNat)
      (st ≠ 3 ∨ s.fld (R.DMC_TEMP d) 17 16 = 3 → ∃ t, exec (.dieTempSample d temp) s = .next t ∧
        t.reg (R.DMC_TEMP d) = BitVec.ofNat 32 (65536 * st + temp.toNat) ∧ t.fld R.DMC_STATUS (2 * d + 1) (2 * d) = st ∧
        OnlyRegs [R.DMC_TEMP d, R.DMC_STATUS] s t) ∧
      (st = 3 → s.fld (R.DMC_TEMP d) 17 16 ≠ 3 → ∃ t, exec (.dieTempSample d temp) s = .next t ∧ t.dramStopped = true ∧
        t.reports = s.reports ++ [⟨0xFF, St.internal, 0⟩] ∧ t.dram = s.dram)) ∧
    (∀ (ag : Agent) r, (∃ t, exec (.flitCrcFail ag r false) s = .next t ∧ t.dram = s.dram ∧
        (t.reg R.DMC_FLIT_REPLAY_CNT).toNat = min ((s.reg R.DMC_FLIT_REPLAY_CNT).toNat + min (max r 1) 3) 0xFFFFFFFF) ∧
      (∃ t, exec (.flitCrcFail ag r true) s = .next t ∧ t.dram.linksDown.contains (agentId ag) = true ∧
        t.reports = s.reports ++ [⟨agentId ag, St.busError, s.partOf ag⟩] ∧ t.dram.mem = s.dram.mem)) ∧
    (∀ (ag : Agent) (p : Fin 4) v, isFull ag = true → s.locked = false →
      let others := (((List.range 4).filter (· != p.val)).map (fun q => s.fld (R.DMC_SHARE q) 6 0)).sum
      (bits v 6 0 ≤ bits v 14 8 → bits v 14 8 ≤ 64 → bits v 14 8 ≠ 0 → bits v 6 0 + others ≤ 64 → exec (.dmcShareWrite ag p v) s =
        .next (s.setReg (R.DMC_SHARE p) (BitVec.ofNat 32 (256 * bits v 14 8 + bits v 6 0)))) ∧
      (bits v 14 8 < bits v 6 0 ∨ 64 < bits v 14 8 ∨ bits v 14 8 = 0 ∨ 64 < bits v 6 0 + others → exec (.dmcShareWrite ag p v) s =
        .next (s.setFlag R.DMC_STATUS 11 true))) ∧
    (∀ (ag : Agent) (e : Fin 32) v, isFull ag = true → s.locked = false →
      (bit v 31 = false → ∃ t, exec (.pantryEntryWrite ag e v) s = .next t ∧ t.pantryValid e = false ∧ OnlyRegs [R.DMC_PANTRY_CFG e] s t) ∧
      (bit v 31 = true → s.pantryValid e = false → s.pantryOk e = true → 1 ≤ s.pantryLen e → ∃ t, exec (.pantryEntryWrite ag e v) s = .next t ∧
        t.pantryValid e = true ∧ t.fld (R.DMC_PANTRY_CFG e) 29 28 = bits v 29 28 ∧ t.fld (R.DMC_PANTRY_CFG e) 15 0 = bits v 15 0 ∧
        OnlyRegs [R.DMC_PANTRY_CFG e] s t) ∧
      (bit v 31 = true → s.pantryValid e = false → s.pantryOk e = false → ∃ t, exec (.pantryEntryWrite ag e v) s = .next t ∧
        t.pantryValid e = false ∧ t.flag R.DMC_STATUS 10 = true)) ∧
    (∀ (ag : Agent) (r : Fin 64) (w : Fin 3) v, isFull ag = true → (s.locked = false → exec (.firewallRegionWrite ag r w v) s =
      .next (s.setReg (fwReg r w) (v &&& fwMask w))) ∧ (s.locked = true → exec (.firewallRegionWrite ag r w v) s = .next s)) ∧
    (∀ (ag : Agent) v, isFull ag = true → (60 ≤ bits v 15 0 ∧ bits v 15 0 ≤ 3600 → exec (.dmcScrubCfgWrite ag v) s =
        .next (s.setReg R.DMC_SCRUB_CFG (v &&& 0xFFFF))) ∧ (bits v 15 0 < 60 ∨ 3600 < bits v 15 0 → exec (.dmcScrubCfgWrite ag v) s = .next s) ∧
      ∃ t, exec (.dmcClearCounts ag) s = .next t ∧ (∀ o ∈ dmcCounters, t.reg o = 0) ∧ OnlyRegs dmcCounters s t) ∧
    (∀ (ag : Agent) (p : Fin 4) (e : Fin 32) (r : Fin 64) (w : Fin 3) v, isFull ag = false → ∀ c ∈ [Instr.dmcShareWrite ag p v, .pantryEntryWrite ag e v,
      .firewallRegionWrite ag r w v, .dmcClearCounts ag, .dmcScrubCfgWrite ag v], exec c s = .next (s.refuseSys ag)) ∧
    (∀ (n : Fin 8), exec (.cacheCleanParityError n) s = .next (s.bump R.MBX_HC_CLEAN_ERR_CNT)) ∧
    (∀ (n : Fin 8) a, (s.flag (R.MBX_HC_ERR_LO n) 0 = true → exec (.cacheDirtyParityError n a) s = .next (s.irqRaise 45)) ∧
      (s.flag (R.MBX_HC_ERR_LO n) 0 = false → ∃ t, exec (.cacheDirtyParityError n a) s = .next t ∧ t.flag (R.MBX_HC_ERR_LO n) 0 = true ∧
        45 ∈ t.host.irq ∧ t.flashLog.length = s.flashLog.length + 1 ∧ t.dram = s.dram))

/-- O44. For every state that runs. A lockstep mismatch or a clock fault in any island state but SAFE and OFF enters SAFE: SAFE_OK no longer
toggles, the decision is dated, and the retention record is that cause's, with its 8 words. In SAFE the cause is added to the record's
further causes and the island stays. In OFF nothing changes. SAFE_OFF_DROP in SAFE, a lockstep mismatch being 20 ms old, goes to OFF with
SAFE_OFF_N low; in any other island state it changes nothing. SAF_FORCE by a full agent is the cause REQUESTED. In SAFE and OFF the
island's register writes change nothing. (15_functional_safety.md, R516, R517, R540, R542, R543, R544, R545, R546, R547) -/
def Obligations.SafeStateIsEnteredAndStays : Prop :=
  ∀ (s : State), s.awake = true →
    (s.isSafe = false → ∀ ck ∈ [(Instr.lockstepMismatch, Cause.lockstep), (.clockFault, Cause.clockFault)], ∃ t, exec ck.1 s = .next t ∧
      t.island = Island.safe ∧ t.saf.okToggling = false ∧ t.saf.decided = some s.now ∧
      t.saf.retention = causeRecord ck.2 0xFF 0 0 s.devNow 0 s.saf.bootSeq ∧ t.saf.retention.length = 8 ∧ t.dram = s.dram ∧ t.hts = s.hts) ∧
    (s.island = Island.safe → ∀ ck ∈ [(Instr.lockstepMismatch, Cause.lockstep), (.clockFault, Cause.clockFault)],
      exec ck.1 s = .next { s with saf.retention := addFurther s.saf.retention ck.2 }) ∧
    (s.island = Island.off → exec .lockstepMismatch s = .next s ∧ exec .clockFault s = .next s) ∧
    (∀ a, s.saf.decided = some a →
      (s.island = Island.safe → s.saf.lockstep = false ∨ 20000000 + a ≤ s.now → ∃ t, exec .safeOffDrop s = .next t ∧ t.island = Island.off ∧
        t.saf.offN = false ∧ t.saf.okToggling = false ∧ t.saf.retention = s.saf.retention ∧ RegsBut [R.SAF_STATUS] s t) ∧
      (s.island ≠ Island.safe ∨ (s.saf.lockstep = true ∧ s.now < 20000000 + a) → exec .safeOffDrop s = .next s)) ∧
    (s.saf.decided = none → exec .safeOffDrop s = .next s) ∧
    (∀ (ag : Agent), isFull ag = true → s.isSafe = false → ∃ t, exec (.safForce ag) s = .next t ∧ t.island = Island.safe ∧
      t.saf.retention = causeRecord Cause.requested (agentId ag) (s.partOf ag) (BitVec.ofNat 32 (agentId ag)) s.devNow 0 s.saf.bootSeq) ∧
    (s.isSafe = true → ∀ (ag : Agent), ∀ c ∈ [Instr.safLockReq ag, .safArm ag, .safForce ag, .safHeartbeat ag, .safCauseClear ag, .safClearCounts ag],
      exec c s = .next s)

/-- O45. For every state that runs whose island is neither SAFE nor OFF. LOCK_REQ by another agent than the SMC is reported; by the SMC after
a refused lock it reads BUSY; before the lock it answers what the lock checks answer, unless reading the proof sets entered SAFE. A P0 or
full agent arms a locked device, and arming before the lock changes nothing; it starts and renews the heartbeat after the lock while HB_US
is set; it clears the retention record and the boot sequence, and the counters. A gap longer than HB_US is a cause where SAF_REACT says
so, else a notice, and supervision goes on from now; a shorter one changes nothing. The first waiting watchdog event is taken: a cause for
a node whose reaction is the safe state, else a notice that counts. (15_functional_safety.md, R520, R538, R539, R541, R542, R547, R548,
R549) -/
def Obligations.IslandIsSupervised : Prop :=
  ∀ (s : State), s.awake = true → s.isSafe = false →
    (∀ (ag : Agent), ag ≠ .smc → exec (.safLockReq ag) s = .next (s.refuseSys ag)) ∧
    (s.island = Island.lockedFailed → ∃ t, exec (.safLockReq .smc) s = .next t ∧ t.fld R.SAF_LOCK_STATUS 31 24 = St.busy ∧ OnlyRegs [R.SAF_LOCK_STATUS] s t) ∧
    (s.island = Island.boot → s.locked = false → s.lockChecks.1.isSafe = false →
      (s.lockChecks.2.1 = 0 → ∃ t, exec (.safLockReq .smc) s = .next t ∧ t.locked = true ∧ t.reg R.SAF_LOCK_STATUS = 0 ∧ t.island = Island.lockedSt) ∧
      (s.lockChecks.2.1 ≠ 0 → ∃ t, exec (.safLockReq .smc) s = .next t ∧ t.island = Island.lockedFailed ∧ t.locked = s.lockChecks.1.locked ∧
        t.fld R.SAF_LOCK_STATUS 31 24 = St.descInvalid)) ∧
    (∀ (ag : Agent), isFull ag = true ∨ s.partOf ag = 0 →
      (s.locked = false → exec (.safArm ag) s = .next s ∧ exec (.safHeartbeat ag) s = .next s) ∧
      (s.locked = true → (∃ t, exec (.safArm ag) s = .next t ∧ t.flag R.SAF_STATUS 5 = true ∧ RegsBut [R.SAF_STATUS] s t ∧
          (s.island = Island.lockedSt → s.flag R.SAF_STATUS 6 = true → t.island = Island.run ∧ t.saf.okToggling = true)) ∧
        (s.fld R.SAF_HB_CFG 16 0 ≠ 0 → exec (.safHeartbeat ag) s = .next { s with saf := { s.saf with heartbeat := some s.now } })) ∧
      (exec (.safCauseClear ag) s = .next { s with saf := { s.saf with retention := [], bootSeq := 0 } }) ∧
      (∃ t, exec (.safClearCounts ag) s = .next t ∧ (∀ o ∈ safCounters, t.reg o = 0) ∧ OnlyRegs safCounters s t)) ∧
    (∀ (ag : Agent), isFull ag = false → s.partOf ag ≠ 0 → ∀ c ∈ [Instr.safArm ag, .safForce ag, .safHeartbeat ag, .safCauseClear ag, .safClearCounts ag],
      exec c s = .next (s.refuseSys ag)) ∧
    (s.saf.heartbeat = none → exec .heartbeatTimeout s = .next s) ∧
    (∀ a, s.saf.heartbeat = some a → s.fld R.SAF_HB_CFG 16 0 ≠ 0 →
      (s.now ≤ a + 1000 * s.fld R.SAF_HB_CFG 16 0 → exec .heartbeatTimeout s = .next s) ∧
      (a + 1000 * s.fld R.SAF_HB_CFG 16 0 < s.now →
        (s.flag R.SAF_REACT 0 = true → ∃ t, exec .heartbeatTimeout s = .next t ∧ t.island = Island.safe ∧
          t.saf.retention = causeRecord Cause.heartbeat 0xFF 0 0 s.devNow 0 s.saf.bootSeq) ∧
        (s.flag R.SAF_REACT 0 = false → ∃ t, exec .heartbeatTimeout s = .next t ∧ t.saf.heartbeat = some s.now ∧
          t.flag R.SAF_NOTICE_PEND Notice.heartbeat = true ∧ 25 ∈ t.host.irq ∧ t.island = s.island))) ∧
    (s.saf.wdEvents = [] → exec .wdEventArrival s = .next s) ∧
    (∀ info early r, s.saf.wdEvents = (info, early, true) :: r → ∃ t, exec .wdEventArrival s = .next t ∧ t.island = Island.safe ∧ t.saf.wdEvents = r ∧
      t.saf.retention = causeRecord (if early = 1 then Cause.wdEarly else Cause.wdLate) 0x38 0 (BitVec.ofNat 32 info) s.devNow 0 s.saf.bootSeq) ∧
    (∀ info early r, s.saf.wdEvents = (info, early, false) :: r → ∃ t, exec .wdEventArrival s = .next t ∧ t.saf.wdEvents = r ∧ t.island = s.island ∧
      t.flag R.SAF_NOTICE_PEND Notice.wdMark = true ∧ 25 ∈ t.host.irq)

/-- O46. For every state that runs. With no compare running, or one whose operand a fill holds, a completion changes nothing; a running one
ends by the taster's rule, its node committed. With no verdict waiting nothing changes. The first waiting verdict is shifted into its
policy's history, which keeps the last W: past K disagreements a P0 or P1 policy is the cause TASTER_TRIP, another a notice with its
history forgotten; a disagreement that does not trip counts as untrusted with a notice; an agreement changes only the history. An interval
opens only after the lock, outside SAFE and OFF, and from its time on; the window closes only when it is open and its time has come, the
sets without an outcome then being MISSED, and the interval with them where no set failed. (15_functional_safety.md, R524, R527, R528,
R529, R533, R535, R536) -/
def Obligations.TasterAndProofsJudge : Prop :=
  ∀ (s : State), s.awake = true →
    (s.runningOn tasterUnit = none → exec .tasterCompareComplete s = .next s) ∧
    (∀ i, s.runningOn tasterUnit = some i → (s.jobWaits i = true → exec .tasterCompareComplete s = .next s) ∧
      (s.jobWaits i = false → exec .tasterCompareComplete s = .next (s.tasterFinish i) ∧
        (∀ j k, Lone s tasterUnit i j k → ∃ t, exec .tasterCompareComplete s = .next t ∧ Ended t i j k))) ∧
    (s.saf.verdicts = [] → exec .tasterVerdict s = .next s) ∧
    (∀ p v r, s.saf.verdicts = (p, v) :: r →
      let h := (v :: s.saf.hist.getD p []).take (s.fld (R.SAF_TP_CFG p) 23 16)
      (ones h ≤ s.fld (R.SAF_TP_CFG p) 15 8 → v = false → exec .tasterVerdict s =
        .next { s with saf := { s.saf with verdicts := r, hist := setAt s.saf.hist p h } }) ∧
      (ones h ≤ s.fld (R.SAF_TP_CFG p) 15 8 → v = true → ∃ t, exec .tasterVerdict s = .next t ∧ t.saf.verdicts = r ∧
        t.saf.hist = setAt s.saf.hist p h ∧ t.flag R.SAF_NOTICE_PEND Notice.untrusted = true ∧ t.island = s.island) ∧
      (s.fld (R.SAF_TP_CFG p) 15 8 < ones h → s.fld (R.SAF_TP_CFG p) 29 28 ≤ 1 → s.isSafe = false → ∃ t, exec .tasterVerdict s = .next t ∧
        t.island = Island.safe ∧ t.saf.verdicts = r ∧ t.saf.hist = setAt s.saf.hist p h) ∧
      (s.fld (R.SAF_TP_CFG p) 15 8 < ones h → 2 ≤ s.fld (R.SAF_TP_CFG p) 29 28 → ∃ t, exec .tasterVerdict s = .next t ∧
        t.saf.hist = setAt (setAt s.saf.hist p h) p [] ∧ t.flag R.SAF_NOTICE_PEND Notice.p2Trip = true ∧ t.island = s.island)) ∧
    (s.saf.nextInterval = none → exec .proofIntervalOpen s = .next s) ∧
    (∀ a, s.saf.nextInterval = some a → s.locked = false ∨ s.isSafe = true ∨ s.now < a → exec .proofIntervalOpen s = .next s) ∧
    (∀ a, s.saf.nextInterval = some a → s.locked = true → s.isSafe = false → a ≤ s.now → s.validSets = [] → s.saf.proofs = [] → ∃ t,
      exec .proofIntervalOpen s = .next t ∧ t.saf.nextInterval = some (a + 1000000 * s.fld R.SAF_PROOF_CFG 9 0) ∧ t.saf.proofs = [] ∧
      t.dram = s.dram) ∧
    (s.saf.windowOpen = false ∨ s.now < s.saf.windowClose ∨ s.isSafe = true → exec .proofWindowClose s = .next s) ∧
    (s.saf.windowOpen = true → s.saf.windowClose ≤ s.now → s.isSafe = false → exec .proofWindowClose s =
      .next ((s.saf.proofs.map (·.set)).foldl (fun s k => s.proofOutcome k 3 0xFF) s) ∧
      ((∃ r ∈ s.saf.proofs, r.outcome = 0) → ∃ t, exec .proofWindowClose s = .next t ∧ t.saf.windowOpen = false ∧ t.saf.proofs = [] ∧ t.dram = s.dram ∧
        ((∀ r ∈ s.saf.proofs, r.outcome = 0 ∨ r.outcome = 1) → t.fld R.SAF_PROOF_STATUS 1 0 = 3 ∧
          (t.reg R.SAF_PROOF_MISS_CNT).toNat = min ((s.reg R.SAF_PROOF_MISS_CNT).toNat + 1) 0xFFFFFFFF)))

/-- O47. For every state that runs. A power-off starts exactly where the domain may power off, and changes its STATE only. When it is done the
domain is OFF, with every register kept; the activation and working memories of a neural domain read as zero and DRAM and every other
memory stand; a wake that arrived meanwhile makes it WAKING. A wake of an OFF domain makes it WAKING and counts in its WAKES field,
saturating; during a power-down it is kept; else it changes nothing. A wake that is done makes the domain ON, busy from now (of the
feature engine's domain said where no pair table is resident, which would be read again). (17_power_clocks_ageing.md, R576, R577, R578,
R579) -/
def Obligations.PowerDomainsGoOffAndWake : Prop :=
  ∀ (d : Fin 10) (s : State), s.awake = true →
    (∀ wfi, (s.mayOffNow d wfi = true → ∃ t, exec (.domainPowerOff d wfi) s = .next t ∧ t.domState d = Dom.poweringOff ∧ OnlyRegs [R.PMG_DOM_STATUS d] s t) ∧
      (s.mayOffNow d wfi = false → exec (.domainPowerOff d wfi) s = .next s)) ∧
    (s.domState d ≠ Dom.poweringOff → exec (.domainPowerOffDone d) s = .next s) ∧
    (s.domState d = Dom.poweringOff →
      (s.power.wakeAfterOff.contains d.val = false → ∃ t, exec (.domainPowerOffDone d) s = .next t ∧ t.domState d = Dom.off ∧ RegsBut [R.PMG_DOM_STATUS d] s t ∧
        t.dram = s.dram ∧ t.hts = s.hts ∧ t.fte = s.fte ∧
        (∀ c k, 4 * (d.val - 3) ≤ c → c < 4 * (d.val - 3) + 4 → k = 1 ∨ k = 2 → d.val = 3 ∨ d.val = 4 → t.spm.mem.getD (spmMem k c) [] = []) ∧
        (d.val ≠ 3 → d.val ≠ 4 → t.spm = s.spm)) ∧
      (s.power.wakeAfterOff.contains d.val = true → ∃ t, exec (.domainPowerOffDone d) s = .next t ∧ t.domState d = Dom.waking ∧
        t.power.wakeAfterOff.contains d.val = false)) ∧
    (s.domState d = Dom.off → ∃ t, exec (.domainWake d) s = .next t ∧ t.domState d = Dom.waking ∧ t.hts = s.hts ∧ t.dram = s.dram ∧
      t.fld (R.PMG_DOM_STATUS d) 31 16 = min (s.fld (R.PMG_DOM_STATUS d) 31 16 + 1) 0xFFFF) ∧
    (s.domState d = Dom.poweringOff → ∃ t, exec (.domainWake d) s = .next t ∧ t.power.wakeAfterOff.contains d.val = true ∧ OnlyRegs [] { s with power := t.power } t) ∧
    (s.domState d ≠ Dom.off → s.domState d ≠ Dom.poweringOff → exec (.domainWake d) s = .next s) ∧
    (s.domState d ≠ Dom.waking → exec (.domainWakeDone d) s = .next s) ∧
    (s.domState d = Dom.waking → d.val ≠ 2 ∨ (∀ k, k < 4 → s.fte.getD k none = none) → ∃ t, exec (.domainWakeDone d) s = .next t ∧
      t.domState d = Dom.on ∧ RegsBut [R.PMG_DOM_STATUS d] s t ∧ t.power.lastBusy = setAt s.power.lastBusy d s.now ∧ t.fte = s.fte ∧ t.dram = s.dram)

/-- O48. For every state that runs. While a P0 request waits, the next grant is a P0 one. A next grant that fits is held, counts as delayed
with its whole microseconds, and adds its units to the credits held; one that does not fit, or none waiting, changes nothing. BASE is the
filtered power, rounded up to units of 0.125 W (the filter of 8 s is open: any value between its samples). THERM_CAP falls by 4 above the
target, rises by 4 more than 3 degrees below it, and stays between its bounds; a junction above 110 degrees enters SAFE. The PMG_ writes
are taken from the SMC and the island, PMG_BUDGET_LIMIT and CLEAR_COUNTS also from P3, within their limits and until the lock where R231
binds them; others are reported. (17_power_clocks_ageing.md, R580, R581, R583, R586, R599) -/
def Obligations.PowerCreditsAreGrantedInOrder : Prop :=
  ∀ (s : State), s.awake = true →
    (s.nextCredit = none → exec .powerCreditGrant s = .next s) ∧
    (∀ c, s.nextCredit = some c → ((∃ x ∈ s.power.waiting, x.part = 0) → c.part = 0) ∧
      (s.creditFits c.part c.units = false → exec .powerCreditGrant s = .next s) ∧
      (s.creditFits c.part c.units = true → ∃ t, exec .powerCreditGrant s = .next t ∧ t.power.held = s.power.held ++ [c] ∧
        t.power.waiting = s.power.waiting.erase c ∧ t.creditsUsed = s.creditsUsed + c.units ∧ t.dram = s.dram ∧ t.spm = s.spm ∧
        (t.reg R.PMG_DELAYED_CNT).toNat = min ((s.reg R.PMG_DELAYED_CNT).toNat + 1) 0xFFFFFFFF ∧
        (t.reg R.PMG_GRANT_DELAY_US).toNat = min ((s.reg R.PMG_GRANT_DELAY_US).toNat + (s.now - c.since) / 1000) 0xFFFFFFFF)) ∧
    (∃ t, exec .powerBaseUpdate s = .next t ∧ RegsBut [R.PMG_BASE] s t ∧ t.fld R.PMG_BASE 9 0 = min (ceilDiv (baseOf t.power.baseSamples) 125000) 1023 ∧
      t.power.baseSamples = (((s.power.rails.map (fun r => r.1 * r.2)).sum - 125000 * s.creditsUsed) :: s.power.baseSamples).take 8) ∧
    (∀ (tj : List (BitVec 16)), let temp := fun d => sext 16 ((tj.getD d 0).toNat)
      let tmax := ((List.range 10).map temp).foldl max (temp 0)
      let h := ((List.range 4).map (fun d => sext 16 (s.fld (R.DMC_TEMP d) 15 0) - 8 * (s.fld R.PMG_THERM_CFG 15 8 : Int))).foldl max
        (tmax - 8 * (s.fld R.PMG_THERM_CFG 7 0 : Int))
      let old := s.fld R.PMG_BUDGET_EFF 25 16
      let cap := if 0 < h then old - 4 else if h < -24 then old + 4 else old
      ∃ t, exec (.thermalCapUpdate tj) s = .next t ∧ t.dram = s.dram ∧ t.power.held = s.power.held ∧
        t.fld R.PMG_BUDGET_EFF 25 16 = min (max cap (max 200 (s.fld R.PMG_BASE 9 0 + s.fld R.PMG_P0_RESERVE 9 0)))
          (min (s.fld R.PMG_BUDGET_LIMIT 9 0) (s.fld R.PMG_BUDGET_MAX 9 0)) ∧
        (tmax ≤ 880 → RegsBut [R.PMG_TJ, R.PMG_BUDGET_EFF] s t) ∧ (880 < tmax → s.isSafe = false → t.island = Island.safe)) ∧
    (∀ (ag : Agent) v,
      (isFull ag = true ∨ s.partOf ag = 3 → (200 ≤ bits v 9 0 → exec (.pmgBudgetLimitWrite ag v) s = .next (s.setFld R.PMG_BUDGET_LIMIT 9 0 (bits v 9 0))) ∧
        (bits v 9 0 < 200 → exec (.pmgBudgetLimitWrite ag v) s = .next s) ∧
        ∃ t, exec (.pmgClearCounts ag) s = .next t ∧ (∀ o ∈ pmgCounters, t.reg o = 0) ∧ OnlyRegs pmgCounters s t) ∧
      (isFull ag = false → s.partOf ag ≠ 3 → exec (.pmgBudgetLimitWrite ag v) s = .next (s.refuseSys ag) ∧ exec (.pmgClearCounts ag) s = .next (s.refuseSys ag)) ∧
      (isFull ag = false → ∀ c ∈ [Instr.pmgBudgetMaxWrite ag v, .pmgP0ReserveWrite ag v, .pmgThermCfgWrite ag v], exec c s = .next (s.refuseSys ag)) ∧
      (isFull ag = true → s.locked = true → ∀ c ∈ [Instr.pmgBudgetMaxWrite ag v, .pmgP0ReserveWrite ag v, .pmgThermCfgWrite ag v], exec c s = .next s) ∧
      (isFull ag = true → s.locked = false →
        exec (.pmgBudgetMaxWrite ag v) s = .next (if 200 ≤ bits v 9 0 ∧ bits v 9 0 ≤ 760 then s.setFld R.PMG_BUDGET_MAX 9 0 (bits v 9 0) else s) ∧
        exec (.pmgP0ReserveWrite ag v) s = .next (if bits v 9 0 ≤ s.fld R.PMG_BUDGET_MAX 9 0 - 200 then s.setFld R.PMG_P0_RESERVE 9 0 (bits v 9 0) else s) ∧
        exec (.pmgThermCfgWrite ag v) s = .next (if 70 ≤ bits v 15 8 ∧ bits v 15 8 ≤ 100 ∧ 70 ≤ bits v 7 0 ∧ bits v 7 0 ≤ 104
          then s.setFld R.PMG_THERM_CFG 15 0 (bits v 15 0) else s)))

/-- O49. For every state that runs. A due derate step below 8 adds 1, sets SLEWING, the new clock rates and a flash log record, and one not
due changes nothing; the end of the slew clears SLEWING. A slack sample writes each domain's PMG_SLACK; below 40 ps with headroom it
raises STEPS by one, without headroom below step 8 it calls a derate step. Rail readings within 30 mV leave the registers; a fault bit, or
a second reading out of limits, enters SAFE. A droop of a neural domain skips until the recovery, whose pulses are counted; of another it
counts. An append moves the oldest held record into flash at the log's address, within 256 KiB an hour. (17_power_clocks_ageing.md, R573,
R574, R585, R588, R589, R591, R592, R593, R597) -/
def Obligations.AgeingIsFollowed : Prop :=
  ∀ (s : State), s.awake = true →
    (s.age.need = none → exec .derateStep s = .next s) ∧
    (∀ d due, s.age.need = some (d, due) →
      (s.now < due ∨ 8 ≤ s.derate → exec .derateStep s = .next s) ∧
      (due ≤ s.now → s.derate < 8 → ∃ t, exec .derateStep s = .next t ∧ t.derate = s.derate + 1 ∧ t.flag R.PMG_CLK_STATUS 5 = true ∧ t.age.need = none ∧
        t.reg R.PMG_CORE_HZ = BitVec.ofNat 32 (62500000 * (31 - s.derate)) ∧ t.reg R.PMG_MAC_HZ = BitVec.ofNat 32 (7812500 * (31 - s.derate)) ∧
        t.flashLog.length = s.flashLog.length + 1 ∧ t.dram = s.dram ∧ (∀ q : Fin 10, t.steps q = s.steps q))) ∧
    exec .pllSlewDone s = .next (s.setFlag R.PMG_CLK_STATUS 5 false) ∧
    (∀ (xs : List SlackReading) (d : Fin 10) (x : SlackReading), xs[d.val]? = some x → ∃ t, exec (.slackSample xs) s = .next t ∧ t.dram = s.dram ∧
      t.reg (R.PMG_SLACK d) = BitVec.ofNat 32 (x.monitor % 64 * 65536 + unsext 16 x.ps) ∧
      (x.ps < 40 → s.exhausted d = false → t.steps d = s.steps d + 1) ∧ (40 ≤ x.ps → x.ps < 65 → t.steps d = s.steps d) ∧
      (x.ps < 40 → s.exhausted d = true → s.derate < 8 → t.age.need ≠ none ∧ t.steps d = s.steps d) ∧
      (x.ps < 65 → s.exhausted d = true → s.derate = 8 → t.flag R.PMG_CLK_STATUS 6 = true)) ∧
    (∀ rs : List RailReading, (∃ x xs, rs = x :: xs) → (∀ r x, rs[r]? = some x → x.valid = true ∧ x.fault = false ∧ absDiff x.mv (s.setpoint r) ≤ 30) →
      ∃ t, exec (.railRead rs) s = .next t ∧ t.island = s.island ∧ RegsBut [] s t ∧ t.age.lastRead = some s.now) ∧
    (∀ (rs : List RailReading) r x, r < 11 → rs[r]? = some x → x.valid = true →
      x.fault = true ∨ (30 < absDiff x.mv (s.setpoint r) ∧ 1 ≤ s.power.railBad.getD r 0) → s.isSafe = false →
      ∃ t, exec (.railRead rs) s = .next t ∧ t.island = Island.safe) ∧
    (∀ d : Fin 10, (d.val ≠ 3 → d.val ≠ 4 → exec (.droopEvent d) s = .next (s.bump R.PMG_DROOP_EVT_CNT)) ∧
      (d.val = 3 ∨ d.val = 4 → s.age.droop.contains d.val = false → exec (.droopEvent d) s = .next { s with age := { s.age with droop := s.age.droop ++ [d.val] } }) ∧
      (d.val = 3 ∨ d.val = 4 → s.age.droop.contains d.val = true → exec (.droopEvent d) s = .next s) ∧
      (∀ n, s.age.droop.contains d.val = false → exec (.droopRecovery d n) s = .next s) ∧
      (∀ n, d.val = 3 ∨ d.val = 4 → s.age.droop.contains d.val = true → let r := if d.val = 3 then R.PMG_DROOP_SKIP_W else R.PMG_DROOP_SKIP_E
        ∃ t, exec (.droopRecovery d n) s = .next t ∧ t.age.droop.contains d.val = false ∧ t.dram = s.dram ∧
          (t.reg r).toNat = min ((s.reg r).toNat + n) 0xFFFFFFFF)) ∧
    (s.flashLog = [] → exec .flashLogAppend s = .next s) ∧
    (∀ r l, s.flashLog = r :: l → let used := if s.sec.logHour = s.now / 3600000000000 then s.sec.logBytes else 0
      (262144 < used + 512 → exec .flashLogAppend s = .next s) ∧
      (used + 512 ≤ 262144 → ∃ t, exec .flashLogAppend s = .next t ∧ t.flashLog = l ∧ t.sec.logSeq = s.sec.logSeq + 1 ∧ t.sec.logBytes = used + 512 ∧
        t.flashBytes s.sec.logAddr 512 = logBytes r s.sec.logSeq s.saf.bootSeq ∧ RegsBut [] s t ∧ t.dram = s.dram))

/-- O50. For every state that runs. A link comes up at a rate of 1 to 6 and a width of 1, 2, 4 or 8 out of PERST_N, else nothing changes; it
goes down once, counted, and a host read under way is then a bus error of its engine, as a completion timeout is; one of a neural core (4
on) ends the run of a HALO to a peer. A configuration request without a link is lost, before T_CFG it is answered by a retry, then reads
and writes are answered: dword 0 and dword 2 read the IDs and the class and take no write, dword 1 holds bus master enable. A queue
register takes a write of the host, the SMC or P3 while its ENABLE is 0 and is kept while it is 1, but for a write that only clears
ENABLE; another agent's is reported. A head write is stored. The places of the configuration fields are presumed (log 30).
(18_boot_security_pcie.md, R602, R617, R621, R622, R629) -/
def Obligations.LinkAndConfigurationSpace : Prop :=
  ∀ (s : State), s.awake = true →
    (∀ (rate : Fin 8) (w : Fin 16), (s.pci.perst = false → 1 ≤ rate.val → rate.val ≤ 6 → w.val ∈ [1, 2, 4, 8] →
        exec (.linkUp rate w) s = .next (s.setReg R.PCI_LINK_STATUS (BitVec.ofNat 32 (256 + w.val * 16 + rate.val)))) ∧
      (s.pci.perst = true ∨ rate.val < 1 ∨ 6 < rate.val ∨ w.val ∉ [1, 2, 4, 8] → exec (.linkUp rate w) s = .next s)) ∧
    (s.linkUp = false → exec .linkDown s = .next s) ∧
    (s.linkUp = true → (∀ e, e < 4 → ∀ r ∈ (s.eng e).reads, r.data.isNone = true →
        dmaSrcSpace (s.chan e r.chan).desc ≠ 5 ∧ dmaSrcSpace (s.chan e r.chan).desc ≠ 6) →
      exec .linkDown s = .next ((s.setReg R.PCI_LINK_STATUS 0).count 1222 1)) ∧
    (∀ (e : Fin 12) k, e.val < 4 → (s.dmaRead? e k = none → exec (.completionTimeout e k) s = .next s) ∧
      (∀ r, s.dmaRead? e k = some r → dmaSrcSpace (s.chan e r.chan).desc = 5 ∨ dmaSrcSpace (s.chan e r.chan).desc = 6 → r.data = none →
        exec (.completionTimeout e k) s = .next (State.dmaBusError ((s.count 1221 1).setEng e { s.eng e with reads := (s.eng e).reads.erase r }) e
          ⟨dmaSrcSpace (s.chan e r.chan).desc, r.addr, true, none⟩) ∧
        ((∀ c, (s.chan e c).aborting = false) → ∃ t, exec (.completionTimeout e k) s = .next t ∧ t.flag (R.DMA_STATUS e) 16 = true ∧
          (t.reg (R.DMA_BUS_ERR_CNT e)).toNat = min ((s.reg (R.DMA_BUS_ERR_CNT e)).toNat + 1) 0xFFFFFFFF))) ∧
    (∀ (e : Fin 12) k, 4 ≤ e.val → let n := e.val - 4
      (s.ncNow n = none → exec (.completionTimeout e k) s = .next s) ∧
      (∀ r x, s.ncNow n = some (r, x) →
        let peer (f : NcFly) : Bool := (s.ncCmd r x f.idx).op == 0x28 && (s.ncCmd r x f.idx).outputs.any (fun h =>
          s.descIs x.part h (fun d => match s.region? d.region with | some g => g.kind == RK.peer | none => false))
        (r.fly.find? peer = none → exec (.completionTimeout e k) s = .next s) ∧
        (∀ f, r.fly.find? peer = some f → let d := s.ncRun n x.part (s.ncCmd r x f.idx) f.raced
          (∃ r', exec (.completionTimeout e k) s = .next ((d.s.count 1221 1).ncEnd r' x (exhausted (firstBad d.st St.busError)) f.idx) ∧ r'.task = r.task) ∧
          ∀ i j, Lone s (0x10 + n) r.task i j → ∃ t, exec (.completionTimeout e k) s = .next t ∧ Ended t r.task i j))) ∧
    (∀ c, (s.inboundOk = false → exec (.configRequest c) s = .next s) ∧
      (s.inboundOk = true → s.cfgReady = false → exec (.configRequest c) s = .next (s.answer .requestRetry)) ∧
      (s.inboundOk = true → s.cfgReady = true →
        (c.write = false → exec (.configRequest c) s = .next (s.answer (.data (s.cfgRead c.reg)))) ∧
        (c.write = true → c.reg = 0 ∨ c.reg = 2 → exec (.configRequest c) s = .next (s.answer .nothing)) ∧
        (c.write = true → c.reg = 1 → s.pci.waiting = [] → s.sec.answers = [] → ∃ t, exec (.configRequest c) s = .next t ∧ t.reply = .nothing ∧
          t.pci.busMaster = bit c.data 2 ∧ RegsBut [] s t ∧ t.dram = s.dram))) ∧
    (s.cfgRead 0 = BitVec.ofNat 32 (0x5120 * 65536 + Config.vendorId.toNat) ∧ bits (s.cfgRead 2) 31 8 = 0x120000 ∧ bit (s.cfgRead 1) 2 = s.pci.busMaster) ∧
    (∀ (ag : Agent) off v, (pciQueueReg off = none → exec (.pciQueueConfigWrite ag off v) s = .next s) ∧
      (∀ cfg mask, pciQueueReg off = some (cfg, mask) →
        (ag ≠ .smc → ag ≠ .pcieHost → isFull ag = true ∨ s.partOf ag ≠ 3 → exec (.pciQueueConfigWrite ag off v) s = .next (s.refuseSys ag)) ∧
        (ag = .smc ∨ ag = .pcieHost ∨ (isFull ag = false ∧ s.partOf ag = 3) →
          (s.flag cfg 31 = true → off ≠ cfg ∨ v &&& BitVec.ofNat 32 mask ≠ setBits (s.reg cfg) 31 31 0 → exec (.pciQueueConfigWrite ag off v) s = .next s) ∧
          (s.flag cfg 31 = true → off = cfg → v &&& BitVec.ofNat 32 mask = setBits (s.reg cfg) 31 31 0 →
            exec (.pciQueueConfigWrite ag off v) s = .next (s.setReg cfg (v &&& BitVec.ofNat 32 mask))) ∧
          (s.flag cfg 31 = false → s.pci.waiting = [] → s.sec.answers = [] →
            exec (.pciQueueConfigWrite ag off v) s = .next (s.setReg off (v &&& BitVec.ofNat 32 mask)))))) ∧
    (∀ (q : Fin 256) pay v, (s.inboundOk = false → exec (.rqHeadWrite q pay v) s = .next s) ∧
      (s.inboundOk = true → (∀ e ∈ s.pci.waiting, e.queue ≠ q.val) → ∃ t, exec (.rqHeadWrite q pay v) s = .next t ∧
        t.bar4 (8 * q.val + 4 * b2n pay) = v ∧ (∀ o, o ≠ 8 * q.val + 4 * b2n pay → t.bar4 o = s.bar4 o) ∧ RegsBut [] s t ∧ t.dram = s.dram))

/-- O51. For every state that runs. Without a link inbound accesses change nothing. With the DRAM controller stopped an access to DRAM is
held. A poisoned write to DRAM is dropped and counted, a permitted write and read of good blocks act on exactly their bytes, a refused or
uncorrectable read completes as Completer Abort, and an access past DRAM as Unsupported Request. A peer reaches in BAR 0 only the mailbox
staging and the rest is Unsupported Request. A host-core store through a window leaves as one posted write at the translated address;
without bus master enable it is dropped, with the link down it is a bus error; a load without an answer is an access fault.
(18_boot_security_pcie.md, R602, R617, R511, R618, R619, R621) -/
def Obligations.InboundAndOutboundAccesses : Prop :=
  ∀ (s : State), s.awake = true →
    (s.inboundOk = false → (∀ ag off size v, exec (.inboundBar0Access ag off size v) s = .next s) ∧
      (∀ (rid : Fin 65536) o n data po, exec (.inboundBar2Access rid o n data po) s = .next s)) ∧
    (s.inboundOk = true →
      (∀ off size v, natural off size = false ∨ bankStride ≤ off ∨ off < R.MBX_STAGE 1 ∨ R.MBX_SEND_STATUS < off →
        exec (.inboundBar0Access .pciePeer off size v) s = .next ((s.bwCount 40 size).answer .unsupportedRequest)) ∧
      (∀ ag off size v, ag ≠ .pcieHost → ag ≠ .pciePeer → exec (.inboundBar0Access ag off size v) s = .next s) ∧
      (6 ≤ s.sec.step → s.domState 9 = Dom.on → ∀ v, ∃ t, exec (.inboundBar0Access .pcieHost R.PCI_OBH_BASE_HI 4 (some v)) s = .next t ∧ t.reply = .nothing ∧
        t.reg R.PCI_OBH_BASE_HI = v ∧ RegsBut [R.PCI_OBH_BASE_HI] s t ∧ t.dram = s.dram) ∧
      (6 ≤ s.sec.step → s.domState 9 = Dom.on → ∃ t, exec (.inboundBar0Access .pcieHost R.PCI_OBH_BASE_LO 4 none) s = .next t ∧
        t.reply = .data (s.reg R.PCI_OBH_BASE_LO) ∧ RegsBut [] s t ∧ t.dram = s.dram) ∧
      (6 ≤ s.sec.step → ∀ off, natural off 4 = true → off < bankStride →
        exec (.inboundBar0Access .pcieHost off 4 none) s = .next (busReadOp .pcieHost off (s.bwCount 40 4)) ∧
        ∀ v, exec (.inboundBar0Access .pcieHost off 4 (some v)) s = .next ((busWriteOp .pcieHost off v (s.bwCount 40 4)).answer .nothing)) ∧
      (∀ (rid : Fin 65536) o, 2 ^ (s.bar2Log + 30) ≤ o → ∀ n data po, exec (.inboundBar2Access rid o n data po) s = .next s) ∧
      (∀ (rid : Fin 65536) o, o < 2 ^ (s.bar2Log + 30) →
        let ag : Agent := if (List.range 8).any (fun k => s.flag (R.PCI_PEER_RID k) 16 && s.fld (R.PCI_PEER_RID k) 15 0 == rid.val) then .pciePeer else .pcieHost
        let a := s.bar2Addr o
        (∀ n, dramEnd < a + n → exec (.inboundBar2Access rid o n none false) s = .next ((s.bwCount 40 n).answer .unsupportedRequest)) ∧
        (∀ n (data : Option (List Byte)) po, s.dramStopped = true → a + (match data with | some bs => bs.length | none => n) ≤ dramEnd → ∃ t,
          exec (.inboundBar2Access rid o n data po) s = .next t ∧ t.dram = s.dram ∧ t.reply = s.reply ∧ RegsBut [] s t) ∧
        (s.dramStopped = false →
        (∀ bs n, a + bs.length ≤ dramEnd → ∃ t, exec (.inboundBar2Access rid o n (some bs) true) s = .next t ∧ t.reply = .dropped ∧ t.dram = s.dram ∧
          (t.reg R.PCI_POISON_CNT).toNat = min ((s.reg R.PCI_POISON_CNT).toNat + 1) 0xFFFFFFFF) ∧
        (∀ bs n, s.dramCheck (s.whoOf ag) true a bs.length = none → (∀ b ∈ blocksOf a bs.length, s.dram.bad.contains b = false) →
          (∀ e, e < 32 → s.pantryValid e = false) → ∃ t, exec (.inboundBar2Access rid o n (some bs) false) s = .next t ∧ t.reply = .nothing ∧
            t.dramBytes a bs.length = bs ∧ (∀ x, x < a ∨ a + bs.length ≤ x → t.dramBytes x 1 = s.dramBytes x 1)) ∧
        (∀ n, s.dramCheck (s.whoOf ag) false a n = none → (∀ b ∈ blocksOf a n, s.dram.bad.contains b = false) → ∃ t,
          exec (.inboundBar2Access rid o n none false) s = .next t ∧ t.reply = .bytes (s.dramBytes a n) ∧ t.dram = s.dram) ∧
        (∀ n u, a + n ≤ dramEnd → s.dramCheck (s.whoOf ag) false a n = some (St.partitionFault, u) →
          (∀ b ∈ blocksOf a n, s.dram.bad.contains b = false) → ∃ t,
          exec (.inboundBar2Access rid o n none false) s = .next t ∧ t.reply = .completerAbort ∧ t.dram = s.dram)))) ∧
    (∀ (n : Fin 8) a len data ext,
      (s.host.inReset = true ∨ s.outboundAddr a = none → exec (.hostOutboundAccess n a len data ext) s = .next s) ∧
      (s.host.inReset = false → ∀ peer b, s.outboundAddr a = some (peer, b) →
        (∀ bs, s.outOk = true → ∃ t, exec (.hostOutboundAccess n a len (some bs) ext) s = .next t ∧ t.reply = .nothing ∧
          t.pci.outbound = s.pci.outbound ++ [⟨peer, b % 2 ^ 64, bs⟩] ∧ RegsBut [] s t ∧ t.dram = s.dram) ∧
        (∀ bs, s.outOk = false → exec (.hostOutboundAccess n a len (some bs) ext) s =
          .next (s.answer (if s.pci.busMaster = true then .busError else .dropped))) ∧
        (∀ bs, s.outOk = true → ∃ t, exec (.hostOutboundAccess n a len none (some bs)) s = .next t ∧ t.reply = .bytes (fitBytes len bs) ∧ t.dram = s.dram) ∧
        (s.outOk = false ∨ ext = none → exec (.hostOutboundAccess n a len none ext) s = .next (s.answer .accessFault))))

/-- O52. For every state that runs. A doorbell without link, enable or bus master takes no command. An answer drops the front command, moves
SQ_HEAD by one and forms a response of 8 words: STATUS, OPCODE and CMD_ID, six results and the CRC-32C; with the ring enabled it leaves as
a posted write with vector 0. A well-formed front command that the device takes is answered, and SQ_HEAD moves by one, no other register
changing but PMC_OVF_38 where the count of commands wraps: IDENTIFY answers the identity words; ATTEST writes the report to the host
address, else BUS_ERROR; GRAPH_ADMIT with no entry free answers BUSY, with a graph past 255 RANGE_FAULT, and else admits it through its
pantry entry; GRAPH_REMOVE of an unknown graph answers RANGE_FAULT, of a stopped one removes it; a command of another opcode than its
row's leaves all as it is. (18_boot_security_pcie.md, R606, R615, R626, R627) -/
def Obligations.ManagementQueueAnswers : Prop :=
  (∀ (s : State) (tail : Word) (cmds : List (List Word)), s.awake = true →
    (s.inboundOk = false → exec (.mgqDoorbell tail cmds) s = .next s) ∧
    (s.inboundOk = true → s.mgqOn = false ∨ s.pci.busMaster = false → ∃ t, exec (.mgqDoorbell tail cmds) s = .next t ∧ t.sec = s.sec ∧ RegsBut [] s t) ∧
    (s.inboundOk = true → s.mgqOn = true → s.pci.busMaster = true → s.sec.cmds = [] → s.reg R.PCI_MGQ_SQ_HEAD = 0 →
      s.mgqRuns = false ∨ (∀ x, ((cmds.take tail.toNat).map (fun c => (c ++ List.replicate 16 0#32).take 16)).head? = some x → s.mgBad x = false) → ∃ t,
      exec (.mgqDoorbell tail cmds) s = .next t ∧ t.sec.cmds = (cmds.take tail.toNat).map (fun c => (c ++ List.replicate 16 0#32).take 16) ∧ RegsBut [] s t ∧
      (t.sec.cmds ≠ [] → 42 ∈ t.host.irq))) ∧
  (∀ (s : State) c rest st rs, s.sec.cmds = c :: rest → (s.mgqAnswer st rs).sec.cmds = rest ∧
    (s.mgqAnswer st rs).reg R.PCI_MGQ_SQ_HEAD = s.reg R.PCI_MGQ_SQ_HEAD + 1 ∧
    (s.mgqOn = true → s.pci.busMaster = true → s.linkUp = true → s.sec.answers = [] →
      let ws := BitVec.ofNat 32 (st % 256 * 2 ^ 24 + 65536 * mgOp c + mgId c) :: (rs ++ List.replicate 6 0#32).take 6
      (s.mgqAnswer st rs).pci.vectors = s.pci.vectors ++ [0] ∧ (s.mgqAnswer st rs).sec.answers = [] ∧
      (s.mgqAnswer st rs).pci.outbound = s.pci.outbound ++ [⟨false, s.reg64 R.PCI_MGQ_CQ_LO R.PCI_MGQ_CQ_HI / 32 * 32 +
        32 * (s.sec.cqTail % 2 ^ s.fld R.PCI_MGQ_CFG 3 0), wordBytes (ws ++ [crc32c (wordBytes ws)])⟩])) ∧
  (∀ (s : State) (c : List Word) (rest : List (List Word)), s.awake = true → s.sec.cmds = c :: rest → s.mgqRuns = true → s.mgBad c = false →
    (∀ x, rest.head? = some x → s.mgBad x = false) →
    (∀ x ∈ [(Instr.mgqIdentify, 0x01), (.mgqAttest, 0x02), (.mgqFlashRead, 0x11), (.mgqSetTrial, 0x12), (.mgqAdvanceRollback, 0x13),
        (.mgqRevokeOwner0, 0x15), (.mgqDisableDebug, 0x16), (.mgqDebugChallenge, 0x17)], mgOp c = x.2 → ∃ t, exec x.1 s = .next t ∧ t.sec.cmds = rest ∧
      t.reg R.PCI_MGQ_SQ_HEAD = s.reg R.PCI_MGQ_SQ_HEAD + 1 ∧ t.dram = s.dram ∧ RegsBut [R.PCI_MGQ_SQ_HEAD, R.PMC_OVF 38] s t) ∧
    (∀ src, ∀ x ∈ [(Instr.mgqFlashWrite src, 0x10), (.mgqEnrolOwner src, 0x14), (.mgqDebugResponse src, 0x18)], mgOp c = x.2 → ∃ t, exec x.1 s = .next t ∧
      t.sec.cmds = rest ∧ t.reg R.PCI_MGQ_SQ_HEAD = s.reg R.PCI_MGQ_SQ_HEAD + 1 ∧ t.dram = s.dram ∧ RegsBut [R.PCI_MGQ_SQ_HEAD, R.PMC_OVF 38] s t) ∧
    (mgOp c = 0x01 → exec .mgqIdentify s = .next (s.mgqAnswer St.done [s.reg R.SMC_DEVICE_ID, s.reg R.SMC_CONTRACT_LEVEL, s.reg R.SEC_IMAGE_VERSION, s.secStatus])) ∧
    (mgOp c = 0x02 → (s.outOk = true → exec .mgqAttest s =
        .next ((s.outWrite false (mgAddr c 9) (s.attestReport (wordBytes ((c.drop 1).take 8)))).mgqAnswer St.done [])) ∧
      (s.outOk = false → exec .mgqAttest s = .next (s.mgqAnswer St.busError []))) ∧
    (∀ (place : List Nat), mgOp c = 0x03 →
      ((∀ e, e < 32 → s.pantryValid e = true) → exec (.mgqGraphAdmit place) s = .next (s.mgqAnswer St.busy [BitVec.ofNat 32 St.busy])) ∧
      (∃ t, exec (.mgqGraphAdmit place) s = .next t ∧ t.sec.cmds = rest ∧ t.reg R.PCI_MGQ_SQ_HEAD = s.reg R.PCI_MGQ_SQ_HEAD + 1) ∧
      (∀ e, (List.range 32).find? (fun e => !s.pantryValid e) = some e →
        (256 ≤ (wd c 1).toNat → exec (.mgqGraphAdmit place) s = .next (s.mgqAnswer St.rangeFault [BitVec.ofNat 32 St.rangeFault])) ∧
        ((wd c 1).toNat < 256 → mgAddr c 2 + 64 ≤ dramEnd → mgAddr c 4 ≤ dramEnd → mgAddr c 7 ≤ dramEnd → mgAddr c 4 % 65536 = 0 → mgAddr c 7 % 2048 = 0 →
          s.imagePart (mgAddr c 2) = 2 → let t := s.admitEntry e (mgAddr c 4) (mgAddr c 7) (wd c 6).toNat
          (t.pantryValid e = true → exec (.mgqGraphAdmit place) s = .next (t.admitLoad (wd c 1).toNat (mgAddr c 2) e place)) ∧
          (t.pantryValid e = false → exec (.mgqGraphAdmit place) s = .next (t.mgqAnswer St.descInvalid [BitVec.ofNat 32 St.descInvalid]))))) ∧
    (mgOp c = 0x04 →
      (s.graph? (wd c 1).toNat = none → exec .mgqGraphRemove s = .next (s.mgqAnswer St.rangeFault [])) ∧
      (∀ g, s.graph? (wd c 1).toNat = some g → s.graphRefused .smc g = true → exec .mgqGraphRemove s = .next (s.mgqAnswer St.partitionFault [])) ∧
      (∀ g, s.graph? (wd c 1).toNat = some g → s.graphRefused .smc g = false → g.pending = [] → s.fgs.jobs.any (fun j => j.graph == g.id) = false → s.sec.admits = [] →
        ∃ t, exec .mgqGraphRemove s = .next t ∧ t.graph? g.id = none ∧ t.sec.cmds = rest)) ∧
    (∀ (place : List Nat), mgOp c ≠ 0x01 → mgOp c ≠ 0x02 → mgOp c ≠ 0x03 → mgOp c ≠ 0x04 → ∀ x ∈ [Instr.mgqIdentify, .mgqAttest, .mgqGraphAdmit place, .mgqGraphRemove],
      exec x s = .next s))

/-- O53. For every well-formed front command that the device takes. FLASH_WRITE in range makes the range read as the bytes and BUS_ERROR
without host data changes nothing; FLASH_READ writes the flash bytes to the host. SET_TRIAL sets TRIAL on a slot that verifies, else
DESC_INVALID. ADVANCE_ROLLBACK burns the larger count where FUSE_OPS allows. ENROL_OWNER burns the key's hash into the first free slot,
BUSY with both taken. REVOKE_OWNER0 and DISABLE_DEBUG burn where permitted, else PARTITION_FAULT. DEBUG_CHALLENGE of scope 1 or 2 writes a
challenge, DEBUG_RESPONSE unlocks or counts a failure. SEC_CONFIRM of the SMC or P3 writes CONFIRMED with TRIES kept; of another agent it
is reported. (18_boot_security_pcie.md, R604, R605, R610, R611, R612, R616, R627, R629) -/
def Obligations.ManagementQueueChangesFlashFusesAndDebug : Prop :=
  (∀ (s : State) (c : List Word) (rest : List (List Word)), s.awake = true → s.sec.cmds = c :: rest → s.mgqRuns = true → s.mgBad c = false →
    (∀ x, rest.head? = some x → s.mgBad x = false) →
    (∀ (src : Option (List Byte)), mgOp c = 0x10 → (∀ st, s.flashRange c true = .inr st → exec (.mgqFlashWrite src) s = .next (s.mgqAnswer st [])) ∧
      (∀ a, s.flashRange c true = .inl a →
        (s.hostRead src (wd c 3).toNat = none → exec (.mgqFlashWrite src) s = .next (s.mgqAnswer St.busError [])) ∧
        (∀ bs, s.hostRead src (wd c 3).toNat = some bs → ∃ u : State, exec (.mgqFlashWrite src) s = .next (u.mgqAnswer St.done []) ∧ u.flashBytes a bs.length = bs ∧
          RegsBut [] s u ∧ u.dram = s.dram ∧ u.sec.fuses = s.sec.fuses ∧
          (∀ x, x < a ∨ a + 65536 * ceilDiv bs.length 65536 ≤ x → u.flashBytes x 1 = s.flashBytes x 1)))) ∧
    (mgOp c = 0x11 → (∀ st, s.flashRange c false = .inr st → exec .mgqFlashRead s = .next (s.mgqAnswer st [])) ∧
      (∀ a, s.flashRange c false = .inl a → exec .mgqFlashRead s = .next (if s.outOk = true
        then (s.outWrite false (mgAddr c 4) (s.flashBytes a (wd c 3).toNat)).mgqAnswer St.done [] else s.mgqAnswer St.busError []))) ∧
    (mgOp c = 0x12 → ((wd c 1).toNat ≤ 1 → s.slotVerifies (wd c 1).toNat = true → ∃ u : State, exec .mgqSetTrial s = .next (u.mgqAnswer St.done []) ∧
        u.trailer (wd c 1).toNat = (Slot.trial, 0) ∧ RegsBut [] s u ∧ u.dram = s.dram) ∧
      (1 < (wd c 1).toNat ∨ s.slotVerifies (wd c 1).toNat = false → exec .mgqSetTrial s = .next (s.mgqAnswer St.descInvalid []))) ∧
    (mgOp c = 0x13 → (s.sec.fuseOps % 2 = 0 → exec .mgqAdvanceRollback s = .next (s.mgqAnswer St.partitionFault [])) ∧
      (s.sec.fuseOps % 2 = 1 → exec .mgqAdvanceRollback s =
        .next ((s.burn { s.sec.fuses with rb := max s.sec.fuses.rb (s.fld R.SEC_STATUS 19 14) }).mgqAnswer St.done []))) ∧
    (∀ (key : Option (List Byte)), mgOp c = 0x14 → (s.sec.fuses.owner0.isSome = true → s.sec.fuses.owner1.isSome = true → exec (.mgqEnrolOwner key) s = .next (s.mgqAnswer St.busy [])) ∧
      (∀ bs, s.hostRead key 64 = some bs →
        (s.sec.fuses.owner0 = none → exec (.mgqEnrolOwner key) s = .next ((s.burn { s.sec.fuses with owner0 := some (hash32 bs) }).mgqAnswer St.done [])) ∧
        (s.sec.fuses.owner0.isSome = true → s.sec.fuses.owner1 = none →
          exec (.mgqEnrolOwner key) s = .next ((s.burn { s.sec.fuses with owner1 := some (hash32 bs) }).mgqAnswer St.done [])))) ∧
    (mgOp c = 0x15 → (s.runsOwner1 = true → s.sec.fuseOps / 4 % 2 = 1 →
        exec .mgqRevokeOwner0 s = .next ((s.burn { s.sec.fuses with revoke0 := true }).mgqAnswer St.done [])) ∧
      (s.runsOwner1 = false ∨ s.sec.fuseOps / 4 % 2 = 0 → exec .mgqRevokeOwner0 s = .next (s.mgqAnswer St.partitionFault []))) ∧
    (mgOp c = 0x16 → (s.sec.fuseOps / 2 % 2 = 1 → exec .mgqDisableDebug s =
        .next ((s.burn { s.sec.fuses with debugOff := true }).mgqAnswer St.done [])) ∧
      (s.sec.fuseOps / 2 % 2 = 0 → exec .mgqDisableDebug s = .next (s.mgqAnswer St.partitionFault []))) ∧
    (mgOp c = 0x17 → (wd c 1 ≠ 1 → wd c 1 ≠ 2 → exec .mgqDebugChallenge s = .next (s.mgqAnswer St.descInvalid [])) ∧
      (wd c 1 = 1 ∨ wd c 1 = 2 → s.outOk = true → ∃ (u : State) (ch : Challenge), exec .mgqDebugChallenge s = .next (u.mgqAnswer St.done []) ∧ u.sec.challenge = some ch ∧
        ch.bytes.length = 68 ∧ ch.scope = (wd c 1).toNat ∧ ch.issued = s.now ∧ ch.used = false ∧ u.sec.scope = s.sec.scope ∧
        u.pci.outbound = s.pci.outbound ++ [⟨false, mgAddr c 2, ch.bytes⟩])) ∧
    (∀ (src : Option (List Byte)), mgOp c = 0x18 → (s.hostRead src 128 = none → exec (.mgqDebugResponse src) s = .next (s.mgqAnswer St.busError [])) ∧
      (∀ bs, s.hostRead src 128 = some bs →
        (∀ ch, s.sec.challenge = some ch → s.unlocks ch bs = true → ∃ u : State, exec (.mgqDebugResponse src) s = .next (u.mgqAnswer St.done []) ∧
          u.sec.scope = max s.sec.scope ch.scope ∧ u.sec.challenge = some { ch with used := true } ∧ u.sec.fails = s.sec.fails) ∧
        ((∀ ch, s.sec.challenge = some ch → s.unlocks ch bs = false) → ∃ u : State, exec (.mgqDebugResponse src) s = .next (u.mgqAnswer St.partitionFault []) ∧
          u.sec.scope = s.sec.scope ∧ u.sec.fails = s.sec.fails + 1)))) ∧
  (∀ (s : State) (ag : Agent), s.awake = true →
    (ag = .smc ∨ (isFull ag = false ∧ s.partOf ag = 3) → (s.sec.slot = none → exec (.secConfirm ag) s = .next s) ∧
      (∀ k, s.sec.slot = some k → ∃ t, exec (.secConfirm ag) s = .next t ∧ t.trailer k = (Slot.confirmed, (s.trailer k).2) ∧ RegsBut [] s t ∧ t.dram = s.dram)) ∧
    (ag ≠ .smc → isFull ag = true ∨ s.partOf ag ≠ 3 → exec (.secConfirm ag) s = .next (s.refuseSys ag)))

/-- O54. For every state that runs with the link up, every PCIE_HOST access of BAR 0, and every offset: an access that is not 32 bits wide or
not naturally aligned completes as an Unsupported Request and changes no register, read or write. An aligned read of an offset that holds
no register answers 0x0000_0000 and changes no register, and an aligned write to it changes none. (R14) -/
def Obligations.BarZeroTakesAlignedWords : Prop :=
  ∀ (s : State) (off : Nat), s.awake = true → s.inboundOk = true → off < 0x4000000 →
    (∀ size v, size ≠ 4 ∨ off % 4 ≠ 0 → ∃ t, exec (.inboundBar0Access .pcieHost off size v) s = .next t ∧ t.reply = .unsupportedRequest ∧ RegsBut [] s t ∧
      t.latches = s.latches ∧ t.dram = s.dram) ∧
    (off % 4 = 0 → regRow off = none → capWord off = none →
      (∃ t, exec (.inboundBar0Access .pcieHost off 4 none) s = .next t ∧ t.reply = .data 0x00000000#32 ∧ RegsBut [] s t ∧ t.dram = s.dram) ∧
      (∀ v, ∃ t, exec (.inboundBar0Access .pcieHost off 4 (some v)) s = .next t ∧ t.reply = .nothing ∧ RegsBut [] s t ∧ t.dram = s.dram))

/-- O55. For all frame numbers a and b, a is later than b exactly when (a − b) mod 65,536 lies between 1 and 32,767; adding multiples of
65,536 to either changes nothing, and of two frames at most one is later. (R40) -/
def Obligations.FrameComparisonIsModular : Prop :=
  ∀ a b : Nat, (laterThan a b = true ↔ 1 ≤ ((a : Int) - (b : Int)) % 65536 ∧ ((a : Int) - (b : Int)) % 65536 ≤ 32767) ∧
    (∀ k j, laterThan (a + 65536 * k) (b + 65536 * j) = laterThan a b) ∧ (laterThan a b = true → laterThan b a = false)

/-- O56. For every byte string, the CHECK that the model computes is the CRC of polynomial 0x1EDC_6F41 taken top bit first over the
bit-reversed bytes from the initial value 0xFFFF_FFFF, its 32 bits reversed and XORed with 0xFFFF_FFFF; its value for the ASCII string
"123456789" is 0xE306_9283; and every frame, job and DMA record that the model forms ends in the CHECK of its words before. (R47) -/
def Obligations.CheckIsCrc32c : Prop :=
  (∀ bs : List Byte, crc32c bs = (BitVec.ofNat 32 (bs.foldl (fun c b => crcTopBits 32 0x1EDC6F41 8 (c ^^^ (2 ^ 24 * b.reverse.toNat))) 0xFFFFFFFF)).reverse ^^^ 0xFFFFFFFF#32) ∧
    crc32c [0x31, 0x32, 0x33, 0x34, 0x35, 0x36, 0x37, 0x38, 0x39] = 0xE3069283#32 ∧
    (∀ r : Rec, r.words.length = 8 ∧ wd r.words 7 = crc32c (wordBytes (r.words.take 7)))

/-- O57. For every state that runs. A host core in reset makes no access; out of reset a misaligned one is an access fault, and of another
agent it is an Unsupported Request (the reply of on-chip agents is the model's choice, log 12). An aligned write acts as the register's
write and answers nothing; an aligned read as the register's read. Reading the low word of device time latches the high word for that
agent in that block: its next read of the high word answers the latched one whatever the time then. An interrupt target takes a hart of
its owner's partition. A host core may read a pair in one 64-bit load. (R14, R17, 18_boot_security_pcie.md, 13_host_cores.md, R478) -/
def Obligations.OnChipRegisterAccesses : Prop :=
  ∀ (s : State), s.awake = true →
    (s.host.inReset = true → ∀ (n : Fin 8) off size v, exec (.registerWrite (.hc n) off size v) s = .next s ∧ exec (.pairLowWordRead (.hc n) off size) s = .next s) ∧
    (s.host.inReset = false → ∀ (n : Fin 8) off v, aplicSource off = none →
      (∀ size, natural off size = false ∨ bankStride ≤ off → exec (.registerWrite (.hc n) off size v) s = .next (s.answer .accessFault)) ∧
      (natural off 4 = true → off < bankStride → exec (.registerWrite (.hc n) off 4 v) s = .next ((busWriteOp (.hc n) off v s).answer .nothing) ∧
        exec (.pairLowWordRead (.hc n) off 4) s = .next (busReadOp (.hc n) off s)) ∧
      (∀ size, natural off size = false ∨ bankStride ≤ off → size ≠ 8 ∨ off % 8 ≠ 0 ∨ isPairLow off = false →
        exec (.pairLowWordRead (.hc n) off size) s = .next (s.answer .accessFault))) ∧
    (s.host.inReset = false → s.domState 9 = Dom.on → ∀ n : Fin 8, ∃ t, exec (.pairLowWordRead (.hc n) R.SMC_DEV_TIME_LO 8) s = .next t ∧
      (∃ lo hi, t.reply = .data64 lo hi ∧ lo = BitVec.ofNat 32 s.devNow ∧ hi = BitVec.ofNat 32 (s.devNow / 2 ^ 32))) ∧
    (s.host.inReset = false → ∀ (n : Fin 8) off src v p, aplicSource off = some src → s.sourceOwner src = some p →
      (bits v 31 18 < 8 → s.homeOf (bits v 31 18) = p → ∀ size, ∃ t, exec (.registerWrite (.hc n) off size v) s = .next t ∧
        Store.get (fun _ => 0#32) t.host.aplicTarget src = v ∧ RegsBut [] s t) ∧
      (8 ≤ bits v 31 18 ∨ s.homeOf (bits v 31 18) ≠ p → ∀ size, exec (.registerWrite (.hc n) off size v) s = .next ((s.refuse (.hc n) p).answer .nothing))) ∧
    (∀ ag : Agent, ag ≠ .pcieHost → ag ≠ .pciePeer → (∀ n, ag ≠ .hc n) →
      (∀ off size v, natural off size = false ∨ bankStride ≤ off → exec (.registerWrite ag off size v) s = .next (s.answer .unsupportedRequest) ∧
        exec (.pairLowWordRead ag off size) s = .next (s.answer .unsupportedRequest)) ∧
      (∀ off v, natural off 4 = true → off < bankStride → exec (.registerWrite ag off 4 v) s = .next ((busWriteOp ag off v s).answer .nothing) ∧
        exec (.pairLowWordRead ag off 4) s = .next (busReadOp ag off s)) ∧
      (s.domState 9 = Dom.on → ∃ t, exec (.pairLowWordRead ag R.SMC_DEV_TIME_LO 4) s = .next t ∧ t.reply = .data (BitVec.ofNat 32 s.devNow) ∧ RegsBut [] s t ∧
        (∀ u : State, u.latches = t.latches → u.awake = true → ∃ w, exec (.pairLowWordRead ag R.SMC_DEV_TIME_HI 4) u = .next w ∧
          w.reply = .data (BitVec.ofNat 32 (s.devNow / 2 ^ 32)))))

/-- O58. For every state that runs and every agent that may write PMC_. SNAPSHOT copies counters, overflow flags, LAST and PEAK to their
shadows and counts the snapshot. FREEZE stops all counting until it is taken back and changes no count. CLEAR zeroes counts and overflow
flags. CLEAR_PEAK and a new window length from 1 to 1,000,000 us act at the window's end, and a length outside is ignored. A window ends
only when its time has come: each monitor's LAST is the bytes of the window in 64-byte units unless counting was frozen in it, PEAK the
larger or zero, and the next window starts empty. Other agents' writes are reported. (19_counters_trace.md, R630, R631, R632, R633, R634,
R635, R636) -/
def Obligations.CountersAndBandwidthMonitors : Prop :=
  ∀ (s : State), s.awake = true →
    (∀ ag : Agent, (isFull ag = true ∨ ag = .pcieHost ∨ s.partOf ag = 3) →
      (∃ t, exec (.pmcSnapshot ag) s = .next t ∧ t.pmc.shadow = s.pmc.cnt ∧ t.pmc.cnt = s.pmc.cnt ∧ (∀ w, w < 40 → t.reg (R.PMC_SOVF w) = s.reg (R.PMC_OVF w)) ∧
        (∀ k, k < 128 → t.reg (R.PMC_BW_SLAST k) = s.reg (R.PMC_BW_LAST k) ∧ t.reg (R.PMC_BW_SPEAK k) = s.reg (R.PMC_BW_PEAK k)) ∧
        t.fld R.PMC_STATUS 31 16 = (s.fld R.PMC_STATUS 31 16 + 1) % 65536 ∧ t.dram = s.dram ∧ t.hts = s.hts) ∧
      (∀ on, ∃ t, exec (.pmcFreeze ag on) s = .next t ∧ t.flag R.PMC_CTRL 1 = on ∧ t.flag R.PMC_STATUS 0 = on ∧ t.pmc.cnt = s.pmc.cnt ∧
        RegsBut [R.PMC_CTRL, R.PMC_STATUS] s t ∧ (on = true → ∀ i n, t.count i n = t)) ∧
      (∃ t, exec (.pmcClear ag) s = .next t ∧ t.pmc.cnt = [] ∧ (∀ w, w < 40 → t.reg (R.PMC_OVF w) = 0) ∧ RegsBut ((List.range 40).map R.PMC_OVF) s t) ∧
      exec (.pmcClearPeak ag) s = .next { s with pmc := { s.pmc with clearPeak := true } } ∧
      (∀ v, (1 ≤ bits v 19 0 → bits v 19 0 ≤ 1000000 → ∃ t, exec (.pmcBwWindowWrite ag v) s = .next t ∧ t.pmc.newWindow = some (bits v 19 0) ∧
          t.reg R.PMC_BW_WINDOW = BitVec.ofNat 32 (bits v 19 0) ∧ RegsBut [R.PMC_BW_WINDOW] s t ∧ t.pmc.winEnd = s.pmc.winEnd) ∧
        (bits v 19 0 = 0 ∨ 1000000 < bits v 19 0 → exec (.pmcBwWindowWrite ag v) s = .next s)) ∧
      (∀ mode, (∃ t, exec (.crumbTrailEnable ag mode) s = .next t ∧ t.flag R.PMC_CT_CTRL 0 = true ∧ OnlyRegs [R.PMC_CT_CTRL] s t ∧
          t.flag R.PMC_CT_CTRL 1 = (if s.flag R.PMC_CT_CTRL 0 = true then s.flag R.PMC_CT_CTRL 1 else mode)) ∧
        (∃ t, exec (.crumbTrailDisable ag mode) s = .next t ∧ t.flag R.PMC_CT_CTRL 0 = false ∧ OnlyRegs [R.PMC_CT_CTRL] s t))) ∧
    (∀ ag : Agent, isFull ag = false → ag ≠ .pcieHost → s.partOf ag ≠ 3 → ∀ v on, ∀ c ∈ [Instr.pmcSnapshot ag, .pmcFreeze ag on, .pmcClear ag, .pmcClearPeak ag,
      .pmcBwWindowWrite ag v, .crumbTrailEnable ag on, .crumbTrailDisable ag on], exec c s = .next (s.refuseSys ag)) ∧
    (s.now < s.pmc.winEnd → exec .bwWindowEnd s = .next s) ∧
    (s.pmc.winEnd ≤ s.now → let clear := s.pmc.clearPeak || s.pmc.newWindow.isSome
      ∃ t, exec .bwWindowEnd s = .next t ∧ t.pmc.bytes = [] ∧ t.pmc.newWindow = none ∧ t.pmc.clearPeak = false ∧ t.pmc.cnt = s.pmc.cnt ∧
        t.pmc.windowUs = s.pmc.newWindow.getD s.pmc.windowUs ∧ (1 ≤ t.pmc.windowUs → s.now < t.pmc.winEnd ∧ t.pmc.winEnd ≤ s.now + 1000 * t.pmc.windowUs) ∧
        (∀ k, k < 128 → let last := Store.get (fun _ => 0) s.pmc.bytes k / 64
          (s.pmc.touched = true → t.reg (R.PMC_BW_LAST k) = s.reg (R.PMC_BW_LAST k)) ∧
          (s.pmc.touched = false → t.reg (R.PMC_BW_LAST k) = BitVec.ofNat 32 last) ∧
          (clear = true → t.reg (R.PMC_BW_PEAK k) = 0) ∧
          (clear = false → s.pmc.touched = false → t.reg (R.PMC_BW_PEAK k) = BitVec.ofNat 32 (max last (s.reg (R.PMC_BW_PEAK k)).toNat))))

/-- O59. For every state that runs. The oldest waiting crumb is written at the ring's TAIL, which moves by one, or dropped and counted where
the ring is full in DROP_NEW or its size is not valid; none moves while DRAM is stopped. A telemetry record forms from step 4 of boot on
when its second has come, with the next SEQ. Without an address the SMBus acknowledges nothing; with one, reads answer the block with its
length and PEC: identity, the first and last 128 bytes of the latched telemetry, and the budget limit word. A budget write with a right
PEC acts as the SMC's write of PMG_BUDGET_LIMIT, with a wrong one or none it changes nothing. (19_counters_trace.md, R637, R638, R639,
R640, R641, 17_power_clocks_ageing.md, R580) -/
def Obligations.TrailTelemetryAndSmbus : Prop :=
  ∀ (s : State), s.awake = true →
    (s.pmc.crumbs = [] ∨ s.dramStopped = true → exec .crumbRecordWrite s = .next s) ∧
    (∀ c rest, s.pmc.crumbs = c :: rest → s.dramStopped = false →
      let size := (s.reg R.PMC_CT_SIZE).toNat
      let tail := (s.reg R.PMC_CT_TAIL).toNat
      let a := s.reg64 R.PMC_CT_BASE_LO R.PMC_CT_BASE_HI / 16 * 16 + 16 * (tail % size)
      let full := decide ((2 ^ 32 + tail - (s.reg R.PMC_CT_HEAD).toNat) % 2 ^ 32 = size)
      (s.ctSizeOk = false ∨ (s.flag R.PMC_CT_CTRL 1 = false ∧ full = true) → ∃ t, exec .crumbRecordWrite s = .next t ∧ t.pmc.crumbs = rest ∧ t.dram = s.dram ∧
        (t.reg R.PMC_CT_DROP_CNT).toNat = min ((s.reg R.PMC_CT_DROP_CNT).toNat + 1) 0xFFFFFFFF ∧ t.reg R.PMC_CT_TAIL = s.reg R.PMC_CT_TAIL) ∧
      (s.ctSizeOk = true → s.flag R.PMC_CT_CTRL 1 = true ∨ full = false → c.length = 4 → s.dramCheck (whoPart 0x39 3) true a 16 = none →
        (∀ b ∈ blocksOf a 16, s.dram.bad.contains b = false) → (∀ e, e < 32 → s.pantryValid e = false) → ∃ t, exec .crumbRecordWrite s = .next t ∧
          t.pmc.crumbs = rest ∧ t.dramBytes a 16 = wordBytes c ∧ t.reg R.PMC_CT_TAIL = s.reg R.PMC_CT_TAIL + 1 ∧
          (∀ x, x < a ∨ a + 16 ≤ x → t.dramBytes x 1 = s.dramBytes x 1))) ∧
    (s.sec.step < 4 ∨ s.now < s.pmc.telemAt → exec .telemetrySample s = .next s) ∧
    (4 ≤ s.sec.step → s.pmc.telemAt ≤ s.now → s.pci.waiting = [] → ∃ t, exec .telemetrySample s = .next t ∧ t.pmc.telemSeq = s.pmc.telemSeq + 1 ∧
      t.pmc.telem = s.telemRecord (s.pmc.telemSeq + 1) ∧ s.now < t.pmc.telemAt ∧ t.pmc.telemAt ≤ s.now + 1000000000 ∧ t.dram = s.dram) ∧
    (s.smbusAddr = none → ∀ v pec, ∀ c ∈ [Instr.smbusReadIdentity, .smbusReadTelemetryLow, .smbusReadTelemetryHigh, .smbusReadBudget, .smbusWriteBudget v pec],
      exec c s = .next (s.answer .notAcknowledged)) ∧
    (∀ a, s.smbusAddr = some a →
      (let bs := BitVec.ofNat 8 8 :: wordBytes [s.reg R.SMC_DEVICE_ID, s.reg R.SMC_CONTRACT_LEVEL];
        exec .smbusReadIdentity s = .next (s.answer (.bytes (bs ++ [smbusPec a 0x01 bs])))) ∧
      (∃ t bs, exec .smbusReadTelemetryLow s = .next t ∧ bs = BitVec.ofNat 8 128 :: fitBytes 128 (wordBytes (s.pmc.telem.take 32)) ∧
        t.reply = .bytes (bs ++ [smbusPec a 0x20 bs]) ∧ t.pmc.telemLatch = s.pmc.telem ∧ RegsBut [] s t) ∧
      (let bs := BitVec.ofNat 8 128 :: fitBytes 128 (wordBytes (s.pmc.telemLatch.drop 32));
        exec .smbusReadTelemetryHigh s = .next (s.answer (.bytes (bs ++ [smbusPec a 0x21 bs])))) ∧
      (let bs := leBytes 2 (s.fld R.PMG_BUDGET_LIMIT 9 0);
        exec .smbusReadBudget s = .next (s.answer (.bytes (bs ++ [smbusPec a 0x30 bs])))) ∧
      (∀ (v : BitVec 16) pec, let want := BitVec.ofNat 8 (crc8 ([BitVec.ofNat 8 (2 * a), 0x30] ++ leBytes 2 v.toNat))
        (pec ≠ some want → exec (.smbusWriteBudget v pec) s = .next s) ∧
        (pec = some want → bits (BitVec.ofNat 32 v.toNat) 9 0 < 200 → exec (.smbusWriteBudget v pec) s = .next s) ∧
        (pec = some want → 200 ≤ bits (BitVec.ofNat 32 v.toNat) 9 0 → exec (.smbusWriteBudget v pec) s =
          .next (s.setFld R.PMG_BUDGET_LIMIT 9 0 (bits (BitVec.ofNat 32 v.toNat) 9 0)))))

/-- O60. For every state that runs. An edge of an INPUT without a change of level is only noted; a change sets LEVEL and, where no graph or
DMA channel waits on it, does nothing else than raise source 26 + n as one message; while POR_N is low or rails are gone only the pin
level is noted. A GPIO setting by another partition than the owner's is reported; the owner's sets mode, edges, timer and drive value.
IDCODE shows the device's word, a code that is no instruction acts as BYPASS with one zero bit, EXTEST and SAMPLE show the boundary
register (its contents are free), a challenge of scope 1 or 2 is issued with DONE, else DESC_INVALID, a response unlocks or counts a
failure, and the console takes characters only in a FULL session. (21_pins_electrical.md, R662, R663, R665, 18_boot_security_pcie.md,
R616) -/
def Obligations.PinsAndDebugPort : Prop :=
  ∀ (s : State),
    (∀ (n : Fin 16) level, s.awake = false → exec (.gpioEdge n level) s = .next { s with gpio := { s.gpio with ext := setAt s.gpio.ext n level } }) ∧
    (s.awake = true →
      (∀ (n : Fin 16) (level : Bool), (∀ k, s.gpio.strobe.getD k none = none) → s.gpio.ext.length = 16 → s.fld (R.SMC_GPIO_CFG n) 5 4 ≠ 1 →
        s.fld (R.SMC_GPIO_CFG n) 5 4 ≠ 2 →
        (s.flag (R.SMC_GPIO_CFG n) 16 = level → exec (.gpioEdge n level) s = .next { s with gpio := { s.gpio with ext := setAt s.gpio.ext n level } }) ∧
        (s.flag (R.SMC_GPIO_CFG n) 16 ≠ level → s.fgs.graphs = [] → (∀ e c, s.trigSrc e c ≠ TrigSrc.gpio) → s.host.irq.contains (26 + n.val) = false →
          ∃ t, exec (.gpioEdge n level) s = .next t ∧ t.flag (R.SMC_GPIO_CFG n) 16 = level ∧ RegsBut [R.SMC_GPIO_CFG n] s t ∧
            t.host.msi = s.host.msi ++ [(26 + n.val, bits (Store.get (fun _ => 0#32) s.host.aplicTarget (26 + n.val)) 31 18)] ∧
            t.host.irq.contains (26 + n.val) = false ∧ t.dram = s.dram ∧ t.hts = s.hts)) ∧
      (∀ (ag : Agent) (n : Fin 16) v, let p := s.fld (R.SMC_GPIO_CFG n) 31 30
        (s.ofPart ag p = false → exec (.gpioCfgWrite ag n v) s = .next (s.refuse ag p)) ∧
        (s.ofPart ag p = true → bits v 31 30 = p → bits v 5 4 = 2 → s.fld (R.TIM_CTRL (bits v 12 8)) 31 30 ≠ p →
          exec (.gpioCfgWrite ag n v) s = .next (s.refuse ag (s.fld (R.TIM_CTRL (bits v 12 8)) 31 30))) ∧
        (s.ofPart ag p = true → bits v 31 30 = p → (bits v 5 4 = 2 → s.fld (R.TIM_CTRL (bits v 12 8)) 31 30 = p) → s.fgs.graphs = [] →
          (∀ e c, s.trigSrc e c ≠ TrigSrc.gpio) → ∃ t, exec (.gpioCfgWrite ag n v) s = .next t ∧ RegsBut [R.SMC_GPIO_CFG n] s t ∧
            t.fld (R.SMC_GPIO_CFG n) 31 30 = p ∧ t.fld (R.SMC_GPIO_CFG n) 12 8 = bits v 12 8 ∧ t.fld (R.SMC_GPIO_CFG n) 5 4 = bits v 5 4 ∧
            t.fld (R.SMC_GPIO_CFG n) 3 2 = bits v 3 2 ∧ t.flag (R.SMC_GPIO_CFG n) 0 = bit v 0 ∧ t.dram = s.dram)) ∧
      (∀ ci ∈ [(Instr.jtagExtest, 0), (.jtagSamplePreload, 1)], ∃ t, exec ci.1 s = .next t ∧ t.jtag.ir = ci.2 ∧ t.jtag.dr.length = Config.boundaryBytes ∧
        RegsBut [] s t ∧ t.sec = s.sec ∧ t.dram = s.dram) ∧
      (∃ t, exec .jtagIdcode s = .next t ∧ t.jtag.ir = 2 ∧ t.jtag.dr = leBytes 4 idcodeWord ∧ RegsBut [] s t ∧ t.sec = s.sec) ∧
      (∀ code : Fin 64, (jtagDefined.contains code.val = true → exec (.jtagBypass code) s = .next s) ∧
        (jtagDefined.contains code.val = false → ∃ t, exec (.jtagBypass code) s = .next t ∧ t.jtag.ir = code.val ∧ t.jtag.dr = [0] ∧ t.sec = s.sec)) ∧
      (∀ scope : Word, ∃ t, exec (.jtagDbgChal scope) s = .next t ∧ t.jtag.dr.length = 72 ∧ t.sec.scope = s.sec.scope ∧ t.sec.fails = s.sec.fails ∧
        (scope = 1 ∨ scope = 2 → t.jtag.dr[3]? = some (BitVec.ofNat 8 St.done) ∧ ∃ ch, t.sec.challenge = some ch ∧ ch.bytes = t.jtag.dr.drop 4 ∧
          ch.scope = scope.toNat ∧ ch.issued = s.now ∧ ch.used = false) ∧
        (scope ≠ 1 → scope ≠ 2 → t.jtag.dr[3]? = some (BitVec.ofNat 8 St.descInvalid) ∧ t.sec = s.sec)) ∧
      (∀ bs : List Byte, (∀ ch, s.sec.challenge = some ch → s.unlocks ch (fitBytes 128 bs) = true → ∃ t, exec (.jtagDbgResp bs) s = .next t ∧
          t.sec.scope = max s.sec.scope ch.scope ∧ t.sec.challenge = some { ch with used := true } ∧ t.jtag.dr[3]? = some (BitVec.ofNat 8 St.done)) ∧
        ((∀ ch, s.sec.challenge = some ch → s.unlocks ch (fitBytes 128 bs) = false) → ∃ t, exec (.jtagDbgResp bs) s = .next t ∧ t.sec.scope = s.sec.scope ∧
          t.sec.fails = s.sec.fails + 1 ∧ t.jtag.dr[3]? = some (BitVec.ofNat 8 St.partitionFault))) ∧
      (∀ c : Byte, (s.sec.scope = 2 → exec (.consoleInput c) s = .next { s with sec := { s.sec with console := s.sec.console ++ [c] } }) ∧
        (s.sec.scope ≠ 2 → exec (.consoleInput c) s = .next s)))
end

