-- ==== Sys2Proof/Laws/Store.lean ====
section
/-! SUPPORT. Laws of the sparse stores: what a read sees after a write, and that every operation keeps the canonical form. -/

namespace Sys2Proof.Machine

variable {α : Type}

/-! ### Reading after writing -/

theorem Store.get_insert (d : Nat → α) (k : Nat) (v : α) (l : List (Nat × α)) (h : ∀ e ∈ l, e.1 ≠ k) (j : Nat) :
    Store.get d (Store.insert k v l) j = if j = k then v else Store.get d l j := by
  induction l with
  | nil => simp [Store.insert, Store.get]
  | cons e t ih =>
    obtain ⟨a, w⟩ := e
    have ha : a ≠ k := h (a, w) (by simp)
    have ht : ∀ e ∈ t, e.1 ≠ k := fun e he => h e (List.mem_cons_of_mem _ he)
    by_cases hk : k < a
    · simp [Store.insert, hk, Store.get]
    · simp only [Store.insert, hk, if_false, Store.get, ih ht]
      by_cases hj : j = a
      · subst hj; simp [ha]
      · simp [hj]

theorem Store.get_filter_ne (d : Nat → α) (k j : Nat) (l : List (Nat × α)) :
    Store.get d (l.filter (fun e => e.1 != k)) j = if j = k then d k else Store.get d l j := by
  induction l with
  | nil => by_cases h : j = k <;> simp [Store.get, h]
  | cons e t ih =>
    obtain ⟨a, w⟩ := e
    by_cases ha : a = k
    · subst ha
      simp only [List.filter, bne_self_eq_false, ih, Store.get]
      by_cases hj : j = a <;> simp [hj]
    · have : (a != k) = true := by simpa using ha
      simp only [List.filter, this, Store.get, ih]
      by_cases hj : j = a
      · subst hj; simp [ha]
      · simp [hj]

/-- A read after a write gives the value written at its key, and what stood there before at every other key. -/
theorem Store.get_put [DecidableEq α] (d : Nat → α) (k : Nat) (v : α) (l : List (Nat × α)) (j : Nat) :
    Store.get d (Store.put d k v l) j = if j = k then v else Store.get d l j := by
  unfold Store.put
  split
  · rename_i h
    rw [Store.get_filter_ne]
    by_cases hj : j = k <;> simp [hj, h]
  · rw [Store.get_insert]
    · by_cases hj : j = k <;> simp [hj, Store.get_filter_ne]
    · intro e he
      simpa using (List.mem_filter.mp he).2

theorem Store.get_put_same [DecidableEq α] (d : Nat → α) (k : Nat) (v : α) (l : List (Nat × α)) :
    Store.get d (Store.put d k v l) k = v := by simp [Store.get_put]

theorem Store.get_put_other [DecidableEq α] (d : Nat → α) {k j : Nat} (v : α) (l : List (Nat × α)) (h : j ≠ k) :
    Store.get d (Store.put d k v l) j = Store.get d l j := by simp [Store.get_put, h]

/-- A key outside the range written keeps its value. -/
theorem Store.get_putList_other [DecidableEq α] (d : Nat → α) (vs : List α) (k : Nat) (l : List (Nat × α)) (j : Nat)
    (h : j < k ∨ k + vs.length ≤ j) : Store.get d (Store.putList d k vs l) j = Store.get d l j := by
  induction vs generalizing k l with
  | nil => rfl
  | cons v t ih =>
    simp only [List.length_cons] at h
    rw [Store.putList, ih _ _ (by omega), Store.get_put_other _ _ _ (by omega)]

/-- Key `k + i` holds the `i`-th value written from `k` on. -/
theorem Store.get_putList [DecidableEq α] (d : Nat → α) (vs : List α) (k : Nat) (l : List (Nat × α)) (i : Nat) (h : i < vs.length) :
    Store.get d (Store.putList d k vs l) (k + i) = vs[i] := by
  induction vs generalizing k l i with
  | nil => simp at h
  | cons v t ih =>
    cases i with
    | zero =>
      rw [Store.putList, Store.get_putList_other _ _ _ _ _ (by omega)]
      simpa using Store.get_put_same d k v l
    | succ i =>
      have := ih (k + 1) (Store.put d k v l) i (by simpa using h)
      rw [Store.putList, show k + (i + 1) = k + 1 + i by omega, this]
      simp

/-- Cleared keys read the default, others are unchanged. -/
theorem Store.get_clear (d : Nat → α) (lo hi : Nat) (l : List (Nat × α)) (j : Nat) :
    Store.get d (Store.clear lo hi l) j = if lo ≤ j ∧ j < hi then d j else Store.get d l j := by
  induction l with
  | nil => simp [Store.clear, Store.get]
  | cons e t ih =>
    obtain ⟨a, w⟩ := e
    unfold Store.clear at ih ⊢
    by_cases ha : a < lo ∨ hi ≤ a
    · have hb : (decide (a < lo) || decide (hi ≤ a)) = true := by simpa using ha
      simp only [List.filter, hb, Store.get, ih]
      by_cases hj : j = a
      · subst hj
        have : ¬ (lo ≤ j ∧ j < hi) := by omega
        simp [this]
      · simp [hj]
    · have hb : (decide (a < lo) || decide (hi ≤ a)) = false := by simpa using ha
      simp only [List.filter, hb, Store.get, ih]
      by_cases hj : j = a
      · subst hj
        have : lo ≤ j ∧ j < hi := by omega
        simp [this]
      · simp [hj]

/-! ### The canonical form -/

/-- A lower bound of a store's keys may be lowered. -/
theorem Store.wfFrom_weaken [DecidableEq α] (d : Nat → α) {b b' : Option Nat} {l : List (Nat × α)}
    (hb : ∀ x, b' = some x → ∃ y, b = some y ∧ x ≤ y) (h : Store.wfFrom d b l = true) : Store.wfFrom d b' l = true := by
  cases l with
  | nil => rfl
  | cons e t =>
    obtain ⟨a, v⟩ := e
    simp only [Store.wfFrom, Bool.and_eq_true] at h ⊢
    refine ⟨⟨?_, h.1.2⟩, h.2⟩
    cases b' with
    | none => rfl
    | some x =>
      obtain ⟨y, rfl, hxy⟩ := hb x rfl
      have := h.1.1
      simp only [decide_eq_true_eq] at this ⊢
      omega

theorem Store.wfFrom_filter [DecidableEq α] (d : Nat → α) (p : Nat × α → Bool) {b : Option Nat} {l : List (Nat × α)}
    (h : Store.wfFrom d b l = true) : Store.wfFrom d b (l.filter p) = true := by
  induction l generalizing b with
  | nil => rfl
  | cons e t ih =>
    obtain ⟨a, v⟩ := e
    simp only [Store.wfFrom, Bool.and_eq_true] at h
    simp only [List.filter]
    split
    · simp only [Store.wfFrom, Bool.and_eq_true]
      exact ⟨h.1, ih h.2⟩
    · refine ih (Store.wfFrom_weaken d ?_ h.2)
      intro x hx
      subst hx
      have := h.1.1
      simp only [decide_eq_true_eq] at this
      exact ⟨a, rfl, by omega⟩

theorem Store.wfFrom_insert [DecidableEq α] (d : Nat → α) (k : Nat) (v : α) (hv : v ≠ d k) {b : Option Nat} {l : List (Nat × α)}
    (hb : ∀ x, b = some x → x < k) (hk : ∀ e ∈ l, e.1 ≠ k) (h : Store.wfFrom d b l = true) :
    Store.wfFrom d b (Store.insert k v l) = true := by
  induction l generalizing b with
  | nil =>
    cases b with
    | none => simp [Store.insert, Store.wfFrom, hv]
    | some x => simp [Store.insert, Store.wfFrom, hv, hb x rfl]
  | cons e t ih =>
    obtain ⟨a, w⟩ := e
    have ha : a ≠ k := hk (a, w) (by simp)
    have ht : ∀ e ∈ t, e.1 ≠ k := fun e he => hk e (List.mem_cons_of_mem _ he)
    simp only [Store.wfFrom, Bool.and_eq_true] at h
    by_cases hlt : k < a
    · simp only [Store.insert, hlt, if_true, Store.wfFrom, Bool.and_eq_true]
      refine ⟨⟨?_, by simp [hv]⟩, ⟨by simp, h.1.2⟩, h.2⟩
      cases b with
      | none => rfl
      | some x => simpa using hb x rfl
    · simp only [Store.insert, hlt, if_false, Store.wfFrom, Bool.and_eq_true]
      refine ⟨h.1, ih ?_ ht h.2⟩
      intro x hx
      have : x = a := by injection hx with hx; exact hx.symm
      omega

/-- A write keeps the canonical form. -/
theorem Store.wf_put [DecidableEq α] (d : Nat → α) (k : Nat) (v : α) {l : List (Nat × α)} (h : Store.wf d l = true) :
    Store.wf d (Store.put d k v l) = true := by
  unfold Store.put Store.wf
  split
  · exact Store.wfFrom_filter d _ h
  · refine Store.wfFrom_insert d k v ‹_› (by simp) ?_ (Store.wfFrom_filter d _ h)
    intro e he
    simpa using (List.mem_filter.mp he).2

/-- Consecutive writes keep the canonical form. -/
theorem Store.wf_putList [DecidableEq α] (d : Nat → α) (k : Nat) (vs : List α) {l : List (Nat × α)} (h : Store.wf d l = true) :
    Store.wf d (Store.putList d k vs l) = true := by
  induction vs generalizing k l with
  | nil => exact h
  | cons v t ih => exact ih (k + 1) (Store.wf_put d k v h)

/-- Writes one after the other keep the canonical form. -/
theorem Store.wf_foldl [DecidableEq α] {β : Type} (d : Nat → α) {f : List (Nat × α) → β → List (Nat × α)} {xs : List β} {l : List (Nat × α)}
    (hf : ∀ l x, Store.wf d l = true → Store.wf d (f l x) = true) (h : Store.wf d l = true) : Store.wf d (xs.foldl f l) = true := by
  induction xs generalizing l with
  | nil => exact h
  | cons x t ih => exact ih (hf l x h)

/-- Clearing a range keeps the canonical form. -/
theorem Store.wf_clear [DecidableEq α] (d : Nat → α) (lo hi : Nat) {l : List (Nat × α)} (h : Store.wf d l = true) :
    Store.wf d (Store.clear lo hi l) = true := Store.wfFrom_filter d _ h

end Sys2Proof.Machine
end

