-- ==== Sys2Proof/Laws/Keeps.lean ====
section
/-! SUPPORT. What every operation keeps (`Keeps`, Safety.lean): the relation itself, and the few operations that touch what it speaks of. -/

namespace Sys2Proof.Machine

theorem Fuses.le_refl (a : Fuses) : a.le a := ⟨rfl, rfl, rfl, fun _ => rfl, fun _ => rfl, id, Nat.le_refl _, id⟩

theorem Fuses.le_trans {a b c : Fuses} (h : a.le b) (k : b.le c) : a.le c := by
  obtain ⟨h1, h2, h3, h4, h5, h6, h7, h8⟩ := h
  obtain ⟨k1, k2, k3, k4, k5, k6, k7, k8⟩ := k
  refine ⟨k1.trans h1, k2.trans h2, k3.trans h3, fun e => ?_, fun e => ?_, fun e => k6 (h6 e), Nat.le_trans h7 k7, fun e => k8 (h8 e)⟩
  · rw [k4 (by rw [h4 e]; exact e), h4 e]
  · rw [k5 (by rw [h5 e]; exact e), h5 e]

theorem keeps_refl (s : State) : Keeps s s :=
  ⟨rfl, rfl, rfl, rfl, Nat.le_refl _, Nat.le_refl _, ⟨[], by simp⟩, Fuses.le_refl _, id⟩

theorem keeps_trans {s t u : State} (h : Keeps s t) (k : Keeps t u) : Keeps s u :=
  ⟨k.pending.trans h.pending, k.por.trans h.por, k.rails.trans h.rails, k.localCount.trans h.localCount,
    Nat.le_trans h.devCount k.devCount, Nat.le_trans h.freeCtr k.freeCtr, h.reports.trans k.reports, Fuses.le_trans h.fuses k.fuses,
    fun c => k.canonical (h.canonical c)⟩

variable {s₀ s t : State}

/-- An update of fields that `Keeps` does not speak of. -/
theorem keeps_mk
    {xpending : List Instr} {xregs : List (Nat × Word)} {xfreeCtr : Nat} {xtm : TimeSt} {xreply : Reply} {xreports : List Report}
    {xlatches : List Latch} {xports : List Port} {xstreams : List (Nat × Stream)} {xdma : List DmaEng} {xisp : IspSt} {xhts : HtsSt}
    {xfgs : FgsSt} {xtdu : TduSt} {xspm : SpmSt} {xfte : List (Option PairTable)} {xnc : NcSt} {xdram : DramSt} {xsaf : SafSt}
    {xpmc : PmcSt} {xflashLog : List LogRec} {xpci : PciSt} {xpower : PowerSt} {xgpio : GpioSt} {xjtag : JtagSt} {xsec : SecSt}
    {xage : AgeSt} {xhost : HostSt}
    (h : Keeps s₀ s) (h1 : xpending = s.pending) (h2 : xfreeCtr = s.freeCtr) (h3 : xtm.localCount = s.tm.localCount)
    (h4 : xtm.devCount = s.tm.devCount) (h5 : xreports = s.reports) (h6 : xregs = s.regs) (h7 : xdram.mem = s.dram.mem)
    (h8 : xspm.mem = s.spm.mem) (h9 : xsec.por = s.sec.por) (h10 : xsec.railsOff = s.sec.railsOff) (h11 : xsec.fuses = s.sec.fuses)
    (h12 : xsec.flash = s.sec.flash) :
    Keeps s₀ (State.mk xpending xregs xfreeCtr xtm xreply xreports xlatches xports xstreams xdma xisp xhts xfgs xtdu xspm xfte xnc xdram xsaf xpmc xflashLog xpci xpower xgpio xjtag xsec xage xhost) := by
  refine keeps_trans h ⟨h1, h9, h10, h3, Nat.le_of_eq h4.symm, Nat.le_of_eq h2.symm, ?_, ?_, ?_⟩
  · exact ⟨[], by simp [h5]⟩
  · show Fuses.le _ xsec.fuses
    rw [h11]; exact Fuses.le_refl _
  · rintro ⟨c1, c2, c3, c4⟩
    exact ⟨by rw [← h6] at c1; exact c1, by rw [← h7] at c2; exact c2, by rw [← h8] at c3; exact c3, by rw [← h12] at c4; exact c4⟩

theorem keeps_ite {c : Prop} [Decidable c] {a b : State} (ha : Keeps s₀ a) (hb : Keeps s₀ b) : Keeps s₀ (if c then a else b) := by
  split <;> assumption

theorem keeps_ite_fst {α : Type} {c : Prop} [Decidable c] {a b : State × α} (ha : Keeps s₀ a.1) (hb : Keeps s₀ b.1) :
    Keeps s₀ (if c then a else b).1 := by
  split <;> assumption

theorem keeps_foldl {α : Type} {f : State → α → State} {l : List α} (hf : ∀ s a, Keeps s₀ s → Keeps s₀ (f s a)) (h : Keeps s₀ s) :
    Keeps s₀ (l.foldl f s) := by
  induction l generalizing s with
  | nil => exact h
  | cons a t ih => exact ih (hf s a h)

theorem keeps_foldl_fst {α β : Type} {f : State × β → α → State × β} {l : List α} {p : State × β}
    (hf : ∀ p a, Keeps s₀ p.1 → Keeps s₀ (f p a).1) (h : Keeps s₀ p.1) : Keeps s₀ (l.foldl f p).1 := by
  induction l generalizing p with
  | nil => exact h
  | cons a t ih => exact ih (hf p a h)

theorem keeps_of_eq {α : Type} {p : State × α} {a : State} {b : α} (e : p = (a, b)) (h : Keeps s₀ p.1) : Keeps s₀ a := by
  subst e; exact h

theorem keeps_of_eq_snd {α : Type} {p : α × State} {a : State} {b : α} (e : p = (b, a)) (h : Keeps s₀ p.2) : Keeps s₀ a := by
  subst e; exact h

/-! ### The operations that touch what `Keeps` speaks of -/

theorem keeps_State_setReg (h : Keeps s₀ s) (o : Nat) (v : Word) : Keeps s₀ (s.setReg o v) :=
  keeps_trans h ⟨rfl, rfl, rfl, rfl, Nat.le_refl _, Nat.le_refl _, ⟨[], by simp [State.setReg]⟩, Fuses.le_refl _,
    fun c => ⟨Store.wf_put _ _ _ c.1, c.2⟩⟩

theorem keeps_State_report (h : Keeps s₀ s) (a b c : Nat) : Keeps s₀ (s.report a b c) :=
  keeps_trans h ⟨rfl, rfl, rfl, rfl, Nat.le_refl _, Nat.le_refl _, List.prefix_append _ _, Fuses.le_refl _, id⟩

theorem keeps_State_draw (h : Keeps s₀ s) : Keeps s₀ s.draw.2 :=
  keeps_trans h ⟨rfl, rfl, rfl, rfl, Nat.le_refl _, Nat.le_succ _, ⟨[], by simp [State.draw]⟩, Fuses.le_refl _, id⟩

theorem keeps_State_drawMany (h : Keeps s₀ s) (n : Nat) : Keeps s₀ (s.drawMany n).2 :=
  keeps_trans h ⟨rfl, rfl, rfl, rfl, Nat.le_refl _, Nat.le_add_right _ _, ⟨[], by simp [State.drawMany]⟩, Fuses.le_refl _, id⟩

theorem keeps_State_dramStore (h : Keeps s₀ s) (a : Nat) (bs : List Byte) : Keeps s₀ (s.dramStore a bs) :=
  keeps_trans h ⟨rfl, rfl, rfl, rfl, Nat.le_refl _, Nat.le_refl _, ⟨[], by simp [State.dramStore]⟩, Fuses.le_refl _,
    fun c => ⟨c.1, Store.wf_putList _ _ _ c.2.1, c.2.2⟩⟩

/-- An operation on one scratchpad that keeps its canonical form. -/
theorem keeps_State_modSpm (h : Keeps s₀ s) (m : Nat) (f : List Host.Cell → List Host.Cell)
    (hf : ∀ l, Store.wf spmZero l = true → Store.wf spmZero (f l) = true) : Keeps s₀ (s.modSpm m f) := by
  refine keeps_trans h ⟨rfl, rfl, rfl, rfl, Nat.le_refl _, Nat.le_refl _, ⟨[], by simp [State.modSpm]⟩, Fuses.le_refl _, ?_⟩
  rintro ⟨c1, c2, c3, c4⟩
  refine ⟨c1, c2, ?_, c4⟩
  intro l hl
  obtain ⟨i, hi, rfl⟩ := List.mem_iff_getElem.mp hl
  simp only [State.modSpm, modAt] at hi ⊢
  rw [List.getElem_modify]
  split
  · exact hf _ (c3 _ (List.getElem_mem _))
  · exact c3 _ (List.getElem_mem _)

theorem keeps_State_flashErase (h : Keeps s₀ s) (a n : Nat) : Keeps s₀ (s.flashErase a n) :=
  keeps_trans h ⟨rfl, rfl, rfl, rfl, Nat.le_refl _, Nat.le_refl _, ⟨[], by simp [State.flashErase]⟩, Fuses.le_refl _,
    fun c => ⟨c.1, c.2.1, c.2.2.1, Store.wf_clear _ _ _ c.2.2.2⟩⟩

theorem keeps_State_flashPut (h : Keeps s₀ s) (a : Nat) (bs : List Byte) : Keeps s₀ (s.flashPut a bs) :=
  keeps_trans h ⟨rfl, rfl, rfl, rfl, Nat.le_refl _, Nat.le_refl _, ⟨[], by simp [State.flashPut]⟩, Fuses.le_refl _,
    fun c => ⟨c.1, c.2.1, c.2.2.1, Store.wf_putList _ _ _ c.2.2.2⟩⟩

end Sys2Proof.Machine
end

