-- ==== Sys2Proof/Laws/KeepsBase.lean ====
section
/-! SUPPORT. One lemma per operation: what it keeps (Laws/Keeps.lean). Here: named operations over registers, the island, power, DMA triggers, host cores, slot memory, DRAM, descriptors, landing, tasks, PCI Express and tensors. -/

namespace Sys2Proof.Machine

theorem keeps_State_setFld {s₀ : State} {s : State} (off : Nat) (hi : Nat) (lo : Nat) (n : Nat) (hK : Keeps s₀ s) : Keeps s₀ (State.setFld s off hi lo n) := by
  unfold State.setFld
  repeat' first
    | (with_reducible first | assumption | apply keeps_State_setReg) | dsimp only
    | (refine keeps_mk ?_ rfl rfl rfl rfl rfl rfl rfl rfl rfl rfl rfl rfl)

theorem keeps_State_setFlag {s₀ : State} {s : State} (off : Nat) (i : Nat) (b : Bool) (hK : Keeps s₀ s) : Keeps s₀ (State.setFlag s off i b) := by
  unfold State.setFlag
  repeat' first
    | (with_reducible first | assumption | apply keeps_State_setFld) | dsimp only
    | (refine keeps_mk ?_ rfl rfl rfl rfl rfl rfl rfl rfl rfl rfl rfl rfl)

theorem keeps_State_cmdBegin {s₀ : State} {s : State} (off : Nat) (bound : Nat) (hK : Keeps s₀ s) : Keeps s₀ (State.cmdBegin s off bound) := by
  unfold State.cmdBegin
  repeat' first
    | (with_reducible first | intro _ | assumption) | dsimp only | (refine keeps_mk ?_ rfl rfl rfl rfl rfl rfl rfl rfl rfl rfl rfl rfl)

theorem keeps_State_count {s₀ : State} {s : State} (i : Nat) (n : Nat) (hK : Keeps s₀ s) : Keeps s₀ (State.count s i n) := by
  unfold State.count
  repeat' first
    | (with_reducible first | intro _ | assumption | apply keeps_ite | apply keeps_ite_fst | apply keeps_State_setFlag) | dsimp only
    | split | (refine keeps_mk ?_ rfl rfl rfl rfl rfl rfl rfl rfl rfl rfl rfl rfl)

theorem keeps_State_incReg {s₀ : State} {s : State} (off : Nat) (n : Nat) (hK : Keeps s₀ s) : Keeps s₀ (State.incReg s off n) := by
  unfold State.incReg
  repeat' first
    | (with_reducible first | assumption | apply keeps_State_setReg) | dsimp only
    | (refine keeps_mk ?_ rfl rfl rfl rfl rfl rfl rfl rfl rfl rfl rfl rfl)

theorem keeps_State_bumpN {s₀ : State} {s : State} (off : Nat) (n : Nat) (hK : Keeps s₀ s) : Keeps s₀ (State.bumpN s off n) := by
  unfold State.bumpN
  repeat' first
    | (with_reducible first | assumption | apply keeps_State_incReg | apply keeps_State_count) | dsimp only
    | (refine keeps_of_eq (by assumption) ?_) | split | (refine keeps_mk ?_ rfl rfl rfl rfl rfl rfl rfl rfl rfl rfl rfl rfl)

theorem keeps_State_bump {s₀ : State} {s : State} (off : Nat) (hK : Keeps s₀ s) : Keeps s₀ (State.bump s off) := by
  unfold State.bump
  repeat' first
    | (with_reducible first | assumption | apply keeps_State_bumpN) | dsimp only
    | (refine keeps_mk ?_ rfl rfl rfl rfl rfl rfl rfl rfl rfl rfl rfl rfl)

theorem keeps_State_zeroRegs {s₀ : State} {s : State} (offs : List Nat) (hK : Keeps s₀ s) : Keeps s₀ (State.zeroRegs s offs) := by
  unfold State.zeroRegs
  repeat' first
    | (with_reducible first | intro _ | assumption | apply keeps_foldl | apply keeps_foldl_fst | apply keeps_State_setReg) | dsimp only
    | (refine keeps_mk ?_ rfl rfl rfl rfl rfl rfl rfl rfl rfl rfl rfl rfl)

theorem keeps_State_bwCount {s₀ : State} {s : State} (k : Nat) (n : Nat) (hK : Keeps s₀ s) : Keeps s₀ (State.bwCount s k n) := by
  unfold State.bwCount
  repeat' first
    | (with_reducible first | intro _ | assumption | apply keeps_ite | apply keeps_ite_fst) | dsimp only | split
    | (refine keeps_mk ?_ rfl rfl rfl rfl rfl rfl rfl rfl rfl rfl rfl rfl)

theorem keeps_State_irqRaise {s₀ : State} {s : State} (src : Nat) (hK : Keeps s₀ s) : Keeps s₀ (State.irqRaise s src) := by
  unfold State.irqRaise
  repeat' first
    | (with_reducible first | intro _ | assumption | apply keeps_ite | apply keeps_ite_fst) | dsimp only | split
    | (refine keeps_mk ?_ rfl rfl rfl rfl rfl rfl rfl rfl rfl rfl rfl rfl)

theorem keeps_State_irqDrop {s₀ : State} {s : State} (src : Nat) (hK : Keeps s₀ s) : Keeps s₀ (State.irqDrop s src) := by
  unfold State.irqDrop
  repeat' first
    | (with_reducible first | assumption) | dsimp only | (refine keeps_mk ?_ rfl rfl rfl rfl rfl rfl rfl rfl rfl rfl rfl rfl)

theorem keeps_State_irqSet {s₀ : State} {s : State} (src : Nat) (b : Bool) (hK : Keeps s₀ s) : Keeps s₀ (State.irqSet s src b) := by
  unfold State.irqSet
  repeat' first
    | (with_reducible first | assumption | apply keeps_ite | apply keeps_ite_fst | apply keeps_State_irqRaise)
    | (with_reducible first | apply keeps_State_irqDrop) | dsimp only | split
    | (refine keeps_mk ?_ rfl rfl rfl rfl rfl rfl rfl rfl rfl rfl rfl rfl)

theorem keeps_State_answer {s₀ : State} {s : State} (r : Reply) (hK : Keeps s₀ s) : Keeps s₀ (State.answer s r) := by
  unfold State.answer
  repeat' first
    | (with_reducible first | assumption) | dsimp only | (refine keeps_mk ?_ rfl rfl rfl rfl rfl rfl rfl rfl rfl rfl rfl rfl)

theorem keeps_State_logRec {s₀ : State} {s : State} (kind : Nat) (body : List Word) (hK : Keeps s₀ s) : Keeps s₀ (State.logRec s kind body) := by
  unfold State.logRec
  repeat' first
    | (with_reducible first | assumption) | dsimp only | (refine keeps_mk ?_ rfl rfl rfl rfl rfl rfl rfl rfl rfl rfl rfl rfl)

theorem keeps_State_groupNote {s₀ : State} {s : State} (g : Nat) (x : Word × Word) (hK : Keeps s₀ s) : Keeps s₀ (State.groupNote s g x) := by
  unfold State.groupNote
  repeat' first
    | (with_reducible first | assumption) | dsimp only | (refine keeps_mk ?_ rfl rfl rfl rfl rfl rfl rfl rfl rfl rfl rfl rfl)

theorem keeps_State_groupClear {s₀ : State} {s : State} (g : Nat) (v : Word) (hK : Keeps s₀ s) : Keeps s₀ (State.groupClear s g v) := by
  unfold State.groupClear
  repeat' first
    | (with_reducible first | assumption | apply keeps_State_groupNote | apply keeps_State_setReg) | dsimp only
    | (refine keeps_mk ?_ rfl rfl rfl rfl rfl rfl rfl rfl rfl rfl rfl rfl)

theorem keeps_State_vector {s₀ : State} {s : State} (v : Nat) (hK : Keeps s₀ s) : Keeps s₀ (State.vector s v) := by
  unfold State.vector
  repeat' first
    | (with_reducible first | assumption) | dsimp only | (refine keeps_mk ?_ rfl rfl rfl rfl rfl rfl rfl rfl rfl rfl rfl rfl)

theorem keeps_State_notice {s₀ : State} {s : State} (b : Nat) (hK : Keeps s₀ s) : Keeps s₀ (State.notice s b) := by
  unfold State.notice
  repeat' first
    | (with_reducible first | assumption | apply keeps_State_setFlag | apply keeps_State_count | apply keeps_State_irqRaise) | dsimp only
    | (refine keeps_mk ?_ rfl rfl rfl rfl rfl rfl rfl rfl rfl rfl rfl rfl)

theorem keeps_State_cause {s₀ : State} {s : State} (code : Nat) (agent : Nat) (part : Nat) (info : Word) (hK : Keeps s₀ s) : Keeps s₀ (State.cause s code agent part info) := by
  unfold State.cause
  repeat' first
    | (with_reducible first | assumption | apply keeps_ite | apply keeps_ite_fst | apply keeps_State_setFld)
    | (with_reducible first | apply keeps_State_vector) | dsimp only | split
    | (refine keeps_mk ?_ rfl rfl rfl rfl rfl rfl rfl rfl rfl rfl rfl rfl)

theorem keeps_State_refuse {s₀ : State} {s : State} (a : Agent) (owner : Nat) (hK : Keeps s₀ s) : Keeps s₀ (State.refuse s a owner) := by
  unfold State.refuse
  repeat' first
    | (with_reducible first | assumption | apply keeps_ite | apply keeps_ite_fst | apply keeps_State_report)
    | (with_reducible first | apply keeps_State_notice) | dsimp only | split
    | (refine keeps_mk ?_ rfl rfl rfl rfl rfl rfl rfl rfl rfl rfl rfl rfl)

theorem keeps_State_refuseSys {s₀ : State} {s : State} (a : Agent) (hK : Keeps s₀ s) : Keeps s₀ (State.refuseSys s a) := by
  unfold State.refuseSys
  repeat' first
    | (with_reducible first | assumption | apply keeps_State_report) | dsimp only
    | (refine keeps_mk ?_ rfl rfl rfl rfl rfl rfl rfl rfl rfl rfl rfl rfl)

theorem keeps_State_systemWrite {s₀ : State} {s : State} (ag : Agent) (f : State → State) (hK : Keeps s₀ s) (hf : ∀ (x0 : State), Keeps s₀ x0 → Keeps s₀ (f x0)) : Keeps s₀ (State.systemWrite s ag f) := by
  unfold State.systemWrite
  repeat' first
    | (with_reducible first | intro _ | assumption | apply hf | apply keeps_ite | apply keeps_ite_fst)
    | (with_reducible first | apply keeps_State_refuseSys) | dsimp only | split
    | (refine keeps_mk ?_ rfl rfl rfl rfl rfl rfl rfl rfl rfl rfl rfl rfl)

theorem keeps_State_maybeRun {s₀ : State} {s : State} (hK : Keeps s₀ s) : Keeps s₀ (State.maybeRun s) := by
  unfold State.maybeRun
  repeat' first
    | (with_reducible first | assumption | apply keeps_ite | apply keeps_ite_fst | apply keeps_State_setFld) | dsimp only | split
    | (refine keeps_mk ?_ rfl rfl rfl rfl rfl rfl rfl rfl rfl rfl rfl rfl)

theorem keeps_State_intervalPass {s₀ : State} {s : State} (hK : Keeps s₀ s) : Keeps s₀ (State.intervalPass s) := by
  unfold State.intervalPass
  repeat' first
    | (with_reducible first | assumption | apply keeps_State_maybeRun | apply keeps_State_setFld | apply keeps_State_bump)
    | (with_reducible first | apply keeps_State_setFlag) | dsimp only
    | (refine keeps_mk ?_ rfl rfl rfl rfl rfl rfl rfl rfl rfl rfl rfl rfl)

theorem keeps_State_intervalMissed {s₀ : State} {s : State} (hK : Keeps s₀ s) : Keeps s₀ (State.intervalMissed s) := by
  unfold State.intervalMissed
  repeat' first
    | (with_reducible first | assumption | apply keeps_ite | apply keeps_ite_fst | apply keeps_State_setFld)
    | (with_reducible first | apply keeps_State_bump | apply keeps_State_notice | apply keeps_State_cause) | dsimp only | split
    | (refine keeps_mk ?_ rfl rfl rfl rfl rfl rfl rfl rfl rfl rfl rfl rfl)

theorem keeps_State_judgeInterval {s₀ : State} {s : State} (hK : Keeps s₀ s) : Keeps s₀ (State.judgeInterval s) := by
  unfold State.judgeInterval
  repeat' first
    | (with_reducible first | intro _ | assumption | apply keeps_ite | apply keeps_ite_fst | apply keeps_State_setFld)
    | (with_reducible first | apply keeps_State_intervalPass | apply keeps_State_intervalMissed) | dsimp only | split
    | (refine keeps_mk ?_ rfl rfl rfl rfl rfl rfl rfl rfl rfl rfl rfl rfl)

theorem keeps_State_proofOutcome {s₀ : State} {s : State} (set : Nat) (outcome : Nat) (check : Nat) (hK : Keeps s₀ s) : Keeps s₀ (State.proofOutcome s set outcome check) := by
  unfold State.proofOutcome
  repeat' first
    | (with_reducible first | intro _ | assumption | apply keeps_ite | apply keeps_ite_fst | apply keeps_State_setFld)
    | (with_reducible first | apply keeps_State_judgeInterval) | dsimp only | split
    | (refine keeps_mk ?_ rfl rfl rfl rfl rfl rfl rfl rfl rfl rfl rfl rfl)

theorem keeps_State_wakeDomain {s₀ : State} {s : State} (d : Nat) (hK : Keeps s₀ s) : Keeps s₀ (State.wakeDomain s d) := by
  unfold State.wakeDomain
  repeat' first
    | (with_reducible first | assumption | apply keeps_ite | apply keeps_ite_fst | apply keeps_State_setFld)
    | (with_reducible first | apply keeps_State_count) | dsimp only | split
    | (refine keeps_mk ?_ rfl rfl rfl rfl rfl rfl rfl rfl rfl rfl rfl rfl)

theorem keeps_State_creditRequest {s₀ : State} {s : State} (id : Nat) (part : Nat) (hK : Keeps s₀ s) : Keeps s₀ (State.creditRequest s id part).1 := by
  unfold State.creditRequest
  repeat' first
    | (with_reducible first | assumption | apply keeps_ite | apply keeps_ite_fst) | dsimp only | split
    | (refine keeps_mk ?_ rfl rfl rfl rfl rfl rfl rfl rfl rfl rfl rfl rfl)

theorem keeps_State_creditRelease {s₀ : State} {s : State} (id : Nat) (hK : Keeps s₀ s) : Keeps s₀ (State.creditRelease s id) := by
  unfold State.creditRelease
  repeat' first
    | (with_reducible first | assumption) | dsimp only | (refine keeps_mk ?_ rfl rfl rfl rfl rfl rfl rfl rfl rfl rfl rfl rfl)

theorem keeps_State_domBusy {s₀ : State} {s : State} (d : Nat) (hK : Keeps s₀ s) : Keeps s₀ (State.domBusy s d) := by
  unfold State.domBusy
  repeat' first
    | (with_reducible first | assumption) | dsimp only | (refine keeps_mk ?_ rfl rfl rfl rfl rfl rfl rfl rfl rfl rfl rfl rfl)

theorem keeps_State_setEng {s₀ : State} {s : State} (e : Nat) (x : DmaEng) (hK : Keeps s₀ s) : Keeps s₀ (State.setEng s e x) := by
  unfold State.setEng
  repeat' first
    | (with_reducible first | assumption) | dsimp only | (refine keeps_mk ?_ rfl rfl rfl rfl rfl rfl rfl rfl rfl rfl rfl rfl)

theorem keeps_State_modChan {s₀ : State} {s : State} (e : Nat) (c : Nat) (f : DmaChan → DmaChan) (hK : Keeps s₀ s) : Keeps s₀ (State.modChan s e c f) := by
  unfold State.modChan
  repeat' first
    | (with_reducible first | assumption | apply keeps_State_setEng) | dsimp only
    | (refine keeps_mk ?_ rfl rfl rfl rfl rfl rfl rfl rfl rfl rfl rfl rfl)

theorem keeps_State_setChState {s₀ : State} {s : State} (e : Nat) (c : Nat) (st : Nat) (hK : Keeps s₀ s) : Keeps s₀ (State.setChState s e c st) := by
  unfold State.setChState
  repeat' first
    | (with_reducible first | assumption | apply keeps_State_setFld) | dsimp only
    | (refine keeps_mk ?_ rfl rfl rfl rfl rfl rfl rfl rfl rfl rfl rfl rfl)

theorem keeps_State_chStart {s₀ : State} {s : State} (e : Nat) (c : Nat) (head : Nat) (task : Option Nat) (hK : Keeps s₀ s) : Keeps s₀ (State.chStart s e c head task) := by
  unfold State.chStart
  repeat' first
    | (with_reducible first | intro _ | assumption | apply keeps_State_modChan | apply keeps_State_setReg)
    | (with_reducible first | apply keeps_State_setChState) | dsimp only
    | (refine keeps_mk ?_ rfl rfl rfl rfl rfl rfl rfl rfl rfl rfl rfl rfl)

theorem keeps_State_chTake {s₀ : State} {s : State} (e : Nat) (c : Nat) (hK : Keeps s₀ s) : Keeps s₀ (State.chTake s e c) := by
  unfold State.chTake
  repeat' first
    | (with_reducible first | assumption | apply keeps_ite | apply keeps_ite_fst | apply keeps_State_chStart)
    | (with_reducible first | apply keeps_State_setFlag | apply keeps_State_setChState) | dsimp only | split
    | (refine keeps_mk ?_ rfl rfl rfl rfl rfl rfl rfl rfl rfl rfl rfl rfl)

theorem keeps_State_chTrigger {s₀ : State} {s : State} (e : Nat) (c : Nat) (hK : Keeps s₀ s) : Keeps s₀ (State.chTrigger s e c) := by
  unfold State.chTrigger
  repeat' first
    | (with_reducible first | intro _ | assumption | apply keeps_ite | apply keeps_ite_fst | apply keeps_State_bump)
    | (with_reducible first | apply keeps_State_modChan | apply keeps_State_chTake | apply keeps_State_setFlag) | dsimp only | split
    | (refine keeps_mk ?_ rfl rfl rfl rfl rfl rfl rfl rfl rfl rfl rfl rfl)

theorem keeps_State_chEnter {s₀ : State} {s : State} (e : Nat) (c : Nat) (hK : Keeps s₀ s) : Keeps s₀ (State.chEnter s e c) := by
  unfold State.chEnter
  repeat' first
    | (with_reducible first | assumption | apply keeps_ite | apply keeps_ite_fst | apply keeps_State_setFlag)
    | (with_reducible first | apply keeps_State_chTake) | dsimp only | split
    | (refine keeps_mk ?_ rfl rfl rfl rfl rfl rfl rfl rfl rfl rfl rfl rfl)

theorem keeps_State_trigWhere {s₀ : State} {s : State} (sel : State → Nat → Nat → Bool) (hK : Keeps s₀ s) : Keeps s₀ (State.trigWhere s sel) := by
  unfold State.trigWhere
  repeat' first
    | (with_reducible first | intro _ | assumption | apply keeps_ite | apply keeps_foldl | apply keeps_ite_fst)
    | (with_reducible first | apply keeps_foldl_fst | apply keeps_State_chTrigger) | dsimp only | split
    | (refine keeps_mk ?_ rfl rfl rfl rfl rfl rfl rfl rfl rfl rfl rfl rfl)

theorem keeps_State_dmaTimer {s₀ : State} {s : State} (n : Nat) (hK : Keeps s₀ s) : Keeps s₀ (State.dmaTimer s n) := by
  unfold State.dmaTimer
  repeat' first
    | (with_reducible first | intro _ | assumption | apply keeps_State_trigWhere) | dsimp only
    | (refine keeps_mk ?_ rfl rfl rfl rfl rfl rfl rfl rfl rfl rfl rfl rfl)

theorem keeps_State_dmaGpio {s₀ : State} {s : State} (n : Nat) (rising : Bool) (hK : Keeps s₀ s) : Keeps s₀ (State.dmaGpio s n rising) := by
  unfold State.dmaGpio
  repeat' first
    | (with_reducible first | intro _ | assumption | apply keeps_ite | apply keeps_ite_fst | apply keeps_State_trigWhere) | dsimp only
    | split | (refine keeps_mk ?_ rfl rfl rfl rfl rfl rfl rfl rfl rfl rfl rfl rfl)

theorem keeps_State_dmaEvent {s₀ : State} {s : State} (g : Nat) (hK : Keeps s₀ s) : Keeps s₀ (State.dmaEvent s g) := by
  unfold State.dmaEvent
  repeat' first
    | (with_reducible first | intro _ | assumption | apply keeps_foldl | apply keeps_foldl_fst | apply keeps_State_chTrigger)
    | (with_reducible first | apply keeps_State_groupNote | apply keeps_State_setReg) | dsimp only
    | (refine keeps_mk ?_ rfl rfl rfl rfl rfl rfl rfl rfl rfl rfl rfl rfl)

theorem keeps_State_dmaWatch {s₀ : State} {s : State} (e : Nat) (c : Nat) (hK : Keeps s₀ s) : Keeps s₀ (State.dmaWatch s e c) := by
  unfold State.dmaWatch
  repeat' first
    | (with_reducible first | assumption | apply keeps_ite | apply keeps_ite_fst | apply keeps_State_chTrigger)
    | (with_reducible first | apply keeps_State_groupClear) | dsimp only | split
    | (refine keeps_mk ?_ rfl rfl rfl rfl rfl rfl rfl rfl rfl rfl rfl rfl)

theorem keeps_State_dmaCredits {s₀ : State} {s : State} (e : Nat) (hK : Keeps s₀ s) : Keeps s₀ (State.dmaCredits s e) := by
  unfold State.dmaCredits
  repeat' first
    | (with_reducible first | intro _ | assumption | apply keeps_ite | apply keeps_ite_fst | apply keeps_State_creditRelease)
    | dsimp only | split | (refine keeps_mk ?_ rfl rfl rfl rfl rfl rfl rfl rfl rfl rfl rfl rfl)

theorem keeps_State_chEnd {s₀ : State} {s : State} (e : Nat) (c : Nat) (hK : Keeps s₀ s) : Keeps s₀ (State.chEnd s e c) := by
  unfold State.chEnd
  repeat' first
    | (with_reducible first | intro _ | assumption | apply keeps_ite | apply keeps_ite_fst | apply keeps_State_setEng)
    | (with_reducible first | apply keeps_State_modChan | apply keeps_State_setChState | apply keeps_State_chEnter)
    | (with_reducible first | apply keeps_State_setFlag) | dsimp only | split
    | (refine keeps_mk ?_ rfl rfl rfl rfl rfl rfl rfl rfl rfl rfl rfl rfl)

theorem keeps_State_setMailbox {s₀ : State} {s : State} (m : Nat) (b : Mailbox) (hK : Keeps s₀ s) : Keeps s₀ (State.setMailbox s m b) := by
  unfold State.setMailbox
  repeat' first
    | (with_reducible first | assumption) | dsimp only | (refine keeps_mk ?_ rfl rfl rfl rfl rfl rfl rfl rfl rfl rfl rfl rfl)

theorem keeps_State_wakeMailbox {s₀ : State} {s : State} (m : Nat) (hK : Keeps s₀ s) : Keeps s₀ (State.wakeMailbox s m) := by
  unfold State.wakeMailbox
  repeat' first
    | (with_reducible first | assumption | apply keeps_ite | apply keeps_ite_fst | apply keeps_State_wakeDomain)
    | (with_reducible first | apply keeps_State_irqRaise | apply keeps_State_vector) | dsimp only | split
    | (refine keeps_mk ?_ rfl rfl rfl rfl rfl rfl rfl rfl rfl rfl rfl rfl)

theorem keeps_State_deliver {s₀ : State} {s : State} (m : Nat) (sender : Nat) (kind : Nat) (payload : List Word) (hK : Keeps s₀ s) : Keeps s₀ (State.deliver s m sender kind payload).1 := by
  unfold State.deliver
  repeat' first
    | (with_reducible first | assumption | apply keeps_ite | apply keeps_ite_fst | apply keeps_State_setFlag)
    | (with_reducible first | apply keeps_State_incReg | apply keeps_State_count | apply keeps_State_setMailbox)
    | (with_reducible first | apply keeps_State_wakeMailbox) | dsimp only | split
    | (refine keeps_mk ?_ rfl rfl rfl rfl rfl rfl rfl rfl rfl rfl rfl rfl)

theorem keeps_State_setGranuleOwner {s₀ : State} {s : State} (m : Nat) (g : Nat) (p : Nat) (hK : Keeps s₀ s) : Keeps s₀ (State.setGranuleOwner s m g p) := by
  unfold State.setGranuleOwner
  repeat' first
    | (with_reducible first | assumption | apply keeps_State_setFld) | dsimp only
    | (refine keeps_mk ?_ rfl rfl rfl rfl rfl rfl rfl rfl rfl rfl rfl rfl)

theorem keeps_State_spmStore {s₀ : State} {s : State} (m : Nat) (off : Nat) (bs : List (Option Byte)) (hK : Keeps s₀ s) : Keeps s₀ (State.spmStore s m off bs) := by
  unfold State.spmStore
  repeat' first
    | (with_reducible first | intro _ | assumption | apply keeps_foldl | apply keeps_foldl_fst | apply keeps_State_modSpm)
    | (with_reducible first | apply Store.wf_foldl | apply Store.wf_put | apply Store.wf_clear) | dsimp only
    | (refine keeps_of_eq (by assumption) ?_) | split | (refine keeps_mk ?_ rfl rfl rfl rfl rfl rfl rfl rfl rfl rfl rfl rfl) | rfl

theorem keeps_State_spmPut {s₀ : State} {s : State} (m : Nat) (off : Nat) (bs : List Byte) (hK : Keeps s₀ s) : Keeps s₀ (State.spmPut s m off bs) := by
  unfold State.spmPut
  repeat' first
    | (with_reducible first | assumption | apply keeps_State_spmStore) | dsimp only
    | (refine keeps_mk ?_ rfl rfl rfl rfl rfl rfl rfl rfl rfl rfl rfl rfl)

theorem keeps_State_spmLog {s₀ : State} {s : State} (b : SpmBad) (scrub : Bool) (hK : Keeps s₀ s) : Keeps s₀ (State.spmLog s b scrub) := by
  unfold State.spmLog
  repeat' first
    | (with_reducible first | assumption | apply keeps_ite | apply keeps_ite_fst | apply keeps_State_setReg)
    | (with_reducible first | apply keeps_State_irqRaise | apply keeps_State_logRec) | dsimp only | split
    | (refine keeps_mk ?_ rfl rfl rfl rfl rfl rfl rfl rfl rfl rfl rfl rfl)

theorem keeps_State_spmRefuse {s₀ : State} {s : State} (agent : Nat) (part : Nat) (m : Nat) (g : Nat) (hK : Keeps s₀ s) : Keeps s₀ (State.spmRefuse s agent part m g) := by
  unfold State.spmRefuse
  repeat' first
    | (with_reducible first | assumption | apply keeps_ite | apply keeps_ite_fst | apply keeps_State_bump)
    | (with_reducible first | apply keeps_State_report | apply keeps_State_notice) | dsimp only | split
    | (refine keeps_mk ?_ rfl rfl rfl rfl rfl rfl rfl rfl rfl rfl rfl rfl)

theorem keeps_State_spmRefuseAll {s₀ : State} {s : State} (agent : Nat) (part : Nat) (m : Nat) (ws : List Nat) (hK : Keeps s₀ s) : Keeps s₀ (State.spmRefuseAll s agent part m ws) := by
  unfold State.spmRefuseAll
  repeat' first
    | (with_reducible first | intro _ | assumption | apply keeps_foldl | apply keeps_foldl_fst | apply keeps_State_spmRefuse)
    | dsimp only | (refine keeps_mk ?_ rfl rfl rfl rfl rfl rfl rfl rfl rfl rfl rfl rfl)

theorem keeps_State_spmRead {s₀ : State} {s : State} (agent : Nat) (part : Nat) (full : Bool) (shared : Bool) (m : Nat) (off : Nat) (n : Nat) (hK : Keeps s₀ s) : Keeps s₀ (State.spmRead s agent part full shared m off n).1 := by
  unfold State.spmRead
  repeat' first
    | (with_reducible first | intro _ | assumption | apply keeps_ite | apply keeps_ite_fst | apply keeps_State_bump)
    | (with_reducible first | apply keeps_State_spmLog | apply keeps_State_spmRefuseAll) | dsimp only
    | (refine keeps_of_eq (by assumption) ?_) | split | (refine keeps_mk ?_ rfl rfl rfl rfl rfl rfl rfl rfl rfl rfl rfl rfl)

theorem keeps_State_spmWrite {s₀ : State} {s : State} (agent : Nat) (part : Nat) (full : Bool) (m : Nat) (off : Nat) (bs : List (Option Byte)) (hK : Keeps s₀ s) : Keeps s₀ (State.spmWrite s agent part full m off bs).1 := by
  unfold State.spmWrite
  repeat' first
    | (with_reducible first | assumption | apply keeps_State_spmStore | apply keeps_State_spmRefuseAll) | dsimp only
    | (refine keeps_of_eq (by assumption) ?_) | split | (refine keeps_mk ?_ rfl rfl rfl rfl rfl rfl rfl rfl rfl rfl rfl rfl)

theorem keeps_State_spmTake {s₀ : State} {s : State} (x : SpmAcc) (hK : Keeps s₀ s) : Keeps s₀ (State.spmTake s x).1 := by
  unfold State.spmTake
  repeat' first
    | (with_reducible first | assumption | apply keeps_ite | apply keeps_ite_fst | apply keeps_State_spmRead)
    | (with_reducible first | apply keeps_State_spmWrite) | dsimp only | (refine keeps_of_eq (by assumption) ?_)
    | (refine keeps_of_eq_snd (by assumption) ?_) | split | (refine keeps_mk ?_ rfl rfl rfl rfl rfl rfl rfl rfl rfl rfl rfl rfl)

theorem keeps_State_spmAccess {s₀ : State} {s : State} (x : SpmAcc) (hK : Keeps s₀ s) : Keeps s₀ (State.spmAccess s x) := by
  unfold State.spmAccess
  repeat' first
    | (with_reducible first | assumption | apply keeps_ite | apply keeps_ite_fst | apply keeps_State_answer)
    | (with_reducible first | apply keeps_State_spmTake) | dsimp only | (refine keeps_of_eq (by assumption) ?_)
    | (refine keeps_of_eq_snd (by assumption) ?_) | split | (refine keeps_mk ?_ rfl rfl rfl rfl rfl rfl rfl rfl rfl rfl rfl rfl)

theorem keeps_State_spmZeroMem {s₀ : State} {s : State} (m : Nat) (hK : Keeps s₀ s) : Keeps s₀ (State.spmZeroMem s m) := by
  unfold State.spmZeroMem
  repeat' first
    | (with_reducible first | intro _ | assumption | apply keeps_State_modSpm | apply Store.wf_foldl | apply Store.wf_put)
    | (with_reducible first | apply Store.wf_clear) | dsimp only | (refine keeps_mk ?_ rfl rfl rfl rfl rfl rfl rfl rfl rfl rfl rfl rfl)
    | rfl

theorem keeps_State_fwRefuse {s₀ : State} {s : State} (w : Who) (wr : Bool) (a : Nat) (hK : Keeps s₀ s) : Keeps s₀ (State.fwRefuse s w wr a) := by
  unfold State.fwRefuse
  repeat' first
    | (with_reducible first | assumption | apply keeps_ite | apply keeps_ite_fst | apply keeps_State_bump)
    | (with_reducible first | apply keeps_State_setReg | apply keeps_State_irqRaise | apply keeps_State_report)
    | (with_reducible first | apply keeps_State_notice) | dsimp only | (refine keeps_of_eq (by assumption) ?_) | split
    | (refine keeps_mk ?_ rfl rfl rfl rfl rfl rfl rfl rfl rfl rfl rfl rfl)

theorem keeps_State_dramLog {s₀ : State} {s : State} (w : Who) (blk : Nat) (scrub : Bool) (restored : Bool) (both : Bool) (merge : Bool) (hK : Keeps s₀ s) : Keeps s₀ (State.dramLog s w blk scrub restored both merge) := by
  unfold State.dramLog
  repeat' first
    | (with_reducible first | assumption | apply keeps_ite | apply keeps_ite_fst | apply keeps_State_setReg)
    | (with_reducible first | apply keeps_State_irqRaise | apply keeps_State_logRec) | dsimp only | split
    | (refine keeps_mk ?_ rfl rfl rfl rfl rfl rfl rfl rfl rfl rfl rfl rfl)

theorem keeps_State_restore {s₀ : State} {s : State} (dst : Nat) (src : Nat) (hK : Keeps s₀ s) : Keeps s₀ (State.restore s dst src) := by
  unfold State.restore
  repeat' first
    | (with_reducible first | assumption | apply keeps_State_dramStore | apply keeps_State_bump) | dsimp only
    | (refine keeps_mk ?_ rfl rfl rfl rfl rfl rfl rfl rfl rfl rfl rfl rfl)

theorem keeps_State_loseBlock {s₀ : State} {s : State} (e : Nat) (blk : Nat) (hK : Keeps s₀ s) : Keeps s₀ (State.loseBlock s e blk) := by
  unfold State.loseBlock
  repeat' first
    | (with_reducible first | assumption | apply keeps_ite | apply keeps_ite_fst | apply keeps_State_bump)
    | (with_reducible first | apply keeps_State_report | apply keeps_State_cause | apply keeps_State_notice) | dsimp only | split
    | (refine keeps_mk ?_ rfl rfl rfl rfl rfl rfl rfl rfl rfl rfl rfl rfl)

theorem keeps_State_badBlock {s₀ : State} {s : State} (w : Who) (blk : Nat) (scrub : Bool) (hK : Keeps s₀ s) : Keeps s₀ (State.badBlock s w blk scrub) := by
  unfold State.badBlock
  repeat' first
    | (with_reducible first | assumption | apply keeps_ite | apply keeps_ite_fst | apply keeps_State_bump)
    | (with_reducible first | apply keeps_State_dramLog | apply keeps_State_loseBlock | apply keeps_State_restore) | dsimp only
    | (refine keeps_of_eq (by assumption) ?_) | split | (refine keeps_mk ?_ rfl rfl rfl rfl rfl rfl rfl rfl rfl rfl rfl rfl)

theorem keeps_State_dramTraffic {s₀ : State} {s : State} (w : Who) (wr : Bool) (a : Nat) (n : Nat) (hK : Keeps s₀ s) : Keeps s₀ (State.dramTraffic s w wr a n) := by
  unfold State.dramTraffic
  repeat' first
    | (with_reducible first | intro _ | assumption | apply keeps_ite | apply keeps_foldl | apply keeps_ite_fst)
    | (with_reducible first | apply keeps_foldl_fst | apply keeps_State_count | apply keeps_State_bwCount) | dsimp only | split
    | (refine keeps_mk ?_ rfl rfl rfl rfl rfl rfl rfl rfl rfl rfl rfl rfl)

theorem keeps_State_fwRefuseAll {s₀ : State} {s : State} (w : Who) (wr : Bool) (a : Nat) (n : Nat) (hK : Keeps s₀ s) : Keeps s₀ (State.fwRefuseAll s w wr a n) := by
  unfold State.fwRefuseAll
  repeat' first
    | (with_reducible first | intro _ | assumption | apply keeps_foldl | apply keeps_foldl_fst | apply keeps_State_fwRefuse) | dsimp only
    | (refine keeps_mk ?_ rfl rfl rfl rfl rfl rfl rfl rfl rfl rfl rfl rfl)

theorem keeps_State_readBlocks {s₀ : State} {s : State} (w : Who) (a : Nat) (n : Nat) (hK : Keeps s₀ s) : Keeps s₀ (State.readBlocks s w a n) := by
  unfold State.readBlocks
  repeat' first
    | (with_reducible first | intro _ | assumption | apply keeps_foldl | apply keeps_foldl_fst | apply keeps_State_badBlock)
    | (with_reducible first | apply keeps_State_dramTraffic) | dsimp only
    | (refine keeps_mk ?_ rfl rfl rfl rfl rfl rfl rfl rfl rfl rfl rfl rfl)

theorem keeps_State_readPiece {s₀ : State} {s : State} (w : Who) (p : Nat × Nat) (hK : Keeps s₀ s) : Keeps s₀ (State.readPiece s w p) := by
  unfold State.readPiece
  repeat' first
    | (with_reducible first | assumption | apply keeps_ite | apply keeps_ite_fst | apply keeps_State_readBlocks)
    | (with_reducible first | apply keeps_State_fwRefuseAll) | dsimp only | split
    | (refine keeps_mk ?_ rfl rfl rfl rfl rfl rfl rfl rfl rfl rfl rfl rfl)

theorem keeps_State_dramRead {s₀ : State} {s : State} (w : Who) (a : Nat) (n : Nat) (hK : Keeps s₀ s) : Keeps s₀ (State.dramRead s w a n).1 := by
  unfold State.dramRead
  repeat' first
    | (with_reducible first | intro _ | assumption | apply keeps_ite | apply keeps_foldl | apply keeps_ite_fst)
    | (with_reducible first | apply keeps_foldl_fst | apply keeps_State_readPiece | apply keeps_State_readBlocks)
    | (with_reducible first | apply keeps_State_dramTraffic) | dsimp only | (refine keeps_of_eq (by assumption) ?_) | split
    | (refine keeps_mk ?_ rfl rfl rfl rfl rfl rfl rfl rfl rfl rfl rfl rfl)

theorem keeps_State_dramPutBlock {s₀ : State} {s : State} (w : Who) (a : Nat) (bs : List Byte) (hK : Keeps s₀ s) : Keeps s₀ (State.dramPutBlock s w a bs) := by
  unfold State.dramPutBlock
  repeat' first
    | (with_reducible first | assumption | apply keeps_ite | apply keeps_ite_fst | apply keeps_State_report)
    | (with_reducible first | apply keeps_State_notice | apply keeps_State_dramLog | apply keeps_State_loseBlock)
    | (with_reducible first | apply keeps_State_restore | apply keeps_State_dramStore) | dsimp only
    | (refine keeps_of_eq (by assumption) ?_) | split | (refine keeps_mk ?_ rfl rfl rfl rfl rfl rfl rfl rfl rfl rfl rfl rfl)

theorem keeps_State_dramPut {s₀ : State} {s : State} (w : Who) (n : Nat) (a : Nat) (bs : List Byte) (hK : Keeps s₀ s) : Keeps s₀ (State.dramPut s w n a bs) := by
  induction n generalizing s a bs with
  | zero =>
    unfold State.dramPut
    repeat' first
      | (with_reducible first | intro _ | assumption | apply ih | apply keeps_State_dramPutBlock) | dsimp only
      | (refine keeps_of_eq (by assumption) ?_) | split | (refine keeps_mk ?_ rfl rfl rfl rfl rfl rfl rfl rfl rfl rfl rfl rfl)
  | succ n ih =>
    unfold State.dramPut
    repeat' first
      | (with_reducible first | intro _ | assumption | apply ih | apply keeps_State_dramPutBlock) | dsimp only
      | (refine keeps_of_eq (by assumption) ?_) | split | (refine keeps_mk ?_ rfl rfl rfl rfl rfl rfl rfl rfl rfl rfl rfl rfl)

theorem keeps_State_writeBlocks {s₀ : State} {s : State} (w : Who) (a : Nat) (bs : List Byte) (hK : Keeps s₀ s) : Keeps s₀ (State.writeBlocks s w a bs) := by
  unfold State.writeBlocks
  repeat' first
    | (with_reducible first | assumption | apply keeps_State_dramTraffic | apply keeps_State_dramPut) | dsimp only
    | (refine keeps_mk ?_ rfl rfl rfl rfl rfl rfl rfl rfl rfl rfl rfl rfl)

theorem keeps_State_writePiece {s₀ : State} {s : State} (w : Who) (a : Nat) (bs : List Byte) (p : Nat × Nat) (hK : Keeps s₀ s) : Keeps s₀ (State.writePiece s w a bs p) := by
  unfold State.writePiece
  repeat' first
    | (with_reducible first | assumption | apply keeps_ite | apply keeps_ite_fst | apply keeps_State_writeBlocks)
    | (with_reducible first | apply keeps_State_fwRefuseAll) | dsimp only | split
    | (refine keeps_mk ?_ rfl rfl rfl rfl rfl rfl rfl rfl rfl rfl rfl rfl)

theorem keeps_State_dramWrite {s₀ : State} {s : State} (w : Who) (a : Nat) (bs : List Byte) (hK : Keeps s₀ s) : Keeps s₀ (State.dramWrite s w a bs).1 := by
  unfold State.dramWrite
  repeat' first
    | (with_reducible first | intro _ | assumption | apply keeps_ite | apply keeps_foldl | apply keeps_ite_fst)
    | (with_reducible first | apply keeps_foldl_fst | apply keeps_State_writePiece | apply keeps_State_writeBlocks) | dsimp only
    | (refine keeps_of_eq (by assumption) ?_) | split | (refine keeps_mk ?_ rfl rfl rfl rfl rfl rfl rfl rfl rfl rfl rfl rfl)

theorem keeps_State_regionStatus {s₀ : State} {s : State} (st : Nat) (hK : Keeps s₀ s) : Keeps s₀ (State.regionStatus s st) := by
  unfold State.regionStatus
  repeat' first
    | (with_reducible first | assumption | apply keeps_State_setReg) | dsimp only
    | (refine keeps_mk ?_ rfl rfl rfl rfl rfl rfl rfl rfl rfl rfl rfl rfl)

theorem keeps_State_regionUsed {s₀ : State} {s : State} (hK : Keeps s₀ s) : Keeps s₀ (State.regionUsed s) := by
  unfold State.regionUsed
  repeat' first
    | (with_reducible first | assumption | apply keeps_State_regionStatus) | dsimp only
    | (refine keeps_mk ?_ rfl rfl rfl rfl rfl rfl rfl rfl rfl rfl rfl rfl)

theorem keeps_State_addRegion {s₀ : State} {s : State} (id : Nat) (r : Region) (hK : Keeps s₀ s) : Keeps s₀ (State.addRegion s id r) := by
  unfold State.addRegion
  repeat' first
    | (with_reducible first | assumption | apply keeps_State_regionUsed) | dsimp only
    | (refine keeps_mk ?_ rfl rfl rfl rfl rfl rfl rfl rfl rfl rfl rfl rfl)

theorem keeps_State_dropRegion {s₀ : State} {s : State} (id : Nat) (hK : Keeps s₀ s) : Keeps s₀ (State.dropRegion s id) := by
  unfold State.dropRegion
  repeat' first
    | (with_reducible first | intro _ | assumption | apply keeps_State_regionUsed) | dsimp only
    | (refine keeps_mk ?_ rfl rfl rfl rfl rfl rfl rfl rfl rfl rfl rfl rfl)

theorem keeps_State_setTable {s₀ : State} {s : State} (p : Nat) (t : HandleTable) (hK : Keeps s₀ s) : Keeps s₀ (State.setTable s p t) := by
  unfold State.setTable
  repeat' first
    | (with_reducible first | assumption) | dsimp only | (refine keeps_mk ?_ rfl rfl rfl rfl rfl rfl rfl rfl rfl rfl rfl rfl)

theorem keeps_State_pinBy {s₀ : State} {s : State} (p : Nat) (h : Nat) (f : Nat → Nat) (hK : Keeps s₀ s) : Keeps s₀ (State.pinBy s p h f) := by
  unfold State.pinBy
  repeat' first
    | (with_reducible first | intro _ | assumption | apply keeps_ite | apply keeps_ite_fst | apply keeps_State_setTable) | dsimp only
    | split | (refine keeps_mk ?_ rfl rfl rfl rfl rfl rfl rfl rfl rfl rfl rfl rfl)

theorem keeps_State_pin {s₀ : State} {s : State} (p : Nat) (h : Nat) (hK : Keeps s₀ s) : Keeps s₀ (State.pin s p h) := by
  unfold State.pin
  repeat' first
    | (with_reducible first | assumption | apply keeps_State_pinBy) | dsimp only
    | (refine keeps_mk ?_ rfl rfl rfl rfl rfl rfl rfl rfl rfl rfl rfl rfl)

theorem keeps_State_unpin {s₀ : State} {s : State} (p : Nat) (h : Nat) (hK : Keeps s₀ s) : Keeps s₀ (State.unpin s p h) := by
  unfold State.unpin
  repeat' first
    | (with_reducible first | assumption | apply keeps_State_pinBy) | dsimp only
    | (refine keeps_mk ?_ rfl rfl rfl rfl rfl rfl rfl rfl rfl rfl rfl rfl)

theorem keeps_State_oob {s₀ : State} {s : State} (p : Nat) (wr : Bool) (n : Nat) (h : Nat) (dim : Nat) (idx : Int) (global : Bool) (hK : Keeps s₀ s) : Keeps s₀ (State.oob s p wr n h dim idx global) := by
  unfold State.oob
  repeat' first
    | (with_reducible first | assumption | apply keeps_ite | apply keeps_ite_fst | apply keeps_State_bumpN)
    | (with_reducible first | apply keeps_State_setReg) | dsimp only | split
    | (refine keeps_mk ?_ rfl rfl rfl rfl rfl rfl rfl rfl rfl rfl rfl rfl)

theorem keeps_State_setStream {s₀ : State} {s : State} (i : Nat) (x : Stream) (hK : Keeps s₀ s) : Keeps s₀ (State.setStream s i x) := by
  unfold State.setStream
  repeat' first
    | (with_reducible first | intro _ | assumption) | dsimp only | (refine keeps_mk ?_ rfl rfl rfl rfl rfl rfl rfl rfl rfl rfl rfl rfl)

theorem keeps_State_streamInc {s₀ : State} {s : State} (st : Nat) (i : Nat) (hK : Keeps s₀ s) : Keeps s₀ (State.streamInc s st i) := by
  unfold State.streamInc
  repeat' first
    | (with_reducible first | assumption | apply keeps_State_setStream | apply keeps_State_count) | dsimp only
    | (refine keeps_mk ?_ rfl rfl rfl rfl rfl rfl rfl rfl rfl rfl rfl rfl)

theorem keeps_State_holdSlot {s₀ : State} {s : State} (st : Nat) (k : Nat) (hK : Keeps s₀ s) : Keeps s₀ (State.holdSlot s st k) := by
  unfold State.holdSlot
  repeat' first
    | (with_reducible first | intro _ | assumption | apply keeps_State_setStream) | dsimp only
    | (refine keeps_mk ?_ rfl rfl rfl rfl rfl rfl rfl rfl rfl rfl rfl rfl)

theorem keeps_State_releaseSlot {s₀ : State} {s : State} (st : Nat) (k : Nat) (hK : Keeps s₀ s) : Keeps s₀ (State.releaseSlot s st k) := by
  unfold State.releaseSlot
  repeat' first
    | (with_reducible first | intro _ | assumption | apply keeps_ite | apply keeps_ite_fst | apply keeps_State_setStream) | dsimp only
    | split | (refine keeps_mk ?_ rfl rfl rfl rfl rfl rfl rfl rfl rfl rfl rfl rfl)

theorem keeps_State_pendHold {s₀ : State} {s : State} (st : Nat) (k : Nat) (hK : Keeps s₀ s) : Keeps s₀ (State.pendHold s st k) := by
  unfold State.pendHold
  repeat' first
    | (with_reducible first | intro _ | assumption | apply keeps_ite | apply keeps_ite_fst | apply keeps_State_holdSlot)
    | (with_reducible first | apply keeps_State_setStream) | dsimp only | split
    | (refine keeps_mk ?_ rfl rfl rfl rfl rfl rfl rfl rfl rfl rfl rfl rfl)

theorem keeps_State_pendRelease {s₀ : State} {s : State} (st : Nat) (k : Nat) (hK : Keeps s₀ s) : Keeps s₀ (State.pendRelease s st k) := by
  unfold State.pendRelease
  repeat' first
    | (with_reducible first | intro _ | assumption | apply keeps_ite | apply keeps_ite_fst | apply keeps_State_setStream)
    | (with_reducible first | apply keeps_State_releaseSlot) | dsimp only | split
    | (refine keeps_mk ?_ rfl rfl rfl rfl rfl rfl rfl rfl rfl rfl rfl rfl)

theorem keeps_State_setTask {s₀ : State} {s : State} (i : Nat) (t : Task) (hK : Keeps s₀ s) : Keeps s₀ (State.setTask s i t) := by
  unfold State.setTask
  repeat' first
    | (with_reducible first | intro _ | assumption) | dsimp only | (refine keeps_mk ?_ rfl rfl rfl rfl rfl rfl rfl rfl rfl rfl rfl rfl)

theorem keeps_State_modTask {s₀ : State} {s : State} (i : Nat) (f : Task → Task) (hK : Keeps s₀ s) : Keeps s₀ (State.modTask s i f) := by
  unfold State.modTask
  repeat' first
    | (with_reducible first | assumption | apply keeps_State_setTask) | dsimp only
    | (refine keeps_mk ?_ rfl rfl rfl rfl rfl rfl rfl rfl rfl rfl rfl rfl)

theorem keeps_State_allocTask {s₀ : State} {s : State} (t : Task) (hK : Keeps s₀ s) : Keeps s₀ (State.allocTask s t).1 := by
  unfold State.allocTask
  repeat' first
    | (with_reducible first | assumption | apply keeps_ite | apply keeps_ite_fst | apply keeps_State_setTask) | dsimp only
    | (refine keeps_of_eq (by assumption) ?_) | split | (refine keeps_mk ?_ rfl rfl rfl rfl rfl rfl rfl rfl rfl rfl rfl rfl)

theorem keeps_State_releaseTask {s₀ : State} {s : State} (i : Nat) (hK : Keeps s₀ s) : Keeps s₀ (State.releaseTask s i) := by
  unfold State.releaseTask
  repeat' first
    | (with_reducible first | assumption | apply keeps_ite | apply keeps_ite_fst | apply keeps_State_setTask) | dsimp only | split
    | (refine keeps_mk ?_ rfl rfl rfl rfl rfl rfl rfl rfl rfl rfl rfl rfl)

theorem keeps_State_crumb {s₀ : State} {s : State} (kind : Nat) (part : Nat) (level : Nat) (cls : Nat) (agent : Nat) (detail : Nat) (task : Word) (hK : Keeps s₀ s) : Keeps s₀ (State.crumb s kind part level cls agent detail task) := by
  unfold State.crumb
  repeat' first
    | (with_reducible first | assumption | apply keeps_ite | apply keeps_ite_fst | apply keeps_State_incReg)
    | (with_reducible first | apply keeps_State_count) | dsimp only | split
    | (refine keeps_mk ?_ rfl rfl rfl rfl rfl rfl rfl rfl rfl rfl rfl rfl)

theorem keeps_State_crumbTask {s₀ : State} {s : State} (kind : Nat) (i : Nat) (agent : Nat) (detail : Nat) (hK : Keeps s₀ s) : Keeps s₀ (State.crumbTask s kind i agent detail) := by
  unfold State.crumbTask
  repeat' first
    | (with_reducible first | assumption | apply keeps_State_crumb) | dsimp only
    | (refine keeps_mk ?_ rfl rfl rfl rfl rfl rfl rfl rfl rfl rfl rfl rfl)

theorem keeps_State_ispDrop {s₀ : State} {s : State} (i : Nat) (hK : Keeps s₀ s) : Keeps s₀ (State.ispDrop s i) := by
  unfold State.ispDrop
  repeat' first
    | (with_reducible first | assumption | apply keeps_ite | apply keeps_ite_fst | apply keeps_State_releaseSlot) | dsimp only
    | (refine keeps_of_eq (by assumption) ?_) | split | (refine keeps_mk ?_ rfl rfl rfl rfl rfl rfl rfl rfl rfl rfl rfl rfl)

theorem keeps_State_askList {s₀ : State} {s : State}  (n : List Nat) (cl : List Nat) (hK : Keeps s₀ s) : Keeps s₀ (State.askList s n cl) := by
  induction n generalizing s cl with
  | nil =>
    unfold State.askList
    repeat' first
      | (with_reducible first | intro _ | assumption | apply ih | apply keeps_State_modTask) | dsimp only
      | (refine keeps_of_eq (by assumption) ?_) | split | (refine keeps_mk ?_ rfl rfl rfl rfl rfl rfl rfl rfl rfl rfl rfl rfl)
  | cons x n ih =>
    unfold State.askList
    repeat' first
      | (with_reducible first | intro _ | assumption | apply ih | apply keeps_State_modTask) | dsimp only
      | (refine keeps_of_eq (by assumption) ?_) | split | (refine keeps_mk ?_ rfl rfl rfl rfl rfl rfl rfl rfl rfl rfl rfl rfl)

theorem keeps_State_askYields {s₀ : State} {s : State} (hK : Keeps s₀ s) : Keeps s₀ (State.askYields s) := by
  unfold State.askYields
  repeat' first
    | (with_reducible first | intro _ | assumption | apply keeps_State_askList) | dsimp only
    | (refine keeps_mk ?_ rfl rfl rfl rfl rfl rfl rfl rfl rfl rfl rfl rfl)

theorem keeps_State_setHcs {s₀ : State} {s : State} (n : Nat) (h : HcSched) (hK : Keeps s₀ s) : Keeps s₀ (State.setHcs s n h) := by
  unfold State.setHcs
  repeat' first
    | (with_reducible first | assumption) | dsimp only | (refine keeps_mk ?_ rfl rfl rfl rfl rfl rfl rfl rfl rfl rfl rfl rfl)

theorem keeps_State_checkPreempt {s₀ : State} {s : State} (n : Nat) (hK : Keeps s₀ s) : Keeps s₀ (State.checkPreempt s n) := by
  unfold State.checkPreempt
  repeat' first
    | (with_reducible first | assumption | apply keeps_ite | apply keeps_ite_fst | apply keeps_State_setHcs)
    | (with_reducible first | apply keeps_State_irqRaise) | dsimp only | (refine keeps_of_eq (by assumption) ?_) | split
    | (refine keeps_mk ?_ rfl rfl rfl rfl rfl rfl rfl rfl rfl rfl rfl rfl)

theorem keeps_State_checkPreempts {s₀ : State} {s : State} (hK : Keeps s₀ s) : Keeps s₀ (State.checkPreempts s) := by
  unfold State.checkPreempts
  repeat' first
    | (with_reducible first | intro _ | assumption | apply keeps_foldl | apply keeps_foldl_fst | apply keeps_State_checkPreempt)
    | dsimp only | (refine keeps_mk ?_ rfl rfl rfl rfl rfl rfl rfl rfl rfl rfl rfl rfl)

theorem keeps_State_makeReady {s₀ : State} {s : State} (i : Nat) (poster : Nat) (timedOut : Bool) (hK : Keeps s₀ s) : Keeps s₀ (State.makeReady s i poster timedOut) := by
  unfold State.makeReady
  repeat' first
    | (with_reducible first | intro _ | assumption | apply keeps_foldl | apply keeps_foldl_fst | apply keeps_State_modTask)
    | (with_reducible first | apply keeps_State_crumbTask | apply keeps_State_wakeDomain | apply keeps_State_domBusy)
    | (with_reducible first | apply keeps_State_askYields | apply keeps_State_checkPreempts) | dsimp only
    | (refine keeps_mk ?_ rfl rfl rfl rfl rfl rfl rfl rfl rfl rfl rfl rfl)

theorem keeps_State_judge {s₀ : State} {s : State} (i : Nat) (poster : Nat) (hK : Keeps s₀ s) : Keeps s₀ (State.judge s i poster) := by
  unfold State.judge
  repeat' first
    | (with_reducible first | assumption | apply keeps_ite | apply keeps_ite_fst | apply keeps_State_makeReady) | dsimp only | split
    | (refine keeps_mk ?_ rfl rfl rfl rfl rfl rfl rfl rfl rfl rfl rfl rfl)

theorem keeps_State_eventTask {s₀ : State} {s : State} (i : Nat) (flags : Word) (poster : Nat) (hK : Keeps s₀ s) : Keeps s₀ (State.eventTask s i flags poster) := by
  unfold State.eventTask
  repeat' first
    | (with_reducible first | intro _ | assumption | apply keeps_ite | apply keeps_ite_fst | apply keeps_State_modTask)
    | (with_reducible first | apply keeps_State_judge | apply keeps_State_bump) | dsimp only | split
    | (refine keeps_mk ?_ rfl rfl rfl rfl rfl rfl rfl rfl rfl rfl rfl rfl)

theorem keeps_State_eventGroup {s₀ : State} {s : State} (g : Nat) (flags : Word) (poster : Nat) (hK : Keeps s₀ s) : Keeps s₀ (State.eventGroup s g flags poster) := by
  unfold State.eventGroup
  repeat' first
    | (with_reducible first | intro _ | assumption | apply keeps_ite | apply keeps_foldl | apply keeps_ite_fst)
    | (with_reducible first | apply keeps_foldl_fst | apply keeps_State_groupNote | apply keeps_State_setReg)
    | (with_reducible first | apply keeps_State_modTask | apply keeps_State_makeReady | apply keeps_State_dmaEvent) | dsimp only | split
    | (refine keeps_mk ?_ rfl rfl rfl rfl rfl rfl rfl rfl rfl rfl rfl rfl)

theorem keeps_State_deliverEvent {s₀ : State} {s : State} (target : Word) (flags : Word) (agent : Nat) (part : Nat) (exempt : Bool) (hK : Keeps s₀ s) : Keeps s₀ (State.deliverEvent s target flags agent part exempt) := by
  unfold State.deliverEvent
  repeat' first
    | (with_reducible first | assumption | apply keeps_ite | apply keeps_ite_fst | apply keeps_State_bump)
    | (with_reducible first | apply keeps_State_eventGroup | apply keeps_State_report | apply keeps_State_notice)
    | (with_reducible first | apply keeps_State_eventTask) | dsimp only | (refine keeps_of_eq (by assumption) ?_) | split
    | (refine keeps_mk ?_ rfl rfl rfl rfl rfl rfl rfl rfl rfl rfl rfl rfl)

theorem keeps_State_enqueue {s₀ : State} {s : State} (q : QPost) (hK : Keeps s₀ s) : Keeps s₀ (State.enqueue s q) := by
  unfold State.enqueue
  repeat' first
    | (with_reducible first | assumption | apply keeps_State_bump) | dsimp only
    | (refine keeps_mk ?_ rfl rfl rfl rfl rfl rfl rfl rfl rfl rfl rfl rfl)

theorem keeps_State_hwPost {s₀ : State} {s : State} (q : QPost) (agent : Nat) (part : Nat) (level : Nat) (cls : Nat) (hK : Keeps s₀ s) : Keeps s₀ (State.hwPost s q agent part level cls) := by
  unfold State.hwPost
  repeat' first
    | (with_reducible first | assumption | apply keeps_ite | apply keeps_ite_fst | apply keeps_State_crumb)
    | (with_reducible first | apply keeps_State_enqueue) | dsimp only | split
    | (refine keeps_mk ?_ rfl rfl rfl rfl rfl rfl rfl rfl rfl rfl rfl rfl)

theorem keeps_State_enterWaiting {s₀ : State} {s : State} (i : Nat) (hK : Keeps s₀ s) : Keeps s₀ (State.enterWaiting s i) := by
  unfold State.enterWaiting
  repeat' first
    | (with_reducible first | intro _ | assumption | apply keeps_ite | apply keeps_ite_fst | apply keeps_State_modTask)
    | (with_reducible first | apply keeps_State_crumbTask) | dsimp only | split
    | (refine keeps_mk ?_ rfl rfl rfl rfl rfl rfl rfl rfl rfl rfl rfl rfl)

theorem keeps_State_takeTaskPost {s₀ : State} {s : State} (i : Nat) (gen : Nat) (hK : Keeps s₀ s) : Keeps s₀ (State.takeTaskPost s i gen) := by
  unfold State.takeTaskPost
  repeat' first
    | (with_reducible first | intro _ | assumption | apply keeps_ite | apply keeps_ite_fst | apply keeps_State_modTask)
    | (with_reducible first | apply keeps_State_crumbTask | apply keeps_State_makeReady | apply keeps_State_enterWaiting) | dsimp only
    | split | (refine keeps_mk ?_ rfl rfl rfl rfl rfl rfl rfl rfl rfl rfl rfl rfl)

theorem keeps_State_startOn {s₀ : State} {s : State} (i : Nat) (id : Nat) (hK : Keeps s₀ s) : Keeps s₀ (State.startOn s i id) := by
  unfold State.startOn
  repeat' first
    | (with_reducible first | intro _ | assumption | apply keeps_ite | apply keeps_ite_fst | apply keeps_State_modTask)
    | (with_reducible first | apply keeps_State_crumbTask | apply keeps_State_domBusy | apply keeps_State_askYields)
    | (with_reducible first | apply keeps_State_checkPreempts) | dsimp only | (refine keeps_of_eq (by assumption) ?_) | split
    | (refine keeps_mk ?_ rfl rfl rfl rfl rfl rfl rfl rfl rfl rfl rfl rfl)

theorem keeps_State_yieldTask {s₀ : State} {s : State} (i : Nat) (causeLevel : Nat) (hK : Keeps s₀ s) : Keeps s₀ (State.yieldTask s i causeLevel) := by
  unfold State.yieldTask
  repeat' first
    | (with_reducible first | intro _ | assumption | apply keeps_State_crumbTask | apply keeps_State_modTask)
    | (with_reducible first | apply keeps_State_bump | apply keeps_State_domBusy | apply keeps_State_creditRelease) | dsimp only
    | (refine keeps_mk ?_ rfl rfl rfl rfl rfl rfl rfl rfl rfl rfl rfl rfl)

theorem keeps_State_endTask {s₀ : State} {s : State} (i : Nat) (status : Nat) (hK : Keeps s₀ s) : Keeps s₀ (State.endTask s i status) := by
  unfold State.endTask
  repeat' first
    | (with_reducible first | intro _ | assumption | apply keeps_ite | apply keeps_foldl | apply keeps_ite_fst)
    | (with_reducible first | apply keeps_foldl_fst | apply keeps_State_domBusy | apply keeps_State_unpin)
    | (with_reducible first | apply keeps_State_ispDrop | apply keeps_State_creditRelease | apply keeps_State_modTask)
    | (with_reducible first | apply keeps_State_checkPreempts) | dsimp only | (refine keeps_of_eq (by assumption) ?_) | split
    | (refine keeps_mk ?_ rfl rfl rfl rfl rfl rfl rfl rfl rfl rfl rfl rfl)

theorem keeps_State_commitSoftware {s₀ : State} {s : State} (i : Nat) (status : Nat) (hK : Keeps s₀ s) : Keeps s₀ (State.commitSoftware s i status) := by
  unfold State.commitSoftware
  repeat' first
    | (with_reducible first | assumption | apply keeps_ite | apply keeps_ite_fst | apply keeps_State_endTask)
    | (with_reducible first | apply keeps_State_hwPost | apply keeps_State_releaseTask) | dsimp only | split
    | (refine keeps_mk ?_ rfl rfl rfl rfl rfl rfl rfl rfl rfl rfl rfl rfl)

theorem keeps_State_showTask {s₀ : State} {s : State} (n : Nat) (i : Nat) (hK : Keeps s₀ s) : Keeps s₀ (State.showTask s n i) := by
  unfold State.showTask
  repeat' first
    | (with_reducible first | intro _ | assumption | apply keeps_foldl | apply keeps_foldl_fst | apply keeps_State_setReg) | dsimp only
    | (refine keeps_mk ?_ rfl rfl rfl rfl rfl rfl rfl rfl rfl rfl rfl rfl)

theorem keeps_State_assignCore {s₀ : State} {s : State} (n : Nat) (i : Nat) (hK : Keeps s₀ s) : Keeps s₀ (State.assignCore s n i) := by
  unfold State.assignCore
  repeat' first
    | (with_reducible first | assumption | apply keeps_State_setHcs | apply keeps_State_startOn | apply keeps_State_showTask)
    | (with_reducible first | apply keeps_State_irqRaise) | dsimp only
    | (refine keeps_mk ?_ rfl rfl rfl rfl rfl rfl rfl rfl rfl rfl rfl rfl)

theorem keeps_State_offerCore {s₀ : State} {s : State} (n : Nat) (hK : Keeps s₀ s) : Keeps s₀ (State.offerCore s n) := by
  unfold State.offerCore
  repeat' first
    | (with_reducible first | assumption | apply keeps_ite | apply keeps_ite_fst | apply keeps_State_assignCore) | dsimp only
    | (refine keeps_of_eq (by assumption) ?_) | split | (refine keeps_mk ?_ rfl rfl rfl rfl rfl rfl rfl rfl rfl rfl rfl rfl)

theorem keeps_State_clearCore {s₀ : State} {s : State} (n : Nat) (hK : Keeps s₀ s) : Keeps s₀ (State.clearCore s n) := by
  unfold State.clearCore
  repeat' first
    | (with_reducible first | assumption | apply keeps_State_setReg | apply keeps_State_setHcs | apply keeps_State_irqDrop) | dsimp only
    | (refine keeps_mk ?_ rfl rfl rfl rfl rfl rfl rfl rfl rfl rfl rfl rfl)

theorem keeps_State_outWrite {s₀ : State} {s : State} (peer : Bool) (addr : Nat) (bs : List Byte) (hK : Keeps s₀ s) : Keeps s₀ (State.outWrite s peer addr bs) := by
  unfold State.outWrite
  repeat' first
    | (with_reducible first | assumption | apply keeps_State_bwCount) | dsimp only
    | (refine keeps_mk ?_ rfl rfl rfl rfl rfl rfl rfl rfl rfl rfl rfl rfl)

theorem keeps_State_newResult {s₀ : State} {s : State} (q : Nat) (w0 : Word) (tag : Word) (frame : Word) (w5 : Nat) (payBytes : Nat) (fsTime : Nat) (hK : Keeps s₀ s) : Keeps s₀ (State.newResult s q w0 tag frame w5 payBytes fsTime).1 := by
  unfold State.newResult
  repeat' first
    | (with_reducible first | assumption | apply keeps_ite | apply keeps_ite_fst | apply keeps_State_setReg) | dsimp only | split
    | (refine keeps_mk ?_ rfl rfl rfl rfl rfl rfl rfl rfl rfl rfl rfl rfl)

theorem keeps_State_writeResult {s₀ : State} {s : State} (e : WaitEmit) (hK : Keeps s₀ s) : Keeps s₀ (State.writeResult s e) := by
  unfold State.writeResult
  repeat' first
    | (with_reducible first | assumption | apply keeps_ite | apply keeps_ite_fst | apply keeps_State_outWrite)
    | (with_reducible first | apply keeps_State_count | apply keeps_State_vector) | dsimp only | (refine keeps_of_eq (by assumption) ?_)
    | (refine keeps_of_eq_snd (by assumption) ?_) | split | (refine keeps_mk ?_ rfl rfl rfl rfl rfl rfl rfl rfl rfl rfl rfl rfl)

theorem keeps_State_dropResult {s₀ : State} {s : State} (q : Nat) (hK : Keeps s₀ s) : Keeps s₀ (State.dropResult s q) := by
  unfold State.dropResult
  repeat' first
    | (with_reducible first | assumption | apply keeps_State_incReg | apply keeps_State_count) | dsimp only
    | (refine keeps_mk ?_ rfl rfl rfl rfl rfl rfl rfl rfl rfl rfl rfl rfl)

theorem keeps_State_memRead {s₀ : State} {s : State} (agent : Nat) (p : Nat) (r : Region) (off : Nat) (n : Nat) (hK : Keeps s₀ s) : Keeps s₀ (State.memRead s agent p r off n).1 := by
  unfold State.memRead
  repeat' first
    | (with_reducible first | assumption | apply keeps_ite | apply keeps_ite_fst | apply keeps_State_dramRead)
    | (with_reducible first | apply keeps_State_draw | apply keeps_State_bwCount | apply keeps_State_spmRead) | dsimp only
    | (refine keeps_of_eq (by assumption) ?_) | (refine keeps_of_eq_snd (by assumption) ?_) | split
    | (refine keeps_mk ?_ rfl rfl rfl rfl rfl rfl rfl rfl rfl rfl rfl rfl)

theorem keeps_State_memWrite {s₀ : State} {s : State} (agent : Nat) (p : Nat) (r : Region) (off : Nat) (bs : List Byte) (hK : Keeps s₀ s) : Keeps s₀ (State.memWrite s agent p r off bs).1 := by
  unfold State.memWrite
  repeat' first
    | (with_reducible first | assumption | apply keeps_ite | apply keeps_ite_fst | apply keeps_State_dramWrite)
    | (with_reducible first | apply keeps_State_outWrite | apply keeps_State_spmWrite) | dsimp only
    | (refine keeps_of_eq (by assumption) ?_) | split | (refine keeps_mk ?_ rfl rfl rfl rfl rfl rfl rfl rfl rfl rfl rfl rfl)

theorem keeps_State_rowRead {s₀ : State} {s : State} (agent : Nat) (p : Nat) (d : Desc) (r : Region) (outer : List Nat) (hK : Keeps s₀ s) : Keeps s₀ (State.rowRead s agent p d r outer).1 := by
  unfold State.rowRead
  repeat' first
    | (with_reducible first | assumption | apply keeps_ite | apply keeps_ite_fst | apply keeps_State_memRead) | dsimp only
    | (refine keeps_of_eq (by assumption) ?_) | split | (refine keeps_mk ?_ rfl rfl rfl rfl rfl rfl rfl rfl rfl rfl rfl rfl)

theorem keeps_State_tensorRead_go {s₀ : State} {s : State} (agent p : Nat) (d : Desc) (r : Region) (n : List (List Nat)) (st : Nat) (acc : List (List Byte)) (hK : Keeps s₀ s) : Keeps s₀ (State.tensorRead.go agent p d r s st acc n).1 := by
  induction n generalizing s st acc with
  | nil =>
    unfold State.tensorRead.go
    repeat' first
      | (with_reducible first | intro _ | assumption | apply ih | apply keeps_ite | apply keeps_foldl | apply keeps_ite_fst)
      | (with_reducible first | apply keeps_foldl_fst | apply keeps_State_rowRead) | dsimp only | (refine keeps_of_eq (by assumption) ?_)
      | (refine keeps_of_eq_snd (by assumption) ?_) | split | (refine keeps_mk ?_ rfl rfl rfl rfl rfl rfl rfl rfl rfl rfl rfl rfl)
  | cons x n ih =>
    unfold State.tensorRead.go
    repeat' first
      | (with_reducible first | intro _ | assumption | apply ih | apply keeps_ite | apply keeps_foldl | apply keeps_ite_fst)
      | (with_reducible first | apply keeps_foldl_fst | apply keeps_State_rowRead) | dsimp only | (refine keeps_of_eq (by assumption) ?_)
      | (refine keeps_of_eq_snd (by assumption) ?_) | split | (refine keeps_mk ?_ rfl rfl rfl rfl rfl rfl rfl rfl rfl rfl rfl rfl)

theorem keeps_State_tensorRead {s₀ : State} {s : State} (agent : Nat) (p : Nat) (d : Desc) (hK : Keeps s₀ s) : Keeps s₀ (State.tensorRead s agent p d).1 := by
  unfold State.tensorRead
  repeat' first
    | (with_reducible first | intro _ | assumption | apply keeps_State_tensorRead_go | apply keeps_State_rowRead) | dsimp only
    | (refine keeps_of_eq (by assumption) ?_) | (refine keeps_of_eq_snd (by assumption) ?_) | split
    | (refine keeps_mk ?_ rfl rfl rfl rfl rfl rfl rfl rfl rfl rfl rfl rfl)

theorem keeps_State_rowWrite {s₀ : State} {s : State} (agent : Nat) (p : Nat) (d : Desc) (r : Region) (outer : List Nat) (first : Nat) (bs : List Byte) (hK : Keeps s₀ s) : Keeps s₀ (State.rowWrite s agent p d r outer first bs).1 := by
  unfold State.rowWrite
  repeat' first
    | (with_reducible first | intro _ | assumption | apply keeps_ite | apply keeps_ite_fst | apply keeps_State_memWrite) | dsimp only
    | (refine keeps_of_eq (by assumption) ?_) | split | (refine keeps_mk ?_ rfl rfl rfl rfl rfl rfl rfl rfl rfl rfl rfl rfl)

theorem keeps_State_tensorWrite {s₀ : State} {s : State} (agent : Nat) (p : Nat) (d : Desc) (rows : List (List Nat × List Byte)) (hK : Keeps s₀ s) : Keeps s₀ (State.tensorWrite s agent p d rows).1 := by
  unfold State.tensorWrite
  repeat' first
    | (with_reducible first | intro _ | assumption | apply keeps_foldl | apply keeps_foldl_fst | apply keeps_State_rowWrite) | dsimp only
    | (refine keeps_of_eq (by assumption) ?_) | (refine keeps_of_eq_snd (by assumption) ?_) | split
    | (refine keeps_mk ?_ rfl rfl rfl rfl rfl rfl rfl rfl rfl rfl rfl rfl)

theorem keeps_State_memFree {s₀ : State} {s : State} (agent : Nat) (p : Nat) (r : Region) (off : Nat) (n : Nat) (q : Nat) (hK : Keeps s₀ s) : Keeps s₀ (State.memFree s agent p r off n q) := by
  unfold State.memFree
  repeat' first
    | (with_reducible first | intro _ | assumption | apply keeps_ite | apply keeps_foldl | apply keeps_ite_fst)
    | (with_reducible first | apply keeps_foldl_fst | apply keeps_State_dramPut | apply keeps_State_spmStore) | dsimp only
    | (refine keeps_of_eq (by assumption) ?_) | split | (refine keeps_mk ?_ rfl rfl rfl rfl rfl rfl rfl rfl rfl rfl rfl rfl)

end Sys2Proof.Machine
end

