-- ==== Sys2Proof/Laws/KeepsEngine.lean ====
section
/-! SUPPORT. One lemma per operation: what it keeps (Laws/Keeps.lean). Here: graph bookkeeping, the work of the pipelines, the ISP and the neural cores, stops and commits. -/

namespace Sys2Proof.Machine

theorem keeps_State_modGraph {s₀ : State} {s : State} (g : Nat) (f : Graph → Graph) (hK : Keeps s₀ s) : Keeps s₀ (State.modGraph s g f) := by
  unfold State.modGraph
  repeat' first
    | (with_reducible first | intro _ | assumption | apply keeps_ite | apply keeps_ite_fst) | dsimp only | split
    | (refine keeps_mk ?_ rfl rfl rfl rfl rfl rfl rfl rfl rfl rfl rfl rfl)

theorem keeps_State_modJob {s₀ : State} {s : State} (j : Nat) (f : Job → Job) (hK : Keeps s₀ s) : Keeps s₀ (State.modJob s j f) := by
  unfold State.modJob
  repeat' first
    | (with_reducible first | intro _ | assumption | apply keeps_ite | apply keeps_ite_fst) | dsimp only | split
    | (refine keeps_mk ?_ rfl rfl rfl rfl rfl rfl rfl rfl rfl rfl rfl rfl)

theorem keeps_State_modNode {s₀ : State} {s : State} (j : Nat) (n : Nat) (f : NodeSt → NodeSt) (hK : Keeps s₀ s) : Keeps s₀ (State.modNode s j n f) := by
  unfold State.modNode
  repeat' first
    | (with_reducible first | intro _ | assumption | apply keeps_State_modJob) | dsimp only
    | (refine keeps_mk ?_ rfl rfl rfl rfl rfl rfl rfl rfl rfl rfl rfl rfl)

theorem keeps_State_fgsCqIrq {s₀ : State} {s : State} (p : Nat) (hK : Keeps s₀ s) : Keeps s₀ (State.fgsCqIrq s p) := by
  unfold State.fgsCqIrq
  repeat' first
    | (with_reducible first | assumption | apply keeps_State_irqSet) | dsimp only
    | (refine keeps_mk ?_ rfl rfl rfl rfl rfl rfl rfl rfl rfl rfl rfl rfl)

theorem keeps_State_fgsCqWrite {s₀ : State} {s : State} (p : Nat) (ws : List Word) (hK : Keeps s₀ s) : Keeps s₀ (State.fgsCqWrite s p ws).1 := by
  unfold State.fgsCqWrite
  repeat' first
    | (with_reducible first | assumption | apply keeps_ite | apply keeps_ite_fst | apply keeps_State_dramWrite)
    | (with_reducible first | apply keeps_State_setReg | apply keeps_State_fgsCqIrq | apply keeps_State_setFlag) | dsimp only
    | (refine keeps_of_eq (by assumption) ?_) | (refine keeps_of_eq_snd (by assumption) ?_) | split
    | (refine keeps_mk ?_ rfl rfl rfl rfl rfl rfl rfl rfl rfl rfl rfl rfl)

theorem keeps_State_freeJob {s₀ : State} {s : State} (j : Nat) (hK : Keeps s₀ s) : Keeps s₀ (State.freeJob s j) := by
  unfold State.freeJob
  repeat' first
    | (with_reducible first | intro _ | assumption | apply keeps_foldl | apply keeps_foldl_fst | apply keeps_State_releaseTask)
    | dsimp only | (refine keeps_of_eq (by assumption) ?_) | split | (refine keeps_mk ?_ rfl rfl rfl rfl rfl rfl rfl rfl rfl rfl rfl rfl)

theorem keeps_State_setCqWaiting {s₀ : State} {s : State} (p : Nat) (l : List WaitRec) (hK : Keeps s₀ s) : Keeps s₀ (State.setCqWaiting s p l) := by
  unfold State.setCqWaiting
  repeat' first
    | (with_reducible first | assumption) | dsimp only | (refine keeps_mk ?_ rfl rfl rfl rfl rfl rfl rfl rfl rfl rfl rfl rfl)

theorem keeps_State_cqPush {s₀ : State} {s : State} (p : Nat) (r : WaitRec) (hK : Keeps s₀ s) : Keeps s₀ (State.cqPush s p r) := by
  unfold State.cqPush
  repeat' first
    | (with_reducible first | assumption | apply keeps_ite | apply keeps_ite_fst | apply keeps_State_setFlag)
    | (with_reducible first | apply keeps_State_setCqWaiting | apply keeps_State_fgsCqWrite | apply keeps_State_freeJob) | dsimp only
    | (refine keeps_of_eq (by assumption) ?_) | (refine keeps_of_eq_snd (by assumption) ?_) | split
    | (refine keeps_mk ?_ rfl rfl rfl rfl rfl rfl rfl rfl rfl rfl rfl rfl)

theorem keeps_State_cqRetry {s₀ : State} {s : State} (p : Nat) (n : Nat)  (hK : Keeps s₀ s) : Keeps s₀ (State.cqRetry s p n) := by
  induction n generalizing s  with
  | zero =>
    unfold State.cqRetry
    repeat' first
      | (with_reducible first | intro _ | assumption | apply ih | apply keeps_ite | apply keeps_ite_fst)
      | (with_reducible first | apply keeps_State_fgsCqWrite | apply keeps_State_setCqWaiting | apply keeps_State_freeJob) | dsimp only
      | (refine keeps_of_eq (by assumption) ?_) | (refine keeps_of_eq_snd (by assumption) ?_) | split
      | (refine keeps_mk ?_ rfl rfl rfl rfl rfl rfl rfl rfl rfl rfl rfl rfl)
  | succ n ih =>
    unfold State.cqRetry
    repeat' first
      | (with_reducible first | intro _ | assumption | apply ih | apply keeps_ite | apply keeps_ite_fst)
      | (with_reducible first | apply keeps_State_fgsCqWrite | apply keeps_State_setCqWaiting | apply keeps_State_freeJob) | dsimp only
      | (refine keeps_of_eq (by assumption) ?_) | (refine keeps_of_eq_snd (by assumption) ?_) | split
      | (refine keeps_mk ?_ rfl rfl rfl rfl rfl rfl rfl rfl rfl rfl rfl rfl)

theorem keeps_State_dropPend {s₀ : State} {s : State} (t : Trigger) (hK : Keeps s₀ s) : Keeps s₀ (State.dropPend s t) := by
  unfold State.dropPend
  repeat' first
    | (with_reducible first | assumption | apply keeps_ite | apply keeps_ite_fst | apply keeps_State_pendRelease) | dsimp only
    | (refine keeps_of_eq (by assumption) ?_) | split | (refine keeps_mk ?_ rfl rfl rfl rfl rfl rfl rfl rfl rfl rfl rfl rfl)

theorem keeps_State_fireTrigger {s₀ : State} {s : State} (gid : Nat) (t : Trigger) (hK : Keeps s₀ s) : Keeps s₀ (State.fireTrigger s gid t) := by
  unfold State.fireTrigger
  repeat' first
    | (with_reducible first | intro _ | assumption | apply keeps_ite | apply keeps_ite_fst | apply keeps_State_bump)
    | (with_reducible first | apply keeps_State_pendHold | apply keeps_State_modGraph | apply keeps_State_dropPend) | dsimp only
    | (refine keeps_of_eq (by assumption) ?_) | split | (refine keeps_mk ?_ rfl rfl rfl rfl rfl rfl rfl rfl rfl rfl rfl rfl)

theorem keeps_State_fireWhere {s₀ : State} {s : State} (kind : Nat) (sel : Graph → Bool) (t : Graph → Trigger) (hK : Keeps s₀ s) : Keeps s₀ (State.fireWhere s kind sel t) := by
  unfold State.fireWhere
  repeat' first
    | (with_reducible first | intro _ | assumption | apply keeps_foldl | apply keeps_foldl_fst | apply keeps_State_fireTrigger)
    | dsimp only | (refine keeps_mk ?_ rfl rfl rfl rfl rfl rfl rfl rfl rfl rfl rfl rfl)

theorem keeps_State_fgsTimer {s₀ : State} {s : State} (n : Nat) (hK : Keeps s₀ s) : Keeps s₀ (State.fgsTimer s n) := by
  unfold State.fgsTimer
  repeat' first
    | (with_reducible first | intro _ | assumption | apply keeps_State_fireWhere) | dsimp only
    | (refine keeps_mk ?_ rfl rfl rfl rfl rfl rfl rfl rfl rfl rfl rfl rfl)

theorem keeps_State_fgsGpio {s₀ : State} {s : State} (n : Nat) (rising : Bool) (hK : Keeps s₀ s) : Keeps s₀ (State.fgsGpio s n rising) := by
  unfold State.fgsGpio
  repeat' first
    | (with_reducible first | intro _ | assumption | apply keeps_ite | apply keeps_ite_fst | apply keeps_State_fireWhere) | dsimp only
    | split | (refine keeps_mk ?_ rfl rfl rfl rfl rfl rfl rfl rfl rfl rfl rfl rfl)

theorem keeps_State_fgsFrame {s₀ : State} {s : State} (kind : Nat) (st : Nat) (k : Nat) (hK : Keeps s₀ s) : Keeps s₀ (State.fgsFrame s kind st k) := by
  unfold State.fgsFrame
  repeat' first
    | (with_reducible first | intro _ | assumption | apply keeps_State_fireWhere) | dsimp only
    | (refine keeps_mk ?_ rfl rfl rfl rfl rfl rfl rfl rfl rfl rfl rfl rfl)

theorem keeps_State_wdReport {s₀ : State} {s : State} (g : Graph) (n : Nat) (early : Bool) (hK : Keeps s₀ s) : Keeps s₀ (State.wdReport s g n early) := by
  unfold State.wdReport
  repeat' first
    | (with_reducible first | assumption | apply keeps_ite | apply keeps_ite_fst | apply keeps_State_bump) | dsimp only | split
    | (refine keeps_mk ?_ rfl rfl rfl rfl rfl rfl rfl rfl rfl rfl rfl rfl)

theorem keeps_State_raiseLate {s₀ : State} {s : State} (g : Graph) (jid : Nat) (n : Nat) (hK : Keeps s₀ s) : Keeps s₀ (State.raiseLate s g jid n) := by
  unfold State.raiseLate
  repeat' first
    | (with_reducible first | intro _ | assumption | apply keeps_ite | apply keeps_ite_fst | apply keeps_State_modNode)
    | (with_reducible first | apply keeps_State_wdReport) | dsimp only | (refine keeps_of_eq (by assumption) ?_) | split
    | (refine keeps_mk ?_ rfl rfl rfl rfl rfl rfl rfl rfl rfl rfl rfl rfl)

theorem keeps_State_tasterVerdict {s₀ : State} {s : State} (policy : Nat) (v : Bool) (hK : Keeps s₀ s) : Keeps s₀ (State.tasterVerdict s policy v) := by
  unfold State.tasterVerdict
  repeat' first
    | (with_reducible first | assumption | apply keeps_ite | apply keeps_ite_fst) | dsimp only | split
    | (refine keeps_mk ?_ rfl rfl rfl rfl rfl rfl rfl rfl rfl rfl rfl rfl)

theorem keeps_State_tasterOutcome {s₀ : State} {s : State} (nd : NodeDesc) (status : Nat) (detail : Nat) (ran : Bool) (skipped : Bool) (byTaster : Bool) (hK : Keeps s₀ s) : Keeps s₀ (State.tasterOutcome s nd status detail ran skipped byTaster) := by
  unfold State.tasterOutcome
  repeat' first
    | (with_reducible first | assumption | apply keeps_ite | apply keeps_ite_fst | apply keeps_State_tasterVerdict) | dsimp only | split
    | (refine keeps_mk ?_ rfl rfl rfl rfl rfl rfl rfl rfl rfl rfl rfl rfl)

theorem keeps_State_postProofs {s₀ : State} {s : State} (hK : Keeps s₀ s) : Keeps s₀ (State.postProofs s) := by
  unfold State.postProofs
  repeat' first
    | (with_reducible first | intro _ | assumption | apply keeps_ite | apply keeps_foldl | apply keeps_ite_fst)
    | (with_reducible first | apply keeps_foldl_fst | apply keeps_State_allocTask | apply keeps_State_hwPost) | dsimp only
    | (refine keeps_of_eq (by assumption) ?_) | split | (refine keeps_mk ?_ rfl rfl rfl rfl rfl rfl rfl rfl rfl rfl rfl rfl)

theorem keeps_State_proofRetired {s₀ : State} {s : State} (g : Nat) (status : Nat) (marks : Nat) (hK : Keeps s₀ s) : Keeps s₀ (State.proofRetired s g status marks) := by
  unfold State.proofRetired
  repeat' first
    | (with_reducible first | intro _ | assumption | apply keeps_ite | apply keeps_ite_fst | apply keeps_State_setFld)
    | (with_reducible first | apply keeps_State_proofOutcome | apply keeps_State_postProofs) | dsimp only
    | (refine keeps_of_eq (by assumption) ?_) | split | (refine keeps_mk ?_ rfl rfl rfl rfl rfl rfl rfl rfl rfl rfl rfl rfl)

theorem keeps_State_nodeFlags {s₀ : State} {s : State} (j : Job) (n : Nat) (f : Word) (hK : Keeps s₀ s) : Keeps s₀ (State.nodeFlags s j n f) := by
  unfold State.nodeFlags
  repeat' first
    | (with_reducible first | assumption | apply keeps_State_eventTask) | dsimp only | (refine keeps_of_eq (by assumption) ?_) | split
    | (refine keeps_mk ?_ rfl rfl rfl rfl rfl rfl rfl rfl rfl rfl rfl rfl)

theorem keeps_State_modRing {s₀ : State} {s : State} (g : Nat) (r : Nat) (f : SlotRing → SlotRing) (hK : Keeps s₀ s) : Keeps s₀ (State.modRing s g r f) := by
  unfold State.modRing
  repeat' first
    | (with_reducible first | intro _ | assumption | apply keeps_ite | apply keeps_ite_fst) | dsimp only | split
    | (refine keeps_mk ?_ rfl rfl rfl rfl rfl rfl rfl rfl rfl rfl rfl rfl)

theorem keeps_State_ringOpen {s₀ : State} {s : State} (g : Nat) (r : Nat) (hK : Keeps s₀ s) : Keeps s₀ (State.ringOpen s g r) := by
  unfold State.ringOpen
  repeat' first
    | (with_reducible first | intro _ | assumption | apply keeps_ite | apply keeps_ite_fst | apply keeps_State_draw)
    | (with_reducible first | apply keeps_State_spmPut | apply keeps_State_modRing) | dsimp only
    | (refine keeps_of_eq (by assumption) ?_) | (refine keeps_of_eq_snd (by assumption) ?_) | split
    | (refine keeps_mk ?_ rfl rfl rfl rfl rfl rfl rfl rfl rfl rfl rfl rfl)

theorem keeps_State_ringsOpen {s₀ : State} {s : State} (i : Nat) (hK : Keeps s₀ s) : Keeps s₀ (State.ringsOpen s i) := by
  unfold State.ringsOpen
  repeat' first
    | (with_reducible first | intro _ | assumption | apply keeps_foldl | apply keeps_foldl_fst | apply keeps_State_ringOpen) | dsimp only
    | (refine keeps_of_eq (by assumption) ?_) | split | (refine keeps_mk ?_ rfl rfl rfl rfl rfl rfl rfl rfl rfl rfl rfl rfl)

theorem keeps_State_ringsAtDispatch {s₀ : State} {s : State} (i : Nat) (hK : Keeps s₀ s) : Keeps s₀ (State.ringsAtDispatch s i) := by
  unfold State.ringsAtDispatch
  repeat' first
    | (with_reducible first | intro _ | assumption | apply keeps_ite | apply keeps_foldl | apply keeps_ite_fst)
    | (with_reducible first | apply keeps_foldl_fst | apply keeps_State_ringsOpen | apply keeps_State_nodeFlags) | dsimp only
    | (refine keeps_of_eq (by assumption) ?_) | split | (refine keeps_mk ?_ rfl rfl rfl rfl rfl rfl rfl rfl rfl rfl rfl rfl)

theorem keeps_State_ringsQuiet {s₀ : State} {s : State} (g : Graph) (jid : Nat) (n : Nat) (hK : Keeps s₀ s) : Keeps s₀ (State.ringsQuiet s g jid n) := by
  unfold State.ringsQuiet
  repeat' first
    | (with_reducible first | intro _ | assumption | apply keeps_ite | apply keeps_foldl | apply keeps_ite_fst)
    | (with_reducible first | apply keeps_foldl_fst | apply keeps_State_modRing) | dsimp only | split
    | (refine keeps_mk ?_ rfl rfl rfl rfl rfl rfl rfl rfl rfl rfl rfl rfl)

theorem keeps_State_ringsLeft {s₀ : State} {s : State} (i : Nat) (hK : Keeps s₀ s) : Keeps s₀ (State.ringsLeft s i) := by
  unfold State.ringsLeft
  repeat' first
    | (with_reducible first | intro _ | assumption | apply keeps_State_ringsQuiet) | dsimp only | (refine keeps_of_eq (by assumption) ?_)
    | split | (refine keeps_mk ?_ rfl rfl rfl rfl rfl rfl rfl rfl rfl rfl rfl rfl)

theorem keeps_State_dropIds {s₀ : State} {s : State} (i : Nat) (hK : Keeps s₀ s) : Keeps s₀ (State.dropIds s i) := by
  unfold State.dropIds
  repeat' first
    | (with_reducible first | assumption | apply keeps_ite | apply keeps_ite_fst | apply keeps_State_draw)
    | (with_reducible first | apply keeps_State_setReg) | dsimp only | (refine keeps_of_eq (by assumption) ?_)
    | (refine keeps_of_eq_snd (by assumption) ?_) | split | (refine keeps_mk ?_ rfl rfl rfl rfl rfl rfl rfl rfl rfl rfl rfl rfl)

theorem keeps_State_stopEngine {s₀ : State} {s : State} (i : Nat) (hK : Keeps s₀ s) : Keeps s₀ (State.stopEngine s i) := by
  unfold State.stopEngine
  repeat' first
    | (with_reducible first | intro _ | assumption | apply keeps_State_chEnd | apply keeps_State_dmaCredits) | dsimp only
    | (refine keeps_of_eq (by assumption) ?_) | split | (refine keeps_mk ?_ rfl rfl rfl rfl rfl rfl rfl rfl rfl rfl rfl rfl)

theorem keeps_State_readAgain {s₀ : State} {s : State} (w : Who) (a k : Nat) (n : Nat)  (hK : Keeps s₀ s) : Keeps s₀ (State.readAgain s w a k n).1 := by
  induction n generalizing s  with
  | zero =>
    unfold State.readAgain
    repeat' first
      | (with_reducible first | intro _ | assumption | apply ih | apply keeps_ite | apply keeps_ite_fst | apply keeps_State_dramRead)
      | dsimp only | (refine keeps_of_eq (by assumption) ?_) | (refine keeps_of_eq_snd (by assumption) ?_) | split
      | (refine keeps_mk ?_ rfl rfl rfl rfl rfl rfl rfl rfl rfl rfl rfl rfl)
  | succ n ih =>
    unfold State.readAgain
    repeat' first
      | (with_reducible first | intro _ | assumption | apply ih | apply keeps_ite | apply keeps_ite_fst | apply keeps_State_dramRead)
      | dsimp only | (refine keeps_of_eq (by assumption) ?_) | (refine keeps_of_eq_snd (by assumption) ?_) | split
      | (refine keeps_mk ?_ rfl rfl rfl rfl rfl rfl rfl rfl rfl rfl rfl rfl)

theorem keeps_State_readParams {s₀ : State} {s : State} (id : Nat) (i : Nat) (n : Nat) (hK : Keeps s₀ s) : Keeps s₀ (State.readParams s id i n).1 := by
  unfold State.readParams
  repeat' first
    | (with_reducible first | assumption | apply keeps_ite | apply keeps_ite_fst | apply keeps_State_readAgain) | dsimp only
    | (refine keeps_of_eq (by assumption) ?_) | (refine keeps_of_eq_snd (by assumption) ?_) | split
    | (refine keeps_mk ?_ rfl rfl rfl rfl rfl rfl rfl rfl rfl rfl rfl rfl)

theorem keeps_State_startTask {s₀ : State} {s : State} (i : Nat) (ps : List Word) (hs : List Nat) (outs : List Nat) (total : Nat) (hK : Keeps s₀ s) : Keeps s₀ (State.startTask s i ps hs outs total) := by
  unfold State.startTask
  repeat' first
    | (with_reducible first | intro _ | assumption | apply keeps_foldl | apply keeps_foldl_fst | apply keeps_State_modTask)
    | (with_reducible first | apply keeps_State_pin) | dsimp only | (refine keeps_mk ?_ rfl rfl rfl rfl rfl rfl rfl rfl rfl rfl rfl rfl)

theorem keeps_State_readTensors_go {s₀ : State} {s : State} (id i : Nat) (n : List Nat) (st : Nat) (acc : List (List (List Byte))) (hK : Keeps s₀ s) : Keeps s₀ (State.readTensors.go id i s st acc n).1 := by
  induction n generalizing s st acc with
  | nil =>
    unfold State.readTensors.go
    repeat' first
      | (with_reducible first | intro _ | assumption | apply ih | apply keeps_ite | apply keeps_foldl | apply keeps_ite_fst)
      | (with_reducible first | apply keeps_foldl_fst | apply keeps_State_modTask | apply keeps_State_readTensors)
      | (with_reducible first | apply keeps_State_tensorRead) | dsimp only | (refine keeps_of_eq (by assumption) ?_)
      | (refine keeps_of_eq_snd (by assumption) ?_) | split | (refine keeps_mk ?_ rfl rfl rfl rfl rfl rfl rfl rfl rfl rfl rfl rfl)
  | cons x n ih =>
    unfold State.readTensors.go
    repeat' first
      | (with_reducible first | intro _ | assumption | apply ih | apply keeps_ite | apply keeps_foldl | apply keeps_ite_fst)
      | (with_reducible first | apply keeps_foldl_fst | apply keeps_State_modTask | apply keeps_State_readTensors)
      | (with_reducible first | apply keeps_State_tensorRead) | dsimp only | (refine keeps_of_eq (by assumption) ?_)
      | (refine keeps_of_eq_snd (by assumption) ?_) | split | (refine keeps_mk ?_ rfl rfl rfl rfl rfl rfl rfl rfl rfl rfl rfl rfl)

theorem keeps_State_readTensors {s₀ : State} {s : State} (id i : Nat) (hs : List Nat) (n : Nat)  (hK : Keeps s₀ s) : Keeps s₀ (State.readTensors s id i hs n).1 := by
  induction n generalizing s  with
  | zero =>
    unfold State.readTensors
    repeat' first
      | (with_reducible first | intro _ | assumption | apply ih | apply keeps_State_readTensors_go | apply keeps_ite)
      | (with_reducible first | apply keeps_ite_fst | apply keeps_State_modTask | apply keeps_State_tensorRead) | dsimp only
      | (refine keeps_of_eq (by assumption) ?_) | (refine keeps_of_eq_snd (by assumption) ?_) | split
      | (refine keeps_mk ?_ rfl rfl rfl rfl rfl rfl rfl rfl rfl rfl rfl rfl)
  | succ n ih =>
    unfold State.readTensors
    repeat' first
      | (with_reducible first | intro _ | assumption | apply ih | apply keeps_State_readTensors_go | apply keeps_ite)
      | (with_reducible first | apply keeps_ite_fst | apply keeps_State_modTask | apply keeps_State_tensorRead) | dsimp only
      | (refine keeps_of_eq (by assumption) ?_) | (refine keeps_of_eq_snd (by assumption) ?_) | split
      | (refine keeps_mk ?_ rfl rfl rfl rfl rfl rfl rfl rfl rfl rfl rfl rfl)

theorem keeps_State_engCount {s₀ : State} {s : State} (o : EngOut) (n : Nat) (q : Nat) (hK : Keeps s₀ s) : Keeps s₀ (State.engCount s o n q) := by
  unfold State.engCount
  repeat' first
    | (with_reducible first | intro _ | assumption | apply keeps_ite | apply keeps_foldl | apply keeps_ite_fst)
    | (with_reducible first | apply keeps_foldl_fst | apply keeps_State_bumpN) | dsimp only | split
    | (refine keeps_mk ?_ rfl rfl rfl rfl rfl rfl rfl rfl rfl rfl rfl rfl)

theorem keeps_State_pieceWrite {s₀ : State} {s : State} (id : Nat) (p : Nat) (o : EngOut) (free : List (Nat × Nat)) (e : OutPiece × Nat) (hK : Keeps s₀ s) : Keeps s₀ (State.pieceWrite s id p o free e).1 := by
  unfold State.pieceWrite
  repeat' first
    | (with_reducible first | intro _ | assumption | apply keeps_State_rowWrite) | dsimp only | (refine keeps_of_eq (by assumption) ?_)
    | split | (refine keeps_mk ?_ rfl rfl rfl rfl rfl rfl rfl rfl rfl rfl rfl rfl)

theorem keeps_State_freeOuts {s₀ : State} {s : State} (i : Nat) (o : EngOut) (hK : Keeps s₀ s) : Keeps s₀ (State.freeOuts s i o).1 := by
  unfold State.freeOuts
  repeat' first
    | (with_reducible first | intro _ | assumption | apply keeps_ite | apply keeps_foldl | apply keeps_ite_fst)
    | (with_reducible first | apply keeps_foldl_fst | apply keeps_State_draw) | dsimp only | (refine keeps_of_eq (by assumption) ?_)
    | (refine keeps_of_eq_snd (by assumption) ?_) | split | (refine keeps_mk ?_ rfl rfl rfl rfl rfl rfl rfl rfl rfl rfl rfl rfl)

theorem keeps_State_writePieces {s₀ : State} {s : State} (id : Nat) (i : Nat) (o : EngOut) (n : Nat) (hK : Keeps s₀ s) : Keeps s₀ (State.writePieces s id i o n).1 := by
  unfold State.writePieces
  repeat' first
    | (with_reducible first | intro _ | assumption | apply keeps_ite | apply keeps_foldl | apply keeps_ite_fst)
    | (with_reducible first | apply keeps_foldl_fst | apply keeps_State_freeOuts | apply keeps_State_pieceWrite) | dsimp only
    | (refine keeps_of_eq (by assumption) ?_) | (refine keeps_of_eq_snd (by assumption) ?_) | split
    | (refine keeps_mk ?_ rfl rfl rfl rfl rfl rfl rfl rfl rfl rfl rfl rfl)

theorem keeps_State_freePieces {s₀ : State} {s : State} (id : Nat) (i : Nat) (o : EngOut) (n : Nat) (hK : Keeps s₀ s) : Keeps s₀ (State.freePieces s id i o n) := by
  unfold State.freePieces
  repeat' first
    | (with_reducible first | intro _ | assumption | apply keeps_foldl | apply keeps_foldl_fst | apply keeps_State_draw)
    | (with_reducible first | apply keeps_State_memFree) | dsimp only | (refine keeps_of_eq (by assumption) ?_)
    | (refine keeps_of_eq_snd (by assumption) ?_) | split | (refine keeps_mk ?_ rfl rfl rfl rfl rfl rfl rfl rfl rfl rfl rfl rfl)

theorem keeps_State_spoil {s₀ : State} {s : State} (i : Nat) (hK : Keeps s₀ s) : Keeps s₀ (State.spoil s i) := by
  unfold State.spoil
  repeat' first
    | (with_reducible first | intro _ | assumption | apply keeps_foldl | apply keeps_foldl_fst | apply keeps_State_draw)
    | (with_reducible first | apply keeps_State_memFree) | dsimp only | (refine keeps_of_eq (by assumption) ?_)
    | (refine keeps_of_eq_snd (by assumption) ?_) | split | (refine keeps_mk ?_ rfl rfl rfl rfl rfl rfl rfl rfl rfl rfl rfl rfl)

theorem keeps_State_freeArea {s₀ : State} {s : State} (id : Nat) (p : Nat) (a : Nat × Nat) (hK : Keeps s₀ s) : Keeps s₀ (State.freeArea s id p a) := by
  unfold State.freeArea
  repeat' first
    | (with_reducible first | assumption | apply keeps_ite | apply keeps_ite_fst | apply keeps_State_draw)
    | (with_reducible first | apply keeps_State_memFree) | dsimp only | (refine keeps_of_eq (by assumption) ?_)
    | (refine keeps_of_eq_snd (by assumption) ?_) | split | (refine keeps_mk ?_ rfl rfl rfl rfl rfl rfl rfl rfl rfl rfl rfl rfl)

theorem keeps_State_pgeStart {s₀ : State} {s : State} (id : Nat) (i : Nat) (hK : Keeps s₀ s) : Keeps s₀ (State.pgeStart s id i).1 := by
  unfold State.pgeStart
  repeat' first
    | (with_reducible first | assumption | apply keeps_ite | apply keeps_ite_fst | apply keeps_State_readParams)
    | (with_reducible first | apply keeps_State_startTask) | dsimp only | (refine keeps_of_eq (by assumption) ?_)
    | (refine keeps_of_eq_snd (by assumption) ?_) | split | (refine keeps_mk ?_ rfl rfl rfl rfl rfl rfl rfl rfl rfl rfl rfl rfl)

theorem keeps_State_pgeRun {s₀ : State} {s : State} (id : Nat) (i : Nat) (b : Nat) (hK : Keeps s₀ s) : Keeps s₀ (State.pgeRun s id i b).1 := by
  unfold State.pgeRun
  repeat' first
    | (with_reducible first | assumption | apply keeps_ite | apply keeps_ite_fst | apply keeps_State_readTensors) | dsimp only
    | (refine keeps_of_eq (by assumption) ?_) | (refine keeps_of_eq_snd (by assumption) ?_) | split
    | (refine keeps_mk ?_ rfl rfl rfl rfl rfl rfl rfl rfl rfl rfl rfl rfl)

theorem keeps_State_wpeStart {s₀ : State} {s : State} (id : Nat) (i : Nat) (hK : Keeps s₀ s) : Keeps s₀ (State.wpeStart s id i).1 := by
  unfold State.wpeStart
  repeat' first
    | (with_reducible first | assumption | apply keeps_ite | apply keeps_ite_fst | apply keeps_State_readParams)
    | (with_reducible first | apply keeps_State_startTask) | dsimp only | (refine keeps_of_eq (by assumption) ?_)
    | (refine keeps_of_eq_snd (by assumption) ?_) | split | (refine keeps_mk ?_ rfl rfl rfl rfl rfl rfl rfl rfl rfl rfl rfl rfl)

theorem keeps_State_wpeRun {s₀ : State} {s : State} (id : Nat) (i : Nat) (b : Nat) (hK : Keeps s₀ s) : Keeps s₀ (State.wpeRun s id i b).1 := by
  unfold State.wpeRun
  repeat' first
    | (with_reducible first | assumption | apply keeps_ite | apply keeps_ite_fst | apply keeps_State_readTensors) | dsimp only
    | (refine keeps_of_eq (by assumption) ?_) | (refine keeps_of_eq_snd (by assumption) ?_) | split
    | (refine keeps_mk ?_ rfl rfl rfl rfl rfl rfl rfl rfl rfl rfl rfl rfl)

theorem keeps_State_ofeTemporal {s₀ : State} {s : State} (id : Nat) (i : Nat) (w : List Word) (hK : Keeps s₀ s) : Keeps s₀ (State.ofeTemporal s id i w).1 := by
  unfold State.ofeTemporal
  repeat' first
    | (with_reducible first | intro _ | assumption | apply keeps_ite | apply keeps_ite_fst | apply keeps_State_readAgain) | dsimp only
    | (refine keeps_of_eq (by assumption) ?_) | (refine keeps_of_eq_snd (by assumption) ?_) | split
    | (refine keeps_mk ?_ rfl rfl rfl rfl rfl rfl rfl rfl rfl rfl rfl rfl)

theorem keeps_State_ofeStart {s₀ : State} {s : State} (id : Nat) (i : Nat) (hK : Keeps s₀ s) : Keeps s₀ (State.ofeStart s id i).1 := by
  unfold State.ofeStart
  repeat' first
    | (with_reducible first | assumption | apply keeps_ite | apply keeps_ite_fst | apply keeps_State_readParams)
    | (with_reducible first | apply keeps_State_ofeTemporal | apply keeps_State_bump | apply keeps_State_startTask) | dsimp only
    | (refine keeps_of_eq (by assumption) ?_) | (refine keeps_of_eq_snd (by assumption) ?_) | split
    | (refine keeps_mk ?_ rfl rfl rfl rfl rfl rfl rfl rfl rfl rfl rfl rfl)

theorem keeps_State_ofeRun {s₀ : State} {s : State} (id : Nat) (i : Nat) (b : Nat) (hK : Keeps s₀ s) : Keeps s₀ (State.ofeRun s id i b).1 := by
  unfold State.ofeRun
  repeat' first
    | (with_reducible first | assumption | apply keeps_ite | apply keeps_ite_fst | apply keeps_State_readTensors) | dsimp only
    | (refine keeps_of_eq (by assumption) ?_) | (refine keeps_of_eq_snd (by assumption) ?_) | split
    | (refine keeps_mk ?_ rfl rfl rfl rfl rfl rfl rfl rfl rfl rfl rfl rfl)

theorem keeps_State_sgeStart {s₀ : State} {s : State} (id : Nat) (i : Nat) (hK : Keeps s₀ s) : Keeps s₀ (State.sgeStart s id i).1 := by
  unfold State.sgeStart
  repeat' first
    | (with_reducible first | assumption | apply keeps_ite | apply keeps_ite_fst | apply keeps_State_readParams)
    | (with_reducible first | apply keeps_State_startTask) | dsimp only | (refine keeps_of_eq (by assumption) ?_)
    | (refine keeps_of_eq_snd (by assumption) ?_) | split | (refine keeps_mk ?_ rfl rfl rfl rfl rfl rfl rfl rfl rfl rfl rfl rfl)

theorem keeps_State_sgeRun {s₀ : State} {s : State} (id : Nat) (i : Nat) (b : Nat) (hK : Keeps s₀ s) : Keeps s₀ (State.sgeRun s id i b).1 := by
  unfold State.sgeRun
  repeat' first
    | (with_reducible first | assumption | apply keeps_ite | apply keeps_ite_fst | apply keeps_State_readTensors) | dsimp only
    | (refine keeps_of_eq (by assumption) ?_) | (refine keeps_of_eq_snd (by assumption) ?_) | split
    | (refine keeps_mk ?_ rfl rfl rfl rfl rfl rfl rfl rfl rfl rfl rfl rfl)

theorem keeps_State_fteStart {s₀ : State} {s : State} (id : Nat) (i : Nat) (hK : Keeps s₀ s) : Keeps s₀ (State.fteStart s id i).1 := by
  unfold State.fteStart
  repeat' first
    | (with_reducible first | assumption | apply keeps_ite | apply keeps_ite_fst | apply keeps_State_readParams)
    | (with_reducible first | apply keeps_State_startTask) | dsimp only | (refine keeps_of_eq (by assumption) ?_)
    | (refine keeps_of_eq_snd (by assumption) ?_) | split | (refine keeps_mk ?_ rfl rfl rfl rfl rfl rfl rfl rfl rfl rfl rfl rfl)

theorem keeps_State_fteInput {s₀ : State} {s : State} (id : Nat) (i : Nat) (w : List Word) (tag : Word) (hK : Keeps s₀ s) : Keeps s₀ (State.fteInput s id i w tag).1 := by
  unfold State.fteInput
  repeat' first
    | (with_reducible first | intro _ | assumption | apply keeps_ite | apply keeps_ite_fst | apply keeps_State_readAgain)
    | (with_reducible first | apply keeps_State_dramRead) | dsimp only | (refine keeps_of_eq (by assumption) ?_)
    | (refine keeps_of_eq_snd (by assumption) ?_) | split | (refine keeps_mk ?_ rfl rfl rfl rfl rfl rfl rfl rfl rfl rfl rfl rfl)

theorem keeps_State_fteRun {s₀ : State} {s : State} (id : Nat) (i : Nat) (b : Nat) (hK : Keeps s₀ s) : Keeps s₀ (State.fteRun s id i b).1 := by
  unfold State.fteRun
  repeat' first
    | (with_reducible first | assumption | apply keeps_ite | apply keeps_ite_fst | apply keeps_State_readTensors)
    | (with_reducible first | apply keeps_State_fteInput) | dsimp only | (refine keeps_of_eq (by assumption) ?_)
    | (refine keeps_of_eq_snd (by assumption) ?_) | split | (refine keeps_mk ?_ rfl rfl rfl rfl rfl rfl rfl rfl rfl rfl rfl rfl)

theorem keeps_State_ptStatus {s₀ : State} {s : State} (st : Nat) (hK : Keeps s₀ s) : Keeps s₀ (State.ptStatus s st) := by
  unfold State.ptStatus
  repeat' first
    | (with_reducible first | intro _ | assumption | apply keeps_State_setReg | apply keeps_State_cmdBegin) | dsimp only
    | (refine keeps_mk ?_ rfl rfl rfl rfl rfl rfl rfl rfl rfl rfl rfl rfl)

theorem keeps_pairTableLoadOp {s₀ : State} (ag : Agent) (v : Word) {s : State} (hK : Keeps s₀ s) : Keeps s₀ (pairTableLoadOp ag v s) := by
  unfold pairTableLoadOp
  repeat' first
    | (with_reducible first | intro _ | assumption | apply keeps_ite | apply keeps_ite_fst | apply keeps_State_refuse)
    | (with_reducible first | apply keeps_State_setFld | apply keeps_State_ptStatus | apply keeps_State_readAgain) | dsimp only
    | (refine keeps_of_eq (by assumption) ?_) | (refine keeps_of_eq_snd (by assumption) ?_) | split
    | (refine keeps_mk ?_ rfl rfl rfl rfl rfl rfl rfl rfl rfl rfl rfl rfl)

theorem keeps_trackSetOp {s₀ : State} (ag : Agent) (k : Nat) (v : Word) {s : State} (hK : Keeps s₀ s) : Keeps s₀ (trackSetOp ag k v s) := by
  unfold trackSetOp
  repeat' first
    | (with_reducible first | intro _ | assumption | apply keeps_ite | apply keeps_ite_fst | apply keeps_State_refuse)
    | (with_reducible first | apply keeps_State_setReg) | dsimp only | split
    | (refine keeps_mk ?_ rfl rfl rfl rfl rfl rfl rfl rfl rfl rfl rfl rfl)

theorem keeps_State_setIspStream {s₀ : State} {s : State} (st : Nat) (x : IspStream) (hK : Keeps s₀ s) : Keeps s₀ (State.setIspStream s st x) := by
  unfold State.setIspStream
  repeat' first
    | (with_reducible first | intro _ | assumption) | dsimp only | (refine keeps_mk ?_ rfl rfl rfl rfl rfl rfl rfl rfl rfl rfl rfl rfl)

theorem keeps_State_modReqs {s₀ : State} {s : State} (st : Nat) (f : SetReq → SetReq) (hK : Keeps s₀ s) : Keeps s₀ (State.modReqs s st f) := by
  unfold State.modReqs
  repeat' first
    | (with_reducible first | assumption | apply keeps_State_setIspStream) | dsimp only
    | (refine keeps_mk ?_ rfl rfl rfl rfl rfl rfl rfl rfl rfl rfl rfl rfl)

theorem keeps_State_modelOpen {s₀ : State} {s : State} (st : Nat) (f : Nat) (hK : Keeps s₀ s) : Keeps s₀ (State.modelOpen s st f) := by
  unfold State.modelOpen
  repeat' first
    | (with_reducible first | intro _ | assumption | apply keeps_foldl | apply keeps_foldl_fst | apply keeps_State_setIspStream)
    | dsimp only | (refine keeps_of_eq (by assumption) ?_) | (refine keeps_of_eq_snd (by assumption) ?_) | split
    | (refine keeps_mk ?_ rfl rfl rfl rfl rfl rfl rfl rfl rfl rfl rfl rfl)

theorem keeps_State_cutoff {s₀ : State} {s : State} (st : Nat) (f : Nat) (hK : Keeps s₀ s) : Keeps s₀ (State.cutoff s st f) := by
  unfold State.cutoff
  repeat' first
    | (with_reducible first | intro _ | assumption | apply keeps_ite | apply keeps_ite_fst | apply keeps_State_modReqs) | dsimp only
    | split | (refine keeps_mk ?_ rfl rfl rfl rfl rfl rfl rfl rfl rfl rfl rfl rfl)

theorem keeps_State_groupReply {s₀ : State} {s : State} (st : Nat) (serial : Nat) (ack : Bool) (hK : Keeps s₀ s) : Keeps s₀ (State.groupReply s st serial ack) := by
  unfold State.groupReply
  repeat' first
    | (with_reducible first | intro _ | assumption | apply keeps_ite | apply keeps_ite_fst | apply keeps_State_modReqs) | dsimp only
    | split | (refine keeps_mk ?_ rfl rfl rfl rfl rfl rfl rfl rfl rfl rfl rfl rfl)

theorem keeps_State_modelStart {s₀ : State} {s : State} (st : Nat) (i : Nat) (hK : Keeps s₀ s) : Keeps s₀ (State.modelStart s st i) := by
  unfold State.modelStart
  repeat' first
    | (with_reducible first | assumption | apply keeps_ite | apply keeps_ite_fst | apply keeps_State_setIspStream) | dsimp only | split
    | (refine keeps_mk ?_ rfl rfl rfl rfl rfl rfl rfl rfl rfl rfl rfl rfl)

theorem keeps_State_modelLoad {s₀ : State} {s : State} (f : IspFrame) (first : Settings) (hK : Keeps s₀ s) : Keeps s₀ (State.modelLoad s f first) := by
  unfold State.modelLoad
  repeat' first
    | (with_reducible first | assumption | apply keeps_ite | apply keeps_ite_fst | apply keeps_State_setIspStream) | dsimp only | split
    | (refine keeps_mk ?_ rfl rfl rfl rfl rfl rfl rfl rfl rfl rfl rfl rfl)

theorem keeps_State_resetModel {s₀ : State} {s : State} (st : Nat) (hK : Keeps s₀ s) : Keeps s₀ (State.resetModel s st) := by
  unfold State.resetModel
  repeat' first
    | (with_reducible first | intro _ | assumption | apply keeps_ite | apply keeps_ite_fst | apply keeps_State_setIspStream) | dsimp only
    | split | (refine keeps_mk ?_ rfl rfl rfl rfl rfl rfl rfl rfl rfl rfl rfl rfl)

theorem keeps_State_modPort {s₀ : State} {s : State} (n : Nat) (f : Port → Port) (hK : Keeps s₀ s) : Keeps s₀ (State.modPort s n f) := by
  unfold State.modPort
  repeat' first
    | (with_reducible first | assumption) | dsimp only | (refine keeps_mk ?_ rfl rfl rfl rfl rfl rfl rfl rfl rfl rfl rfl rfl)

theorem keeps_State_ctlQueue {s₀ : State} {s : State} (n : Nat) (c : CtlCmd) (hK : Keeps s₀ s) : Keeps s₀ (State.ctlQueue s n c) := by
  unfold State.ctlQueue
  repeat' first
    | (with_reducible first | intro _ | assumption | apply keeps_State_modPort) | dsimp only
    | (refine keeps_mk ?_ rfl rfl rfl rfl rfl rfl rfl rfl rfl rfl rfl rfl)

theorem keeps_State_ctlEnd {s₀ : State} {s : State} (n : Nat) (c : CtlCmd) (result : Nat) (addr : Nat) (data : Nat) (hK : Keeps s₀ s) : Keeps s₀ (State.ctlEnd s n c result addr data) := by
  unfold State.ctlEnd
  repeat' first
    | (with_reducible first | intro _ | assumption | apply keeps_ite | apply keeps_ite_fst | apply keeps_State_modPort)
    | (with_reducible first | apply keeps_State_setReg | apply keeps_State_groupReply) | dsimp only
    | (refine keeps_of_eq (by assumption) ?_) | split | (refine keeps_mk ?_ rfl rfl rfl rfl rfl rfl rfl rfl rfl rfl rfl rfl)

theorem keeps_State_ispRows_go {s₀ : State} {s : State} (n0 i st : Nat) (n : List Nat) (r : Nat) (acc : List (List Byte)) (hK : Keeps s₀ s) : Keeps s₀ (State.ispRows.go n0 i st s r acc n).1 := by
  induction n generalizing s r acc with
  | nil =>
    unfold State.ispRows.go
    repeat' first
      | (with_reducible first | intro _ | assumption | apply ih | apply keeps_ite | apply keeps_foldl | apply keeps_ite_fst)
      | (with_reducible first | apply keeps_foldl_fst | apply keeps_State_modTask | apply keeps_State_ispRows)
      | (with_reducible first | apply keeps_State_dramRead) | dsimp only | (refine keeps_of_eq (by assumption) ?_)
      | (refine keeps_of_eq_snd (by assumption) ?_) | split | (refine keeps_mk ?_ rfl rfl rfl rfl rfl rfl rfl rfl rfl rfl rfl rfl)
  | cons x n ih =>
    unfold State.ispRows.go
    repeat' first
      | (with_reducible first | intro _ | assumption | apply ih | apply keeps_ite | apply keeps_foldl | apply keeps_ite_fst)
      | (with_reducible first | apply keeps_foldl_fst | apply keeps_State_modTask | apply keeps_State_ispRows)
      | (with_reducible first | apply keeps_State_dramRead) | dsimp only | (refine keeps_of_eq (by assumption) ?_)
      | (refine keeps_of_eq_snd (by assumption) ?_) | split | (refine keeps_mk ?_ rfl rfl rfl rfl rfl rfl rfl rfl rfl rfl rfl rfl)

theorem keeps_State_ispRows {s₀ : State} {s : State} (n0 i st k : Nat) (n : Nat)  (hK : Keeps s₀ s) : Keeps s₀ (State.ispRows s n0 i st k n).1 := by
  induction n generalizing s  with
  | zero =>
    unfold State.ispRows
    repeat' first
      | (with_reducible first | intro _ | assumption | apply ih | apply keeps_State_ispRows_go | apply keeps_ite)
      | (with_reducible first | apply keeps_ite_fst | apply keeps_State_modTask | apply keeps_State_dramRead) | dsimp only
      | (refine keeps_of_eq (by assumption) ?_) | (refine keeps_of_eq_snd (by assumption) ?_) | split
      | (refine keeps_mk ?_ rfl rfl rfl rfl rfl rfl rfl rfl rfl rfl rfl rfl)
  | succ n ih =>
    unfold State.ispRows
    repeat' first
      | (with_reducible first | intro _ | assumption | apply ih | apply keeps_State_ispRows_go | apply keeps_ite)
      | (with_reducible first | apply keeps_ite_fst | apply keeps_State_modTask | apply keeps_State_dramRead) | dsimp only
      | (refine keeps_of_eq (by assumption) ?_) | (refine keeps_of_eq_snd (by assumption) ?_) | split
      | (refine keeps_mk ?_ rfl rfl rfl rfl rfl rfl rfl rfl rfl rfl rfl rfl)

theorem keeps_State_rowsOf {s₀ : State} {s : State} (i : Nat) (f : IspFrame) (rows : List (List Byte)) (hK : Keeps s₀ s) : Keeps s₀ (State.rowsOf s i f rows).1 := by
  unfold State.rowsOf
  repeat' first
    | (with_reducible first | intro _ | assumption | apply keeps_ite | apply keeps_ite_fst | apply keeps_State_draw) | dsimp only
    | (refine keeps_of_eq (by assumption) ?_) | (refine keeps_of_eq_snd (by assumption) ?_) | split
    | (refine keeps_mk ?_ rfl rfl rfl rfl rfl rfl rfl rfl rfl rfl rfl rfl)

theorem keeps_State_ispRun {s₀ : State} {s : State} (id : Nat) (i : Nat) (b : Nat) (hK : Keeps s₀ s) : Keeps s₀ (State.ispRun s id i b).1 := by
  unfold State.ispRun
  repeat' first
    | (with_reducible first | assumption | apply keeps_ite | apply keeps_ite_fst | apply keeps_State_ispRows)
    | (with_reducible first | apply keeps_State_rowsOf | apply keeps_State_drawMany) | dsimp only
    | (refine keeps_of_eq (by assumption) ?_) | (refine keeps_of_eq_snd (by assumption) ?_) | split
    | (refine keeps_mk ?_ rfl rfl rfl rfl rfl rfl rfl rfl rfl rfl rfl rfl)

theorem keeps_State_parseSegment {s₀ : State} {s : State} (p : Nat) (addr : Nat) (hK : Keeps s₀ s) : Keeps s₀ (State.parseSegment s p addr).1 := by
  unfold State.parseSegment
  repeat' first
    | (with_reducible first | intro _ | assumption | apply keeps_ite | apply keeps_ite_fst | apply keeps_State_readAgain) | dsimp only
    | (refine keeps_of_eq (by assumption) ?_) | (refine keeps_of_eq_snd (by assumption) ?_) | split
    | (refine keeps_mk ?_ rfl rfl rfl rfl rfl rfl rfl rfl rfl rfl rfl rfl)

theorem keeps_State_ncShow {s₀ : State} {s : State} (hK : Keeps s₀ s) : Keeps s₀ (State.ncShow s) := by
  unfold State.ncShow
  repeat' first
    | (with_reducible first | intro _ | assumption | apply keeps_foldl | apply keeps_foldl_fst | apply keeps_State_setFld)
    | (with_reducible first | apply keeps_State_setReg) | dsimp only
    | (refine keeps_mk ?_ rfl rfl rfl rfl rfl rfl rfl rfl rfl rfl rfl rfl)

theorem keeps_State_admResult {s₀ : State} {s : State} (st : Nat) (check : Nat) (core : Nat) (p : Nat) (gid : Nat) (short : Nat) (hK : Keeps s₀ s) : Keeps s₀ (State.admResult s st check core p gid short) := by
  unfold State.admResult
  repeat' first
    | (with_reducible first | assumption | apply keeps_State_setReg) | dsimp only
    | (refine keeps_mk ?_ rfl rfl rfl rfl rfl rfl rfl rfl rfl rfl rfl rfl)

theorem keeps_State_makeRegion {s₀ : State} {s t : State} {r : Region} {i : Nat} (e : s.makeRegion r = some (t, i)) (h : Keeps s₀ s) :
    Keeps s₀ t := by
  unfold State.makeRegion at e
  cases hf : s.freeRegion with
  | none => simp [hf] at e
  | some id =>
    simp only [hf, Option.map_some, Option.some.injEq, Prod.mk.injEq] at e
    rw [← e.1]
    exact keeps_State_addRegion _ _ h

theorem keeps_State_makeDesc {s₀ : State} {s t : State} {ag : Agent} {p : Nat} {d : Desc} {i : Nat} (e : s.makeDesc ag p d = .inl (t, i))
    (h : Keeps s₀ s) : Keeps s₀ t := by
  unfold State.makeDesc at e
  split at e
  · cases e
  · dsimp only at e
    split at e
    · cases e
    · simp only [Sum.inl.injEq, Prod.mk.injEq] at e
      rw [← e.1]
      exact keeps_State_setTable _ _ h

theorem keeps_admitFold {s₀ : State} {α β γ : Type} {f : (State × α) ⊕ β → γ → (State × α) ⊕ β} {l : List γ} {x : (State × α) ⊕ β}
    (hf : ∀ x a, (∀ p, x = .inl p → Keeps s₀ p.1) → ∀ p, f x a = .inl p → Keeps s₀ p.1) (hx : ∀ p, x = .inl p → Keeps s₀ p.1) :
    ∀ p, l.foldl f x = .inl p → Keeps s₀ p.1 := by
  induction l generalizing x with
  | nil => exact hx
  | cons a t ih => exact ih (hf x a hx)

theorem keeps_State_admitCore {s₀ : State} {s t : State} {gs : List Graph} {seg : Segment} {c : Nat} {want : List Nat}
    {z : Segment × List (Nat × Nat) × List Nat} (e : s.admitCore gs seg c want = .inl (t, z)) (h : Keeps s₀ s) : Keeps s₀ t := by
  refine keeps_admitFold (p := (t, z)) ?_ ?_ e
  · intro x a hx p hp
    split at hp
    · cases hp
    · rename_i s1 seg1 rs1 want1
      have h1 : Keeps s₀ s1 := hx _ rfl
      dsimp only at hp
      split at hp
      · cases hp
      · split at hp
        · simp only [Sum.inl.injEq] at hp
          subst hp; exact h1
        · split at hp
          · cases hp
          · split at hp
            · cases hp
            · rename_i hr
              simp only [Sum.inl.injEq] at hp
              subst hp
              exact keeps_State_makeRegion hr h1
  · intro p hp
    simp only [Sum.inl.injEq] at hp
    subst hp; exact h

theorem keeps_State_admitTensors {s₀ : State} {s t : State} {ag : Agent} {p : Nat} {rs : List (Nat × Nat)} {l : List (List Word)}
    {hs z : List Nat} (e : s.admitTensors ag p rs l hs = .inl (t, z)) (h : Keeps s₀ s) : Keeps s₀ t := by
  induction l generalizing s hs with
  | nil =>
    simp only [State.admitTensors, Sum.inl.injEq, Prod.mk.injEq] at e
    rw [← e.1]; exact h
  | cons ws l ih =>
    unfold State.admitTensors at e
    split at e
    · cases e
    · split at e
      · cases e
      · rename_i hd
        exact ih e (keeps_State_makeDesc hd h)

theorem keeps_State_spmFresh {s₀ : State} {s : State} (m : Nat) (off : Nat) (n : Nat) (hK : Keeps s₀ s) : Keeps s₀ (State.spmFresh s m off n) := by
  unfold State.spmFresh
  repeat' first
    | (with_reducible first | intro _ | assumption) | dsimp only | (refine keeps_mk ?_ rfl rfl rfl rfl rfl rfl rfl rfl rfl rfl rfl rfl)

theorem keeps_State_loadWeights {s₀ : State} {s : State} (seg : Segment) (c : Nat) (img : List Byte) (hK : Keeps s₀ s) : Keeps s₀ (State.loadWeights s seg c img) := by
  unfold State.loadWeights
  repeat' first
    | (with_reducible first | assumption | apply keeps_ite | apply keeps_ite_fst | apply keeps_State_spmFresh)
    | (with_reducible first | apply keeps_State_spmPut) | dsimp only | (refine keeps_of_eq (by assumption) ?_) | split
    | (refine keeps_mk ?_ rfl rfl rfl rfl rfl rfl rfl rfl rfl rfl rfl rfl)

theorem keeps_State_scratchRegion {s₀ : State} {s t : State} {p a n i : Nat} (e : s.scratchRegion p a n = .inl (t, i)) (h : Keeps s₀ s) :
    Keeps s₀ t := by
  unfold State.scratchRegion at e
  dsimp only at e
  split at e
  · cases e
  · split at e
    · cases e
    · split at e
      · cases e
      · rename_i r hr
        simp only [Sum.inl.injEq] at e
        subst e
        exact keeps_State_makeRegion hr h

theorem keeps_State_admitImage {s₀ : State} {s : State} (p : Nat) (addr : Nat) (cores : List Nat) (old : Option Segment) (hK : Keeps s₀ s) : Keeps s₀ (State.admitImage s p addr cores old).1 := by
  unfold State.admitImage
  repeat' first
    | (with_reducible first | assumption | apply keeps_State_parseSegment) | dsimp only | (refine keeps_of_eq (by assumption) ?_)
    | (refine keeps_of_eq_snd (by assumption) ?_) | split | (refine keeps_mk ?_ rfl rfl rfl rfl rfl rfl rfl rfl rfl rfl rfl rfl)

theorem keeps_admitCoresFold {s₀ : State} {γ : Type} {f : AdmMem ⊕ AdmStop → γ → AdmMem ⊕ AdmStop} {l : List γ} {x : AdmMem ⊕ AdmStop}
    (hf : ∀ x a, (∀ p, x = .inl p → Keeps s₀ p.st) → ∀ p, f x a = .inl p → Keeps s₀ p.st) (hx : ∀ p, x = .inl p → Keeps s₀ p.st) :
    ∀ p, l.foldl f x = .inl p → Keeps s₀ p.st := by
  induction l generalizing x with
  | nil => exact hx
  | cons a t ih => exact ih (hf x a hx)

theorem keeps_State_admitCores {s₀ : State} {s : State} {gs : List Graph} {cores : List Nat} {seg : Segment} {want : List Nat} {m : AdmMem}
    (e : s.admitCores gs cores seg want = .inl m) (h : Keeps s₀ s) : Keeps s₀ m.st := by
  refine keeps_admitCoresFold (p := m) ?_ ?_ e
  · intro x a hx p hp
    split at hp
    · cases hp
    · have h1 := hx _ rfl
      split at hp
      · cases hp
      · rename_i hc
        simp only [Sum.inl.injEq] at hp
        subst hp
        exact keeps_State_admitCore hc h1
  · intro p hp
    simp only [Sum.inl.injEq] at hp
    subst hp; exact h

theorem keeps_State_admitMemory {s₀ : State} {s : State} {gs : List Graph} {p : Nat} {cores : List Nat} {old : Option Segment} {seg : Segment}
    {want : List Nat} {m : AdmMem} (e : s.admitMemory gs p cores old seg want = .inl m) (h : Keeps s₀ s) : Keeps s₀ m.st := by
  unfold State.admitMemory at e
  split at e
  · split at e
    · cases e
    · simp only [Sum.inl.injEq] at e
      subst e; exact h
  · exact keeps_State_admitCores e h

theorem keeps_State_admitArea {s₀ : State} {s t : State} {p sa sn : Nat} {z : Option (Nat × Nat × Nat)} (e : s.admitArea p sa sn = .inl (t, z))
    (h : Keeps s₀ s) : Keeps s₀ t := by
  unfold State.admitArea at e
  split at e
  · simp only [Sum.inl.injEq, Prod.mk.injEq] at e
    rw [← e.1]; exact h
  · split at e
    · cases e
    · rename_i hr
      simp only [Sum.inl.injEq, Prod.mk.injEq] at e
      rw [← e.1]
      exact keeps_State_scratchRegion hr h

theorem keeps_State_admitStream {s₀ : State} {s t : State} {p a : Nat} {hd : List Word} {z : Option Nat} (e : s.admitStream p a hd = .inl (t, z))
    (h : Keeps s₀ s) : Keeps s₀ t := by
  unfold State.admitStream at e
  split at e
  · split at e
    · cases e
    · rename_i hr
      simp only [Sum.inl.injEq, Prod.mk.injEq] at e
      rw [← e.1]
      exact keeps_State_makeRegion hr h
  · simp only [Sum.inl.injEq, Prod.mk.injEq] at e
    rw [← e.1]; exact h

theorem keeps_State_admitHandles {s₀ : State} {s t : State} {ag : Agent} {p : Nat} {pc : List (Nat × List (Nat × Nat))}
    {sh : List (Nat × Nat)} {tens : List (List Word)} {img : List Byte} {seg z : Segment}
    (e : s.admitHandles ag p pc sh tens img seg = .inl (t, z)) (h : Keeps s₀ s) : Keeps s₀ t := by
  refine keeps_admitFold (p := (t, z)) ?_ ?_ e
  · intro x a hx p hp
    split at hp
    · cases hp
    · have h1 := hx _ rfl
      split at hp
      · cases hp
      · rename_i hc
        simp only [Sum.inl.injEq] at hp
        subst hp
        exact keeps_State_loadWeights _ _ _ (keeps_State_admitTensors hc h1)
  · intro p hp
    simp only [Sum.inl.injEq] at hp
    subst hp; exact h

theorem keeps_State_admitNew {s₀ : State} {s : State} (ag : Agent) (g : Graph) (n : Nat) (adm : SegAdm) (seg : Segment) (perCore : List (Nat × List (Nat × Nat))) (hK : Keeps s₀ s) : Keeps s₀ (State.admitNew s ag g n adm seg perCore).1 := by
  unfold State.admitNew
  repeat' first
    | (with_reducible first | intro _ | assumption | apply keeps_ite | apply keeps_ite_fst | apply keeps_ite_s)
    | (with_reducible first | apply keeps_foldl_s | apply keeps_State_readAgain | apply keeps_NcDone_of)
    | refine keeps_State_admitStream (by assumption) ?_ | refine keeps_State_admitHandles (by assumption) ?_ | dsimp only
    | (refine keeps_of_eq (by assumption) ?_) | (refine keeps_of_eq_snd (by assumption) ?_) | split
    | (refine keeps_mk ?_ rfl rfl rfl rfl rfl rfl rfl rfl rfl rfl rfl rfl)

theorem keeps_State_admitUser {s₀ : State} {s : State} (x : Segment) (g : Nat) (n : Nat) (hK : Keeps s₀ s) : Keeps s₀ (State.admitUser s x g n) := by
  unfold State.admitUser
  repeat' first
    | (with_reducible first | intro _ | assumption | apply keeps_ite | apply keeps_ite_fst) | dsimp only | split
    | (refine keeps_mk ?_ rfl rfl rfl rfl rfl rfl rfl rfl rfl rfl rfl rfl)

theorem keeps_State_admitPlace {s₀ : State} {s : State} (ag : Agent) (g : Graph) (n : Nat) (a : AdmSt) (adm : SegAdm) (old : Option Segment) (sa : Nat) (m : AdmMem) (hK : Keeps s₀ s) (hM : Keeps s₀ m.st) : Keeps s₀ (State.admitPlace s ag g n a adm old sa m).1 := by
  unfold State.admitPlace
  repeat' first
    | (with_reducible first | assumption | apply keeps_ite | apply keeps_ite_fst | apply keeps_State_admitUser)
    | (with_reducible first | apply keeps_State_admitNew) | refine keeps_State_admitArea (by assumption) ?_ | dsimp only
    | (refine keeps_of_eq (by assumption) ?_) | split | (refine keeps_mk ?_ rfl rfl rfl rfl rfl rfl rfl rfl rfl rfl rfl rfl)

theorem keeps_State_admitTimed {s₀ : State} {s : State} (ag : Agent) (g : Graph) (n : Nat) (a : AdmSt) (adm : SegAdm) (old : Option Segment) (sa : Nat) (m : AdmMem) (hK : Keeps s₀ s) (hM : Keeps s₀ m.st) : Keeps s₀ (State.admitTimed s ag g n a adm old sa m).1 := by
  unfold State.admitTimed
  repeat' first
    | (with_reducible first | assumption | apply keeps_State_admitPlace) | dsimp only | (refine keeps_of_eq (by assumption) ?_) | split
    | (refine keeps_mk ?_ rfl rfl rfl rfl rfl rfl rfl rfl rfl rfl rfl rfl)

theorem keeps_State_admitSized {s₀ : State} {s : State} (ag : Agent) (g : Graph) (n : Nat) (a : AdmSt) (adm : SegAdm) (old : Option Segment) (m : AdmMem) (hK : Keeps s₀ s) (hM : Keeps s₀ m.st) : Keeps s₀ (State.admitSized s ag g n a adm old m).1 := by
  unfold State.admitSized
  repeat' first
    | (with_reducible first | assumption | apply keeps_State_admitTimed) | dsimp only | (refine keeps_of_eq (by assumption) ?_) | split
    | (refine keeps_mk ?_ rfl rfl rfl rfl rfl rfl rfl rfl rfl rfl rfl rfl)

theorem keeps_State_admitChecked {s₀ : State} {s : State} (ag : Agent) (g : Graph) (n : Nat) (a : AdmSt) (adm : SegAdm) (old : Option Segment) (seg : Segment) (hK : Keeps s₀ s) : Keeps s₀ (State.admitChecked s ag g n a adm old seg).1 := by
  unfold State.admitChecked
  repeat' first
    | (with_reducible first | assumption | apply keeps_State_admitSized) | refine keeps_State_admitMemory (by assumption) ?_ | dsimp only
    | (refine keeps_of_eq (by assumption) ?_) | split | (refine keeps_mk ?_ rfl rfl rfl rfl rfl rfl rfl rfl rfl rfl rfl rfl)

theorem keeps_State_admitNode {s₀ : State} {s : State} (ag : Agent) (g : Graph) (n : Nat) (a : AdmSt) (hK : Keeps s₀ s) : Keeps s₀ (State.admitNode s ag g n a).1 := by
  unfold State.admitNode
  repeat' first
    | (with_reducible first | intro _ | assumption | apply keeps_ite | apply keeps_ite_fst | apply keeps_ite_s)
    | (with_reducible first | apply keeps_foldl_s | apply keeps_NcDone_of | apply keeps_State_admitImage)
    | (with_reducible first | apply keeps_State_admitChecked) | dsimp only | (refine keeps_of_eq (by assumption) ?_)
    | (refine keeps_of_eq_snd (by assumption) ?_) | split | (refine keeps_mk ?_ rfl rfl rfl rfl rfl rfl rfl rfl rfl rfl rfl rfl)

theorem keeps_State_admitUndo {s₀ : State} {s s' : State} (h : Keeps s₀ s) (h' : Keeps s₀ s') : Keeps s₀ (State.admitUndo s s') := by
  unfold State.admitUndo
  apply keeps_State_regionUsed
  exact ⟨h'.pending, h'.por, h'.rails, h'.localCount, h'.devCount, h'.freeCtr, h'.reports, h'.fuses,
    fun c => ⟨(h'.canonical c).1, (h'.canonical c).2.1, (h.canonical c).2.2.1, (h'.canonical c).2.2.2⟩⟩

theorem keeps_State_admitNodes {s₀ : State} {s : State} (ag : Agent) (g : Graph) (nodes : List Nat) (want : List Nat) (hK : Keeps s₀ s) : Keeps s₀ (State.admitNodes s ag g nodes want).1 := by
  unfold State.admitNodes
  repeat' first
    | (with_reducible first | intro _ | assumption | apply keeps_foldl | apply keeps_foldl_fst | apply keeps_State_admitNode)
    | dsimp only | (refine keeps_of_eq (by assumption) ?_) | split | (refine keeps_mk ?_ rfl rfl rfl rfl rfl rfl rfl rfl rfl rfl rfl rfl)

theorem keeps_State_admitGraph {s₀ : State} {s : State} (ag : Agent) (g : Graph) (want : List Nat) (hK : Keeps s₀ s) : Keeps s₀ (State.admitGraph s ag g want).1 := by
  unfold State.admitGraph
  repeat' first
    | (with_reducible first | intro _ | assumption | apply keeps_ite | apply keeps_ite_fst | apply keeps_State_admitNodes)
    | (with_reducible first | apply keeps_State_admResult | apply keeps_State_admitUndo) | dsimp only
    | (refine keeps_of_eq (by assumption) ?_) | split | (refine keeps_mk ?_ rfl rfl rfl rfl rfl rfl rfl rfl rfl rfl rfl rfl)

theorem keeps_State_unadmit {s₀ : State} {s : State} (g : Graph) (hK : Keeps s₀ s) : Keeps s₀ (State.unadmit s g) := by
  unfold State.unadmit
  repeat' first
    | (with_reducible first | intro _ | assumption | apply keeps_ite | apply keeps_foldl | apply keeps_ite_fst)
    | (with_reducible first | apply keeps_foldl_fst | apply keeps_State_dropRegion | apply keeps_State_setTable) | dsimp only
    | (refine keeps_of_eq (by assumption) ?_) | split | (refine keeps_mk ?_ rfl rfl rfl rfl rfl rfl rfl rfl rfl rfl rfl rfl)

theorem keeps_State_ncRows_go {s₀ : State} {s : State} (c p : Nat) (d : Desc) (r : Region) (n : List (List Nat)) (st : Nat) (acc : List (List Byte)) (hK : Keeps s₀ s) : Keeps s₀ (State.ncRows.go c p d r s st acc n).1 := by
  induction n generalizing s st acc with
  | nil =>
    unfold State.ncRows.go
    repeat' first
      | (with_reducible first | intro _ | assumption | apply ih | apply keeps_ite | apply keeps_foldl | apply keeps_ite_fst)
      | (with_reducible first | apply keeps_foldl_fst | apply keeps_State_readAgain | apply keeps_State_rowRead) | dsimp only
      | (refine keeps_of_eq (by assumption) ?_) | (refine keeps_of_eq_snd (by assumption) ?_) | split
      | (refine keeps_mk ?_ rfl rfl rfl rfl rfl rfl rfl rfl rfl rfl rfl rfl)
  | cons x n ih =>
    unfold State.ncRows.go
    repeat' first
      | (with_reducible first | intro _ | assumption | apply ih | apply keeps_ite | apply keeps_foldl | apply keeps_ite_fst)
      | (with_reducible first | apply keeps_foldl_fst | apply keeps_State_readAgain | apply keeps_State_rowRead) | dsimp only
      | (refine keeps_of_eq (by assumption) ?_) | (refine keeps_of_eq_snd (by assumption) ?_) | split
      | (refine keeps_mk ?_ rfl rfl rfl rfl rfl rfl rfl rfl rfl rfl rfl rfl)

theorem keeps_State_ncRows {s₀ : State} {s : State} (c : Nat) (p : Nat) (d : Desc) (hK : Keeps s₀ s) : Keeps s₀ (State.ncRows s c p d).1 := by
  unfold State.ncRows
  repeat' first
    | (with_reducible first | intro _ | assumption | apply keeps_State_ncRows_go | apply keeps_ite | apply keeps_ite_fst)
    | (with_reducible first | apply keeps_State_readAgain | apply keeps_State_rowRead) | dsimp only
    | (refine keeps_of_eq (by assumption) ?_) | (refine keeps_of_eq_snd (by assumption) ?_) | split
    | (refine keeps_mk ?_ rfl rfl rfl rfl rfl rfl rfl rfl rfl rfl rfl rfl)

theorem keeps_State_ncRead {s₀ : State} {s : State} (c : Nat) (p : Nat) (h : Nat) (hK : Keeps s₀ s) : Keeps s₀ (State.ncRead s c p h).1 := by
  unfold State.ncRead
  repeat' first
    | (with_reducible first | assumption | apply keeps_ite | apply keeps_ite_fst | apply keeps_State_ncRows) | dsimp only
    | (refine keeps_of_eq (by assumption) ?_) | (refine keeps_of_eq_snd (by assumption) ?_) | split
    | (refine keeps_mk ?_ rfl rfl rfl rfl rfl rfl rfl rfl rfl rfl rfl rfl)

theorem keeps_State_ncWriteCodes {s₀ : State} {s : State} (c : Nat) (p : Nat) (d : Desc) (codes : List Nat) (hK : Keeps s₀ s) : Keeps s₀ (State.ncWriteCodes s c p d codes).1 := by
  unfold State.ncWriteCodes
  repeat' first
    | (with_reducible first | assumption | apply keeps_State_tensorWrite) | dsimp only
    | (refine keeps_mk ?_ rfl rfl rfl rfl rfl rfl rfl rfl rfl rfl rfl rfl)

theorem keeps_State_ncWrite {s₀ : State} {s : State} (c : Nat) (p : Nat) (d : Desc) (vs : List Fp) (hK : Keeps s₀ s) : Keeps s₀ (State.ncWrite s c p d vs).1 := by
  unfold State.ncWrite
  repeat' first
    | (with_reducible first | assumption | apply keeps_ite | apply keeps_ite_fst | apply keeps_State_ncWriteCodes) | dsimp only
    | (refine keeps_of_eq (by assumption) ?_) | (refine keeps_of_eq_snd (by assumption) ?_) | split
    | (refine keeps_mk ?_ rfl rfl rfl rfl rfl rfl rfl rfl rfl rfl rfl rfl)

theorem keeps_NcDone_of {s₀ s : State} (st : Nat) (h : Keeps s₀ s) : Keeps s₀ (NcDone.of s st).s := h

theorem keeps_ite_s {s₀ : State} {c : Prop} [Decidable c] {a b : NcDone} (ha : Keeps s₀ a.s) (hb : Keeps s₀ b.s) :
    Keeps s₀ (if c then a else b).s := by
  split <;> assumption

theorem keeps_foldl_s {s₀ : State} {β : Type} {f : NcDone → β → NcDone} {l : List β} {p : NcDone}
    (hf : ∀ p a, Keeps s₀ p.s → Keeps s₀ (f p a).s) (h : Keeps s₀ p.s) : Keeps s₀ (l.foldl f p).s := by
  induction l generalizing p with
  | nil => exact h
  | cons a t ih => exact ih (hf p a h)

theorem keeps_State_ncWriteFree {s₀ : State} {s : State} (c : Nat) (p : Nat) (d : Desc) (hK : Keeps s₀ s) : Keeps s₀ (State.ncWriteFree s c p d).1 := by
  unfold State.ncWriteFree
  repeat' first
    | (with_reducible first | intro _ | assumption | apply keeps_ite | apply keeps_ite_fst | apply keeps_State_draw)
    | (with_reducible first | apply keeps_State_tensorWrite) | dsimp only | (refine keeps_of_eq (by assumption) ?_) | split
    | (refine keeps_mk ?_ rfl rfl rfl rfl rfl rfl rfl rfl rfl rfl rfl rfl)

theorem keeps_State_ncWriteOpen {s₀ : State} {s : State} (c : Nat) (p : Nat) (d : Desc) (key : List Nat) (hK : Keeps s₀ s) : Keeps s₀ (State.ncWriteOpen s c p d key).1 := by
  unfold State.ncWriteOpen
  repeat' first
    | (with_reducible first | intro _ | assumption | apply keeps_ite | apply keeps_ite_fst | apply keeps_State_tensorWrite) | dsimp only
    | (refine keeps_of_eq (by assumption) ?_) | split | (refine keeps_mk ?_ rfl rfl rfl rfl rfl rfl rfl rfl rfl rfl rfl rfl)

theorem keeps_State_ncEmit {s₀ : State} {s : State} (c : Nat) (p : Nat) (g : Option GlazeSet) (byDesc : Bool) (raw : Nat) (d : Desc) (vs : List Fp) (accSat : Bool) (oob : Bool) (hK : Keeps s₀ s) : Keeps s₀ (State.ncEmit s c p g byDesc raw d vs accSat oob).s := by
  unfold State.ncEmit
  repeat' first
    | (with_reducible first | intro _ | assumption | apply keeps_ite | apply keeps_ite_fst | apply keeps_State_ncWriteOpen)
    | (with_reducible first | apply keeps_State_oob | apply keeps_State_ncWrite) | dsimp only | (refine keeps_of_eq (by assumption) ?_)
    | (refine keeps_of_eq_snd (by assumption) ?_) | split | (refine keeps_mk ?_ rfl rfl rfl rfl rfl rfl rfl rfl rfl rfl rfl rfl)

theorem keeps_State_oobRead {s₀ : State} {s : State} (p : Nat) (o : Opnd) (n : Nat) (l : List Int) (hK : Keeps s₀ s) : Keeps s₀ (State.oobRead s p o n l) := by
  unfold State.oobRead
  repeat' first
    | (with_reducible first | assumption | apply keeps_ite | apply keeps_ite_fst | apply keeps_State_oob) | dsimp only
    | (refine keeps_of_eq (by assumption) ?_) | split | (refine keeps_mk ?_ rfl rfl rfl rfl rfl rfl rfl rfl rfl rfl rfl rfl)

theorem keeps_State_ncMatrix {s₀ : State} {s : State} (c : Nat) (p : Nat) (k : NcCmd) (a : Opnd) (b : Opnd) (out : Opnd) (bias : Option Opnd) (aux : Option Opnd) (hK : Keeps s₀ s) : Keeps s₀ (State.ncMatrix s c p k a b out bias aux).s := by
  unfold State.ncMatrix
  repeat' first
    | (with_reducible first | assumption | apply keeps_ite | apply keeps_ite_fst | apply keeps_ite_s | apply keeps_foldl_s)
    | (with_reducible first | apply keeps_NcDone_of | apply keeps_State_oobRead | apply keeps_State_ncEmit) | dsimp only
    | (refine keeps_of_eq (by assumption) ?_) | split | (refine keeps_mk ?_ rfl rfl rfl rfl rfl rfl rfl rfl rfl rfl rfl rfl)

theorem keeps_State_ncVector {s₀ : State} {s : State} (c : Nat) (p : Nat) (k : NcCmd) (a : Opnd) (out : Opnd) (b : Option Opnd) (cc : Option Opnd) (aux : Option Opnd) (hK : Keeps s₀ s) : Keeps s₀ (State.ncVector s c p k a out b cc aux).s := by
  unfold State.ncVector
  repeat' first
    | (with_reducible first | intro _ | assumption | apply keeps_ite_s | apply keeps_foldl_s | apply keeps_State_oobRead)
    | (with_reducible first | apply keeps_State_ncEmit | apply keeps_NcDone_of | apply keeps_State_ncWriteCodes) | dsimp only
    | (refine keeps_of_eq (by assumption) ?_) | (refine keeps_of_eq_snd (by assumption) ?_) | split
    | (refine keeps_mk ?_ rfl rfl rfl rfl rfl rfl rfl rfl rfl rfl rfl rfl)

theorem keeps_State_ncGather {s₀ : State} {s : State} (c : Nat) (p : Nat) (k : NcCmd) (a : Opnd) (out : Opnd) (b : Opnd) (hK : Keeps s₀ s) : Keeps s₀ (State.ncGather s c p k a out b).s := by
  unfold State.ncGather
  repeat' first
    | (with_reducible first | intro _ | assumption | apply keeps_ite | apply keeps_ite_fst | apply keeps_ite_s)
    | (with_reducible first | apply keeps_foldl_s | apply keeps_State_oob | apply keeps_State_ncEmit)
    | (with_reducible first | apply keeps_State_ncWriteOpen | apply keeps_State_ncWriteCodes) | dsimp only
    | (refine keeps_of_eq (by assumption) ?_) | (refine keeps_of_eq_snd (by assumption) ?_) | split
    | (refine keeps_mk ?_ rfl rfl rfl rfl rfl rfl rfl rfl rfl rfl rfl rfl)

theorem keeps_State_ncScatter {s₀ : State} {s : State} (c : Nat) (p : Nat) (k : NcCmd) (a : Opnd) (out : Opnd) (b : Opnd) (hK : Keeps s₀ s) : Keeps s₀ (State.ncScatter s c p k a out b).s := by
  unfold State.ncScatter
  repeat' first
    | (with_reducible first | intro _ | assumption | apply keeps_ite | apply keeps_foldl | apply keeps_ite_fst)
    | (with_reducible first | apply keeps_foldl_fst | apply keeps_ite_s | apply keeps_foldl_s | apply keeps_State_oob)
    | (with_reducible first | apply keeps_NcDone_of | apply keeps_State_memRead | apply keeps_State_memWrite) | dsimp only
    | (refine keeps_of_eq (by assumption) ?_) | (refine keeps_of_eq_snd (by assumption) ?_) | split
    | (refine keeps_mk ?_ rfl rfl rfl rfl rfl rfl rfl rfl rfl rfl rfl rfl)

theorem keeps_State_ncHalo {s₀ : State} {s : State} (c : Nat) (p : Nat) (k : NcCmd) (a : Opnd) (out : Opnd) (hK : Keeps s₀ s) : Keeps s₀ (State.ncHalo s c p k a out).s := by
  unfold State.ncHalo
  repeat' first
    | (with_reducible first | intro _ | assumption | apply keeps_ite | apply keeps_ite_fst | apply keeps_ite_s)
    | (with_reducible first | apply keeps_foldl_s | apply keeps_State_oob | apply keeps_State_ncEmit)
    | (with_reducible first | apply keeps_State_ncWriteCodes) | dsimp only | (refine keeps_of_eq (by assumption) ?_)
    | (refine keeps_of_eq_snd (by assumption) ?_) | split | (refine keeps_mk ?_ rfl rfl rfl rfl rfl rfl rfl rfl rfl rfl rfl rfl)

theorem keeps_State_ncOpt {s₀ : State} {s : State} (c : Nat) (p : Nat) (h : Option Nat) (hK : Keeps s₀ s) : Keeps s₀ (State.ncOpt s c p h).1 := by
  unfold State.ncOpt
  repeat' first
    | (with_reducible first | assumption | apply keeps_State_ncRead) | dsimp only | (refine keeps_of_eq (by assumption) ?_) | split
    | (refine keeps_mk ?_ rfl rfl rfl rfl rfl rfl rfl rfl rfl rfl rfl rfl)

theorem keeps_State_ncSome {s₀ : State} {s : State} (c : Nat) (p : Nat) (reads : Bool) (h : Option Nat) (hK : Keeps s₀ s) : Keeps s₀ (State.ncSome s c p reads h).1 := by
  unfold State.ncSome
  repeat' first
    | (with_reducible first | assumption | apply keeps_ite | apply keeps_ite_fst | apply keeps_State_ncOpt) | dsimp only | split
    | (refine keeps_mk ?_ rfl rfl rfl rfl rfl rfl rfl rfl rfl rfl rfl rfl)

theorem keeps_NcDone_freeOutputs {s₀ : State} {acc : NcDone} (c p : Nat) (hs : List Nat) (h : Keeps s₀ acc.s) :
    Keeps s₀ (NcDone.freeOutputs acc c p hs).s := by
  unfold NcDone.freeOutputs
  apply keeps_foldl_s _ h
  intro q a hq
  split
  · exact hq
  · exact keeps_State_ncWriteFree _ _ _ hq

theorem keeps_State_ncStray {s₀ : State} {s : State} (p : Nat) (q : Nat) (k : NcCmd) (hK : Keeps s₀ s) : Keeps s₀ (State.ncStray s p q k) := by
  unfold State.ncStray
  repeat' first
    | (with_reducible first | assumption | apply keeps_ite | apply keeps_ite_fst | apply keeps_State_oob | apply keeps_State_count)
    | dsimp only | (refine keeps_of_eq (by assumption) ?_) | split | (refine keeps_mk ?_ rfl rfl rfl rfl rfl rfl rfl rfl rfl rfl rfl rfl)

theorem keeps_State_ncFree {s₀ : State} {s : State} (c : Nat) (p : Nat) (k : NcCmd) (hK : Keeps s₀ s) : Keeps s₀ (State.ncFree s c p k).s := by
  unfold State.ncFree
  repeat' first
    | (with_reducible first | assumption | apply keeps_ite | apply keeps_ite_fst | apply keeps_ite_s | apply keeps_foldl_s)
    | (with_reducible first | apply keeps_State_drawMany | apply keeps_State_oobRead | apply keeps_State_ncStray)
    | (with_reducible first | apply keeps_NcDone_freeOutputs) | dsimp only | (refine keeps_of_eq (by assumption) ?_)
    | (refine keeps_of_eq_snd (by assumption) ?_) | split | (refine keeps_mk ?_ rfl rfl rfl rfl rfl rfl rfl rfl rfl rfl rfl rfl)

theorem keeps_State_ncApply {s₀ : State} {s : State} (c : Nat) (p : Nat) (k : NcCmd) (a : Option Opnd) (b : Option Opnd) (cc : Option Opnd) (aux : Option Opnd) (out : Option Opnd) (hK : Keeps s₀ s) : Keeps s₀ (State.ncApply s c p k a b cc aux out).s := by
  unfold State.ncApply
  repeat' first
    | (with_reducible first | assumption | apply keeps_ite_s | apply keeps_foldl_s | apply keeps_State_ncMatrix)
    | (with_reducible first | apply keeps_State_ncGather | apply keeps_State_ncScatter | apply keeps_State_ncHalo)
    | (with_reducible first | apply keeps_State_ncVector | apply keeps_NcDone_of) | dsimp only | (refine keeps_of_eq (by assumption) ?_)
    | split | (refine keeps_mk ?_ rfl rfl rfl rfl rfl rfl rfl rfl rfl rfl rfl rfl)

theorem keeps_State_ncRun {s₀ : State} {s : State} (c : Nat) (p : Nat) (k : NcCmd) (raced : Bool) (hK : Keeps s₀ s) : Keeps s₀ (State.ncRun s c p k raced).s := by
  unfold State.ncRun
  repeat' first
    | (with_reducible first | assumption | apply keeps_ite | apply keeps_ite_fst | apply keeps_ite_s | apply keeps_foldl_s)
    | (with_reducible first | apply keeps_NcDone_of | apply keeps_State_ncFree | apply keeps_State_ncOpt)
    | (with_reducible first | apply keeps_State_ncSome | apply keeps_State_ncApply) | dsimp only | split
    | (refine keeps_mk ?_ rfl rfl rfl rfl rfl rfl rfl rfl rfl rfl rfl rfl)

theorem keeps_State_ncClock {s₀ : State} {s : State} (hK : Keeps s₀ s) : Keeps s₀ (State.ncClock s) := by
  unfold State.ncClock
  repeat' first
    | (with_reducible first | intro _ | assumption) | dsimp only | (refine keeps_mk ?_ rfl rfl rfl rfl rfl rfl rfl rfl rfl rfl rfl rfl)

theorem keeps_State_setRun {s₀ : State} {s : State} (r : NcRun) (hK : Keeps s₀ s) : Keeps s₀ (State.setRun s r) := by
  unfold State.setRun
  repeat' first
    | (with_reducible first | intro _ | assumption | apply keeps_ite | apply keeps_ite_fst) | dsimp only | split
    | (refine keeps_mk ?_ rfl rfl rfl rfl rfl rfl rfl rfl rfl rfl rfl rfl)

theorem keeps_State_engRun {s₀ : State} {s : State} (id : Nat) (i : Nat) (b : Nat) (hK : Keeps s₀ s) : Keeps s₀ (State.engRun s id i b).1 := by
  unfold State.engRun
  repeat' first
    | (with_reducible first | assumption | apply keeps_State_ispRun | apply keeps_State_pgeRun | apply keeps_State_wpeRun)
    | (with_reducible first | apply keeps_State_ofeRun | apply keeps_State_sgeRun | apply keeps_State_fteRun) | dsimp only
    | (refine keeps_of_eq (by assumption) ?_) | split | (refine keeps_mk ?_ rfl rfl rfl rfl rfl rfl rfl rfl rfl rfl rfl rfl)

theorem keeps_State_stopPoint {s₀ : State} {s : State} (i : Nat) (o : EngOut) (hK : Keeps s₀ s) : Keeps s₀ (State.stopPoint s i o).2 := by
  unfold State.stopPoint
  repeat' first
    | (with_reducible first | assumption | apply keeps_State_draw) | dsimp only | (refine keeps_of_eq (by assumption) ?_)
    | (refine keeps_of_eq_snd (by assumption) ?_) | split | (refine keeps_mk ?_ rfl rfl rfl rfl rfl rfl rfl rfl rfl rfl rfl rfl)

theorem keeps_State_jobCount {s₀ : State} {s : State} (id : Nat) (hK : Keeps s₀ s) : Keeps s₀ (State.jobCount s id) := by
  unfold State.jobCount
  repeat' first
    | (with_reducible first | assumption | apply keeps_State_bump) | dsimp only | (refine keeps_of_eq (by assumption) ?_) | split
    | (refine keeps_mk ?_ rfl rfl rfl rfl rfl rfl rfl rfl rfl rfl rfl rfl)

theorem keeps_State_scratchLeft {s₀ : State} {s : State} (i : Nat) (id : Nat) (hK : Keeps s₀ s) : Keeps s₀ (State.scratchLeft s i id) := by
  unfold State.scratchLeft
  repeat' first
    | (with_reducible first | assumption | apply keeps_ite | apply keeps_ite_fst | apply keeps_State_freeArea) | dsimp only | split
    | (refine keeps_mk ?_ rfl rfl rfl rfl rfl rfl rfl rfl rfl rfl rfl rfl)

theorem keeps_State_pipeCommit {s₀ : State} {s : State} (i : Nat) (id : Nat) (status : Nat) (n : Nat) (extra : Nat) (o : EngOut) (hK : Keeps s₀ s) : Keeps s₀ (State.pipeCommit s i id status n extra o).1 := by
  unfold State.pipeCommit
  repeat' first
    | (with_reducible first | assumption | apply keeps_ite | apply keeps_ite_fst | apply keeps_State_drawMany)
    | (with_reducible first | apply keeps_State_engCount | apply keeps_State_jobCount | apply keeps_State_scratchLeft) | dsimp only
    | (refine keeps_of_eq (by assumption) ?_) | (refine keeps_of_eq_snd (by assumption) ?_) | split
    | (refine keeps_mk ?_ rfl rfl rfl rfl rfl rfl rfl rfl rfl rfl rfl rfl)

theorem keeps_State_pipeStop {s₀ : State} {s : State} (i : Nat) (id : Nat) (status : Nat) (hK : Keeps s₀ s) : Keeps s₀ (State.pipeStop s i id status).1 := by
  unfold State.pipeStop
  repeat' first
    | (with_reducible first | assumption | apply keeps_ite | apply keeps_ite_fst | apply keeps_State_jobCount)
    | (with_reducible first | apply keeps_State_engRun | apply keeps_State_stopPoint | apply keeps_State_writePieces)
    | (with_reducible first | apply keeps_State_freePieces | apply keeps_State_spoil | apply keeps_State_dropIds)
    | (with_reducible first | apply keeps_State_pipeCommit) | dsimp only | (refine keeps_of_eq (by assumption) ?_)
    | (refine keeps_of_eq_snd (by assumption) ?_) | split | (refine keeps_mk ?_ rfl rfl rfl rfl rfl rfl rfl rfl rfl rfl rfl rfl)

theorem keeps_State_engAreas {s₀ : State} {s : State} (i : Nat) (id : Nat) (o : EngOut) (hK : Keeps s₀ s) : Keeps s₀ (State.engAreas s i id o).1 := by
  unfold State.engAreas
  repeat' first
    | (with_reducible first | intro _ | assumption | apply keeps_foldl | apply keeps_foldl_fst | apply keeps_State_setReg)
    | (with_reducible first | apply keeps_State_dramWrite) | dsimp only | (refine keeps_of_eq (by assumption) ?_)
    | (refine keeps_of_eq_snd (by assumption) ?_) | split | (refine keeps_mk ?_ rfl rfl rfl rfl rfl rfl rfl rfl rfl rfl rfl rfl)

theorem keeps_State_pipeDone {s₀ : State} {s : State} (i : Nat) (id : Nat) (adj : EngOut → EngOut) (hK : Keeps s₀ s) : Keeps s₀ (State.pipeDone s i id adj).1 := by
  unfold State.pipeDone
  repeat' first
    | (with_reducible first | assumption | apply keeps_ite | apply keeps_ite_fst | apply keeps_State_engRun)
    | (with_reducible first | apply keeps_State_stopPoint | apply keeps_State_spoil | apply keeps_State_dropIds)
    | (with_reducible first | apply keeps_State_pipeCommit | apply keeps_State_writePieces | apply keeps_State_freePieces)
    | (with_reducible first | apply keeps_State_engAreas | apply keeps_State_count) | dsimp only
    | (refine keeps_of_eq (by assumption) ?_) | (refine keeps_of_eq_snd (by assumption) ?_) | split
    | (refine keeps_mk ?_ rfl rfl rfl rfl rfl rfl rfl rfl rfl rfl rfl rfl)

theorem keeps_State_ncClose {s₀ : State} {s : State} (r : NcRun) (x : Segment) (id : Nat) (status : Nat) (idx : Nat) (hK : Keeps s₀ s) : Keeps s₀ (State.ncClose s r x id status idx).1 := by
  unfold State.ncClose
  repeat' first
    | (with_reducible first | intro _ | assumption | apply keeps_ite | apply keeps_ite_fst | apply keeps_State_modTask)
    | (with_reducible first | apply keeps_State_spoil | apply keeps_State_jobCount | apply keeps_State_bump) | dsimp only | split
    | (refine keeps_mk ?_ rfl rfl rfl rfl rfl rfl rfl rfl rfl rfl rfl rfl)

theorem keeps_State_engStop {s₀ : State} {s : State} (i : Nat) (id : Nat) (status : Nat) (hK : Keeps s₀ s) : Keeps s₀ (State.engStop s i id status).1 := by
  unfold State.engStop
  repeat' first
    | (with_reducible first | assumption | apply keeps_ite | apply keeps_ite_fst | apply keeps_State_pipeStop)
    | (with_reducible first | apply keeps_State_ncClose | apply keeps_State_jobCount | apply keeps_State_bump) | dsimp only
    | (refine keeps_of_eq (by assumption) ?_) | split | (refine keeps_mk ?_ rfl rfl rfl rfl rfl rfl rfl rfl rfl rfl rfl rfl)

theorem keeps_State_dropHolds {s₀ : State} {s : State} (j : Job) (hK : Keeps s₀ s) : Keeps s₀ (State.dropHolds s j) := by
  unfold State.dropHolds
  repeat' first
    | (with_reducible first | intro _ | assumption | apply keeps_foldl | apply keeps_foldl_fst | apply keeps_State_releaseSlot)
    | dsimp only | (refine keeps_of_eq (by assumption) ?_) | split | (refine keeps_mk ?_ rfl rfl rfl rfl rfl rfl rfl rfl rfl rfl rfl rfl)

theorem keeps_State_releaseRings {s₀ : State} {s : State} (jid : Nat) (hK : Keeps s₀ s) : Keeps s₀ (State.releaseRings s jid) := by
  unfold State.releaseRings
  repeat' first
    | (with_reducible first | intro _ | assumption | apply keeps_ite | apply keeps_foldl | apply keeps_ite_fst)
    | (with_reducible first | apply keeps_foldl_fst | apply keeps_State_modRing) | dsimp only | (refine keeps_of_eq (by assumption) ?_)
    | split | (refine keeps_mk ?_ rfl rfl rfl rfl rfl rfl rfl rfl rfl rfl rfl rfl)

theorem keeps_State_retireJob {s₀ : State} {s : State} (jid : Nat) (hK : Keeps s₀ s) : Keeps s₀ (State.retireJob s jid) := by
  unfold State.retireJob
  repeat' first
    | (with_reducible first | intro _ | assumption | apply keeps_ite | apply keeps_foldl | apply keeps_ite_fst)
    | (with_reducible first | apply keeps_foldl_fst | apply keeps_State_modJob | apply keeps_State_releaseRings)
    | (with_reducible first | apply keeps_State_dropHolds | apply keeps_State_count | apply keeps_State_bump)
    | (with_reducible first | apply keeps_State_cqPush | apply keeps_State_proofRetired | apply keeps_State_fireWhere) | dsimp only
    | (refine keeps_of_eq (by assumption) ?_) | (refine keeps_of_eq_snd (by assumption) ?_) | split
    | (refine keeps_mk ?_ rfl rfl rfl rfl rfl rfl rfl rfl rfl rfl rfl rfl)

theorem keeps_State_commitEnter {s₀ : State} {s : State} (g : Graph) (jid : Nat) (n : Nat) (st : Nat) (marks : Nat) (ran : Bool) (hK : Keeps s₀ s) : Keeps s₀ (State.commitEnter s g jid n st marks ran) := by
  unfold State.commitEnter
  repeat' first
    | (with_reducible first | intro _ | assumption | apply keeps_State_modNode | apply keeps_State_modGraph) | dsimp only
    | (refine keeps_mk ?_ rfl rfl rfl rfl rfl rfl rfl rfl rfl rfl rfl rfl)

theorem keeps_State_commitReport {s₀ : State} {s : State} (g : Graph) (jid : Nat) (n : Nat) (c : Commit) (st : Nat) (r : Rec) (hK : Keeps s₀ s) : Keeps s₀ (State.commitReport s g jid n c st r) := by
  unfold State.commitReport
  repeat' first
    | (with_reducible first | assumption | apply keeps_ite | apply keeps_ite_fst | apply keeps_State_tasterOutcome)
    | (with_reducible first | apply keeps_State_bump | apply keeps_State_ringsQuiet | apply keeps_State_releaseRings)
    | (with_reducible first | apply keeps_State_cqPush) | dsimp only | split
    | (refine keeps_mk ?_ rfl rfl rfl rfl rfl rfl rfl rfl rfl rfl rfl rfl)

theorem keeps_State_commitFlags {s₀ : State} {s : State} (g : Graph) (j : Job) (jid : Nat) (n : Nat) (ok : Bool) (hK : Keeps s₀ s) : Keeps s₀ (State.commitFlags s g j jid n ok) := by
  unfold State.commitFlags
  repeat' first
    | (with_reducible first | intro _ | assumption | apply keeps_ite | apply keeps_foldl | apply keeps_ite_fst)
    | (with_reducible first | apply keeps_foldl_fst | apply keeps_State_emit | apply keeps_State_nodeFlags) | dsimp only
    | (refine keeps_of_eq (by assumption) ?_) | split | (refine keeps_mk ?_ rfl rfl rfl rfl rfl rfl rfl rfl rfl rfl rfl rfl)

theorem keeps_State_commitFor {s₀ : State} {s : State} (g : Graph) (j : Job) (n : Nat) (c : Commit) (hK : Keeps s₀ s) : Keeps s₀ (State.commitFor s g j n c).1 := by
  unfold State.commitFor
  repeat' first
    | (with_reducible first | assumption | apply keeps_ite | apply keeps_ite_fst | apply keeps_State_wdReport)
    | (with_reducible first | apply keeps_State_commitEnter | apply keeps_State_commitReport | apply keeps_State_commitFlags)
    | (with_reducible first | apply keeps_State_retireJob) | dsimp only | (refine keeps_of_eq (by assumption) ?_)
    | (refine keeps_of_eq_snd (by assumption) ?_) | split | (refine keeps_mk ?_ rfl rfl rfl rfl rfl rfl rfl rfl rfl rfl rfl rfl)

theorem keeps_State_commitStep {s₀ : State} {s : State} (jid : Nat) (n : Nat) (c : Commit) (hK : Keeps s₀ s) : Keeps s₀ (State.commitStep s jid n c).1 := by
  unfold State.commitStep
  repeat' first
    | (with_reducible first | assumption | apply keeps_ite | apply keeps_ite_fst | apply keeps_State_raiseLate)
    | (with_reducible first | apply keeps_State_commitFor) | dsimp only | (refine keeps_of_eq (by assumption) ?_) | split
    | (refine keeps_mk ?_ rfl rfl rfl rfl rfl rfl rfl rfl rfl rfl rfl rfl)

theorem keeps_State_skipStep {s₀ : State} {s : State} (jid : Nat) (n : Nat) (hK : Keeps s₀ s) : Keeps s₀ (State.skipStep s jid n).1 := by
  unfold State.skipStep
  repeat' first
    | (with_reducible first | assumption | apply keeps_ite | apply keeps_ite_fst | apply keeps_State_cause)
    | (with_reducible first | apply keeps_State_endTask | apply keeps_State_commitStep) | dsimp only
    | (refine keeps_of_eq (by assumption) ?_) | split | (refine keeps_mk ?_ rfl rfl rfl rfl rfl rfl rfl rfl rfl rfl rfl rfl)

theorem keeps_State_cqSeen {s₀ : State} {s : State} (p : Nat) (f : WaitRec → Bool) (hK : Keeps s₀ s) : Keeps s₀ (State.cqSeen s p f) := by
  unfold State.cqSeen
  repeat' first
    | (with_reducible first | intro _ | assumption | apply keeps_ite | apply keeps_ite_fst | apply keeps_State_setCqWaiting) | dsimp only
    | split | (refine keeps_mk ?_ rfl rfl rfl rfl rfl rfl rfl rfl rfl rfl rfl rfl)

theorem keeps_State_abortStep {s₀ : State} {s : State} (jid : Nat) (n : Nat) (hK : Keeps s₀ s) : Keeps s₀ (State.abortStep s jid n).1 := by
  unfold State.abortStep
  repeat' first
    | (with_reducible first | intro _ | assumption | apply keeps_ite | apply keeps_ite_fst | apply keeps_State_cqSeen)
    | (with_reducible first | apply keeps_State_commitStep | apply keeps_State_modTask | apply keeps_State_engStop)
    | (with_reducible first | apply keeps_State_stopEngine | apply keeps_State_endTask) | dsimp only
    | (refine keeps_of_eq (by assumption) ?_) | (refine keeps_of_eq_snd (by assumption) ?_) | split
    | (refine keeps_mk ?_ rfl rfl rfl rfl rfl rfl rfl rfl rfl rfl rfl rfl)

theorem keeps_State_joinTake {s₀ : State} {s : State} (g : Graph) (jid : Nat) (n : Nat) (e : Nat) (hK : Keeps s₀ s) : Keeps s₀ (State.joinTake s g jid n e) := by
  unfold State.joinTake
  repeat' first
    | (with_reducible first | intro _ | assumption | apply keeps_ite | apply keeps_ite_fst | apply keeps_State_holdSlot)
    | (with_reducible first | apply keeps_State_modJob) | dsimp only | (refine keeps_of_eq (by assumption) ?_) | split
    | (refine keeps_mk ?_ rfl rfl rfl rfl rfl rfl rfl rfl rfl rfl rfl rfl)

theorem keeps_State_joinCommit {s₀ : State} {s : State} (g : Graph) (jid : Nat) (n : Nat) (cnt : Nat) (miss : List Nat) (hK : Keeps s₀ s) : Keeps s₀ (State.joinCommit s g jid n cnt miss).1 := by
  unfold State.joinCommit
  repeat' first
    | (with_reducible first | intro _ | assumption | apply keeps_ite | apply keeps_ite_fst | apply keeps_State_modJob)
    | (with_reducible first | apply keeps_State_commitStep) | dsimp only | (refine keeps_of_eq (by assumption) ?_)
    | (refine keeps_of_eq_snd (by assumption) ?_) | split | (refine keeps_mk ?_ rfl rfl rfl rfl rfl rfl rfl rfl rfl rfl rfl rfl)

theorem keeps_State_joinStep {s₀ : State} {s : State} (jid : Nat) (n : Nat) (hK : Keeps s₀ s) : Keeps s₀ (State.joinStep s jid n).1 := by
  unfold State.joinStep
  repeat' first
    | (with_reducible first | intro _ | assumption | apply keeps_ite | apply keeps_foldl | apply keeps_ite_fst)
    | (with_reducible first | apply keeps_foldl_fst | apply keeps_State_skipStep | apply keeps_State_joinTake)
    | (with_reducible first | apply keeps_State_joinCommit) | dsimp only | (refine keeps_of_eq (by assumption) ?_) | split
    | (refine keeps_mk ?_ rfl rfl rfl rfl rfl rfl rfl rfl rfl rfl rfl rfl)

theorem keeps_State_todo {s₀ : State} {s : State} (n : Nat) (l : List Todo) (hK : Keeps s₀ s) : Keeps s₀ (State.todo n l s) := by
  induction n generalizing s l with
  | zero =>
    unfold State.todo
    exact hK
  | succ n ih =>
    cases l with
    | nil =>
      unfold State.todo
      exact hK
    | cons x l =>
      unfold State.todo
      apply ih
      cases x
      · exact keeps_State_commitStep _ _ _ hK
      · exact keeps_State_skipStep _ _ hK
      · exact keeps_State_abortStep _ _ hK
      · exact keeps_State_joinStep _ _ hK

theorem keeps_State_doTodo {s₀ : State} {s : State} (l : List Todo) (hK : Keeps s₀ s) : Keeps s₀ (State.doTodo s l) :=
  keeps_State_todo _ _ hK

theorem keeps_State_commitNode {s₀ : State} {s : State} (j : Nat) (n : Nat) (c : Commit) (hK : Keeps s₀ s) : Keeps s₀ (State.commitNode s j n c) := by
  unfold State.commitNode
  repeat' first
    | (with_reducible first | assumption | apply keeps_State_doTodo) | dsimp only
    | (refine keeps_mk ?_ rfl rfl rfl rfl rfl rfl rfl rfl rfl rfl rfl rfl)

theorem keeps_State_joinsOf {s₀ : State} {s : State} (st : Nat) (hK : Keeps s₀ s) : Keeps s₀ (State.joinsOf s st) := by
  unfold State.joinsOf
  repeat' first
    | (with_reducible first | intro _ | assumption | apply keeps_State_doTodo) | dsimp only | (refine keeps_of_eq (by assumption) ?_)
    | split | (refine keeps_mk ?_ rfl rfl rfl rfl rfl rfl rfl rfl rfl rfl rfl rfl)

theorem keeps_State_frameLanded {s₀ : State} {s : State} (st : Nat) (k : Nat) (hK : Keeps s₀ s) : Keeps s₀ (State.frameLanded s st k) := by
  unfold State.frameLanded
  repeat' first
    | (with_reducible first | assumption | apply keeps_State_fgsFrame | apply keeps_State_joinsOf) | dsimp only
    | (refine keeps_mk ?_ rfl rfl rfl rfl rfl rfl rfl rfl rfl rfl rfl rfl)

theorem keeps_State_finishTask {s₀ : State} {s : State} (i : Nat) (c : Commit) (hK : Keeps s₀ s) : Keeps s₀ (State.finishTask s i c) := by
  unfold State.finishTask
  repeat' first
    | (with_reducible first | assumption | apply keeps_State_endTask | apply keeps_State_commitNode)
    | (with_reducible first | apply keeps_State_commitSoftware | apply keeps_State_releaseTask) | dsimp only
    | (refine keeps_of_eq (by assumption) ?_) | split | (refine keeps_mk ?_ rfl rfl rfl rfl rfl rfl rfl rfl rfl rfl rfl rfl)

theorem keeps_State_abortOn {s₀ : State} {s : State} (ag : Agent) (id : Nat) (status : Nat) (hK : Keeps s₀ s) : Keeps s₀ (State.abortOn s ag id status) := by
  unfold State.abortOn
  repeat' first
    | (with_reducible first | intro _ | assumption | apply keeps_ite | apply keeps_ite_fst | apply keeps_State_refuse)
    | (with_reducible first | apply keeps_State_setFld | apply keeps_State_doTodo | apply keeps_State_cqSeen) | dsimp only
    | (refine keeps_of_eq (by assumption) ?_) | split | (refine keeps_mk ?_ rfl rfl rfl rfl rfl rfl rfl rfl rfl rfl rfl rfl)

theorem keeps_State_yieldEngine {s₀ : State} {s : State} (i : Nat) (id : Nat) (cnt : Nat) (progress : Nat) (hK : Keeps s₀ s) : Keeps s₀ (State.yieldEngine s i id cnt progress) := by
  unfold State.yieldEngine
  repeat' first
    | (with_reducible first | intro _ | assumption | apply keeps_State_modTask | apply keeps_State_ringsLeft)
    | (with_reducible first | apply keeps_State_bump | apply keeps_State_yieldTask) | dsimp only
    | (refine keeps_mk ?_ rfl rfl rfl rfl rfl rfl rfl rfl rfl rfl rfl rfl)

theorem keeps_State_failTask {s₀ : State} {s : State} (i : Nat) (status : Nat) (hK : Keeps s₀ s) : Keeps s₀ (State.failTask s i status) := by
  unfold State.failTask
  repeat' first
    | (with_reducible first | assumption | apply keeps_State_engStop | apply keeps_State_stopEngine | apply keeps_State_finishTask)
    | dsimp only | (refine keeps_of_eq (by assumption) ?_) | split | (refine keeps_mk ?_ rfl rfl rfl rfl rfl rfl rfl rfl rfl rfl rfl rfl)

end Sys2Proof.Machine
end

