-- ==== Sys2Proof/Laws/KeepsGraph.lean ====
section
/-! SUPPORT. One lemma per operation: what it keeps (Laws/Keeps.lean). Here: EMIT, DMA, derating, security, neural runs, PCI Express, frame graphs, management commands, the tensor unit, GPIO, ISP and engine commands. -/

namespace Sys2Proof.Machine

theorem keeps_State_emitPayload {s₀ : State} {s : State} (i : Nat) (a : List Word) (hK : Keeps s₀ s) : Keeps s₀ (State.emitPayload s i a).1 := by
  unfold State.emitPayload
  repeat' first
    | (with_reducible first | intro _ | assumption | apply keeps_ite | apply keeps_ite_fst | apply keeps_State_startTask)
    | (with_reducible first | apply keeps_State_readTensors | apply keeps_State_draw) | dsimp only
    | (refine keeps_of_eq (by assumption) ?_) | (refine keeps_of_eq_snd (by assumption) ?_) | split
    | (refine keeps_mk ?_ rfl rfl rfl rfl rfl rfl rfl rfl rfl rfl rfl rfl)

theorem keeps_State_emitEnd {s₀ : State} {s : State} (i : Nat) (status : Nat) (cnt : Nat) (hK : Keeps s₀ s) : Keeps s₀ (State.emitEnd s i status cnt) := by
  unfold State.emitEnd
  repeat' first
    | (with_reducible first | assumption | apply keeps_State_draw | apply keeps_State_finishTask) | dsimp only
    | (refine keeps_of_eq (by assumption) ?_) | (refine keeps_of_eq_snd (by assumption) ?_) | split
    | (refine keeps_mk ?_ rfl rfl rfl rfl rfl rfl rfl rfl rfl rfl rfl rfl)

theorem keeps_State_emitDiscard {s₀ : State} {s : State} (i : Nat) (q : Nat) (hK : Keeps s₀ s) : Keeps s₀ (State.emitDiscard s i q) := by
  unfold State.emitDiscard
  repeat' first
    | (with_reducible first | assumption | apply keeps_State_dropResult | apply keeps_State_bump | apply keeps_State_emitEnd)
    | dsimp only | (refine keeps_mk ?_ rfl rfl rfl rfl rfl rfl rfl rfl rfl rfl rfl rfl)

theorem keeps_State_emit {s₀ : State} {s : State} (i : Nat) (hK : Keeps s₀ s) : Keeps s₀ (State.emit s i) := by
  unfold State.emit
  repeat' first
    | (with_reducible first | assumption | apply keeps_ite | apply keeps_ite_fst | apply keeps_State_emitPayload)
    | (with_reducible first | apply keeps_State_newResult | apply keeps_State_emitDiscard | apply keeps_State_dropResult)
    | (with_reducible first | apply keeps_State_emitEnd | apply keeps_State_writeResult) | dsimp only
    | (refine keeps_of_eq (by assumption) ?_) | (refine keeps_of_eq_snd (by assumption) ?_) | split
    | (refine keeps_mk ?_ rfl rfl rfl rfl rfl rfl rfl rfl rfl rfl rfl rfl)

theorem keeps_State_emitDrop {s₀ : State} {s : State} (e : WaitEmit) (hK : Keeps s₀ s) : Keeps s₀ (State.emitDrop s e) := by
  unfold State.emitDrop
  repeat' first
    | (with_reducible first | assumption | apply keeps_State_emitDiscard) | dsimp only | (refine keeps_of_eq (by assumption) ?_) | split
    | (refine keeps_mk ?_ rfl rfl rfl rfl rfl rfl rfl rfl rfl rfl rfl rfl)

theorem keeps_State_emitResume {s₀ : State} {s : State} (q : Nat) (n : Nat)  (hK : Keeps s₀ s) : Keeps s₀ (State.emitResume s q n) := by
  induction n generalizing s  with
  | zero =>
    unfold State.emitResume
    repeat' first
      | (with_reducible first | intro _ | assumption | apply ih | apply keeps_ite | apply keeps_ite_fst | apply keeps_State_emitDrop)
      | (with_reducible first | apply keeps_State_writeResult | apply keeps_State_dropResult | apply keeps_State_emitEnd) | dsimp only
      | (refine keeps_of_eq (by assumption) ?_) | split | (refine keeps_mk ?_ rfl rfl rfl rfl rfl rfl rfl rfl rfl rfl rfl rfl)
  | succ n ih =>
    unfold State.emitResume
    repeat' first
      | (with_reducible first | intro _ | assumption | apply ih | apply keeps_ite | apply keeps_ite_fst | apply keeps_State_emitDrop)
      | (with_reducible first | apply keeps_State_writeResult | apply keeps_State_dropResult | apply keeps_State_emitEnd) | dsimp only
      | (refine keeps_of_eq (by assumption) ?_) | split | (refine keeps_mk ?_ rfl rfl rfl rfl rfl rfl rfl rfl rfl rfl rfl rfl)

theorem keeps_State_emitExpire {s₀ : State} {s : State} (hK : Keeps s₀ s) : Keeps s₀ (State.emitExpire s) := by
  unfold State.emitExpire
  repeat' first
    | (with_reducible first | intro _ | assumption | apply keeps_ite | apply keeps_foldl | apply keeps_ite_fst)
    | (with_reducible first | apply keeps_foldl_fst | apply keeps_State_emitDrop) | dsimp only | split
    | (refine keeps_mk ?_ rfl rfl rfl rfl rfl rfl rfl rfl rfl rfl rfl rfl)

theorem keeps_State_dmaPayload {s₀ : State} {s : State} (e : Nat) (c : Nat) (bs : List Byte) (hK : Keeps s₀ s) : Keeps s₀ (State.dmaPayload s e c bs).1 := by
  unfold State.dmaPayload
  repeat' first
    | (with_reducible first | assumption | apply keeps_ite | apply keeps_ite_fst | apply keeps_State_draw) | dsimp only
    | (refine keeps_of_eq (by assumption) ?_) | (refine keeps_of_eq_snd (by assumption) ?_) | split
    | (refine keeps_mk ?_ rfl rfl rfl rfl rfl rfl rfl rfl rfl rfl rfl rfl)

theorem keeps_State_dmaShow {s₀ : State} {s : State} (e : Nat) (c : Nat) (hK : Keeps s₀ s) : Keeps s₀ (State.dmaShow s e c) := by
  unfold State.dmaShow
  repeat' first
    | (with_reducible first | assumption | apply keeps_ite | apply keeps_ite_fst | apply keeps_State_setReg) | dsimp only | split
    | (refine keeps_mk ?_ rfl rfl rfl rfl rfl rfl rfl rfl rfl rfl rfl rfl)

theorem keeps_State_dmaRewind {s₀ : State} {s : State} (e : Nat) (c : Nat) (hK : Keeps s₀ s) : Keeps s₀ (State.dmaRewind s e c) := by
  unfold State.dmaRewind
  repeat' first
    | (with_reducible first | intro _ | assumption | apply keeps_State_setEng | apply keeps_State_modChan) | dsimp only
    | (refine keeps_mk ?_ rfl rfl rfl rfl rfl rfl rfl rfl rfl rfl rfl rfl)

theorem keeps_State_dmaCqIrq {s₀ : State} {s : State} (e : Nat) (hK : Keeps s₀ s) : Keeps s₀ (State.dmaCqIrq s e) := by
  unfold State.dmaCqIrq
  repeat' first
    | (with_reducible first | assumption | apply keeps_State_irqSet) | dsimp only
    | (refine keeps_mk ?_ rfl rfl rfl rfl rfl rfl rfl rfl rfl rfl rfl rfl)

theorem keeps_State_dmaCqWrite {s₀ : State} {s : State} (e : Nat) (ws : List Word) (hK : Keeps s₀ s) : Keeps s₀ (State.dmaCqWrite s e ws).1 := by
  unfold State.dmaCqWrite
  repeat' first
    | (with_reducible first | assumption | apply keeps_ite | apply keeps_ite_fst | apply keeps_State_outWrite)
    | (with_reducible first | apply keeps_State_dramWrite | apply keeps_State_setReg | apply keeps_State_dmaCqIrq)
    | (with_reducible first | apply keeps_State_vector | apply keeps_State_setFlag) | dsimp only
    | (refine keeps_of_eq (by assumption) ?_) | (refine keeps_of_eq_snd (by assumption) ?_) | split
    | (refine keeps_mk ?_ rfl rfl rfl rfl rfl rfl rfl rfl rfl rfl rfl rfl)

theorem keeps_State_dmaWritten {s₀ : State} {s : State} (e : Nat) (chan : Option Nat) (hK : Keeps s₀ s) : Keeps s₀ (State.dmaWritten s e chan) := by
  unfold State.dmaWritten
  repeat' first
    | (with_reducible first | assumption | apply keeps_State_chEnd | apply keeps_State_setFlag) | dsimp only
    | (refine keeps_of_eq (by assumption) ?_) | split | (refine keeps_mk ?_ rfl rfl rfl rfl rfl rfl rfl rfl rfl rfl rfl rfl)

theorem keeps_State_dmaCqPush {s₀ : State} {s : State} (e : Nat) (ws : List Word) (chan : Option Nat) (hK : Keeps s₀ s) : Keeps s₀ (State.dmaCqPush s e ws chan) := by
  unfold State.dmaCqPush
  repeat' first
    | (with_reducible first | assumption | apply keeps_ite | apply keeps_ite_fst | apply keeps_State_setFlag)
    | (with_reducible first | apply keeps_State_setChState | apply keeps_State_setEng | apply keeps_State_dmaCqWrite)
    | (with_reducible first | apply keeps_State_dmaWritten) | dsimp only | (refine keeps_of_eq (by assumption) ?_)
    | (refine keeps_of_eq_snd (by assumption) ?_) | split | (refine keeps_mk ?_ rfl rfl rfl rfl rfl rfl rfl rfl rfl rfl rfl rfl)

theorem keeps_State_dmaCqRetry {s₀ : State} {s : State} (e : Nat) (n : Nat)  (hK : Keeps s₀ s) : Keeps s₀ (State.dmaCqRetry s e n) := by
  induction n generalizing s  with
  | zero =>
    unfold State.dmaCqRetry
    repeat' first
      | (with_reducible first | intro _ | assumption | apply ih | apply keeps_ite | apply keeps_ite_fst)
      | (with_reducible first | apply keeps_State_dmaCqWrite | apply keeps_State_setEng | apply keeps_State_dmaWritten) | dsimp only
      | (refine keeps_of_eq (by assumption) ?_) | (refine keeps_of_eq_snd (by assumption) ?_) | split
      | (refine keeps_mk ?_ rfl rfl rfl rfl rfl rfl rfl rfl rfl rfl rfl rfl)
  | succ n ih =>
    unfold State.dmaCqRetry
    repeat' first
      | (with_reducible first | intro _ | assumption | apply ih | apply keeps_ite | apply keeps_ite_fst)
      | (with_reducible first | apply keeps_State_dmaCqWrite | apply keeps_State_setEng | apply keeps_State_dmaWritten) | dsimp only
      | (refine keeps_of_eq (by assumption) ?_) | (refine keeps_of_eq_snd (by assumption) ?_) | split
      | (refine keeps_mk ?_ rfl rfl rfl rfl rfl rfl rfl rfl rfl rfl rfl rfl)

theorem keeps_State_dmaCommit {s₀ : State} {s : State} (e : Nat) (c : Nat) (status : Nat) (abortSeen : Bool) (hK : Keeps s₀ s) : Keeps s₀ (State.dmaCommit s e c status abortSeen) := by
  unfold State.dmaCommit
  repeat' first
    | (with_reducible first | intro _ | assumption | apply keeps_ite | apply keeps_ite_fst | apply keeps_State_bump)
    | (with_reducible first | apply keeps_State_setFld | apply keeps_State_setEng | apply keeps_State_chEnd)
    | (with_reducible first | apply keeps_State_dmaCredits | apply keeps_State_finishTask | apply keeps_State_dmaCqPush)
    | (with_reducible first | apply keeps_State_trigWhere) | dsimp only | (refine keeps_of_eq (by assumption) ?_) | split
    | (refine keeps_mk ?_ rfl rfl rfl rfl rfl rfl rfl rfl rfl rfl rfl rfl)

theorem keeps_State_dmaDescEnd {s₀ : State} {s : State} (e : Nat) (c : Nat) (hK : Keeps s₀ s) : Keeps s₀ (State.dmaDescEnd s e c) := by
  unfold State.dmaDescEnd
  repeat' first
    | (with_reducible first | intro _ | assumption | apply keeps_ite | apply keeps_ite_fst | apply keeps_State_modChan)
    | (with_reducible first | apply keeps_State_setFlag | apply keeps_State_dmaCommit) | dsimp only | split
    | (refine keeps_mk ?_ rfl rfl rfl rfl rfl rfl rfl rfl rfl rfl rfl rfl)

theorem keeps_State_dmaErrEnd {s₀ : State} {s : State} (e : Nat) (hK : Keeps s₀ s) : Keeps s₀ (State.dmaErrEnd s e) := by
  unfold State.dmaErrEnd
  repeat' first
    | (with_reducible first | intro _ | assumption | apply keeps_ite | apply keeps_foldl | apply keeps_ite_fst)
    | (with_reducible first | apply keeps_foldl_fst | apply keeps_State_setEng | apply keeps_State_dmaRewind)
    | (with_reducible first | apply keeps_State_setReg | apply keeps_State_dmaCqPush | apply keeps_State_dmaCommit) | dsimp only
    | (refine keeps_of_eq (by assumption) ?_) | split | (refine keeps_mk ?_ rfl rfl rfl rfl rfl rfl rfl rfl rfl rfl rfl rfl)

theorem keeps_State_dmaBusError {s₀ : State} {s : State} (e : Nat) (x : DmaErr) (hK : Keeps s₀ s) : Keeps s₀ (State.dmaBusError s e x) := by
  unfold State.dmaBusError
  repeat' first
    | (with_reducible first | intro _ | assumption | apply keeps_ite | apply keeps_foldl | apply keeps_ite_fst)
    | (with_reducible first | apply keeps_foldl_fst | apply keeps_State_bump | apply keeps_State_dmaErrEnd)
    | (with_reducible first | apply keeps_State_setFlag | apply keeps_State_modChan | apply keeps_State_setChState)
    | (with_reducible first | apply keeps_State_setEng | apply keeps_State_dmaCredits) | dsimp only | split
    | (refine keeps_mk ?_ rfl rfl rfl rfl rfl rfl rfl rfl rfl rfl rfl rfl)

theorem keeps_State_dmaFrom {s₀ : State} {s : State} (e : Nat) (space : Nat) (core : Nat) (a : Nat) (n : Nat) (ext : List Byte) (transient : Bool) (hK : Keeps s₀ s) : Keeps s₀ (State.dmaFrom s e space core a n ext transient).1 := by
  unfold State.dmaFrom
  repeat' first
    | (with_reducible first | assumption | apply keeps_ite | apply keeps_ite_fst | apply keeps_State_dramRead)
    | (with_reducible first | apply keeps_State_badBlock | apply keeps_State_spmRead) | dsimp only
    | (refine keeps_of_eq (by assumption) ?_) | (refine keeps_of_eq_snd (by assumption) ?_) | split
    | (refine keeps_mk ?_ rfl rfl rfl rfl rfl rfl rfl rfl rfl rfl rfl rfl)

theorem keeps_State_dmaTo {s₀ : State} {s : State} (e : Nat) (space : Nat) (core : Nat) (a : Nat) (bs : List Byte) (hK : Keeps s₀ s) : Keeps s₀ (State.dmaTo s e space core a bs).1 := by
  unfold State.dmaTo
  repeat' first
    | (with_reducible first | assumption | apply keeps_ite | apply keeps_ite_fst | apply keeps_State_dramWrite)
    | (with_reducible first | apply keeps_State_outWrite | apply keeps_State_spmWrite) | dsimp only
    | (refine keeps_of_eq (by assumption) ?_) | split | (refine keeps_mk ?_ rfl rfl rfl rfl rfl rfl rfl rfl rfl rfl rfl rfl)

theorem keeps_State_dmaFlush {s₀ : State} {s : State} (e c : Nat) (n : Nat)  (hK : Keeps s₀ s) : Keeps s₀ (State.dmaFlush s e c n) := by
  induction n generalizing s  with
  | zero =>
    unfold State.dmaFlush
    repeat' first
      | (with_reducible first | intro _ | assumption | apply ih | apply keeps_ite | apply keeps_ite_fst)
      | (with_reducible first | apply keeps_State_dmaCommit | apply keeps_State_dmaPayload | apply keeps_State_dmaTo)
      | (with_reducible first | apply keeps_State_setEng | apply keeps_State_setReg | apply keeps_State_dmaShow)
      | (with_reducible first | apply keeps_State_dmaBusError) | dsimp only | (refine keeps_of_eq (by assumption) ?_)
      | (refine keeps_of_eq_snd (by assumption) ?_) | split | (refine keeps_mk ?_ rfl rfl rfl rfl rfl rfl rfl rfl rfl rfl rfl rfl)
  | succ n ih =>
    unfold State.dmaFlush
    repeat' first
      | (with_reducible first | intro _ | assumption | apply ih | apply keeps_ite | apply keeps_ite_fst)
      | (with_reducible first | apply keeps_State_dmaCommit | apply keeps_State_dmaPayload | apply keeps_State_dmaTo)
      | (with_reducible first | apply keeps_State_setEng | apply keeps_State_setReg | apply keeps_State_dmaShow)
      | (with_reducible first | apply keeps_State_dmaBusError) | dsimp only | (refine keeps_of_eq (by assumption) ?_)
      | (refine keeps_of_eq_snd (by assumption) ?_) | split | (refine keeps_mk ?_ rfl rfl rfl rfl rfl rfl rfl rfl rfl rfl rfl rfl)

theorem keeps_State_dmaSettle {s₀ : State} {s : State} (e : Nat) (c : Nat) (hK : Keeps s₀ s) : Keeps s₀ (State.dmaSettle s e c) := by
  unfold State.dmaSettle
  repeat' first
    | (with_reducible first | assumption | apply keeps_ite | apply keeps_ite_fst | apply keeps_State_dmaCommit)
    | (with_reducible first | apply keeps_State_dmaDescEnd | apply keeps_State_setChState | apply keeps_State_dmaCredits)
    | (with_reducible first | apply keeps_State_dmaErrEnd) | dsimp only | split
    | (refine keeps_mk ?_ rfl rfl rfl rfl rfl rfl rfl rfl rfl rfl rfl rfl)

theorem keeps_State_dmaWriter {s₀ : State} {s : State} (ag : Agent) (e : Nat) (f : State → State) (hK : Keeps s₀ s) (hf : ∀ (x0 : State), Keeps s₀ x0 → Keeps s₀ (f x0)) : Keeps s₀ (State.dmaWriter s ag e f) := by
  unfold State.dmaWriter
  repeat' first
    | (with_reducible first | intro _ | assumption | apply hf | apply keeps_ite | apply keeps_ite_fst | apply keeps_State_refuse)
    | dsimp only | split | (refine keeps_mk ?_ rfl rfl rfl rfl rfl rfl rfl rfl rfl rfl rfl rfl)

theorem keeps_State_dmaUntrig {s₀ : State} {s : State} (e : Nat) (c : Nat) (hK : Keeps s₀ s) : Keeps s₀ (State.dmaUntrig s e c) := by
  unfold State.dmaUntrig
  repeat' first
    | (with_reducible first | intro _ | assumption | apply keeps_State_setFlag | apply keeps_State_modChan) | dsimp only
    | (refine keeps_mk ?_ rfl rfl rfl rfl rfl rfl rfl rfl rfl rfl rfl rfl)

theorem keeps_dmaCfgOp {s₀ : State} (ag : Agent) (e : Nat) (c : Nat) (v : Word) {s : State} (hK : Keeps s₀ s) : Keeps s₀ (dmaCfgOp ag e c v s) := by
  unfold dmaCfgOp
  repeat' first
    | (with_reducible first | intro _ | assumption | apply keeps_ite | apply keeps_ite_fst | apply keeps_State_dmaWriter)
    | (with_reducible first | apply keeps_State_setReg | apply keeps_State_dmaUntrig | apply keeps_State_setChState)
    | (with_reducible first | apply keeps_State_refuse | apply keeps_State_chEnter | apply keeps_State_dmaWatch) | dsimp only
    | (refine keeps_of_eq (by assumption) ?_) | split | (refine keeps_mk ?_ rfl rfl rfl rfl rfl rfl rfl rfl rfl rfl rfl rfl)

theorem keeps_dmaStartOp {s₀ : State} (ag : Agent) (e : Nat) (c : Nat) {s : State} (hK : Keeps s₀ s) : Keeps s₀ (dmaStartOp ag e c s) := by
  unfold dmaStartOp
  repeat' first
    | (with_reducible first | intro _ | assumption | apply keeps_ite | apply keeps_ite_fst | apply keeps_State_dmaWriter)
    | (with_reducible first | apply keeps_State_chTrigger) | dsimp only | split
    | (refine keeps_mk ?_ rfl rfl rfl rfl rfl rfl rfl rfl rfl rfl rfl rfl)

theorem keeps_dmaPauseOp {s₀ : State} (ag : Agent) (e : Nat) (c : Nat) {s : State} (hK : Keeps s₀ s) : Keeps s₀ (dmaPauseOp ag e c s) := by
  unfold dmaPauseOp
  repeat' first
    | (with_reducible first | intro _ | assumption | apply keeps_ite | apply keeps_ite_fst | apply keeps_State_dmaWriter)
    | (with_reducible first | apply keeps_State_modChan | apply keeps_State_setChState | apply keeps_State_dmaCredits)
    | (with_reducible first | apply keeps_State_setFlag) | dsimp only | split
    | (refine keeps_mk ?_ rfl rfl rfl rfl rfl rfl rfl rfl rfl rfl rfl rfl)

theorem keeps_dmaResumeOp {s₀ : State} (ag : Agent) (e : Nat) (c : Nat) {s : State} (hK : Keeps s₀ s) : Keeps s₀ (dmaResumeOp ag e c s) := by
  unfold dmaResumeOp
  repeat' first
    | (with_reducible first | intro _ | assumption | apply keeps_ite | apply keeps_ite_fst | apply keeps_State_dmaWriter)
    | (with_reducible first | apply keeps_State_setChState | apply keeps_State_chEnter) | dsimp only | split
    | (refine keeps_mk ?_ rfl rfl rfl rfl rfl rfl rfl rfl rfl rfl rfl rfl)

theorem keeps_dmaAbortOp {s₀ : State} (ag : Agent) (e : Nat) (c : Nat) {s : State} (hK : Keeps s₀ s) : Keeps s₀ (dmaAbortOp ag e c s) := by
  unfold dmaAbortOp
  repeat' first
    | (with_reducible first | intro _ | assumption | apply keeps_ite | apply keeps_ite_fst | apply keeps_State_dmaWriter)
    | (with_reducible first | apply keeps_State_setFld | apply keeps_State_dmaUntrig | apply keeps_State_setEng)
    | (with_reducible first | apply keeps_State_modChan | apply keeps_State_dmaCommit) | dsimp only | split
    | (refine keeps_mk ?_ rfl rfl rfl rfl rfl rfl rfl rfl rfl rfl rfl rfl)

theorem keeps_dmaRestartOp {s₀ : State} (ag : Agent) (e : Nat) {s : State} (hK : Keeps s₀ s) : Keeps s₀ (dmaRestartOp ag e s) := by
  unfold dmaRestartOp
  repeat' first
    | (with_reducible first | intro _ | assumption | apply keeps_ite | apply keeps_foldl | apply keeps_ite_fst)
    | (with_reducible first | apply keeps_foldl_fst | apply keeps_State_dmaWriter | apply keeps_State_setFlag)
    | (with_reducible first | apply keeps_State_setChState | apply keeps_State_chEnter | apply keeps_State_dmaSettle) | dsimp only
    | split | (refine keeps_mk ?_ rfl rfl rfl rfl rfl rfl rfl rfl rfl rfl rfl rfl)

theorem keeps_dmaEnableOp {s₀ : State} (ag : Agent) (e : Nat) (on : Bool) {s : State} (hK : Keeps s₀ s) : Keeps s₀ (dmaEnableOp ag e on s) := by
  unfold dmaEnableOp
  repeat' first
    | (with_reducible first | intro _ | assumption | apply keeps_ite | apply keeps_foldl | apply keeps_ite_fst)
    | (with_reducible first | apply keeps_foldl_fst | apply keeps_State_dmaWriter | apply keeps_State_setFlag)
    | (with_reducible first | apply keeps_State_chEnter) | dsimp only | split
    | (refine keeps_mk ?_ rfl rfl rfl rfl rfl rfl rfl rfl rfl rfl rfl rfl)

theorem keeps_dmaClearOp {s₀ : State} (ag : Agent) (e : Nat) {s : State} (hK : Keeps s₀ s) : Keeps s₀ (dmaClearOp ag e s) := by
  unfold dmaClearOp
  repeat' first
    | (with_reducible first | intro _ | assumption | apply keeps_State_dmaWriter | apply keeps_State_zeroRegs) | dsimp only
    | (refine keeps_mk ?_ rfl rfl rfl rfl rfl rfl rfl rfl rfl rfl rfl rfl)

theorem keeps_dmaCqWriteOp {s₀ : State} (ag : Agent) (e : Nat) (k : Nat) (v : Word) {s : State} (hK : Keeps s₀ s) : Keeps s₀ (dmaCqWriteOp ag e k v s) := by
  unfold dmaCqWriteOp
  repeat' first
    | (with_reducible first | intro _ | assumption | apply keeps_State_dmaWriter | apply keeps_State_setReg)
    | (with_reducible first | apply keeps_State_dmaCqRetry | apply keeps_State_dmaCqIrq) | dsimp only
    | (refine keeps_of_eq (by assumption) ?_) | split | (refine keeps_mk ?_ rfl rfl rfl rfl rfl rfl rfl rfl rfl rfl rfl rfl)

theorem keeps_State_dmaDescRead {s₀ : State} {s : State} (e c a : Nat) (n : Nat)  (hK : Keeps s₀ s) : Keeps s₀ (State.dmaDescRead s e c a n).1 := by
  induction n generalizing s  with
  | zero =>
    unfold State.dmaDescRead
    repeat' first
      | (with_reducible first | intro _ | assumption | apply ih | apply keeps_ite | apply keeps_ite_fst | apply keeps_State_dramRead)
      | (with_reducible first | apply keeps_State_bump | apply keeps_State_modChan) | dsimp only | (refine keeps_of_eq (by assumption) ?_)
      | (refine keeps_of_eq_snd (by assumption) ?_) | split | (refine keeps_mk ?_ rfl rfl rfl rfl rfl rfl rfl rfl rfl rfl rfl rfl)
  | succ n ih =>
    unfold State.dmaDescRead
    repeat' first
      | (with_reducible first | intro _ | assumption | apply ih | apply keeps_ite | apply keeps_ite_fst | apply keeps_State_dramRead)
      | (with_reducible first | apply keeps_State_bump | apply keeps_State_modChan) | dsimp only | (refine keeps_of_eq (by assumption) ?_)
      | (refine keeps_of_eq_snd (by assumption) ?_) | split | (refine keeps_mk ?_ rfl rfl rfl rfl rfl rfl rfl rfl rfl rfl rfl rfl)

theorem keeps_State_dmaHeadless {s₀ : State} {s : State} (e : Nat) (c : Nat) (hK : Keeps s₀ s) : Keeps s₀ (State.dmaHeadless s e c) := by
  unfold State.dmaHeadless
  repeat' first
    | (with_reducible first | intro _ | assumption | apply keeps_ite | apply keeps_ite_fst | apply keeps_State_draw)
    | (with_reducible first | apply keeps_State_modChan) | dsimp only | (refine keeps_of_eq (by assumption) ?_)
    | (refine keeps_of_eq_snd (by assumption) ?_) | split | (refine keeps_mk ?_ rfl rfl rfl rfl rfl rfl rfl rfl rfl rfl rfl rfl)

theorem keeps_dmaFetchOp {s₀ : State} (e : Nat) (c : Nat) {s : State} (hK : Keeps s₀ s) : Keeps s₀ (dmaFetchOp e c s) := by
  unfold dmaFetchOp
  repeat' first
    | (with_reducible first | intro _ | assumption | apply keeps_ite | apply keeps_ite_fst | apply keeps_State_dmaHeadless)
    | (with_reducible first | apply keeps_State_dmaCommit | apply keeps_State_dmaDescRead | apply keeps_State_dmaBusError)
    | (with_reducible first | apply keeps_State_modChan | apply keeps_State_setReg | apply keeps_State_dmaShow)
    | (with_reducible first | apply keeps_State_setChState | apply keeps_State_dmaCredits | apply keeps_State_chEnter) | dsimp only
    | (refine keeps_of_eq (by assumption) ?_) | (refine keeps_of_eq_snd (by assumption) ?_) | split
    | (refine keeps_mk ?_ rfl rfl rfl rfl rfl rfl rfl rfl rfl rfl rfl rfl)

theorem keeps_dmaIssueOp {s₀ : State} (e : Nat) (pass : List Nat) {s : State} (hK : Keeps s₀ s) : Keeps s₀ (dmaIssueOp e pass s) := by
  unfold dmaIssueOp
  repeat' first
    | (with_reducible first | intro _ | assumption | apply keeps_ite | apply keeps_ite_fst | apply keeps_State_creditRequest)
    | (with_reducible first | apply keeps_State_setEng | apply keeps_State_modChan) | dsimp only
    | (refine keeps_of_eq (by assumption) ?_) | (refine keeps_of_eq_snd (by assumption) ?_) | split
    | (refine keeps_mk ?_ rfl rfl rfl rfl rfl rfl rfl rfl rfl rfl rfl rfl)

theorem keeps_State_setRead {s₀ : State} {s : State} (e : Nat) (r : DmaRead) (r' : DmaRead) (hK : Keeps s₀ s) : Keeps s₀ (State.setRead s e r r') := by
  unfold State.setRead
  repeat' first
    | (with_reducible first | intro _ | assumption | apply keeps_ite | apply keeps_ite_fst | apply keeps_State_setEng) | dsimp only
    | split | (refine keeps_mk ?_ rfl rfl rfl rfl rfl rfl rfl rfl rfl rfl rfl rfl)

theorem keeps_dmaReturnOp {s₀ : State} (e : Nat) (k : Nat) (ext : List Byte) (transient : Bool) {s : State} (hK : Keeps s₀ s) : Keeps s₀ (dmaReturnOp e k ext transient s) := by
  unfold dmaReturnOp
  repeat' first
    | (with_reducible first | intro _ | assumption | apply keeps_ite | apply keeps_ite_fst | apply keeps_State_dmaFrom)
    | (with_reducible first | apply keeps_State_dmaSettle | apply keeps_State_setRead | apply keeps_State_dmaFlush)
    | (with_reducible first | apply keeps_State_bump | apply keeps_State_modChan | apply keeps_State_modTask)
    | (with_reducible first | apply keeps_State_setEng | apply keeps_State_dmaBusError) | dsimp only
    | (refine keeps_of_eq (by assumption) ?_) | (refine keeps_of_eq_snd (by assumption) ?_) | split
    | (refine keeps_mk ?_ rfl rfl rfl rfl rfl rfl rfl rfl rfl rfl rfl rfl)

theorem keeps_dmaBusErrorOp {s₀ : State} (e : Nat) (k : Nat) (wr : Bool) (valid : Bool) {s : State} (hK : Keeps s₀ s) : Keeps s₀ (dmaBusErrorOp e k wr valid s) := by
  unfold dmaBusErrorOp
  repeat' first
    | (with_reducible first | assumption | apply keeps_ite | apply keeps_ite_fst | apply keeps_State_setEng)
    | (with_reducible first | apply keeps_State_dmaBusError) | dsimp only | (refine keeps_of_eq (by assumption) ?_) | split
    | (refine keeps_mk ?_ rfl rfl rfl rfl rfl rfl rfl rfl rfl rfl rfl rfl)

theorem keeps_State_showMargin {s₀ : State} {s : State} (d : Nat) (hK : Keeps s₀ s) : Keeps s₀ (State.showMargin s d) := by
  unfold State.showMargin
  repeat' first
    | (with_reducible first | assumption | apply keeps_State_setFld | apply keeps_State_setFlag) | dsimp only
    | (refine keeps_mk ?_ rfl rfl rfl rfl rfl rfl rfl rfl rfl rfl rfl rfl)

theorem keeps_State_setSteps {s₀ : State} {s : State} (d : Nat) (n : Nat) (ps : Int) (hK : Keeps s₀ s) : Keeps s₀ (State.setSteps s d n ps) := by
  unfold State.setSteps
  repeat' first
    | (with_reducible first | assumption | apply keeps_State_setFld | apply keeps_State_logRec) | dsimp only
    | (refine keeps_mk ?_ rfl rfl rfl rfl rfl rfl rfl rfl rfl rfl rfl rfl)

theorem keeps_State_needDerate {s₀ : State} {s : State} (d : Nat) (ps : Int) (hK : Keeps s₀ s) : Keeps s₀ (State.needDerate s d ps) := by
  unfold State.needDerate
  repeat' first
    | (with_reducible first | assumption | apply keeps_ite | apply keeps_ite_fst) | dsimp only | (refine keeps_of_eq (by assumption) ?_)
    | split | (refine keeps_mk ?_ rfl rfl rfl rfl rfl rfl rfl rfl rfl rfl rfl rfl)

theorem keeps_State_slackOne {s₀ : State} {s : State} (d : Nat) (x : SlackReading) (hK : Keeps s₀ s) : Keeps s₀ (State.slackOne s d x) := by
  unfold State.slackOne
  repeat' first
    | (with_reducible first | assumption | apply keeps_ite | apply keeps_ite_fst | apply keeps_State_setReg)
    | (with_reducible first | apply keeps_State_needDerate | apply keeps_State_setSteps | apply keeps_State_showMargin) | dsimp only
    | (refine keeps_of_eq (by assumption) ?_) | split | (refine keeps_mk ?_ rfl rfl rfl rfl rfl rfl rfl rfl rfl rfl rfl rfl)

theorem keeps_State_lifeEnd {s₀ : State} {s : State} (d : Nat) (ps : Int) (hK : Keeps s₀ s) : Keeps s₀ (State.lifeEnd s d ps) := by
  unfold State.lifeEnd
  repeat' first
    | (with_reducible first | assumption | apply keeps_ite | apply keeps_ite_fst | apply keeps_State_setFlag)
    | (with_reducible first | apply keeps_State_cause) | dsimp only | (refine keeps_of_eq (by assumption) ?_) | split
    | (refine keeps_mk ?_ rfl rfl rfl rfl rfl rfl rfl rfl rfl rfl rfl rfl)

theorem keeps_State_showLife {s₀ : State} {s : State} (hK : Keeps s₀ s) : Keeps s₀ (State.showLife s) := by
  unfold State.showLife
  repeat' first
    | (with_reducible first | intro _ | assumption | apply keeps_foldl | apply keeps_foldl_fst | apply keeps_State_setReg) | dsimp only
    | (refine keeps_of_eq (by assumption) ?_) | split | (refine keeps_mk ?_ rfl rfl rfl rfl rfl rfl rfl rfl rfl rfl rfl rfl)

theorem keeps_State_showClocks {s₀ : State} {s : State} (hK : Keeps s₀ s) : Keeps s₀ (State.showClocks s) := by
  unfold State.showClocks
  repeat' first
    | (with_reducible first | assumption | apply keeps_State_setReg) | dsimp only
    | (refine keeps_mk ?_ rfl rfl rfl rfl rfl rfl rfl rfl rfl rfl rfl rfl)

theorem keeps_State_readmit {s₀ : State} {s : State} (hK : Keeps s₀ s) : Keeps s₀ (State.readmit s) := by
  unfold State.readmit
  repeat' first
    | (with_reducible first | intro _ | assumption | apply keeps_foldl | apply keeps_foldl_fst | apply keeps_State_admResult)
    | (with_reducible first | apply keeps_State_ncShow) | dsimp only
    | (refine keeps_mk ?_ rfl rfl rfl rfl rfl rfl rfl rfl rfl rfl rfl rfl)

theorem keeps_State_derateStep {s₀ : State} {s : State} (d : Nat) (hK : Keeps s₀ s) : Keeps s₀ (State.derateStep s d) := by
  unfold State.derateStep
  repeat' first
    | (with_reducible first | intro _ | assumption | apply keeps_foldl | apply keeps_foldl_fst | apply keeps_State_ncClock)
    | (with_reducible first | apply keeps_State_setFld | apply keeps_State_setFlag | apply keeps_State_showClocks)
    | (with_reducible first | apply keeps_State_showMargin | apply keeps_State_count | apply keeps_State_readmit)
    | (with_reducible first | apply keeps_State_logRec) | dsimp only
    | (refine keeps_mk ?_ rfl rfl rfl rfl rfl rfl rfl rfl rfl rfl rfl rfl)

theorem keeps_State_domLose {s₀ : State} {s : State} (d : Nat) (hK : Keeps s₀ s) : Keeps s₀ (State.domLose s d) := by
  unfold State.domLose
  repeat' first
    | (with_reducible first | intro _ | assumption | apply keeps_ite | apply keeps_foldl | apply keeps_ite_fst)
    | (with_reducible first | apply keeps_foldl_fst | apply keeps_State_spmZeroMem) | dsimp only | split
    | (refine keeps_mk ?_ rfl rfl rfl rfl rfl rfl rfl rfl rfl rfl rfl rfl)

theorem keeps_State_domRestore {s₀ : State} {s : State} (d : Nat) (hK : Keeps s₀ s) : Keeps s₀ (State.domRestore s d) := by
  unfold State.domRestore
  repeat' first
    | (with_reducible first | intro _ | assumption | apply keeps_ite | apply keeps_foldl | apply keeps_ite_fst)
    | (with_reducible first | apply keeps_foldl_fst | apply keeps_State_readAgain) | dsimp only | (refine keeps_of_eq (by assumption) ?_)
    | (refine keeps_of_eq_snd (by assumption) ?_) | split | (refine keeps_mk ?_ rfl rfl rfl rfl rfl rfl rfl rfl rfl rfl rfl rfl)

theorem keeps_derateStepOp {s₀ : State} {s : State} (hK : Keeps s₀ s) : Keeps s₀ (derateStepOp s) := by
  unfold derateStepOp
  repeat' first
    | (with_reducible first | assumption | apply keeps_ite | apply keeps_ite_fst | apply keeps_State_derateStep) | dsimp only
    | (refine keeps_of_eq (by assumption) ?_) | split | (refine keeps_mk ?_ rfl rfl rfl rfl rfl rfl rfl rfl rfl rfl rfl rfl)

theorem keeps_domainOffOp {s₀ : State} (d : Nat) (wfi : Bool) {s : State} (hK : Keeps s₀ s) : Keeps s₀ (domainOffOp d wfi s) := by
  unfold domainOffOp
  repeat' first
    | (with_reducible first | assumption | apply keeps_ite | apply keeps_ite_fst | apply keeps_State_setFld) | dsimp only | split
    | (refine keeps_mk ?_ rfl rfl rfl rfl rfl rfl rfl rfl rfl rfl rfl rfl)

theorem keeps_domainOffDoneOp {s₀ : State} (d : Nat) {s : State} (hK : Keeps s₀ s) : Keeps s₀ (domainOffDoneOp d s) := by
  unfold domainOffDoneOp
  repeat' first
    | (with_reducible first | assumption | apply keeps_ite | apply keeps_ite_fst | apply keeps_State_setFld)
    | (with_reducible first | apply keeps_State_domLose | apply keeps_State_wakeDomain) | dsimp only | split
    | (refine keeps_mk ?_ rfl rfl rfl rfl rfl rfl rfl rfl rfl rfl rfl rfl)

theorem keeps_domainWakeDoneOp {s₀ : State} (d : Nat) {s : State} (hK : Keeps s₀ s) : Keeps s₀ (domainWakeDoneOp d s) := by
  unfold domainWakeDoneOp
  repeat' first
    | (with_reducible first | assumption | apply keeps_ite | apply keeps_ite_fst | apply keeps_State_setFld)
    | (with_reducible first | apply keeps_State_domRestore | apply keeps_State_domBusy) | dsimp only | split
    | (refine keeps_mk ?_ rfl rfl rfl rfl rfl rfl rfl rfl rfl rfl rfl rfl)

theorem keeps_State_markDelayed {s₀ : State} {s : State} (id : Nat) (hK : Keeps s₀ s) : Keeps s₀ (State.markDelayed s id) := by
  unfold State.markDelayed
  repeat' first
    | (with_reducible first | intro _ | assumption | apply keeps_ite | apply keeps_foldl | apply keeps_ite_fst)
    | (with_reducible first | apply keeps_foldl_fst | apply keeps_State_modChan | apply keeps_State_modTask) | dsimp only
    | (refine keeps_of_eq (by assumption) ?_) | split | (refine keeps_mk ?_ rfl rfl rfl rfl rfl rfl rfl rfl rfl rfl rfl rfl)

theorem keeps_creditGrantOp {s₀ : State} {s : State} (hK : Keeps s₀ s) : Keeps s₀ (creditGrantOp s) := by
  unfold creditGrantOp
  repeat' first
    | (with_reducible first | assumption | apply keeps_ite | apply keeps_ite_fst | apply keeps_State_markDelayed)
    | (with_reducible first | apply keeps_State_bump | apply keeps_State_bumpN) | dsimp only | (refine keeps_of_eq (by assumption) ?_)
    | split | (refine keeps_mk ?_ rfl rfl rfl rfl rfl rfl rfl rfl rfl rfl rfl rfl)

theorem keeps_powerBaseOp {s₀ : State} {s : State} (hK : Keeps s₀ s) : Keeps s₀ (powerBaseOp s) := by
  unfold powerBaseOp
  repeat' first
    | (with_reducible first | intro _ | assumption | apply keeps_State_setFld) | dsimp only
    | (refine keeps_mk ?_ rfl rfl rfl rfl rfl rfl rfl rfl rfl rfl rfl rfl)

theorem keeps_thermalCapOp {s₀ : State} (tj : List (BitVec 16)) {s : State} (hK : Keeps s₀ s) : Keeps s₀ (thermalCapOp tj s) := by
  unfold thermalCapOp
  repeat' first
    | (with_reducible first | intro _ | assumption | apply keeps_ite | apply keeps_foldl | apply keeps_ite_fst)
    | (with_reducible first | apply keeps_foldl_fst | apply keeps_State_setReg | apply keeps_State_setFld)
    | (with_reducible first | apply keeps_State_cause) | dsimp only | split
    | (refine keeps_mk ?_ rfl rfl rfl rfl rfl rfl rfl rfl rfl rfl rfl rfl)

theorem keeps_State_railOne {s₀ : State} {s : State} (r : Nat) (x : RailReading) (hK : Keeps s₀ s) : Keeps s₀ (State.railOne s r x).1 := by
  unfold State.railOne
  repeat' first
    | (with_reducible first | assumption | apply keeps_ite | apply keeps_ite_fst) | dsimp only | split
    | (refine keeps_mk ?_ rfl rfl rfl rfl rfl rfl rfl rfl rfl rfl rfl rfl)

theorem keeps_railReadOp {s₀ : State} (rs : List RailReading) {s : State} (hK : Keeps s₀ s) : Keeps s₀ (railReadOp rs s) := by
  unfold railReadOp
  repeat' first
    | (with_reducible first | intro _ | assumption | apply keeps_ite | apply keeps_foldl | apply keeps_ite_fst)
    | (with_reducible first | apply keeps_foldl_fst | apply keeps_State_railOne | apply keeps_State_cause) | dsimp only
    | (refine keeps_of_eq (by assumption) ?_) | (refine keeps_of_eq_snd (by assumption) ?_) | split
    | (refine keeps_mk ?_ rfl rfl rfl rfl rfl rfl rfl rfl rfl rfl rfl rfl)

theorem keeps_droopOp {s₀ : State} (d : Nat) {s : State} (hK : Keeps s₀ s) : Keeps s₀ (droopOp d s) := by
  unfold droopOp
  repeat' first
    | (with_reducible first | assumption | apply keeps_ite | apply keeps_ite_fst | apply keeps_State_bump) | dsimp only | split
    | (refine keeps_mk ?_ rfl rfl rfl rfl rfl rfl rfl rfl rfl rfl rfl rfl)

theorem keeps_droopRecoveryOp {s₀ : State} (d : Nat) (pulses : Nat) {s : State} (hK : Keeps s₀ s) : Keeps s₀ (droopRecoveryOp d pulses s) := by
  unfold droopRecoveryOp
  repeat' first
    | (with_reducible first | assumption | apply keeps_ite | apply keeps_ite_fst | apply keeps_State_bumpN) | dsimp only | split
    | (refine keeps_mk ?_ rfl rfl rfl rfl rfl rfl rfl rfl rfl rfl rfl rfl)

theorem keeps_slackSampleOp {s₀ : State} (xs : List SlackReading) {s : State} (hK : Keeps s₀ s) : Keeps s₀ (slackSampleOp xs s) := by
  unfold slackSampleOp
  repeat' first
    | (with_reducible first | intro _ | assumption | apply keeps_foldl | apply keeps_foldl_fst | apply keeps_State_slackOne)
    | (with_reducible first | apply keeps_State_lifeEnd | apply keeps_State_showLife) | dsimp only
    | (refine keeps_mk ?_ rfl rfl rfl rfl rfl rfl rfl rfl rfl rfl rfl rfl)

theorem keeps_State_pmgWrite {s₀ : State} {s : State} (ag : Agent) (p3 : Bool) (f : State → State) (hK : Keeps s₀ s) (hf : ∀ (x0 : State), Keeps s₀ x0 → Keeps s₀ (f x0)) : Keeps s₀ (State.pmgWrite s ag p3 f) := by
  unfold State.pmgWrite
  repeat' first
    | (with_reducible first | intro _ | assumption | apply hf | apply keeps_ite | apply keeps_ite_fst)
    | (with_reducible first | apply keeps_State_refuseSys) | dsimp only | split
    | (refine keeps_mk ?_ rfl rfl rfl rfl rfl rfl rfl rfl rfl rfl rfl rfl)

theorem keeps_budgetLimitOp {s₀ : State} (ag : Agent) (v : Word) {s : State} (hK : Keeps s₀ s) : Keeps s₀ (budgetLimitOp ag v s) := by
  unfold budgetLimitOp
  repeat' first
    | (with_reducible first | intro _ | assumption | apply keeps_ite | apply keeps_ite_fst | apply keeps_State_pmgWrite)
    | (with_reducible first | apply keeps_State_setFld) | dsimp only | split
    | (refine keeps_mk ?_ rfl rfl rfl rfl rfl rfl rfl rfl rfl rfl rfl rfl)

theorem keeps_budgetMaxOp {s₀ : State} (ag : Agent) (v : Word) {s : State} (hK : Keeps s₀ s) : Keeps s₀ (budgetMaxOp ag v s) := by
  unfold budgetMaxOp
  repeat' first
    | (with_reducible first | intro _ | assumption | apply keeps_ite | apply keeps_ite_fst | apply keeps_State_pmgWrite)
    | (with_reducible first | apply keeps_State_setFld) | dsimp only | split
    | (refine keeps_mk ?_ rfl rfl rfl rfl rfl rfl rfl rfl rfl rfl rfl rfl)

theorem keeps_p0ReserveOp {s₀ : State} (ag : Agent) (v : Word) {s : State} (hK : Keeps s₀ s) : Keeps s₀ (p0ReserveOp ag v s) := by
  unfold p0ReserveOp
  repeat' first
    | (with_reducible first | intro _ | assumption | apply keeps_ite | apply keeps_ite_fst | apply keeps_State_pmgWrite)
    | (with_reducible first | apply keeps_State_setFld) | dsimp only | split
    | (refine keeps_mk ?_ rfl rfl rfl rfl rfl rfl rfl rfl rfl rfl rfl rfl)

theorem keeps_thermCfgOp {s₀ : State} (ag : Agent) (v : Word) {s : State} (hK : Keeps s₀ s) : Keeps s₀ (thermCfgOp ag v s) := by
  unfold thermCfgOp
  repeat' first
    | (with_reducible first | intro _ | assumption | apply keeps_ite | apply keeps_ite_fst | apply keeps_State_pmgWrite)
    | (with_reducible first | apply keeps_State_setFld) | dsimp only | split
    | (refine keeps_mk ?_ rfl rfl rfl rfl rfl rfl rfl rfl rfl rfl rfl rfl)

theorem keeps_pmgClearOp {s₀ : State} (ag : Agent) {s : State} (hK : Keeps s₀ s) : Keeps s₀ (pmgClearOp ag s) := by
  unfold pmgClearOp
  repeat' first
    | (with_reducible first | intro _ | assumption | apply keeps_State_pmgWrite | apply keeps_State_zeroRegs) | dsimp only
    | (refine keeps_mk ?_ rfl rfl rfl rfl rfl rfl rfl rfl rfl rfl rfl rfl)

theorem keeps_State_logErase {s₀ : State} {s : State} (a : Nat) (hK : Keeps s₀ s) : Keeps s₀ (State.logErase s a) := by
  unfold State.logErase
  repeat' first
    | (with_reducible first | intro _ | assumption | apply keeps_ite | apply keeps_ite_fst | apply keeps_State_flashErase) | dsimp only
    | split | (refine keeps_mk ?_ rfl rfl rfl rfl rfl rfl rfl rfl rfl rfl rfl rfl)

theorem keeps_logTail {s₀ : State} {t : State} (h : Keeps s₀ t) (a b c d : Nat) :
    Keeps s₀ { t with sec := { t.sec with logAddr := a, logSeq := b, logHour := c, logBytes := d } } :=
  keeps_mk h rfl rfl rfl rfl rfl rfl rfl rfl rfl rfl rfl rfl

theorem keeps_State_logAppend {s₀ : State} {s : State} (hK : Keeps s₀ s) (r : LogRec) (hour used : Nat) :
    Keeps s₀ (State.logAppend s r hour used) :=
  keeps_logTail (keeps_State_flashPut (keeps_State_logErase s.sec.logAddr hK) _ _) _ _ _ _

theorem keeps_flashLogTail {s₀ : State} {t : State} (h : Keeps s₀ t) (fl : List LogRec) : Keeps s₀ { t with flashLog := fl } :=
  keeps_mk h rfl rfl rfl rfl rfl rfl rfl rfl rfl rfl rfl rfl

theorem keeps_flashLogOp {s₀ : State} {s : State} (hK : Keeps s₀ s) : Keeps s₀ (flashLogOp s) := by
  unfold flashLogOp
  cases s.flashLog with
  | nil => exact hK
  | cons r t => exact keeps_ite hK (keeps_flashLogTail (keeps_State_logAppend hK _ _ _) _)

theorem keeps_State_eraseBlocks {s₀ : State} {s : State} (a : Nat) (n : Nat) (hK : Keeps s₀ s) : Keeps s₀ (State.eraseBlocks s a n) := by
  unfold State.eraseBlocks
  repeat' first
    | (with_reducible first | intro _ | assumption | apply keeps_foldl | apply keeps_foldl_fst | apply keeps_State_flashErase)
    | dsimp only | (refine keeps_mk ?_ rfl rfl rfl rfl rfl rfl rfl rfl rfl rfl rfl rfl)

theorem keeps_State_setTrailer {s₀ : State} {s : State} (k : Nat) (st : Nat) (tries : Nat) (hK : Keeps s₀ s) : Keeps s₀ (State.setTrailer s k st tries) := by
  unfold State.setTrailer
  repeat' first
    | (with_reducible first | assumption | apply keeps_State_eraseBlocks | apply keeps_State_flashPut) | dsimp only
    | (refine keeps_mk ?_ rfl rfl rfl rfl rfl rfl rfl rfl rfl rfl rfl rfl)

theorem keeps_State_freeBytes {s₀ : State} {s : State} (n : Nat) (hK : Keeps s₀ s) : Keeps s₀ (State.freeBytes s n).2 := by
  unfold State.freeBytes
  repeat' first
    | (with_reducible first | intro _ | assumption | apply keeps_State_draw) | dsimp only | (refine keeps_of_eq (by assumption) ?_)
    | (refine keeps_of_eq_snd (by assumption) ?_) | split | (refine keeps_mk ?_ rfl rfl rfl rfl rfl rfl rfl rfl rfl rfl rfl rfl)

theorem keeps_State_debugChallenge {s₀ : State} {s : State} (scope : Word) (hK : Keeps s₀ s) : Keeps s₀ (State.debugChallenge s scope).1 := by
  unfold State.debugChallenge
  repeat' first
    | (with_reducible first | assumption | apply keeps_ite | apply keeps_ite_fst | apply keeps_State_freeBytes) | dsimp only
    | (refine keeps_of_eq (by assumption) ?_) | (refine keeps_of_eq_snd (by assumption) ?_) | split
    | (refine keeps_mk ?_ rfl rfl rfl rfl rfl rfl rfl rfl rfl rfl rfl rfl)

theorem keeps_State_debugResponse {s₀ : State} {s : State} (bs : List Byte) (hK : Keeps s₀ s) : Keeps s₀ (State.debugResponse s bs).1 := by
  unfold State.debugResponse
  repeat' first
    | (with_reducible first | assumption | apply keeps_ite | apply keeps_ite_fst) | dsimp only | (refine keeps_of_eq (by assumption) ?_)
    | split | (refine keeps_mk ?_ rfl rfl rfl rfl rfl rfl rfl rfl rfl rfl rfl rfl)

theorem keeps_State_ncReload {s₀ : State} {s : State} (x : Segment) (c : Nat) (hK : Keeps s₀ s) : Keeps s₀ (State.ncReload s x c).1 := by
  unfold State.ncReload
  repeat' first
    | (with_reducible first | assumption | apply keeps_ite | apply keeps_ite_fst | apply keeps_State_readAgain)
    | (with_reducible first | apply keeps_State_loadWeights) | dsimp only | (refine keeps_of_eq (by assumption) ?_)
    | (refine keeps_of_eq_snd (by assumption) ?_) | split | (refine keeps_mk ?_ rfl rfl rfl rfl rfl rfl rfl rfl rfl rfl rfl rfl)

theorem keeps_State_ncMended {s₀ : State} {s : State} (x : Segment) (c : Nat) (hK : Keeps s₀ s) : Keeps s₀ (State.ncMended s x c).1 := by
  unfold State.ncMended
  repeat' first
    | (with_reducible first | intro _ | assumption | apply keeps_ite | apply keeps_ite_fst | apply keeps_State_ncReload) | dsimp only
    | split | (refine keeps_mk ?_ rfl rfl rfl rfl rfl rfl rfl rfl rfl rfl rfl rfl)

theorem keeps_State_ncStart {s₀ : State} {s : State} (id : Nat) (i : Nat) (hK : Keeps s₀ s) : Keeps s₀ (State.ncStart s id i).1 := by
  unfold State.ncStart
  repeat' first
    | (with_reducible first | assumption | apply keeps_ite | apply keeps_ite_fst | apply keeps_State_readParams)
    | (with_reducible first | apply keeps_State_ncMended | apply keeps_State_startTask) | dsimp only
    | (refine keeps_of_eq (by assumption) ?_) | (refine keeps_of_eq_snd (by assumption) ?_) | split
    | (refine keeps_mk ?_ rfl rfl rfl rfl rfl rfl rfl rfl rfl rfl rfl rfl)

theorem keeps_State_ncResume {s₀ : State} {s : State} (i : Nat) (hK : Keeps s₀ s) : Keeps s₀ (State.ncResume s i) := by
  unfold State.ncResume
  repeat' first
    | (with_reducible first | assumption | apply keeps_State_setRun) | dsimp only | (refine keeps_of_eq (by assumption) ?_) | split
    | (refine keeps_mk ?_ rfl rfl rfl rfl rfl rfl rfl rfl rfl rfl rfl rfl)

theorem keeps_State_ncEnd {s₀ : State} {s : State} (r : NcRun) (x : Segment) (status : Nat) (idx : Nat) (hK : Keeps s₀ s) : Keeps s₀ (State.ncEnd s r x status idx) := by
  unfold State.ncEnd
  repeat' first
    | (with_reducible first | assumption | apply keeps_State_ncClose | apply keeps_State_finishTask) | dsimp only
    | (refine keeps_mk ?_ rfl rfl rfl rfl rfl rfl rfl rfl rfl rfl rfl rfl)

theorem keeps_State_ringsUnmade {s₀ : State} {s : State} (i : Nat) (hK : Keeps s₀ s) : Keeps s₀ (State.ringsUnmade s i) := by
  unfold State.ringsUnmade
  repeat' first
    | (with_reducible first | intro _ | assumption | apply keeps_ite | apply keeps_foldl | apply keeps_ite_fst)
    | (with_reducible first | apply keeps_foldl_fst | apply keeps_State_modRing) | dsimp only | split
    | (refine keeps_mk ?_ rfl rfl rfl rfl rfl rfl rfl rfl rfl rfl rfl rfl)

theorem keeps_State_ncRepeat {s₀ : State} {s : State} (r : NcRun) (x : Segment) (weights : Bool) (hK : Keeps s₀ s) : Keeps s₀ (State.ncRepeat s r x weights) := by
  unfold State.ncRepeat
  repeat' first
    | (with_reducible first | intro _ | assumption | apply keeps_ite | apply keeps_ite_fst | apply keeps_State_ncReload)
    | (with_reducible first | apply keeps_State_ringsUnmade | apply keeps_State_modTask | apply keeps_State_setRun)
    | (with_reducible first | apply keeps_State_ncEnd) | dsimp only | (refine keeps_of_eq (by assumption) ?_)
    | (refine keeps_of_eq_snd (by assumption) ?_) | split | (refine keeps_mk ?_ rfl rfl rfl rfl rfl rfl rfl rfl rfl rfl rfl rfl)

theorem keeps_ncIssueOp {s₀ : State} (n : Nat) (op : Nat) {s : State} (hK : Keeps s₀ s) : Keeps s₀ (ncIssueOp n op s) := by
  unfold ncIssueOp
  repeat' first
    | (with_reducible first | intro _ | assumption | apply keeps_ite | apply keeps_foldl | apply keeps_ite_fst)
    | (with_reducible first | apply keeps_foldl_fst | apply keeps_State_setRun | apply keeps_State_ncEnd | apply keeps_State_pin)
    | (with_reducible first | apply keeps_State_modTask | apply keeps_State_ringsOpen) | dsimp only
    | (refine keeps_of_eq (by assumption) ?_) | split | (refine keeps_mk ?_ rfl rfl rfl rfl rfl rfl rfl rfl rfl rfl rfl rfl)

theorem keeps_State_ncAdvance {s₀ : State} {s : State} (r : NcRun) (x : Segment) (f : NcFly) (d : NcDone) (last : Bool) (hK : Keeps s₀ s) (hD : Keeps s₀ d.s) : Keeps s₀ (State.ncAdvance s r x f d last) := by
  unfold State.ncAdvance
  repeat' first
    | (with_reducible first | intro _ | assumption | apply keeps_ite | apply keeps_ite_fst | apply keeps_State_ncEnd)
    | (with_reducible first | apply keeps_State_modTask | apply keeps_State_setRun) | dsimp only | split
    | (refine keeps_mk ?_ rfl rfl rfl rfl rfl rfl rfl rfl rfl rfl rfl rfl)

theorem keeps_ncCompleteOp {s₀ : State} (n : Nat) (unit : Nat) {s : State} (hK : Keeps s₀ s) : Keeps s₀ (ncCompleteOp n unit s) := by
  unfold ncCompleteOp
  repeat' first
    | (with_reducible first | intro _ | assumption | apply keeps_ite | apply keeps_ite_fst | apply keeps_ite_s)
    | (with_reducible first | apply keeps_foldl_s | apply keeps_State_ncRun | apply keeps_State_ncRepeat)
    | (with_reducible first | apply keeps_State_ncAdvance) | dsimp only | (refine keeps_of_eq (by assumption) ?_) | split
    | (refine keeps_mk ?_ rfl rfl rfl rfl rfl rfl rfl rfl rfl rfl rfl rfl)

theorem keeps_ncParityOp {s₀ : State} (n : Nat) (kind : Nat) {s : State} (hK : Keeps s₀ s) : Keeps s₀ (ncParityOp n kind s) := by
  unfold ncParityOp
  repeat' first
    | (with_reducible first | assumption | apply keeps_State_ncRepeat) | dsimp only | (refine keeps_of_eq (by assumption) ?_) | split
    | (refine keeps_mk ?_ rfl rfl rfl rfl rfl rfl rfl rfl rfl rfl rfl rfl)

theorem keeps_ncYieldOp {s₀ : State} (n : Nat) {s : State} (hK : Keeps s₀ s) : Keeps s₀ (ncYieldOp n s) := by
  unfold ncYieldOp
  repeat' first
    | (with_reducible first | assumption | apply keeps_ite | apply keeps_ite_fst | apply keeps_State_setRun)
    | (with_reducible first | apply keeps_State_yieldEngine) | dsimp only | (refine keeps_of_eq (by assumption) ?_) | split
    | (refine keeps_mk ?_ rfl rfl rfl rfl rfl rfl rfl rfl rfl rfl rfl rfl)

theorem keeps_ncQuotaOp {s₀ : State} (ag : Agent) (c : Nat) (p : Nat) (k : Nat) (v : Word) {s : State} (hK : Keeps s₀ s) : Keeps s₀ (ncQuotaOp ag c p k v s) := by
  unfold ncQuotaOp
  repeat' first
    | (with_reducible first | assumption | apply keeps_ite | apply keeps_ite_fst | apply keeps_State_refuse)
    | (with_reducible first | apply keeps_State_setFld) | dsimp only | split
    | (refine keeps_mk ?_ rfl rfl rfl rfl rfl rfl rfl rfl rfl rfl rfl rfl)

theorem keeps_State_mgqFlush {s₀ : State} {s : State} (hK : Keeps s₀ s) : Keeps s₀ (State.mgqFlush s) := by
  unfold State.mgqFlush
  repeat' first
    | (with_reducible first | intro _ | assumption | apply keeps_ite | apply keeps_foldl | apply keeps_ite_fst)
    | (with_reducible first | apply keeps_foldl_fst | apply keeps_State_outWrite | apply keeps_State_vector) | dsimp only | split
    | (refine keeps_mk ?_ rfl rfl rfl rfl rfl rfl rfl rfl rfl rfl rfl rfl)

theorem keeps_State_pciResume {s₀ : State} {s : State} (hK : Keeps s₀ s) : Keeps s₀ (State.pciResume s) := by
  unfold State.pciResume
  repeat' first
    | (with_reducible first | intro _ | assumption | apply keeps_foldl | apply keeps_foldl_fst | apply keeps_State_emitResume)
    | (with_reducible first | apply keeps_State_mgqFlush) | dsimp only
    | (refine keeps_mk ?_ rfl rfl rfl rfl rfl rfl rfl rfl rfl rfl rfl rfl)

theorem keeps_State_perstDrop {s₀ : State} {s : State} (hK : Keeps s₀ s) : Keeps s₀ (State.perstDrop s) := by
  unfold State.perstDrop
  repeat' first
    | (with_reducible first | intro _ | assumption | apply keeps_foldl | apply keeps_foldl_fst | apply keeps_State_dropResult)
    | (with_reducible first | apply keeps_State_emitEnd) | dsimp only | (refine keeps_of_eq (by assumption) ?_) | split
    | (refine keeps_mk ?_ rfl rfl rfl rfl rfl rfl rfl rfl rfl rfl rfl rfl)

theorem keeps_State_perstRegs {s₀ : State} {s : State} (hK : Keeps s₀ s) : Keeps s₀ (State.perstRegs s) := by
  unfold State.perstRegs
  repeat' first
    | (with_reducible first | intro _ | assumption | apply keeps_foldl | apply keeps_foldl_fst | apply keeps_State_setFlag)
    | (with_reducible first | apply keeps_State_setReg) | dsimp only
    | (refine keeps_mk ?_ rfl rfl rfl rfl rfl rfl rfl rfl rfl rfl rfl rfl)

theorem keeps_State_linkLost {s₀ : State} {s : State} (hK : Keeps s₀ s) : Keeps s₀ (State.linkLost s) := by
  unfold State.linkLost
  repeat' first
    | (with_reducible first | intro _ | assumption | apply keeps_ite | apply keeps_foldl | apply keeps_ite_fst)
    | (with_reducible first | apply keeps_foldl_fst | apply keeps_State_setReg | apply keeps_State_count)
    | (with_reducible first | apply keeps_State_dmaBusError | apply keeps_State_setEng) | dsimp only | split
    | (refine keeps_mk ?_ rfl rfl rfl rfl rfl rfl rfl rfl rfl rfl rfl rfl)

theorem keeps_perstAssertOp {s₀ : State} {s : State} (hK : Keeps s₀ s) : Keeps s₀ (perstAssertOp s) := by
  unfold perstAssertOp
  repeat' first
    | (with_reducible first | assumption | apply keeps_State_linkLost | apply keeps_State_perstDrop | apply keeps_State_perstRegs)
    | dsimp only | (refine keeps_mk ?_ rfl rfl rfl rfl rfl rfl rfl rfl rfl rfl rfl rfl)

theorem keeps_perstReleaseOp {s₀ : State} {s : State} (hK : Keeps s₀ s) : Keeps s₀ (perstReleaseOp s) := by
  unfold perstReleaseOp
  repeat' first
    | (with_reducible first | assumption | apply keeps_ite | apply keeps_ite_fst) | dsimp only | split
    | (refine keeps_mk ?_ rfl rfl rfl rfl rfl rfl rfl rfl rfl rfl rfl rfl)

theorem keeps_linkUpOp {s₀ : State} (rate : Nat) (width : Nat) {s : State} (hK : Keeps s₀ s) : Keeps s₀ (linkUpOp rate width s) := by
  unfold linkUpOp
  repeat' first
    | (with_reducible first | assumption | apply keeps_ite | apply keeps_ite_fst | apply keeps_State_setReg) | dsimp only | split
    | (refine keeps_mk ?_ rfl rfl rfl rfl rfl rfl rfl rfl rfl rfl rfl rfl)

theorem keeps_haloTimeoutOp {s₀ : State} (n : Nat) {s : State} (hK : Keeps s₀ s) : Keeps s₀ (haloTimeoutOp n s) := by
  unfold haloTimeoutOp
  repeat' first
    | (with_reducible first | intro _ | assumption | apply keeps_ite_s | apply keeps_foldl_s | apply keeps_State_ncRun)
    | (with_reducible first | apply keeps_State_ncAdvance | apply keeps_State_count) | dsimp only
    | (refine keeps_of_eq (by assumption) ?_) | split | (refine keeps_mk ?_ rfl rfl rfl rfl rfl rfl rfl rfl rfl rfl rfl rfl)

theorem keeps_completionTimeoutOp {s₀ : State} (e : Nat) (k : Nat) {s : State} (hK : Keeps s₀ s) : Keeps s₀ (completionTimeoutOp e k s) := by
  unfold completionTimeoutOp
  repeat' first
    | (with_reducible first | assumption | apply keeps_ite | apply keeps_ite_fst | apply keeps_haloTimeoutOp)
    | (with_reducible first | apply keeps_State_dmaBusError | apply keeps_State_count | apply keeps_State_setEng) | dsimp only
    | (refine keeps_of_eq (by assumption) ?_) | split | (refine keeps_mk ?_ rfl rfl rfl rfl rfl rfl rfl rfl rfl rfl rfl rfl)

theorem keeps_State_cfgWrite {s₀ : State} {s : State} (r : Nat) (v : Word) (hK : Keeps s₀ s) : Keeps s₀ (State.cfgWrite s r v) := by
  unfold State.cfgWrite
  repeat' first
    | (with_reducible first | intro _ | assumption | apply keeps_ite | apply keeps_ite_fst | apply keeps_State_pciResume)
    | (with_reducible first | apply keeps_State_draw) | dsimp only | (refine keeps_of_eq (by assumption) ?_)
    | (refine keeps_of_eq_snd (by assumption) ?_) | split | (refine keeps_mk ?_ rfl rfl rfl rfl rfl rfl rfl rfl rfl rfl rfl rfl)

theorem keeps_configRequestOp {s₀ : State} (c : CfgReq) {s : State} (hK : Keeps s₀ s) : Keeps s₀ (configRequestOp c s) := by
  unfold configRequestOp
  repeat' first
    | (with_reducible first | assumption | apply keeps_ite | apply keeps_ite_fst | apply keeps_State_answer)
    | (with_reducible first | apply keeps_State_cfgWrite) | dsimp only | split
    | (refine keeps_mk ?_ rfl rfl rfl rfl rfl rfl rfl rfl rfl rfl rfl rfl)

theorem keeps_rqHeadOp {s₀ : State} (q : Nat) (pay : Bool) (v : Word) {s : State} (hK : Keeps s₀ s) : Keeps s₀ (rqHeadOp q pay v s) := by
  unfold rqHeadOp
  repeat' first
    | (with_reducible first | intro _ | assumption | apply keeps_ite | apply keeps_ite_fst | apply keeps_State_bwCount)
    | (with_reducible first | apply keeps_State_emitResume) | dsimp only | split
    | (refine keeps_mk ?_ rfl rfl rfl rfl rfl rfl rfl rfl rfl rfl rfl rfl)

theorem keeps_State_pciWrite {s₀ : State} {s : State} (ag : Agent) (f : State → State) (hK : Keeps s₀ s) (hf : ∀ (x0 : State), Keeps s₀ x0 → Keeps s₀ (f x0)) : Keeps s₀ (State.pciWrite s ag f) := by
  unfold State.pciWrite
  repeat' first
    | (with_reducible first | intro _ | assumption | apply hf | apply keeps_ite | apply keeps_ite_fst)
    | (with_reducible first | apply keeps_State_refuseSys) | dsimp only | split
    | (refine keeps_mk ?_ rfl rfl rfl rfl rfl rfl rfl rfl rfl rfl rfl rfl)

theorem keeps_pciQueueOp {s₀ : State} (ag : Agent) (off : Nat) (v : Word) {s : State} (hK : Keeps s₀ s) : Keeps s₀ (pciQueueOp ag off v s) := by
  unfold pciQueueOp
  repeat' first
    | (with_reducible first | intro _ | assumption | apply keeps_ite | apply keeps_ite_fst | apply keeps_State_pciWrite)
    | (with_reducible first | apply keeps_State_setReg | apply keeps_State_pciResume) | dsimp only
    | (refine keeps_of_eq (by assumption) ?_) | split | (refine keeps_mk ?_ rfl rfl rfl rfl rfl rfl rfl rfl rfl rfl rfl rfl)

theorem keeps_hostOutboundOp {s₀ : State} (a : Nat) (len : Nat) (data : Option (List Byte)) (ext : Option (List Byte)) {s : State} (hK : Keeps s₀ s) : Keeps s₀ (hostOutboundOp a len data ext s) := by
  unfold hostOutboundOp
  repeat' first
    | (with_reducible first | assumption | apply keeps_ite | apply keeps_ite_fst | apply keeps_State_outWrite)
    | (with_reducible first | apply keeps_State_answer | apply keeps_State_bwCount) | dsimp only
    | (refine keeps_of_eq (by assumption) ?_) | split | (refine keeps_mk ?_ rfl rfl rfl rfl rfl rfl rfl rfl rfl rfl rfl rfl)

theorem keeps_State_graphStatus {s₀ : State} {s : State} (st : Nat) (node : Nat) (hK : Keeps s₀ s) : Keeps s₀ (State.graphStatus s st node) := by
  unfold State.graphStatus
  repeat' first
    | (with_reducible first | assumption | apply keeps_State_setReg) | dsimp only
    | (refine keeps_mk ?_ rfl rfl rfl rfl rfl rfl rfl rfl rfl rfl rfl rfl)

theorem keeps_State_installRings {s₀ : State} {s : State} (g : Graph) (hK : Keeps s₀ s) : Keeps s₀ (State.installRings s g).1 := by
  unfold State.installRings
  repeat' first
    | (with_reducible first | intro _ | assumption | apply keeps_foldl | apply keeps_foldl_fst)
    | refine keeps_State_makeRegion (by assumption) ?_ | dsimp only | (refine keeps_of_eq (by assumption) ?_) | split
    | (refine keeps_mk ?_ rfl rfl rfl rfl rfl rfl rfl rfl rfl rfl rfl rfl)

theorem keeps_State_installDone {s₀ : State} {s : State} (g : Graph) (hK : Keeps s₀ s) : Keeps s₀ (State.installDone s g) := by
  unfold State.installDone
  repeat' first
    | (with_reducible first | intro _ | assumption | apply keeps_State_ncShow) | dsimp only
    | (refine keeps_mk ?_ rfl rfl rfl rfl rfl rfl rfl rfl rfl rfl rfl rfl)

theorem keeps_State_install {s₀ : State} {s : State} (ag : Agent) (g : Graph) (place : List Nat) (hK : Keeps s₀ s) : Keeps s₀ (State.install s ag g place).1 := by
  unfold State.install
  repeat' first
    | (with_reducible first | intro _ | assumption | apply keeps_foldl | apply keeps_foldl_fst | apply keeps_State_installRings)
    | (with_reducible first | apply keeps_State_admitGraph | apply keeps_State_dropRegion | apply keeps_State_installDone) | dsimp only
    | (refine keeps_of_eq (by assumption) ?_) | (refine keeps_of_eq_snd (by assumption) ?_) | split
    | (refine keeps_mk ?_ rfl rfl rfl rfl rfl rfl rfl rfl rfl rfl rfl rfl)

theorem keeps_State_loadImage {s₀ : State} {s : State} (ag : Agent) (gid : Nat) (addr : Nat) (place : List Nat) (h : List Word) (hK : Keeps s₀ s) : Keeps s₀ (State.loadImage s ag gid addr place h).1 := by
  unfold State.loadImage
  repeat' first
    | (with_reducible first | assumption | apply keeps_ite | apply keeps_ite_fst | apply keeps_State_readAgain)
    | (with_reducible first | apply keeps_State_install) | dsimp only | (refine keeps_of_eq (by assumption) ?_)
    | (refine keeps_of_eq_snd (by assumption) ?_) | split | (refine keeps_mk ?_ rfl rfl rfl rfl rfl rfl rfl rfl rfl rfl rfl rfl)

theorem keeps_State_loadHeader {s₀ : State} {s : State} (ag : Agent) (gid : Nat) (addr : Nat) (place : List Nat) (hK : Keeps s₀ s) : Keeps s₀ (State.loadHeader s ag gid addr place).1 := by
  unfold State.loadHeader
  repeat' first
    | (with_reducible first | assumption | apply keeps_ite | apply keeps_ite_fst | apply keeps_State_readAgain)
    | (with_reducible first | apply keeps_State_loadImage) | dsimp only | (refine keeps_of_eq (by assumption) ?_)
    | (refine keeps_of_eq_snd (by assumption) ?_) | split | (refine keeps_mk ?_ rfl rfl rfl rfl rfl rfl rfl rfl rfl rfl rfl rfl)

theorem keeps_State_loadGraph {s₀ : State} {s : State} (ag : Agent) (gid : Nat) (addr : Nat) (place : List Nat) (hK : Keeps s₀ s) : Keeps s₀ (State.loadGraph s ag gid addr place).1 := by
  unfold State.loadGraph
  repeat' first
    | (with_reducible first | assumption | apply keeps_ite | apply keeps_ite_fst | apply keeps_State_loadHeader) | dsimp only | split
    | (refine keeps_mk ?_ rfl rfl rfl rfl rfl rfl rfl rfl rfl rfl rfl rfl)

theorem keeps_State_graphDo {s₀ : State} {s : State} (gid bound : Nat) (f : State → State × Nat × Nat) (hK : Keeps s₀ s)
    (hf : ∀ x, Keeps s₀ x → Keeps s₀ (f x).1) : Keeps s₀ (State.graphDo s gid bound f) := by
  unfold State.graphDo
  exact keeps_ite hK (keeps_State_cmdBegin _ _ (keeps_State_graphStatus _ _ (hf _ (keeps_State_setFld _ _ _ _ hK))))

theorem keeps_graphLoadOp {s₀ : State} (ag : Agent) (gid : Nat) (place : List Nat) {s : State} (hK : Keeps s₀ s) : Keeps s₀ (graphLoadOp ag gid place s) := by
  unfold graphLoadOp
  repeat' first
    | (with_reducible first | intro _ | assumption | apply keeps_State_graphDo | apply keeps_State_loadGraph) | dsimp only
    | (refine keeps_mk ?_ rfl rfl rfl rfl rfl rfl rfl rfl rfl rfl rfl rfl)

theorem keeps_State_removeGraph {s₀ : State} {s : State} (g : Graph) (hK : Keeps s₀ s) : Keeps s₀ (State.removeGraph s g) := by
  unfold State.removeGraph
  repeat' first
    | (with_reducible first | intro _ | assumption | apply keeps_foldl | apply keeps_foldl_fst | apply keeps_State_unadmit)
    | (with_reducible first | apply keeps_State_dropRegion | apply keeps_State_ncShow) | dsimp only
    | (refine keeps_mk ?_ rfl rfl rfl rfl rfl rfl rfl rfl rfl rfl rfl rfl)

theorem keeps_State_unloadGraph {s₀ : State} {s : State} (ag : Agent) (gid : Nat) (hK : Keeps s₀ s) : Keeps s₀ (State.unloadGraph s ag gid).1 := by
  unfold State.unloadGraph
  repeat' first
    | (with_reducible first | assumption | apply keeps_ite | apply keeps_ite_fst | apply keeps_State_removeGraph) | dsimp only
    | (refine keeps_of_eq (by assumption) ?_) | split | (refine keeps_mk ?_ rfl rfl rfl rfl rfl rfl rfl rfl rfl rfl rfl rfl)

theorem keeps_graphUnloadOp {s₀ : State} (ag : Agent) (gid : Nat) {s : State} (hK : Keeps s₀ s) : Keeps s₀ (graphUnloadOp ag gid s) := by
  unfold graphUnloadOp
  repeat' first
    | (with_reducible first | intro _ | assumption | apply keeps_State_graphDo | apply keeps_State_unloadGraph) | dsimp only
    | (refine keeps_mk ?_ rfl rfl rfl rfl rfl rfl rfl rfl rfl rfl rfl rfl)

theorem keeps_State_startGraph {s₀ : State} {s : State} (ag : Agent) (gid : Nat) (hK : Keeps s₀ s) : Keeps s₀ (State.startGraph s ag gid).1 := by
  unfold State.startGraph
  repeat' first
    | (with_reducible first | intro _ | assumption | apply keeps_ite | apply keeps_ite_fst | apply keeps_State_modGraph) | dsimp only
    | (refine keeps_of_eq (by assumption) ?_) | split | (refine keeps_mk ?_ rfl rfl rfl rfl rfl rfl rfl rfl rfl rfl rfl rfl)

theorem keeps_graphStartOp {s₀ : State} (ag : Agent) (gid : Nat) {s : State} (hK : Keeps s₀ s) : Keeps s₀ (graphStartOp ag gid s) := by
  unfold graphStartOp
  repeat' first
    | (with_reducible first | intro _ | assumption | apply keeps_State_graphDo | apply keeps_State_startGraph) | dsimp only
    | (refine keeps_mk ?_ rfl rfl rfl rfl rfl rfl rfl rfl rfl rfl rfl rfl)

theorem keeps_State_stopGraph {s₀ : State} {s : State} (ag : Agent) (gid : Nat) (hK : Keeps s₀ s) : Keeps s₀ (State.stopGraph s ag gid).1 := by
  unfold State.stopGraph
  repeat' first
    | (with_reducible first | intro _ | assumption | apply keeps_ite | apply keeps_foldl | apply keeps_ite_fst)
    | (with_reducible first | apply keeps_foldl_fst | apply keeps_State_modGraph | apply keeps_State_dropPend) | dsimp only
    | (refine keeps_of_eq (by assumption) ?_) | split | (refine keeps_mk ?_ rfl rfl rfl rfl rfl rfl rfl rfl rfl rfl rfl rfl)

theorem keeps_graphStopOp {s₀ : State} (ag : Agent) (gid : Nat) {s : State} (hK : Keeps s₀ s) : Keeps s₀ (graphStopOp ag gid s) := by
  unfold graphStopOp
  repeat' first
    | (with_reducible first | intro _ | assumption | apply keeps_State_graphDo | apply keeps_State_stopGraph) | dsimp only
    | (refine keeps_mk ?_ rfl rfl rfl rfl rfl rfl rfl rfl rfl rfl rfl rfl)

theorem keeps_graphCmdOp {s₀ : State} (ag : Agent) (v : Word) {s : State} (hK : Keeps s₀ s) : Keeps s₀ (graphCmdOp ag v s) := by
  unfold graphCmdOp
  repeat' first
    | (with_reducible first | assumption | apply keeps_graphLoadOp | apply keeps_graphUnloadOp | apply keeps_graphStartOp)
    | (with_reducible first | apply keeps_graphStopOp | apply keeps_State_setFld) | dsimp only | (refine keeps_of_eq (by assumption) ?_)
    | split | (refine keeps_mk ?_ rfl rfl rfl rfl rfl rfl rfl rfl rfl rfl rfl rfl)

theorem keeps_fgsEnableOp {s₀ : State} (on : Bool) {s : State} (hK : Keeps s₀ s) : Keeps s₀ (fgsEnableOp on s) := by
  unfold fgsEnableOp
  repeat' first
    | (with_reducible first | assumption | apply keeps_State_setFlag) | dsimp only
    | (refine keeps_mk ?_ rfl rfl rfl rfl rfl rfl rfl rfl rfl rfl rfl rfl)

theorem keeps_fgsClearOp {s₀ : State} {s : State} (hK : Keeps s₀ s) : Keeps s₀ (fgsClearOp s) := by
  unfold fgsClearOp
  repeat' first
    | (with_reducible first | assumption | apply keeps_State_zeroRegs) | dsimp only
    | (refine keeps_mk ?_ rfl rfl rfl rfl rfl rfl rfl rfl rfl rfl rfl rfl)

theorem keeps_State_imageRead {s₀ : State} {s : State} (g : Graph) (hK : Keeps s₀ s) : Keeps s₀ (State.imageRead s g) := by
  unfold State.imageRead
  repeat' first
    | (with_reducible first | assumption | apply keeps_State_readAgain) | dsimp only
    | (refine keeps_mk ?_ rfl rfl rfl rfl rfl rfl rfl rfl rfl rfl rfl rfl)

theorem keeps_instantiateOp {s₀ : State} {s : State} (hK : Keeps s₀ s) : Keeps s₀ (instantiateOp s) := by
  unfold instantiateOp
  repeat' first
    | (with_reducible first | intro _ | assumption | apply keeps_ite | apply keeps_foldl | apply keeps_ite_fst)
    | (with_reducible first | apply keeps_foldl_fst | apply keeps_State_imageRead | apply keeps_State_holdSlot)
    | (with_reducible first | apply keeps_State_modGraph | apply keeps_State_dropPend | apply keeps_State_allocTask)
    | (with_reducible first | apply keeps_State_nodeFlags) | dsimp only | (refine keeps_of_eq (by assumption) ?_)
    | (refine keeps_of_eq_snd (by assumption) ?_) | split | (refine keeps_mk ?_ rfl rfl rfl rfl rfl rfl rfl rfl rfl rfl rfl rfl)

theorem keeps_State_joinsOfJob {s₀ : State} {s : State} (jid : Nat) (hK : Keeps s₀ s) : Keeps s₀ (State.joinsOfJob s jid) := by
  unfold State.joinsOfJob
  repeat' first
    | (with_reducible first | intro _ | assumption | apply keeps_State_doTodo) | dsimp only | (refine keeps_of_eq (by assumption) ?_)
    | split | (refine keeps_mk ?_ rfl rfl rfl rfl rfl rfl rfl rfl rfl rfl rfl rfl)

theorem keeps_jobTaskPostOp {s₀ : State} {s : State} (hK : Keeps s₀ s) : Keeps s₀ (jobTaskPostOp s) := by
  unfold jobTaskPostOp
  repeat' first
    | (with_reducible first | intro _ | assumption | apply keeps_ite | apply keeps_foldl | apply keeps_ite_fst)
    | (with_reducible first | apply keeps_foldl_fst | apply keeps_State_crumb | apply keeps_State_modNode)
    | (with_reducible first | apply keeps_State_enqueue | apply keeps_State_modJob | apply keeps_State_nodeFlags)
    | (with_reducible first | apply keeps_State_joinsOfJob) | dsimp only | (refine keeps_of_eq (by assumption) ?_) | split
    | (refine keeps_mk ?_ rfl rfl rfl rfl rfl rfl rfl rfl rfl rfl rfl rfl)

theorem keeps_joinExpiryOp {s₀ : State} {s : State} (hK : Keeps s₀ s) : Keeps s₀ (joinExpiryOp s) := by
  unfold joinExpiryOp
  repeat' first
    | (with_reducible first | intro _ | assumption | apply keeps_foldl | apply keeps_foldl_fst | apply keeps_State_joinsOfJob)
    | dsimp only | (refine keeps_mk ?_ rfl rfl rfl rfl rfl rfl rfl rfl rfl rfl rfl rfl)

theorem keeps_watchdogOp {s₀ : State} {s : State} (hK : Keeps s₀ s) : Keeps s₀ (watchdogOp s) := by
  unfold watchdogOp
  repeat' first
    | (with_reducible first | intro _ | assumption | apply keeps_ite | apply keeps_foldl | apply keeps_ite_fst)
    | (with_reducible first | apply keeps_foldl_fst | apply keeps_State_raiseLate | apply keeps_State_emitExpire) | dsimp only
    | (refine keeps_of_eq (by assumption) ?_) | split | (refine keeps_mk ?_ rfl rfl rfl rfl rfl rfl rfl rfl rfl rfl rfl rfl)

theorem keeps_State_abortJob {s₀ : State} {s : State} (jid : Nat) (timedOut : Bool) (hK : Keeps s₀ s) : Keeps s₀ (State.abortJob s jid timedOut) := by
  unfold State.abortJob
  repeat' first
    | (with_reducible first | intro _ | assumption | apply keeps_ite | apply keeps_ite_fst | apply keeps_State_modJob)
    | (with_reducible first | apply keeps_State_doTodo) | dsimp only | (refine keeps_of_eq (by assumption) ?_) | split
    | (refine keeps_mk ?_ rfl rfl rfl rfl rfl rfl rfl rfl rfl rfl rfl rfl)

theorem keeps_jobTimeoutOp {s₀ : State} {s : State} (hK : Keeps s₀ s) : Keeps s₀ (jobTimeoutOp s) := by
  unfold jobTimeoutOp
  repeat' first
    | (with_reducible first | intro _ | assumption | apply keeps_ite | apply keeps_foldl | apply keeps_ite_fst)
    | (with_reducible first | apply keeps_foldl_fst | apply keeps_State_emitExpire | apply keeps_State_abortJob) | dsimp only
    | (refine keeps_of_eq (by assumption) ?_) | split | (refine keeps_mk ?_ rfl rfl rfl rfl rfl rfl rfl rfl rfl rfl rfl rfl)

theorem keeps_fgsAbortGo {s₀ : State} (ag : Agent) (v : Word) {s : State} (hK : Keeps s₀ s) : Keeps s₀ (fgsAbortGo ag v s) := by
  unfold fgsAbortGo
  repeat' first
    | (with_reducible first | intro _ | assumption | apply keeps_ite | apply keeps_foldl | apply keeps_ite_fst)
    | (with_reducible first | apply keeps_foldl_fst | apply keeps_State_setFld | apply keeps_State_setFlag)
    | (with_reducible first | apply keeps_State_setReg | apply keeps_State_cmdBegin | apply keeps_State_live)
    | (with_reducible first | apply keeps_State_cqSeen | apply keeps_State_abortJob) | dsimp only
    | (refine keeps_of_eq (by assumption) ?_) | split | (refine keeps_mk ?_ rfl rfl rfl rfl rfl rfl rfl rfl rfl rfl rfl rfl)

theorem keeps_fgsAbortOp {s₀ : State} (ag : Agent) (v : Word) {s : State} (hK : Keeps s₀ s) : Keeps s₀ (fgsAbortOp ag v s) := by
  unfold fgsAbortOp
  repeat' first
    | (with_reducible first | assumption | apply keeps_ite | apply keeps_ite_fst | apply keeps_fgsAbortGo) | dsimp only | split
    | (refine keeps_mk ?_ rfl rfl rfl rfl rfl rfl rfl rfl rfl rfl rfl rfl)

theorem keeps_fgsCqWriteOp {s₀ : State} (ag : Agent) (p : Nat) (k : Nat) (v : Word) {s : State} (hK : Keeps s₀ s) : Keeps s₀ (fgsCqWriteOp ag p k v s) := by
  unfold fgsCqWriteOp
  repeat' first
    | (with_reducible first | assumption | apply keeps_ite | apply keeps_ite_fst | apply keeps_State_refuse)
    | (with_reducible first | apply keeps_State_setReg | apply keeps_State_setFld | apply keeps_State_cqRetry)
    | (with_reducible first | apply keeps_State_fgsCqIrq) | dsimp only | (refine keeps_of_eq (by assumption) ?_) | split
    | (refine keeps_mk ?_ rfl rfl rfl rfl rfl rfl rfl rfl rfl rfl rfl rfl)

theorem keeps_ringGrantOp {s₀ : State} (g : Nat) (r : Nat) {s : State} (hK : Keeps s₀ s) : Keeps s₀ (ringGrantOp g r s) := by
  unfold ringGrantOp
  repeat' first
    | (with_reducible first | intro _ | assumption | apply keeps_ite | apply keeps_foldl | apply keeps_ite_fst)
    | (with_reducible first | apply keeps_foldl_fst | apply keeps_State_modRing | apply keeps_State_nodeFlags) | dsimp only
    | (refine keeps_of_eq (by assumption) ?_) | split | (refine keeps_mk ?_ rfl rfl rfl rfl rfl rfl rfl rfl rfl rfl rfl rfl)

theorem keeps_State_ringSend {s₀ : State} {s : State} (gr : Graph) (x : SlotRing) (d : Desc) (made : List (Option Byte)) (hK : Keeps s₀ s) : Keeps s₀ (State.ringSend s gr x d made).1 := by
  unfold State.ringSend
  repeat' first
    | (with_reducible first | intro _ | assumption | apply keeps_ite | apply keeps_ite_fst | apply keeps_State_draw)
    | (with_reducible first | apply keeps_State_spmPut | apply keeps_State_modRing | apply keeps_State_ringOpen) | dsimp only
    | (refine keeps_of_eq (by assumption) ?_) | (refine keeps_of_eq_snd (by assumption) ?_) | split
    | (refine keeps_mk ?_ rfl rfl rfl rfl rfl rfl rfl rfl rfl rfl rfl rfl)

theorem keeps_State_pipeSend {s₀ : State} {s : State} (gr : Graph) (x : SlotRing) (i : Nat) (id : Nat) (d : Desc) (hK : Keeps s₀ s) : Keeps s₀ (State.pipeSend s gr x i id d) := by
  unfold State.pipeSend
  repeat' first
    | (with_reducible first | intro _ | assumption | apply keeps_ite | apply keeps_foldl | apply keeps_ite_fst)
    | (with_reducible first | apply keeps_foldl_fst | apply keeps_State_engRun | apply keeps_State_failTask)
    | (with_reducible first | apply keeps_State_ringSend | apply keeps_State_modTask) | dsimp only
    | (refine keeps_of_eq (by assumption) ?_) | (refine keeps_of_eq_snd (by assumption) ?_) | split
    | (refine keeps_mk ?_ rfl rfl rfl rfl rfl rfl rfl rfl rfl rfl rfl rfl)

theorem keeps_ringCommitOp {s₀ : State} (g : Nat) (r : Nat) {s : State} (hK : Keeps s₀ s) : Keeps s₀ (ringCommitOp g r s) := by
  unfold ringCommitOp
  repeat' first
    | (with_reducible first | assumption | apply keeps_ite | apply keeps_ite_fst | apply keeps_State_pipeSend)
    | (with_reducible first | apply keeps_State_ringSend) | dsimp only | (refine keeps_of_eq (by assumption) ?_) | split
    | (refine keeps_mk ?_ rfl rfl rfl rfl rfl rfl rfl rfl rfl rfl rfl rfl)

theorem keeps_ringReleaseOp {s₀ : State} (g : Nat) (r : Nat) {s : State} (hK : Keeps s₀ s) : Keeps s₀ (ringReleaseOp g r s) := by
  unfold ringReleaseOp
  repeat' first
    | (with_reducible first | intro _ | assumption | apply keeps_ite | apply keeps_ite_fst | apply keeps_State_spmRead)
    | (with_reducible first | apply keeps_State_modRing | apply keeps_State_ringOpen | apply keeps_State_failTask) | dsimp only
    | (refine keeps_of_eq (by assumption) ?_) | (refine keeps_of_eq_snd (by assumption) ?_) | split
    | (refine keeps_mk ?_ rfl rfl rfl rfl rfl rfl rfl rfl rfl rfl rfl rfl)

theorem keeps_ringTimeoutOp {s₀ : State} (g : Nat) (r : Nat) {s : State} (hK : Keeps s₀ s) : Keeps s₀ (ringTimeoutOp g r s) := by
  unfold ringTimeoutOp
  repeat' first
    | (with_reducible first | assumption | apply keeps_ite | apply keeps_ite_fst | apply keeps_State_failTask) | dsimp only
    | (refine keeps_of_eq (by assumption) ?_) | split | (refine keeps_mk ?_ rfl rfl rfl rfl rfl rfl rfl rfl rfl rfl rfl rfl)

theorem keeps_dramReadOp {s₀ : State} (ag : Agent) (a : Nat) (n : Nat) (newBad : List Nat) (transient : List Nat) {s : State} (hK : Keeps s₀ s) : Keeps s₀ (dramReadOp ag a n newBad transient s) := by
  unfold dramReadOp
  repeat' first
    | (with_reducible first | intro _ | assumption | apply keeps_ite | apply keeps_foldl | apply keeps_ite_fst)
    | (with_reducible first | apply keeps_foldl_fst | apply keeps_State_dramRead | apply keeps_State_badBlock)
    | (with_reducible first | apply keeps_State_answer) | dsimp only | (refine keeps_of_eq (by assumption) ?_)
    | (refine keeps_of_eq_snd (by assumption) ?_) | split | (refine keeps_mk ?_ rfl rfl rfl rfl rfl rfl rfl rfl rfl rfl rfl rfl)

theorem keeps_dramWriteOp {s₀ : State} (ag : Agent) (a : Nat) (bs : List Byte) {s : State} (hK : Keeps s₀ s) : Keeps s₀ (dramWriteOp ag a bs s) := by
  unfold dramWriteOp
  repeat' first
    | (with_reducible first | assumption | apply keeps_ite | apply keeps_ite_fst | apply keeps_State_dramWrite)
    | (with_reducible first | apply keeps_State_answer) | dsimp only | (refine keeps_of_eq (by assumption) ?_)
    | (refine keeps_of_eq_snd (by assumption) ?_) | split | (refine keeps_mk ?_ rfl rfl rfl rfl rfl rfl rfl rfl rfl rfl rfl rfl)

theorem keeps_dramScrubOp {s₀ : State} (newBad : List Nat) {s : State} (hK : Keeps s₀ s) : Keeps s₀ (dramScrubOp newBad s) := by
  unfold dramScrubOp
  repeat' first
    | (with_reducible first | intro _ | assumption | apply keeps_ite | apply keeps_ite_fst | apply keeps_State_dramTraffic)
    | (with_reducible first | apply keeps_State_badBlock | apply keeps_State_setReg | apply keeps_State_bump) | dsimp only | split
    | (refine keeps_mk ?_ rfl rfl rfl rfl rfl rfl rfl rfl rfl rfl rfl rfl)

theorem keeps_dieTempOp {s₀ : State} (d : Nat) (temp : BitVec 16) {s : State} (hK : Keeps s₀ s) : Keeps s₀ (dieTempOp d temp s) := by
  unfold dieTempOp
  repeat' first
    | (with_reducible first | assumption | apply keeps_ite | apply keeps_ite_fst | apply keeps_State_setReg)
    | (with_reducible first | apply keeps_State_setFld | apply keeps_State_setFlag | apply keeps_State_report)
    | (with_reducible first | apply keeps_State_cause) | dsimp only | split
    | (refine keeps_mk ?_ rfl rfl rfl rfl rfl rfl rfl rfl rfl rfl rfl rfl)

theorem keeps_flitOp {s₀ : State} (ag : Agent) (replays : Nat) (dead : Bool) {s : State} (hK : Keeps s₀ s) : Keeps s₀ (flitOp ag replays dead s) := by
  unfold flitOp
  repeat' first
    | (with_reducible first | assumption | apply keeps_ite | apply keeps_ite_fst | apply keeps_State_bumpN)
    | (with_reducible first | apply keeps_State_report | apply keeps_State_cause) | dsimp only | split
    | (refine keeps_mk ?_ rfl rfl rfl rfl rfl rfl rfl rfl rfl rfl rfl rfl)

theorem keeps_dmcShareOp {s₀ : State} (ag : Agent) (p : Nat) (v : Word) {s : State} (hK : Keeps s₀ s) : Keeps s₀ (dmcShareOp ag p v s) := by
  unfold dmcShareOp
  repeat' first
    | (with_reducible first | intro _ | assumption | apply keeps_ite | apply keeps_ite_fst | apply keeps_State_refuseSys)
    | (with_reducible first | apply keeps_State_setFlag | apply keeps_State_setReg) | dsimp only | split
    | (refine keeps_mk ?_ rfl rfl rfl rfl rfl rfl rfl rfl rfl rfl rfl rfl)

theorem keeps_pantryCfgOp {s₀ : State} (ag : Agent) (e : Nat) (v : Word) {s : State} (hK : Keeps s₀ s) : Keeps s₀ (pantryCfgOp ag e v s) := by
  unfold pantryCfgOp
  repeat' first
    | (with_reducible first | assumption | apply keeps_ite | apply keeps_ite_fst | apply keeps_State_refuseSys)
    | (with_reducible first | apply keeps_State_setFlag | apply keeps_State_setFld) | dsimp only | split
    | (refine keeps_mk ?_ rfl rfl rfl rfl rfl rfl rfl rfl rfl rfl rfl rfl)

theorem keeps_firewallOp {s₀ : State} (ag : Agent) (r : Nat) (w : Nat) (v : Word) {s : State} (hK : Keeps s₀ s) : Keeps s₀ (firewallOp ag r w v s) := by
  unfold firewallOp
  repeat' first
    | (with_reducible first | assumption | apply keeps_ite | apply keeps_ite_fst | apply keeps_State_refuseSys)
    | (with_reducible first | apply keeps_State_setReg) | dsimp only | split
    | (refine keeps_mk ?_ rfl rfl rfl rfl rfl rfl rfl rfl rfl rfl rfl rfl)

theorem keeps_dmcClearOp {s₀ : State} (ag : Agent) {s : State} (hK : Keeps s₀ s) : Keeps s₀ (dmcClearOp ag s) := by
  unfold dmcClearOp
  repeat' first
    | (with_reducible first | assumption | apply keeps_ite | apply keeps_ite_fst | apply keeps_State_zeroRegs)
    | (with_reducible first | apply keeps_State_refuseSys) | dsimp only | split
    | (refine keeps_mk ?_ rfl rfl rfl rfl rfl rfl rfl rfl rfl rfl rfl rfl)

theorem keeps_dmcScrubCfgOp {s₀ : State} (ag : Agent) (v : Word) {s : State} (hK : Keeps s₀ s) : Keeps s₀ (dmcScrubCfgOp ag v s) := by
  unfold dmcScrubCfgOp
  repeat' first
    | (with_reducible first | assumption | apply keeps_ite | apply keeps_ite_fst | apply keeps_State_refuseSys)
    | (with_reducible first | apply keeps_State_setReg) | dsimp only | split
    | (refine keeps_mk ?_ rfl rfl rfl rfl rfl rfl rfl rfl rfl rfl rfl rfl)

theorem keeps_State_mgqAnswer {s₀ : State} {s : State} (st : Nat) (results : List Word) (hK : Keeps s₀ s) : Keeps s₀ (State.mgqAnswer s st results) := by
  unfold State.mgqAnswer
  repeat' first
    | (with_reducible first | assumption | apply keeps_State_setReg | apply keeps_State_irqSet | apply keeps_State_count)
    | (with_reducible first | apply keeps_State_mgqFlush) | dsimp only | (refine keeps_of_eq (by assumption) ?_) | split
    | (refine keeps_mk ?_ rfl rfl rfl rfl rfl rfl rfl rfl rfl rfl rfl rfl)

theorem keeps_State_mgqClean {s₀ : State} {s : State}  (n : Nat)  (hK : Keeps s₀ s) : Keeps s₀ (State.mgqClean s n) := by
  induction n generalizing s  with
  | zero =>
    unfold State.mgqClean
    repeat' first
      | (with_reducible first | intro _ | assumption | apply ih | apply keeps_ite | apply keeps_ite_fst)
      | (with_reducible first | apply keeps_State_mgqAnswer) | dsimp only | (refine keeps_of_eq (by assumption) ?_) | split
      | (refine keeps_mk ?_ rfl rfl rfl rfl rfl rfl rfl rfl rfl rfl rfl rfl)
  | succ n ih =>
    unfold State.mgqClean
    repeat' first
      | (with_reducible first | intro _ | assumption | apply ih | apply keeps_ite | apply keeps_ite_fst)
      | (with_reducible first | apply keeps_State_mgqAnswer) | dsimp only | (refine keeps_of_eq (by assumption) ?_) | split
      | (refine keeps_mk ?_ rfl rfl rfl rfl rfl rfl rfl rfl rfl rfl rfl rfl)

theorem keeps_mgqDoorbellOp {s₀ : State} (tail : Word) (cmds : List (List Word)) {s : State} (hK : Keeps s₀ s) : Keeps s₀ (mgqDoorbellOp tail cmds s) := by
  unfold mgqDoorbellOp
  repeat' first
    | (with_reducible first | intro _ | assumption | apply keeps_ite | apply keeps_ite_fst | apply keeps_State_bwCount)
    | (with_reducible first | apply keeps_State_irqRaise | apply keeps_State_mgqClean) | dsimp only | split
    | (refine keeps_mk ?_ rfl rfl rfl rfl rfl rfl rfl rfl rfl rfl rfl rfl)

theorem keeps_State_mgqRun {s₀ : State} {s : State} (op : Nat) (f : List Word → State → State) (hK : Keeps s₀ s) (hf : ∀ (x0 : List Word) (x1 : State), Keeps s₀ x1 → Keeps s₀ (f x0 x1)) : Keeps s₀ (State.mgqRun s op f) := by
  unfold State.mgqRun
  repeat' first
    | (with_reducible first | intro _ | assumption | apply hf | apply keeps_ite | apply keeps_ite_fst | apply keeps_State_mgqClean)
    | dsimp only | (refine keeps_of_eq (by assumption) ?_) | split | (refine keeps_mk ?_ rfl rfl rfl rfl rfl rfl rfl rfl rfl rfl rfl rfl)

theorem keeps_State_hostWrite {s₀ : State} {s : State} (addr : Nat) (bs : List Byte) (hK : Keeps s₀ s) : Keeps s₀ (State.hostWrite s addr bs).1 := by
  unfold State.hostWrite
  repeat' first
    | (with_reducible first | assumption | apply keeps_ite | apply keeps_ite_fst | apply keeps_State_outWrite) | dsimp only | split
    | (refine keeps_mk ?_ rfl rfl rfl rfl rfl rfl rfl rfl rfl rfl rfl rfl)

theorem keeps_mgqAttestOp {s₀ : State} (c : List Word) {s : State} (hK : Keeps s₀ s) : Keeps s₀ (mgqAttestOp c s) := by
  unfold mgqAttestOp
  repeat' first
    | (with_reducible first | assumption | apply keeps_State_hostWrite | apply keeps_State_mgqAnswer) | dsimp only
    | (refine keeps_of_eq (by assumption) ?_) | (refine keeps_of_eq_snd (by assumption) ?_) | split
    | (refine keeps_mk ?_ rfl rfl rfl rfl rfl rfl rfl rfl rfl rfl rfl rfl)

theorem keeps_State_admitEntry {s₀ : State} {s : State} (e : Nat) (pri : Nat) (copy : Nat) (units : Nat) (hK : Keeps s₀ s) : Keeps s₀ (State.admitEntry s e pri copy units) := by
  unfold State.admitEntry
  repeat' first
    | (with_reducible first | assumption | apply keeps_State_setReg | apply keeps_pantryCfgOp) | dsimp only
    | (refine keeps_mk ?_ rfl rfl rfl rfl rfl rfl rfl rfl rfl rfl rfl rfl)

theorem keeps_State_admitLoad {s₀ : State} {s : State} (gid : Nat) (addr : Nat) (e : Nat) (place : List Nat) (hK : Keeps s₀ s) : Keeps s₀ (State.admitLoad s gid addr e place) := by
  unfold State.admitLoad
  repeat' first
    | (with_reducible first | assumption | apply keeps_ite | apply keeps_ite_fst | apply keeps_State_loadGraph)
    | (with_reducible first | apply keeps_State_graphStatus | apply keeps_State_startGraph | apply keeps_State_mgqAnswer)
    | (with_reducible first | apply keeps_State_setFlag) | dsimp only | (refine keeps_of_eq (by assumption) ?_)
    | (refine keeps_of_eq_snd (by assumption) ?_) | split | (refine keeps_mk ?_ rfl rfl rfl rfl rfl rfl rfl rfl rfl rfl rfl rfl)

theorem keeps_mgqGraphAdmitOp {s₀ : State} (place : List Nat) (c : List Word) {s : State} (hK : Keeps s₀ s) : Keeps s₀ (mgqGraphAdmitOp place c s) := by
  unfold mgqGraphAdmitOp
  repeat' first
    | (with_reducible first | intro _ | assumption | apply keeps_ite | apply keeps_ite_fst | apply keeps_State_mgqAnswer)
    | (with_reducible first | apply keeps_State_admitEntry | apply keeps_State_admitLoad) | dsimp only
    | (refine keeps_of_eq (by assumption) ?_) | split | (refine keeps_mk ?_ rfl rfl rfl rfl rfl rfl rfl rfl rfl rfl rfl rfl)

theorem keeps_mgqGraphRemoveOp {s₀ : State} (c : List Word) {s : State} (hK : Keeps s₀ s) : Keeps s₀ (mgqGraphRemoveOp c s) := by
  unfold mgqGraphRemoveOp
  repeat' first
    | (with_reducible first | intro _ | assumption | apply keeps_ite | apply keeps_foldl | apply keeps_ite_fst)
    | (with_reducible first | apply keeps_foldl_fst | apply keeps_State_stopGraph | apply keeps_State_mgqAnswer)
    | (with_reducible first | apply keeps_State_unloadGraph | apply keeps_State_setFlag) | dsimp only
    | (refine keeps_of_eq (by assumption) ?_) | (refine keeps_of_eq_snd (by assumption) ?_) | split
    | (refine keeps_mk ?_ rfl rfl rfl rfl rfl rfl rfl rfl rfl rfl rfl rfl)

theorem keeps_mgqFlashWriteOp {s₀ : State} (src : Option (List Byte)) (c : List Word) {s : State} (hK : Keeps s₀ s) : Keeps s₀ (mgqFlashWriteOp src c s) := by
  unfold mgqFlashWriteOp
  repeat' first
    | (with_reducible first | assumption | apply keeps_State_mgqAnswer | apply keeps_State_eraseBlocks)
    | (with_reducible first | apply keeps_State_flashPut) | dsimp only | (refine keeps_of_eq (by assumption) ?_) | split
    | (refine keeps_mk ?_ rfl rfl rfl rfl rfl rfl rfl rfl rfl rfl rfl rfl)

theorem keeps_mgqFlashReadOp {s₀ : State} (c : List Word) {s : State} (hK : Keeps s₀ s) : Keeps s₀ (mgqFlashReadOp c s) := by
  unfold mgqFlashReadOp
  repeat' first
    | (with_reducible first | assumption | apply keeps_State_mgqAnswer | apply keeps_State_hostWrite) | dsimp only
    | (refine keeps_of_eq (by assumption) ?_) | (refine keeps_of_eq_snd (by assumption) ?_) | split
    | (refine keeps_mk ?_ rfl rfl rfl rfl rfl rfl rfl rfl rfl rfl rfl rfl)

theorem keeps_mgqSetTrialOp {s₀ : State} (c : List Word) {s : State} (hK : Keeps s₀ s) : Keeps s₀ (mgqSetTrialOp c s) := by
  unfold mgqSetTrialOp
  repeat' first
    | (with_reducible first | assumption | apply keeps_ite | apply keeps_ite_fst | apply keeps_State_setTrailer)
    | (with_reducible first | apply keeps_State_mgqAnswer) | dsimp only | split
    | (refine keeps_mk ?_ rfl rfl rfl rfl rfl rfl rfl rfl rfl rfl rfl rfl)

theorem keeps_State_burn {s₀ s : State} {f : Fuses} (hf : s.sec.fuses.le f) (h : Keeps s₀ s) : Keeps s₀ (s.burn f) :=
  keeps_trans h ⟨rfl, rfl, rfl, rfl, Nat.le_refl _, Nat.le_refl _, ⟨[], by simp [State.burn]⟩, hf, id⟩

theorem keeps_mgqAdvanceOp {s₀ : State} (c : List Word) {s : State} (hK : Keeps s₀ s) : Keeps s₀ (mgqAdvanceOp c s) :=
  keeps_ite (keeps_State_mgqAnswer _ _ hK)
    (keeps_State_mgqAnswer _ _ (keeps_State_burn ⟨rfl, rfl, rfl, fun _ => rfl, fun _ => rfl, id, Nat.le_max_left _ _, id⟩ hK))

theorem Fuses.le_enrol (f : Fuses) (k : List Byte) (h : ¬ (f.owner0.isSome = true ∧ f.owner1.isSome = true)) : f.le (f.enrol k) := by
  unfold Fuses.enrol
  split
  · rename_i hn
    exact ⟨rfl, rfl, rfl, fun e => by rw [Option.isNone_iff_eq_none] at hn; simp [hn] at e, fun _ => rfl, id, Nat.le_refl _, id⟩
  · rename_i hn
    refine ⟨rfl, rfl, rfl, fun _ => rfl, fun e => ?_, id, Nat.le_refl _, id⟩
    exact absurd ⟨by simpa [Option.isSome_iff_ne_none] using hn, e⟩ h

theorem keeps_mgqEnrolOp {s₀ : State} (key : Option (List Byte)) (c : List Word) {s : State} (hK : Keeps s₀ s) :
    Keeps s₀ (mgqEnrolOp key c s) := by
  unfold mgqEnrolOp
  dsimp only
  split
  · exact keeps_State_mgqAnswer _ _ hK
  · rename_i hn
    split
    · exact keeps_State_mgqAnswer _ _ hK
    · exact keeps_State_mgqAnswer _ _ (keeps_State_burn (Fuses.le_enrol _ _ hn) hK)

theorem keeps_mgqRevokeOp {s₀ : State} (c : List Word) {s : State} (hK : Keeps s₀ s) : Keeps s₀ (mgqRevokeOp c s) :=
  keeps_ite (keeps_State_mgqAnswer _ _ (keeps_State_burn ⟨rfl, rfl, rfl, fun _ => rfl, fun _ => rfl, fun _ => rfl, Nat.le_refl _, id⟩ hK))
    (keeps_State_mgqAnswer _ _ hK)

theorem keeps_mgqDisableDebugOp {s₀ : State} (c : List Word) {s : State} (hK : Keeps s₀ s) : Keeps s₀ (mgqDisableDebugOp c s) :=
  keeps_ite (keeps_State_mgqAnswer _ _ (keeps_State_burn ⟨rfl, rfl, rfl, fun _ => rfl, fun _ => rfl, id, Nat.le_refl _, fun _ => rfl⟩ hK))
    (keeps_State_mgqAnswer _ _ hK)

theorem keeps_mgqChallengeOp {s₀ : State} (c : List Word) {s : State} (hK : Keeps s₀ s) : Keeps s₀ (mgqChallengeOp c s) := by
  unfold mgqChallengeOp
  repeat' first
    | (with_reducible first | assumption | apply keeps_ite | apply keeps_ite_fst | apply keeps_State_debugChallenge)
    | (with_reducible first | apply keeps_State_hostWrite | apply keeps_State_mgqAnswer) | dsimp only
    | (refine keeps_of_eq (by assumption) ?_) | (refine keeps_of_eq_snd (by assumption) ?_) | split
    | (refine keeps_mk ?_ rfl rfl rfl rfl rfl rfl rfl rfl rfl rfl rfl rfl)

theorem keeps_mgqResponseOp {s₀ : State} (src : Option (List Byte)) (_c : List Word) {s : State} (hK : Keeps s₀ s) : Keeps s₀ (mgqResponseOp src _c s) := by
  unfold mgqResponseOp
  repeat' first
    | (with_reducible first | assumption | apply keeps_State_mgqAnswer | apply keeps_State_debugResponse) | dsimp only
    | (refine keeps_of_eq (by assumption) ?_) | (refine keeps_of_eq_snd (by assumption) ?_) | split
    | (refine keeps_mk ?_ rfl rfl rfl rfl rfl rfl rfl rfl rfl rfl rfl rfl)

theorem keeps_secConfirmOp {s₀ : State} (ag : Agent) {s : State} (hK : Keeps s₀ s) : Keeps s₀ (secConfirmOp ag s) := by
  unfold secConfirmOp
  repeat' first
    | (with_reducible first | assumption | apply keeps_ite | apply keeps_ite_fst | apply keeps_State_setTrailer)
    | (with_reducible first | apply keeps_State_refuseSys) | dsimp only | (refine keeps_of_eq (by assumption) ?_) | split
    | (refine keeps_mk ?_ rfl rfl rfl rfl rfl rfl rfl rfl rfl rfl rfl rfl)

theorem keeps_State_tduResult {s₀ : State} {s : State} (p : Nat) (st : Nat) (check : Nat) (dim : Nat) (hK : Keeps s₀ s) : Keeps s₀ (State.tduResult s p st check dim) := by
  unfold State.tduResult
  repeat' first
    | (with_reducible first | assumption | apply keeps_State_setReg) | dsimp only
    | (refine keeps_mk ?_ rfl rfl rfl rfl rfl rfl rfl rfl rfl rfl rfl rfl)

theorem keeps_State_tduFor {s₀ : State} {s : State} (ag : Agent) (p : Nat) (f : State → State) (hK : Keeps s₀ s) (hf : ∀ (x0 : State), Keeps s₀ x0 → Keeps s₀ (f x0)) : Keeps s₀ (State.tduFor s ag p f) := by
  unfold State.tduFor
  repeat' first
    | (with_reducible first | intro _ | assumption | apply hf | apply keeps_ite | apply keeps_ite_fst | apply keeps_State_refuse)
    | dsimp only | split | (refine keeps_mk ?_ rfl rfl rfl rfl rfl rfl rfl rfl rfl rfl rfl rfl)

theorem keeps_State_tduCmd {s₀ : State} {s : State} (ag : Agent) (p : Nat) (f : State → State) (hK : Keeps s₀ s) (hf : ∀ (x0 : State), Keeps s₀ x0 → Keeps s₀ (f x0)) : Keeps s₀ (State.tduCmd s ag p f) := by
  unfold State.tduCmd
  repeat' first
    | (with_reducible first | intro _ | assumption | apply hf | apply keeps_ite | apply keeps_ite_fst | apply keeps_State_tduFor)
    | (with_reducible first | apply keeps_State_cmdBegin) | dsimp only | split
    | (refine keeps_mk ?_ rfl rfl rfl rfl rfl rfl rfl rfl rfl rfl rfl rfl)

theorem keeps_State_regionCmd {s₀ : State} {s : State} (f : State → State) (hK : Keeps s₀ s) (hf : ∀ (x0 : State), Keeps s₀ x0 → Keeps s₀ (f x0)) : Keeps s₀ (State.regionCmd s f) := by
  unfold State.regionCmd
  repeat' first
    | (with_reducible first | intro _ | assumption | apply hf | apply keeps_ite | apply keeps_ite_fst | apply keeps_State_cmdBegin)
    | dsimp only | split | (refine keeps_mk ?_ rfl rfl rfl rfl rfl rfl rfl rfl rfl rfl rfl rfl)

theorem keeps_tduCreateOp {s₀ : State} (ag : Agent) (p : Nat) {s : State} (hK : Keeps s₀ s) : Keeps s₀ (tduCreateOp ag p s) := by
  unfold tduCreateOp
  repeat' first
    | (with_reducible first | intro _ | assumption | apply keeps_ite | apply keeps_ite_fst | apply keeps_State_tduCmd)
    | (with_reducible first | apply keeps_State_tduResult | apply keeps_State_setTable | apply keeps_State_setReg) | dsimp only
    | (refine keeps_of_eq (by assumption) ?_) | split | (refine keeps_mk ?_ rfl rfl rfl rfl rfl rfl rfl rfl rfl rfl rfl rfl)

theorem keeps_tduDestroyOp {s₀ : State} (ag : Agent) (p : Nat) {s : State} (hK : Keeps s₀ s) : Keeps s₀ (tduDestroyOp ag p s) := by
  unfold tduDestroyOp
  repeat' first
    | (with_reducible first | intro _ | assumption | apply keeps_ite | apply keeps_ite_fst | apply keeps_State_tduCmd)
    | (with_reducible first | apply keeps_State_tduResult | apply keeps_State_setTable) | dsimp only
    | (refine keeps_of_eq (by assumption) ?_) | split | (refine keeps_mk ?_ rfl rfl rfl rfl rfl rfl rfl rfl rfl rfl rfl rfl)

theorem keeps_tduReadOp {s₀ : State} (ag : Agent) (p : Nat) {s : State} (hK : Keeps s₀ s) : Keeps s₀ (tduReadOp ag p s) := by
  unfold tduReadOp
  repeat' first
    | (with_reducible first | intro _ | assumption | apply keeps_foldl | apply keeps_foldl_fst | apply keeps_State_tduCmd)
    | (with_reducible first | apply keeps_State_tduResult | apply keeps_State_setReg) | dsimp only
    | (refine keeps_of_eq (by assumption) ?_) | split | (refine keeps_mk ?_ rfl rfl rfl rfl rfl rfl rfl rfl rfl rfl rfl rfl)

theorem keeps_tduClearOp {s₀ : State} (ag : Agent) (p : Nat) {s : State} (hK : Keeps s₀ s) : Keeps s₀ (tduClearOp ag p s) := by
  unfold tduClearOp
  repeat' first
    | (with_reducible first | intro _ | assumption | apply keeps_State_tduCmd | apply keeps_State_zeroRegs)
    | (with_reducible first | apply keeps_State_tduResult) | dsimp only
    | (refine keeps_mk ?_ rfl rfl rfl rfl rfl rfl rfl rfl rfl rfl rfl rfl)

theorem keeps_regionCreateOp {s₀ : State} (ag : Agent) {s : State} (hK : Keeps s₀ s) : Keeps s₀ (regionCreateOp ag s) := by
  unfold regionCreateOp
  repeat' first
    | (with_reducible first | intro _ | assumption | apply keeps_ite | apply keeps_ite_fst | apply keeps_State_regionCmd)
    | (with_reducible first | apply keeps_State_regionStatus | apply keeps_State_addRegion | apply keeps_State_setFld) | dsimp only
    | (refine keeps_of_eq (by assumption) ?_) | split | (refine keeps_mk ?_ rfl rfl rfl rfl rfl rfl rfl rfl rfl rfl rfl rfl)

theorem keeps_regionDestroyOp {s₀ : State} (ag : Agent) (id : Nat) {s : State} (hK : Keeps s₀ s) : Keeps s₀ (regionDestroyOp ag id s) := by
  unfold regionDestroyOp
  repeat' first
    | (with_reducible first | intro _ | assumption | apply keeps_ite | apply keeps_ite_fst | apply keeps_State_regionCmd)
    | (with_reducible first | apply keeps_State_setFld | apply keeps_State_regionStatus | apply keeps_State_dropRegion) | dsimp only
    | (refine keeps_of_eq (by assumption) ?_) | split | (refine keeps_mk ?_ rfl rfl rfl rfl rfl rfl rfl rfl rfl rfl rfl rfl)

theorem keeps_regionReadOp {s₀ : State} (ag : Agent) (id : Nat) {s : State} (hK : Keeps s₀ s) : Keeps s₀ (regionReadOp ag id s) := by
  unfold regionReadOp
  repeat' first
    | (with_reducible first | intro _ | assumption | apply keeps_ite | apply keeps_foldl | apply keeps_ite_fst)
    | (with_reducible first | apply keeps_foldl_fst | apply keeps_State_regionCmd | apply keeps_State_setFld)
    | (with_reducible first | apply keeps_State_regionStatus | apply keeps_State_setReg) | dsimp only
    | (refine keeps_of_eq (by assumption) ?_) | split | (refine keeps_mk ?_ rfl rfl rfl rfl rfl rfl rfl rfl rfl rfl rfl rfl)

theorem keeps_State_spmSpoil {s₀ : State} {s : State} (l : List SpmBad) (hK : Keeps s₀ s) : Keeps s₀ (State.spmSpoil s l) := by
  unfold State.spmSpoil
  repeat' first
    | (with_reducible first | intro _ | assumption) | dsimp only | (refine keeps_mk ?_ rfl rfl rfl rfl rfl rfl rfl rfl rfl rfl rfl rfl)

theorem keeps_spmAccessOp {s₀ : State} (ag : Agent) (m : Nat) (off : Nat) (len : Nat) (data : Option (List (Option Byte))) (h : Option Nat) (newBad : List (Nat × Nat)) {s : State} (hK : Keeps s₀ s) : Keeps s₀ (spmAccessOp ag m off len data h newBad s) := by
  unfold spmAccessOp
  repeat' first
    | (with_reducible first | intro _ | assumption | apply keeps_ite | apply keeps_ite_fst | apply keeps_State_answer)
    | (with_reducible first | apply keeps_State_spmSpoil | apply keeps_State_spmAccess) | dsimp only
    | (refine keeps_of_eq (by assumption) ?_) | split | (refine keeps_mk ?_ rfl rfl rfl rfl rfl rfl rfl rfl rfl rfl rfl rfl)

theorem keeps_ownChangeOp {s₀ : State} (ag : Agent) (v : Word) {s : State} (hK : Keeps s₀ s) : Keeps s₀ (ownChangeOp ag v s) := by
  unfold ownChangeOp
  repeat' first
    | (with_reducible first | assumption | apply keeps_ite | apply keeps_ite_fst | apply keeps_State_setReg)
    | (with_reducible first | apply keeps_State_count | apply keeps_State_refuseSys) | dsimp only | split
    | (refine keeps_mk ?_ rfl rfl rfl rfl rfl rfl rfl rfl rfl rfl rfl rfl)

theorem keeps_zeroFillOp {s₀ : State} {s : State} (hK : Keeps s₀ s) : Keeps s₀ (zeroFillOp s) := by
  unfold zeroFillOp
  repeat' first
    | (with_reducible first | intro _ | assumption | apply keeps_foldl | apply keeps_foldl_fst | apply keeps_State_modSpm)
    | (with_reducible first | apply keeps_State_count | apply keeps_State_setGranuleOwner | apply keeps_State_setReg)
    | (with_reducible first | apply keeps_State_bump | apply keeps_State_spmAccess | apply Store.wf_foldl | apply Store.wf_put)
    | (with_reducible first | apply Store.wf_clear) | dsimp only | (refine keeps_of_eq (by assumption) ?_) | split
    | (refine keeps_mk ?_ rfl rfl rfl rfl rfl rfl rfl rfl rfl rfl rfl rfl) | rfl

theorem keeps_spmScrubOp {s₀ : State} (busy : List Nat) (newBad : List (Nat × Nat × Nat)) {s : State} (hK : Keeps s₀ s) : Keeps s₀ (spmScrubOp busy newBad s) := by
  unfold spmScrubOp
  repeat' first
    | (with_reducible first | intro _ | assumption | apply keeps_ite | apply keeps_foldl | apply keeps_ite_fst)
    | (with_reducible first | apply keeps_foldl_fst | apply keeps_State_spmSpoil | apply keeps_State_bump)
    | (with_reducible first | apply keeps_State_spmLog) | dsimp only | (refine keeps_of_eq (by assumption) ?_)
    | (refine keeps_of_eq_snd (by assumption) ?_) | split | (refine keeps_mk ?_ rfl rfl rfl rfl rfl rfl rfl rfl rfl rfl rfl rfl)

theorem keeps_spmClearOp {s₀ : State} (ag : Agent) {s : State} (hK : Keeps s₀ s) : Keeps s₀ (spmClearOp ag s) := by
  unfold spmClearOp
  repeat' first
    | (with_reducible first | assumption | apply keeps_ite | apply keeps_ite_fst | apply keeps_State_zeroRegs)
    | (with_reducible first | apply keeps_State_refuseSys) | dsimp only | split
    | (refine keeps_mk ?_ rfl rfl rfl rfl rfl rfl rfl rfl rfl rfl rfl rfl)

theorem keeps_State_gpioSense {s₀ : State} {s : State} (n : Nat) (hK : Keeps s₀ s) : Keeps s₀ (State.gpioSense s n) := by
  unfold State.gpioSense
  repeat' first
    | (with_reducible first | assumption | apply keeps_ite | apply keeps_ite_fst | apply keeps_State_setFlag)
    | (with_reducible first | apply keeps_State_fgsGpio | apply keeps_State_dmaGpio | apply keeps_State_irqRaise)
    | (with_reducible first | apply keeps_State_irqDrop) | dsimp only | split
    | (refine keeps_mk ?_ rfl rfl rfl rfl rfl rfl rfl rfl rfl rfl rfl rfl)

theorem keeps_State_gpioStrobe {s₀ : State} {s : State} (t : Nat) (hK : Keeps s₀ s) : Keeps s₀ (State.gpioStrobe s t) := by
  unfold State.gpioStrobe
  repeat' first
    | (with_reducible first | intro _ | assumption | apply keeps_ite | apply keeps_foldl | apply keeps_ite_fst)
    | (with_reducible first | apply keeps_foldl_fst | apply keeps_State_gpioSense) | dsimp only | split
    | (refine keeps_mk ?_ rfl rfl rfl rfl rfl rfl rfl rfl rfl rfl rfl rfl)

theorem keeps_State_strobesEnd {s₀ : State} {s : State} (hK : Keeps s₀ s) : Keeps s₀ (State.strobesEnd s) := by
  unfold State.strobesEnd
  repeat' first
    | (with_reducible first | intro _ | assumption | apply keeps_ite | apply keeps_foldl | apply keeps_ite_fst)
    | (with_reducible first | apply keeps_foldl_fst | apply keeps_State_gpioSense) | dsimp only | (refine keeps_of_eq (by assumption) ?_)
    | split | (refine keeps_mk ?_ rfl rfl rfl rfl rfl rfl rfl rfl rfl rfl rfl rfl)

theorem keeps_State_swapCheck {s₀ : State} {s : State} (ag : Agent) (st : Nat) (a : Nat) (hK : Keeps s₀ s) : Keeps s₀ (State.swapCheck s ag st a).1 := by
  unfold State.swapCheck
  repeat' first
    | (with_reducible first | assumption | apply keeps_ite | apply keeps_ite_fst | apply keeps_State_refuse)
    | (with_reducible first | apply keeps_State_readAgain) | dsimp only | (refine keeps_of_eq (by assumption) ?_)
    | (refine keeps_of_eq_snd (by assumption) ?_) | split | (refine keeps_mk ?_ rfl rfl rfl rfl rfl rfl rfl rfl rfl rfl rfl rfl)

theorem keeps_swapGo {s₀ : State} (ag : Agent) (st : Nat) {s : State} (hK : Keeps s₀ s) : Keeps s₀ (swapGo ag st s) := by
  unfold swapGo
  repeat' first
    | (with_reducible first | assumption | apply keeps_ite | apply keeps_ite_fst | apply keeps_State_setFld)
    | (with_reducible first | apply keeps_State_swapCheck | apply keeps_State_setReg | apply keeps_State_cmdBegin)
    | (with_reducible first | apply keeps_State_setIspStream) | dsimp only | split
    | (refine keeps_mk ?_ rfl rfl rfl rfl rfl rfl rfl rfl rfl rfl rfl rfl)

theorem keeps_swapOp {s₀ : State} (ag : Agent) (st : Nat) {s : State} (hK : Keeps s₀ s) : Keeps s₀ (swapOp ag st s) := by
  unfold swapOp
  repeat' first
    | (with_reducible first | assumption | apply keeps_ite | apply keeps_ite_fst | apply keeps_swapGo) | dsimp only | split
    | (refine keeps_mk ?_ rfl rfl rfl rfl rfl rfl rfl rfl rfl rfl rfl rfl)

theorem keeps_resetModelGo {s₀ : State} (ag : Agent) (st : Nat) {s : State} (hK : Keeps s₀ s) : Keeps s₀ (resetModelGo ag st s) := by
  unfold resetModelGo
  repeat' first
    | (with_reducible first | assumption | apply keeps_ite | apply keeps_ite_fst | apply keeps_State_setFld)
    | (with_reducible first | apply keeps_State_resetModel | apply keeps_State_refuse | apply keeps_State_setReg) | dsimp only | split
    | (refine keeps_mk ?_ rfl rfl rfl rfl rfl rfl rfl rfl rfl rfl rfl rfl)

theorem keeps_resetModelOp {s₀ : State} (ag : Agent) (st : Nat) {s : State} (hK : Keeps s₀ s) : Keeps s₀ (resetModelOp ag st s) := by
  unfold resetModelOp
  repeat' first
    | (with_reducible first | assumption | apply keeps_ite | apply keeps_ite_fst | apply keeps_resetModelGo) | dsimp only | split
    | (refine keeps_mk ?_ rfl rfl rfl rfl rfl rfl rfl rfl rfl rfl rfl rfl)

theorem keeps_ctxCmdOp {s₀ : State} (ag : Agent) (v : Word) {s : State} (hK : Keeps s₀ s) : Keeps s₀ (ctxCmdOp ag v s) := by
  unfold ctxCmdOp
  repeat' first
    | (with_reducible first | assumption | apply keeps_ite | apply keeps_ite_fst | apply keeps_State_setFld)
    | (with_reducible first | apply keeps_resetModelGo | apply keeps_swapGo) | dsimp only | split
    | (refine keeps_mk ?_ rfl rfl rfl rfl rfl rfl rfl rfl rfl rfl rfl rfl)

theorem keeps_postOp {s₀ : State} (ag : Agent) (h : Nat) (v : Word) {s : State} (hK : Keeps s₀ s) : Keeps s₀ (postOp ag h v s) := by
  unfold postOp
  repeat' first
    | (with_reducible first | intro _ | assumption | apply keeps_ite | apply keeps_foldl | apply keeps_ite_fst)
    | (with_reducible first | apply keeps_foldl_fst | apply keeps_State_setFld | apply keeps_State_answer)
    | (with_reducible first | apply keeps_State_setReg | apply keeps_State_refuse | apply keeps_State_setIspStream)
    | (with_reducible first | apply keeps_State_ctlQueue) | dsimp only | (refine keeps_of_eq (by assumption) ?_)
    | (refine keeps_of_eq_snd (by assumption) ?_) | split | (refine keeps_mk ?_ rfl rfl rfl rfl rfl rfl rfl rfl rfl rfl rfl rfl)

theorem keeps_State_modIspFrame {s₀ : State} {s : State} (i : Nat) (f : IspFrame → IspFrame) (hK : Keeps s₀ s) : Keeps s₀ (State.modIspFrame s i f) := by
  unfold State.modIspFrame
  repeat' first
    | (with_reducible first | intro _ | assumption | apply keeps_ite | apply keeps_ite_fst) | dsimp only | split
    | (refine keeps_mk ?_ rfl rfl rfl rfl rfl rfl rfl rfl rfl rfl rfl rfl)

theorem keeps_State_takeCredits {s₀ : State} {s : State} (i : Nat) (id : Nat) (hK : Keeps s₀ s) : Keeps s₀ (State.takeCredits s i id) := by
  unfold State.takeCredits
  repeat' first
    | (with_reducible first | assumption | apply keeps_State_creditRequest) | dsimp only
    | (refine keeps_mk ?_ rfl rfl rfl rfl rfl rfl rfl rfl rfl rfl rfl rfl)

theorem keeps_State_ispBegin {s₀ : State} {s : State} (n : Nat) (i : Nat) (st : Nat) (k : Nat) (c : Nat) (out : Nat) (ts : List Nat) (stats : Nat) (hK : Keeps s₀ s) : Keeps s₀ (State.ispBegin s n i st k c out ts stats) := by
  unfold State.ispBegin
  repeat' first
    | (with_reducible first | assumption | apply keeps_ite | apply keeps_ite_fst | apply keeps_State_holdSlot)
    | (with_reducible first | apply keeps_State_count | apply keeps_State_startTask | apply keeps_State_modelStart)
    | (with_reducible first | apply keeps_State_ringsAtDispatch) | dsimp only | split
    | (refine keeps_mk ?_ rfl rfl rfl rfl rfl rfl rfl rfl rfl rfl rfl rfl)

theorem keeps_ispStartOp {s₀ : State} (n : Nat) (out : Nat) (ts : List Nat) (stats : Nat) {s : State} (hK : Keeps s₀ s) : Keeps s₀ (ispStartOp n out ts stats s) := by
  unfold ispStartOp
  repeat' first
    | (with_reducible first | intro _ | assumption | apply keeps_ite | apply keeps_ite_fst | apply keeps_State_startOn)
    | (with_reducible first | apply keeps_State_takeCredits | apply keeps_State_modIspFrame | apply keeps_State_ringsOpen)
    | (with_reducible first | apply keeps_State_failTask | apply keeps_State_ispBegin) | dsimp only
    | (refine keeps_of_eq (by assumption) ?_) | split | (refine keeps_mk ?_ rfl rfl rfl rfl rfl rfl rfl rfl rfl rfl rfl rfl)

theorem keeps_State_ispRefuse {s₀ : State} {s : State} (i : Nat) (n : Nat) (status : Nat) (f : IspFrame) (hK : Keeps s₀ s) : Keeps s₀ (State.ispRefuse s i n status f) := by
  unfold State.ispRefuse
  repeat' first
    | (with_reducible first | assumption | apply keeps_State_finishTask) | dsimp only
    | (refine keeps_mk ?_ rfl rfl rfl rfl rfl rfl rfl rfl rfl rfl rfl rfl)

theorem keeps_ispLoadOp {s₀ : State} (n : Nat) {s : State} (hK : Keeps s₀ s) : Keeps s₀ (ispLoadOp n s) := by
  unfold ispLoadOp
  repeat' first
    | (with_reducible first | intro _ | assumption | apply keeps_ite | apply keeps_ite_fst | apply keeps_State_dramRead)
    | (with_reducible first | apply keeps_State_modTask | apply keeps_State_readAgain | apply keeps_State_count)
    | (with_reducible first | apply keeps_State_failTask | apply keeps_State_ispRefuse | apply keeps_State_modelLoad)
    | (with_reducible first | apply keeps_State_modIspFrame) | dsimp only | (refine keeps_of_eq (by assumption) ?_)
    | (refine keeps_of_eq_snd (by assumption) ?_) | split | (refine keeps_mk ?_ rfl rfl rfl rfl rfl rfl rfl rfl rfl rfl rfl rfl)

theorem keeps_ispCompleteOp {s₀ : State} (n : Nat) (stalled : Bool) {s : State} (hK : Keeps s₀ s) : Keeps s₀ (ispCompleteOp n stalled s) := by
  unfold ispCompleteOp
  repeat' first
    | (with_reducible first | intro _ | assumption | apply keeps_ite | apply keeps_ite_fst | apply keeps_State_pipeDone)
    | (with_reducible first | apply keeps_State_bump | apply keeps_State_finishTask) | dsimp only
    | (refine keeps_of_eq (by assumption) ?_) | (refine keeps_of_eq_snd (by assumption) ?_) | split
    | (refine keeps_mk ?_ rfl rfl rfl rfl rfl rfl rfl rfl rfl rfl rfl rfl)

theorem keeps_ispParityOp {s₀ : State} (n : Nat) {s : State} (hK : Keeps s₀ s) : Keeps s₀ (ispParityOp n s) := by
  unfold ispParityOp
  repeat' first
    | (with_reducible first | intro _ | assumption | apply keeps_ite | apply keeps_ite_fst | apply keeps_State_modTask)
    | (with_reducible first | apply keeps_State_failTask) | dsimp only | (refine keeps_of_eq (by assumption) ?_) | split
    | (refine keeps_mk ?_ rfl rfl rfl rfl rfl rfl rfl rfl rfl rfl rfl rfl)

theorem keeps_ispYieldOp {s₀ : State} (n : Nat) (rows : Nat) {s : State} (hK : Keeps s₀ s) : Keeps s₀ (ispYieldOp n rows s) := by
  unfold ispYieldOp
  repeat' first
    | (with_reducible first | intro _ | assumption | apply keeps_ite | apply keeps_ite_fst | apply keeps_State_engRun)
    | (with_reducible first | apply keeps_State_crumbTask | apply keeps_State_modTask | apply keeps_State_ringsLeft)
    | (with_reducible first | apply keeps_State_modIspFrame | apply keeps_State_bump | apply keeps_State_domBusy)
    | (with_reducible first | apply keeps_State_creditRelease) | dsimp only | (refine keeps_of_eq (by assumption) ?_) | split
    | (refine keeps_mk ?_ rfl rfl rfl rfl rfl rfl rfl rfl rfl rfl rfl rfl)

theorem keeps_ispAbortOp {s₀ : State} (ag : Agent) (n : Nat) {s : State} (hK : Keeps s₀ s) : Keeps s₀ (ispAbortOp ag n s) := by
  unfold ispAbortOp
  repeat' first
    | (with_reducible first | assumption | apply keeps_State_abortOn) | dsimp only
    | (refine keeps_mk ?_ rfl rfl rfl rfl rfl rfl rfl rfl rfl rfl rfl rfl)

theorem keeps_ispEnableOp {s₀ : State} (ag : Agent) (n : Nat) (on : Bool) {s : State} (hK : Keeps s₀ s) : Keeps s₀ (ispEnableOp ag n on s) := by
  unfold ispEnableOp
  repeat' first
    | (with_reducible first | assumption | apply keeps_ite | apply keeps_ite_fst | apply keeps_State_setFlag)
    | (with_reducible first | apply keeps_State_askYields | apply keeps_State_refuseSys) | dsimp only | split
    | (refine keeps_mk ?_ rfl rfl rfl rfl rfl rfl rfl rfl rfl rfl rfl rfl)

theorem keeps_ispClearOp {s₀ : State} (ag : Agent) (n : Nat) {s : State} (hK : Keeps s₀ s) : Keeps s₀ (ispClearOp ag n s) := by
  unfold ispClearOp
  repeat' first
    | (with_reducible first | assumption | apply keeps_ite | apply keeps_ite_fst | apply keeps_State_zeroRegs)
    | (with_reducible first | apply keeps_State_refuseSys) | dsimp only | split
    | (refine keeps_mk ?_ rfl rfl rfl rfl rfl rfl rfl rfl rfl rfl rfl rfl)

theorem keeps_State_engComplete {s₀ : State} {s : State} (id : Nat) (hK : Keeps s₀ s) : Keeps s₀ (State.engComplete s id) := by
  unfold State.engComplete
  repeat' first
    | (with_reducible first | intro _ | assumption | apply keeps_State_pipeDone | apply keeps_State_finishTask) | dsimp only
    | (refine keeps_of_eq (by assumption) ?_) | split | (refine keeps_mk ?_ rfl rfl rfl rfl rfl rfl rfl rfl rfl rfl rfl rfl)

theorem keeps_pgeCompleteOp {s₀ : State} (n : Nat) {s : State} (hK : Keeps s₀ s) : Keeps s₀ (pgeCompleteOp n s) := by
  unfold pgeCompleteOp
  repeat' first
    | (with_reducible first | assumption | apply keeps_State_engComplete) | dsimp only
    | (refine keeps_mk ?_ rfl rfl rfl rfl rfl rfl rfl rfl rfl rfl rfl rfl)

theorem keeps_wpeCompleteOp {s₀ : State} (n : Nat) {s : State} (hK : Keeps s₀ s) : Keeps s₀ (wpeCompleteOp n s) := by
  unfold wpeCompleteOp
  repeat' first
    | (with_reducible first | assumption | apply keeps_State_engComplete) | dsimp only
    | (refine keeps_mk ?_ rfl rfl rfl rfl rfl rfl rfl rfl rfl rfl rfl rfl)

theorem keeps_ofeCompleteOp {s₀ : State} (n : Nat) {s : State} (hK : Keeps s₀ s) : Keeps s₀ (ofeCompleteOp n s) := by
  unfold ofeCompleteOp
  repeat' first
    | (with_reducible first | assumption | apply keeps_State_engComplete) | dsimp only
    | (refine keeps_mk ?_ rfl rfl rfl rfl rfl rfl rfl rfl rfl rfl rfl rfl)

theorem keeps_sgeCompleteOp {s₀ : State} {s : State} (hK : Keeps s₀ s) : Keeps s₀ (sgeCompleteOp s) := by
  unfold sgeCompleteOp
  repeat' first
    | (with_reducible first | assumption | apply keeps_State_engComplete) | dsimp only
    | (refine keeps_mk ?_ rfl rfl rfl rfl rfl rfl rfl rfl rfl rfl rfl rfl)

theorem keeps_fteCompleteOp {s₀ : State} {s : State} (hK : Keeps s₀ s) : Keeps s₀ (fteCompleteOp s) := by
  unfold fteCompleteOp
  repeat' first
    | (with_reducible first | assumption | apply keeps_State_engComplete) | dsimp only
    | (refine keeps_mk ?_ rfl rfl rfl rfl rfl rfl rfl rfl rfl rfl rfl rfl)

theorem keeps_State_engYield {s₀ : State} {s : State} (i : Nat) (id : Nat) (e : Nat) (pos : Nat) (c : Nat) (hK : Keeps s₀ s) : Keeps s₀ (State.engYield s i id e pos c) := by
  unfold State.engYield
  repeat' first
    | (with_reducible first | intro _ | assumption | apply keeps_State_modTask | apply keeps_State_yieldEngine) | dsimp only
    | (refine keeps_mk ?_ rfl rfl rfl rfl rfl rfl rfl rfl rfl rfl rfl rfl)

theorem keeps_pgeYieldOp {s₀ : State} (n : Nat) (pos : Nat) {s : State} (hK : Keeps s₀ s) : Keeps s₀ (pgeYieldOp n pos s) := by
  unfold pgeYieldOp
  repeat' first
    | (with_reducible first | assumption | apply keeps_ite | apply keeps_ite_fst | apply keeps_State_pgeRun)
    | (with_reducible first | apply keeps_State_drawMany | apply keeps_State_dramWrite | apply keeps_State_failTask)
    | (with_reducible first | apply keeps_State_engYield) | dsimp only | (refine keeps_of_eq (by assumption) ?_)
    | (refine keeps_of_eq_snd (by assumption) ?_) | split | (refine keeps_mk ?_ rfl rfl rfl rfl rfl rfl rfl rfl rfl rfl rfl rfl)

theorem keeps_State_pgeResume {s₀ : State} {s : State} (id : Nat) (i : Nat) (hK : Keeps s₀ s) : Keeps s₀ (State.pgeResume s id i) := by
  unfold State.pgeResume
  repeat' first
    | (with_reducible first | assumption | apply keeps_ite | apply keeps_ite_fst | apply keeps_State_readAgain)
    | (with_reducible first | apply keeps_State_failTask) | dsimp only | (refine keeps_of_eq (by assumption) ?_)
    | (refine keeps_of_eq_snd (by assumption) ?_) | split | (refine keeps_mk ?_ rfl rfl rfl rfl rfl rfl rfl rfl rfl rfl rfl rfl)

theorem keeps_wpeYieldOp {s₀ : State} (n : Nat) (pos : Nat) {s : State} (hK : Keeps s₀ s) : Keeps s₀ (wpeYieldOp n pos s) := by
  unfold wpeYieldOp
  repeat' first
    | (with_reducible first | assumption | apply keeps_ite | apply keeps_ite_fst | apply keeps_State_wpeRun)
    | (with_reducible first | apply keeps_State_engYield) | dsimp only | (refine keeps_of_eq (by assumption) ?_)
    | (refine keeps_of_eq_snd (by assumption) ?_) | split | (refine keeps_mk ?_ rfl rfl rfl rfl rfl rfl rfl rfl rfl rfl rfl rfl)

theorem keeps_ofeYieldOp {s₀ : State} (n : Nat) (pos : Nat) {s : State} (hK : Keeps s₀ s) : Keeps s₀ (ofeYieldOp n pos s) := by
  unfold ofeYieldOp
  repeat' first
    | (with_reducible first | assumption | apply keeps_ite | apply keeps_ite_fst | apply keeps_State_ofeRun)
    | (with_reducible first | apply keeps_State_engYield) | dsimp only | (refine keeps_of_eq (by assumption) ?_)
    | (refine keeps_of_eq_snd (by assumption) ?_) | split | (refine keeps_mk ?_ rfl rfl rfl rfl rfl rfl rfl rfl rfl rfl rfl rfl)

theorem keeps_sgeYieldOp {s₀ : State} (pos : Nat) {s : State} (hK : Keeps s₀ s) : Keeps s₀ (sgeYieldOp pos s) := by
  unfold sgeYieldOp
  repeat' first
    | (with_reducible first | assumption | apply keeps_ite | apply keeps_ite_fst | apply keeps_State_engYield) | dsimp only
    | (refine keeps_of_eq (by assumption) ?_) | split | (refine keeps_mk ?_ rfl rfl rfl rfl rfl rfl rfl rfl rfl rfl rfl rfl)

theorem keeps_fteYieldOp {s₀ : State} (pos : Nat) {s : State} (hK : Keeps s₀ s) : Keeps s₀ (fteYieldOp pos s) := by
  unfold fteYieldOp
  repeat' first
    | (with_reducible first | assumption | apply keeps_ite | apply keeps_ite_fst | apply keeps_State_fteRun)
    | (with_reducible first | apply keeps_State_engYield) | dsimp only | (refine keeps_of_eq (by assumption) ?_) | split
    | (refine keeps_mk ?_ rfl rfl rfl rfl rfl rfl rfl rfl rfl rfl rfl rfl)

theorem keeps_bankYieldOp {s₀ : State} (e : Nat) (pos : Nat) {s : State} (hK : Keeps s₀ s) : Keeps s₀ (bankYieldOp e pos s) := by
  unfold bankYieldOp
  repeat' first
    | (with_reducible first | assumption | apply keeps_ite | apply keeps_ite_fst | apply keeps_ofeYieldOp | apply keeps_sgeYieldOp)
    | (with_reducible first | apply keeps_fteYieldOp | apply keeps_ncYieldOp) | dsimp only | split
    | (refine keeps_mk ?_ rfl rfl rfl rfl rfl rfl rfl rfl rfl rfl rfl rfl)

theorem keeps_State_engParity {s₀ : State} {s : State} (id : Nat) (hK : Keeps s₀ s) : Keeps s₀ (State.engParity s id) := by
  unfold State.engParity
  repeat' first
    | (with_reducible first | intro _ | assumption | apply keeps_ite | apply keeps_ite_fst | apply keeps_State_dropIds)
    | (with_reducible first | apply keeps_State_modTask | apply keeps_State_failTask) | dsimp only
    | (refine keeps_of_eq (by assumption) ?_) | split | (refine keeps_mk ?_ rfl rfl rfl rfl rfl rfl rfl rfl rfl rfl rfl rfl)

theorem keeps_pipeParityOp {s₀ : State} (e : Nat) {s : State} (hK : Keeps s₀ s) : Keeps s₀ (pipeParityOp e s) := by
  unfold pipeParityOp
  repeat' first
    | (with_reducible first | assumption | apply keeps_State_engParity) | dsimp only
    | (refine keeps_mk ?_ rfl rfl rfl rfl rfl rfl rfl rfl rfl rfl rfl rfl)

theorem keeps_flowParityOp {s₀ : State} (e : Nat) {s : State} (hK : Keeps s₀ s) : Keeps s₀ (flowParityOp e s) := by
  unfold flowParityOp
  repeat' first
    | (with_reducible first | assumption | apply keeps_State_engParity) | dsimp only
    | (refine keeps_mk ?_ rfl rfl rfl rfl rfl rfl rfl rfl rfl rfl rfl rfl)

theorem keeps_fteParityOp {s₀ : State} {s : State} (hK : Keeps s₀ s) : Keeps s₀ (fteParityOp s) := by
  unfold fteParityOp
  repeat' first
    | (with_reducible first | assumption | apply keeps_State_engParity) | dsimp only
    | (refine keeps_mk ?_ rfl rfl rfl rfl rfl rfl rfl rfl rfl rfl rfl rfl)

theorem keeps_pairParityOp {s₀ : State} (k : Nat) {s : State} (hK : Keeps s₀ s) : Keeps s₀ (pairParityOp k s) := by
  unfold pairParityOp
  repeat' first
    | (with_reducible first | assumption | apply keeps_ite | apply keeps_ite_fst | apply keeps_State_readAgain)
    | (with_reducible first | apply keeps_State_engParity) | dsimp only | (refine keeps_of_eq (by assumption) ?_)
    | (refine keeps_of_eq_snd (by assumption) ?_) | split | (refine keeps_mk ?_ rfl rfl rfl rfl rfl rfl rfl rfl rfl rfl rfl rfl)

theorem keeps_engineAbortOp {s₀ : State} (ag : Agent) (e : Nat) {s : State} (hK : Keeps s₀ s) : Keeps s₀ (engineAbortOp ag e s) := by
  unfold engineAbortOp
  repeat' first
    | (with_reducible first | assumption | apply keeps_State_abortOn) | dsimp only
    | (refine keeps_mk ?_ rfl rfl rfl rfl rfl rfl rfl rfl rfl rfl rfl rfl)

theorem keeps_engineEnableOp {s₀ : State} (ag : Agent) (e : Nat) (on : Bool) {s : State} (hK : Keeps s₀ s) : Keeps s₀ (engineEnableOp ag e on s) := by
  unfold engineEnableOp
  repeat' first
    | (with_reducible first | assumption | apply keeps_ite | apply keeps_ite_fst | apply keeps_State_setFlag)
    | (with_reducible first | apply keeps_State_askYields | apply keeps_State_refuseSys) | dsimp only | split
    | (refine keeps_mk ?_ rfl rfl rfl rfl rfl rfl rfl rfl rfl rfl rfl rfl)

theorem keeps_engineClearOp {s₀ : State} (ag : Agent) (e : Nat) {s : State} (hK : Keeps s₀ s) : Keeps s₀ (engineClearOp ag e s) := by
  unfold engineClearOp
  repeat' first
    | (with_reducible first | assumption | apply keeps_ite | apply keeps_ite_fst | apply keeps_State_zeroRegs)
    | (with_reducible first | apply keeps_State_refuseSys) | dsimp only | split
    | (refine keeps_mk ?_ rfl rfl rfl rfl rfl rfl rfl rfl rfl rfl rfl rfl)

theorem keeps_State_pickOf {s₀ : State} {s : State} (l : List Nat) (hK : Keeps s₀ s) : Keeps s₀ (State.pickOf s l).1 := by
  unfold State.pickOf
  repeat' first
    | (with_reducible first | assumption | apply keeps_State_draw) | dsimp only | (refine keeps_of_eq (by assumption) ?_)
    | (refine keeps_of_eq_snd (by assumption) ?_) | split | (refine keeps_mk ?_ rfl rfl rfl rfl rfl rfl rfl rfl rfl rfl rfl rfl)

theorem keeps_State_engineState {s₀ : State} {s : State} (id : Nat) (i : Nat) (hK : Keeps s₀ s) : Keeps s₀ (State.engineState s id i).1 := by
  unfold State.engineState
  repeat' first
    | (with_reducible first | assumption | apply keeps_ite | apply keeps_ite_fst | apply keeps_State_pickOf) | dsimp only | split
    | (refine keeps_mk ?_ rfl rfl rfl rfl rfl rfl rfl rfl rfl rfl rfl rfl)

theorem keeps_State_ispState {s₀ : State} {s : State} (f : IspFrame) (hK : Keeps s₀ s) : Keeps s₀ (State.ispState s f).1 := by
  unfold State.ispState
  repeat' first
    | (with_reducible first | assumption | apply keeps_ite | apply keeps_ite_fst | apply keeps_State_pickOf) | dsimp only | split
    | (refine keeps_mk ?_ rfl rfl rfl rfl rfl rfl rfl rfl rfl rfl rfl rfl)

theorem keeps_State_fteProgress {s₀ : State} {s : State} (i : Nat) (hK : Keeps s₀ s) : Keeps s₀ (State.fteProgress s i).1 := by
  unfold State.fteProgress
  repeat' first
    | (with_reducible first | intro _ | assumption | apply keeps_ite | apply keeps_ite_fst | apply keeps_State_fteRun)
    | (with_reducible first | apply keeps_State_pickOf | apply keeps_State_modTask) | dsimp only
    | (refine keeps_of_eq (by assumption) ?_) | (refine keeps_of_eq_snd (by assumption) ?_) | split
    | (refine keeps_mk ?_ rfl rfl rfl rfl rfl rfl rfl rfl rfl rfl rfl rfl)

theorem keeps_State_countShown {s₀ : State} {s : State} (id : Nat) (i : Nat) (hK : Keeps s₀ s) : Keeps s₀ (State.countShown s id i).1 := by
  unfold State.countShown
  repeat' first
    | (with_reducible first | intro _ | assumption | apply keeps_ite | apply keeps_ite_fst | apply keeps_State_engRun)
    | (with_reducible first | apply keeps_State_pickOf | apply keeps_State_modTask) | dsimp only
    | (refine keeps_of_eq (by assumption) ?_) | (refine keeps_of_eq_snd (by assumption) ?_) | split
    | (refine keeps_mk ?_ rfl rfl rfl rfl rfl rfl rfl rfl rfl rfl rfl rfl)

end Sys2Proof.Machine
end

