-- ==== Sys2Proof/Laws/KeepsSystem.lean ====
section
/-! SUPPORT. One lemma per operation: what it keeps (Laws/Keeps.lean). Here: the taster, tasks, host cores, pins, counters, ports, the lock, the island, time, registers, boot and the tick. -/

namespace Sys2Proof.Machine

theorem keeps_State_tasterArgs {s₀ : State} {s : State} (i : Nat) (hK : Keeps s₀ s) : Keeps s₀ (State.tasterArgs s i).1 := by
  unfold State.tasterArgs
  repeat' first
    | (with_reducible first | assumption | apply keeps_ite | apply keeps_ite_fst | apply keeps_State_readParams)
    | (with_reducible first | apply keeps_State_readAgain) | dsimp only | (refine keeps_of_eq (by assumption) ?_)
    | (refine keeps_of_eq_snd (by assumption) ?_) | split | (refine keeps_mk ?_ rfl rfl rfl rfl rfl rfl rfl rfl rfl rfl rfl rfl)

theorem keeps_State_tasterStart {s₀ : State} {s : State} (i : Nat) (hK : Keeps s₀ s) : Keeps s₀ (State.tasterStart s i).1 := by
  unfold State.tasterStart
  repeat' first
    | (with_reducible first | assumption | apply keeps_ite | apply keeps_ite_fst | apply keeps_State_tasterArgs)
    | (with_reducible first | apply keeps_State_startTask) | dsimp only | (refine keeps_of_eq (by assumption) ?_)
    | (refine keeps_of_eq_snd (by assumption) ?_) | split | (refine keeps_mk ?_ rfl rfl rfl rfl rfl rfl rfl rfl rfl rfl rfl rfl)

theorem keeps_State_tasteOpnd {s₀ : State} {s : State} (i : Nat) (h : Nat) (hK : Keeps s₀ s) : Keeps s₀ (State.tasteOpnd s i h).1 := by
  unfold State.tasteOpnd
  repeat' first
    | (with_reducible first | assumption | apply keeps_ite | apply keeps_ite_fst | apply keeps_State_readTensors) | dsimp only
    | (refine keeps_of_eq (by assumption) ?_) | (refine keeps_of_eq_snd (by assumption) ?_) | split
    | (refine keeps_mk ?_ rfl rfl rfl rfl rfl rfl rfl rfl rfl rfl rfl rfl)

theorem keeps_State_tasterEnd {s₀ : State} {s : State} (i : Nat) (c : Commit) (hK : Keeps s₀ s) : Keeps s₀ (State.tasterEnd s i c) := by
  unfold State.tasterEnd
  repeat' first
    | (with_reducible first | intro _ | assumption | apply keeps_ite | apply keeps_ite_fst | apply keeps_State_finishTask)
    | (with_reducible first | apply keeps_State_postProofs | apply keeps_State_cause | apply keeps_State_proofOutcome) | dsimp only
    | (refine keeps_of_eq (by assumption) ?_) | split | (refine keeps_mk ?_ rfl rfl rfl rfl rfl rfl rfl rfl rfl rfl rfl rfl)

theorem keeps_State_tasterFinish {s₀ : State} {s : State} (i : Nat) (hK : Keeps s₀ s) : Keeps s₀ (State.tasterFinish s i) := by
  unfold State.tasterFinish
  repeat' first
    | (with_reducible first | assumption | apply keeps_ite | apply keeps_ite_fst | apply keeps_State_tasteOpnd)
    | (with_reducible first | apply keeps_State_tasterEnd | apply keeps_State_count) | dsimp only
    | (refine keeps_of_eq (by assumption) ?_) | (refine keeps_of_eq_snd (by assumption) ?_) | split
    | (refine keeps_mk ?_ rfl rfl rfl rfl rfl rfl rfl rfl rfl rfl rfl rfl)

theorem keeps_State_answerStatus {s₀ : State} {s : State} (st : Nat) (hK : Keeps s₀ s) : Keeps s₀ (State.answerStatus s st) := by
  unfold State.answerStatus
  repeat' first
    | (with_reducible first | assumption | apply keeps_State_answer) | dsimp only
    | (refine keeps_mk ?_ rfl rfl rfl rfl rfl rfl rfl rfl rfl rfl rfl rfl)

theorem keeps_State_postBusy {s₀ : State} {s : State} (ag : Agent) (h : Nat) (level : Nat) (cls : Nat) (detail : Nat) (hK : Keeps s₀ s) : Keeps s₀ (State.postBusy s ag h level cls detail) := by
  unfold State.postBusy
  repeat' first
    | (with_reducible first | assumption | apply keeps_State_bump | apply keeps_State_crumb | apply keeps_State_answerStatus)
    | dsimp only | (refine keeps_mk ?_ rfl rfl rfl rfl rfl rfl rfl rfl rfl rfl rfl rfl)

theorem keeps_postTryOp {s₀ : State} (ag : Agent) (h : Nat) {s : State} (hK : Keeps s₀ s) : Keeps s₀ (postTryOp ag h s) := by
  unfold postTryOp
  repeat' first
    | (with_reducible first | assumption | apply keeps_ite | apply keeps_ite_fst | apply keeps_State_refuse)
    | (with_reducible first | apply keeps_State_answerStatus | apply keeps_State_postBusy | apply keeps_State_allocTask)
    | (with_reducible first | apply keeps_State_enqueue | apply keeps_State_setReg) | dsimp only
    | (refine keeps_of_eq (by assumption) ?_) | split | (refine keeps_mk ?_ rfl rfl rfl rfl rfl rfl rfl rfl rfl rfl rfl rfl)

theorem keeps_eventTryOp {s₀ : State} (ag : Agent) (h : Nat) {s : State} (hK : Keeps s₀ s) : Keeps s₀ (eventTryOp ag h s) := by
  unfold eventTryOp
  repeat' first
    | (with_reducible first | assumption | apply keeps_ite | apply keeps_ite_fst | apply keeps_State_refuse)
    | (with_reducible first | apply keeps_State_answerStatus | apply keeps_State_postBusy | apply keeps_State_enqueue) | dsimp only
    | split | (refine keeps_mk ?_ rfl rfl rfl rfl rfl rfl rfl rfl rfl rfl rfl rfl)

theorem keeps_postTakeOp {s₀ : State} {s : State} (hK : Keeps s₀ s) : Keeps s₀ (postTakeOp s) := by
  unfold postTakeOp
  repeat' first
    | (with_reducible first | assumption | apply keeps_State_takeTaskPost | apply keeps_State_deliverEvent) | dsimp only
    | (refine keeps_of_eq (by assumption) ?_) | split | (refine keeps_mk ?_ rfl rfl rfl rfl rfl rfl rfl rfl rfl rfl rfl rfl)

theorem keeps_delayExpiryOp {s₀ : State} {s : State} (hK : Keeps s₀ s) : Keeps s₀ (delayExpiryOp s) := by
  unfold delayExpiryOp
  repeat' first
    | (with_reducible first | assumption | apply keeps_ite | apply keeps_ite_fst | apply keeps_State_crumbTask)
    | (with_reducible first | apply keeps_State_makeReady | apply keeps_State_enterWaiting) | dsimp only
    | (refine keeps_of_eq (by assumption) ?_) | split | (refine keeps_mk ?_ rfl rfl rfl rfl rfl rfl rfl rfl rfl rfl rfl rfl)

theorem keeps_taskTimeoutOp {s₀ : State} {s : State} (hK : Keeps s₀ s) : Keeps s₀ (taskTimeoutOp s) := by
  unfold taskTimeoutOp
  repeat' first
    | (with_reducible first | assumption | apply keeps_State_crumbTask | apply keeps_State_bump | apply keeps_State_makeReady)
    | dsimp only | (refine keeps_of_eq (by assumption) ?_) | split | (refine keeps_mk ?_ rfl rfl rfl rfl rfl rfl rfl rfl rfl rfl rfl rfl)

theorem keeps_State_giveArg {s₀ : State} {s : State} (i : Nat) (hK : Keeps s₀ s) : Keeps s₀ (State.giveArg s i) := by
  unfold State.giveArg
  repeat' first
    | (with_reducible first | intro _ | assumption | apply keeps_State_modTask) | dsimp only | (refine keeps_of_eq (by assumption) ?_)
    | split | (refine keeps_mk ?_ rfl rfl rfl rfl rfl rfl rfl rfl rfl rfl rfl rfl)

theorem keeps_State_giveCore {s₀ : State} {s : State} (n : Nat) (i : Nat) (hK : Keeps s₀ s) : Keeps s₀ (State.giveCore s n i) := by
  unfold State.giveCore
  repeat' first
    | (with_reducible first | assumption | apply keeps_State_giveArg | apply keeps_State_assignCore)
    | (with_reducible first | apply keeps_State_ringsAtDispatch) | dsimp only
    | (refine keeps_mk ?_ rfl rfl rfl rfl rfl rfl rfl rfl rfl rfl rfl rfl)

theorem keeps_State_takeCore {s₀ : State} {s : State} (n : Nat) (i : Nat) (hK : Keeps s₀ s) : Keeps s₀ (State.takeCore s n i) := by
  unfold State.takeCore
  repeat' first
    | (with_reducible first | assumption | apply keeps_State_giveArg | apply keeps_State_setHcs | apply keeps_State_startOn)
    | (with_reducible first | apply keeps_State_showTask | apply keeps_State_ringsAtDispatch | apply keeps_State_answer) | dsimp only
    | (refine keeps_mk ?_ rfl rfl rfl rfl rfl rfl rfl rfl rfl rfl rfl rfl)

theorem keeps_State_engineStart {s₀ : State} {s : State} (id : Nat) (i : Nat) (hK : Keeps s₀ s) : Keeps s₀ (State.engineStart s id i).1 := by
  unfold State.engineStart
  repeat' first
    | (with_reducible first | assumption | apply keeps_ite | apply keeps_ite_fst | apply keeps_State_pgeStart)
    | (with_reducible first | apply keeps_State_wpeStart | apply keeps_State_ofeStart | apply keeps_State_sgeStart)
    | (with_reducible first | apply keeps_State_fteStart | apply keeps_State_ncStart) | dsimp only | split
    | (refine keeps_mk ?_ rfl rfl rfl rfl rfl rfl rfl rfl rfl rfl rfl rfl)

theorem keeps_State_engineResume {s₀ : State} {s : State} (id : Nat) (i : Nat) (hK : Keeps s₀ s) : Keeps s₀ (State.engineResume s id i) := by
  unfold State.engineResume
  repeat' first
    | (with_reducible first | assumption | apply keeps_ite | apply keeps_ite_fst | apply keeps_State_takeCredits)
    | (with_reducible first | apply keeps_State_ringsOpen | apply keeps_State_pgeResume | apply keeps_State_ncResume) | dsimp only
    | split | (refine keeps_mk ?_ rfl rfl rfl rfl rfl rfl rfl rfl rfl rfl rfl rfl)

theorem keeps_State_engineDispatch {s₀ : State} {s : State} (id : Nat) (hK : Keeps s₀ s) : Keeps s₀ (State.engineDispatch s id) := by
  unfold State.engineDispatch
  repeat' first
    | (with_reducible first | assumption | apply keeps_ite | apply keeps_ite_fst | apply keeps_State_giveArg)
    | (with_reducible first | apply keeps_State_startOn | apply keeps_State_engineResume | apply keeps_State_engineStart)
    | (with_reducible first | apply keeps_State_takeCredits | apply keeps_State_ringsAtDispatch | apply keeps_State_failTask)
    | dsimp only | (refine keeps_of_eq (by assumption) ?_) | (refine keeps_of_eq_snd (by assumption) ?_) | split
    | (refine keeps_mk ?_ rfl rfl rfl rfl rfl rfl rfl rfl rfl rfl rfl rfl)

theorem keeps_State_dmaDispatch {s₀ : State} {s : State} (e : Nat) (hK : Keeps s₀ s) : Keeps s₀ (State.dmaDispatch s e) := by
  unfold State.dmaDispatch
  repeat' first
    | (with_reducible first | assumption | apply keeps_ite | apply keeps_ite_fst | apply keeps_State_giveArg)
    | (with_reducible first | apply keeps_State_startOn | apply keeps_State_finishTask | apply keeps_State_chStart)
    | (with_reducible first | apply keeps_State_ringsAtDispatch) | dsimp only | (refine keeps_of_eq (by assumption) ?_) | split
    | (refine keeps_mk ?_ rfl rfl rfl rfl rfl rfl rfl rfl rfl rfl rfl rfl)

theorem keeps_State_ispEnqueue {s₀ : State} {s : State} (hK : Keeps s₀ s) : Keeps s₀ (State.ispEnqueue s) := by
  unfold State.ispEnqueue
  repeat' first
    | (with_reducible first | intro _ | assumption | apply keeps_ite | apply keeps_ite_fst | apply keeps_State_giveArg)
    | (with_reducible first | apply keeps_State_askYields | apply keeps_State_crumb) | dsimp only
    | (refine keeps_of_eq (by assumption) ?_) | split | (refine keeps_mk ?_ rfl rfl rfl rfl rfl rfl rfl rfl rfl rfl rfl rfl)

theorem keeps_dispatchOp {s₀ : State} (w : Agent) {s : State} (hK : Keeps s₀ s) : Keeps s₀ (dispatchOp w s) := by
  unfold dispatchOp
  repeat' first
    | (with_reducible first | assumption | apply keeps_ite | apply keeps_ite_fst | apply keeps_State_takeCore)
    | (with_reducible first | apply keeps_State_giveCore | apply keeps_State_ispEnqueue | apply keeps_State_dmaDispatch)
    | (with_reducible first | apply keeps_State_giveArg | apply keeps_State_startOn | apply keeps_State_ringsAtDispatch)
    | (with_reducible first | apply keeps_State_emit | apply keeps_State_tasterStart | apply keeps_State_tasterEnd)
    | (with_reducible first | apply keeps_State_engineDispatch) | dsimp only | (refine keeps_of_eq (by assumption) ?_)
    | (refine keeps_of_eq_snd (by assumption) ?_) | split | (refine keeps_mk ?_ rfl rfl rfl rfl rfl rfl rfl rfl rfl rfl rfl rfl)

theorem keeps_takeOp {s₀ : State} (ag : Agent) (n : Nat) {s : State} (hK : Keeps s₀ s) : Keeps s₀ (takeOp ag n s) := by
  unfold takeOp
  repeat' first
    | (with_reducible first | assumption | apply keeps_ite | apply keeps_ite_fst | apply keeps_State_refuseSys)
    | (with_reducible first | apply keeps_State_answer | apply keeps_State_bump | apply keeps_State_takeCore)
    | (with_reducible first | apply keeps_State_setHcs) | dsimp only | (refine keeps_of_eq (by assumption) ?_) | split
    | (refine keeps_mk ?_ rfl rfl rfl rfl rfl rfl rfl rfl rfl rfl rfl rfl)

theorem keeps_takeTimeoutOp {s₀ : State} (n : Nat) {s : State} (hK : Keeps s₀ s) : Keeps s₀ (takeTimeoutOp n s) := by
  unfold takeTimeoutOp
  repeat' first
    | (with_reducible first | assumption | apply keeps_ite | apply keeps_ite_fst | apply keeps_State_setHcs)
    | (with_reducible first | apply keeps_State_answer) | dsimp only | (refine keeps_of_eq (by assumption) ?_) | split
    | (refine keeps_mk ?_ rfl rfl rfl rfl rfl rfl rfl rfl rfl rfl rfl rfl)

theorem keeps_State_reassign {s₀ : State} {s : State} (n : Nat) (hK : Keeps s₀ s) : Keeps s₀ (State.reassign s n) := by
  unfold State.reassign
  repeat' first
    | (with_reducible first | assumption | apply keeps_ite | apply keeps_ite_fst | apply keeps_State_giveCore) | dsimp only
    | (refine keeps_of_eq (by assumption) ?_) | split | (refine keeps_mk ?_ rfl rfl rfl rfl rfl rfl rfl rfl rfl rfl rfl rfl)

theorem keeps_htsDoneOp {s₀ : State} (ag : Agent) (n : Nat) (v : Word) {s : State} (hK : Keeps s₀ s) : Keeps s₀ (htsDoneOp ag n v s) := by
  unfold htsDoneOp
  repeat' first
    | (with_reducible first | assumption | apply keeps_ite | apply keeps_ite_fst | apply keeps_State_refuseSys)
    | (with_reducible first | apply keeps_State_bump | apply keeps_State_draw | apply keeps_State_clearCore)
    | (with_reducible first | apply keeps_State_finishTask | apply keeps_State_reassign) | dsimp only
    | (refine keeps_of_eq (by assumption) ?_) | (refine keeps_of_eq_snd (by assumption) ?_) | split
    | (refine keeps_mk ?_ rfl rfl rfl rfl rfl rfl rfl rfl rfl rfl rfl rfl)

theorem keeps_htsYieldOp {s₀ : State} (ag : Agent) (n : Nat) (v : Word) {s : State} (hK : Keeps s₀ s) : Keeps s₀ (htsYieldOp ag n v s) := by
  unfold htsYieldOp
  repeat' first
    | (with_reducible first | assumption | apply keeps_ite | apply keeps_ite_fst | apply keeps_State_refuseSys)
    | (with_reducible first | apply keeps_State_bump | apply keeps_State_cause | apply keeps_State_clearCore)
    | (with_reducible first | apply keeps_State_yieldTask | apply keeps_State_reassign) | dsimp only
    | (refine keeps_of_eq (by assumption) ?_) | split | (refine keeps_mk ?_ rfl rfl rfl rfl rfl rfl rfl rfl rfl rfl rfl rfl)

theorem keeps_htsAbortOp {s₀ : State} (ag : Agent) (v : Word) {s : State} (hK : Keeps s₀ s) : Keeps s₀ (htsAbortOp ag v s) := by
  unfold htsAbortOp
  repeat' first
    | (with_reducible first | intro _ | assumption | apply keeps_ite | apply keeps_ite_fst | apply keeps_State_setReg)
    | (with_reducible first | apply keeps_State_cmdBegin | apply keeps_State_refuse | apply keeps_State_modTask)
    | (with_reducible first | apply keeps_State_commitSoftware) | dsimp only | (refine keeps_of_eq (by assumption) ?_) | split
    | (refine keeps_mk ?_ rfl rfl rfl rfl rfl rfl rfl rfl rfl rfl rfl rfl)

theorem keeps_htsFreeOp {s₀ : State} (ag : Agent) (v : Word) {s : State} (hK : Keeps s₀ s) : Keeps s₀ (htsFreeOp ag v s) := by
  unfold htsFreeOp
  repeat' first
    | (with_reducible first | assumption | apply keeps_ite | apply keeps_ite_fst | apply keeps_State_releaseTask)
    | (with_reducible first | apply keeps_State_refuse) | dsimp only | (refine keeps_of_eq (by assumption) ?_) | split
    | (refine keeps_mk ?_ rfl rfl rfl rfl rfl rfl rfl rfl rfl rfl rfl rfl)

theorem keeps_groupClearOp {s₀ : State} (ag : Agent) (g : Nat) (v : Word) {s : State} (hK : Keeps s₀ s) : Keeps s₀ (groupClearOp ag g v s) := by
  unfold groupClearOp
  repeat' first
    | (with_reducible first | assumption | apply keeps_ite | apply keeps_ite_fst | apply keeps_State_groupClear)
    | (with_reducible first | apply keeps_State_refuse) | dsimp only | split
    | (refine keeps_mk ?_ rfl rfl rfl rfl rfl rfl rfl rfl rfl rfl rfl rfl)

theorem keeps_htsTickOp {s₀ : State} (v : Word) {s : State} (hK : Keeps s₀ s) : Keeps s₀ (htsTickOp v s) := by
  unfold htsTickOp
  repeat' first
    | (with_reducible first | assumption | apply keeps_ite | apply keeps_ite_fst | apply keeps_State_setFld) | dsimp only | split
    | (refine keeps_mk ?_ rfl rfl rfl rfl rfl rfl rfl rfl rfl rfl rfl rfl)

theorem keeps_majorCycleOp {s₀ : State} (ag : Agent) (v : Word) {s : State} (hK : Keeps s₀ s) : Keeps s₀ (majorCycleOp ag v s) := by
  unfold majorCycleOp
  repeat' first
    | (with_reducible first | intro _ | assumption | apply keeps_ite | apply keeps_ite_fst | apply keeps_State_systemWrite)
    | (with_reducible first | apply keeps_State_setFld) | dsimp only | split
    | (refine keeps_mk ?_ rfl rfl rfl rfl rfl rfl rfl rfl rfl rfl rfl rfl)

theorem keeps_htsQuotaOp {s₀ : State} (ag : Agent) (p : Nat) (v : Word) {s : State} (hK : Keeps s₀ s) : Keeps s₀ (htsQuotaOp ag p v s) := by
  unfold htsQuotaOp
  repeat' first
    | (with_reducible first | intro _ | assumption | apply keeps_ite | apply keeps_ite_fst | apply keeps_State_systemWrite)
    | (with_reducible first | apply keeps_State_setFld) | dsimp only | split
    | (refine keeps_mk ?_ rfl rfl rfl rfl rfl rfl rfl rfl rfl rfl rfl rfl)

theorem keeps_State_setTimer {s₀ : State} {s : State} (n : Nat) (t : TimerSt) (hK : Keeps s₀ s) : Keeps s₀ (State.setTimer s n t) := by
  unfold State.setTimer
  repeat' first
    | (with_reducible first | assumption) | dsimp only | (refine keeps_mk ?_ rfl rfl rfl rfl rfl rfl rfl rfl rfl rfl rfl rfl)

theorem keeps_State_timerArm {s₀ : State} {s : State} (n : Nat) (us : Nat) (hK : Keeps s₀ s) : Keeps s₀ (State.timerArm s n us) := by
  unfold State.timerArm
  repeat' first
    | (with_reducible first | assumption | apply keeps_ite | apply keeps_ite_fst | apply keeps_State_setTimer) | dsimp only | split
    | (refine keeps_mk ?_ rfl rfl rfl rfl rfl rfl rfl rfl rfl rfl rfl rfl)

theorem keeps_State_timerEvent {s₀ : State} {s : State} (n : Nat) (hK : Keeps s₀ s) : Keeps s₀ (State.timerEvent s n) := by
  unfold State.timerEvent
  repeat' first
    | (with_reducible first | assumption | apply keeps_State_setTimer | apply keeps_State_deliverEvent) | dsimp only
    | (refine keeps_mk ?_ rfl rfl rfl rfl rfl rfl rfl rfl rfl rfl rfl rfl)

theorem keeps_timerExpiryOp {s₀ : State} (n : Nat) (held : Bool) {s : State} (hK : Keeps s₀ s) : Keeps s₀ (timerExpiryOp n held s) := by
  unfold timerExpiryOp
  repeat' first
    | (with_reducible first | assumption | apply keeps_ite | apply keeps_ite_fst | apply keeps_State_setTimer)
    | (with_reducible first | apply keeps_State_timerEvent | apply keeps_State_setReg | apply keeps_State_setFlag)
    | (with_reducible first | apply keeps_State_timerArm | apply keeps_State_fgsTimer | apply keeps_State_dmaTimer)
    | (with_reducible first | apply keeps_State_gpioStrobe | apply keeps_State_incReg) | dsimp only
    | (refine keeps_of_eq (by assumption) ?_) | split | (refine keeps_mk ?_ rfl rfl rfl rfl rfl rfl rfl rfl rfl rfl rfl rfl)

theorem keeps_timerCtrlOp {s₀ : State} (ag : Agent) (n : Nat) (v : Word) {s : State} (hK : Keeps s₀ s) : Keeps s₀ (timerCtrlOp ag n v s) := by
  unfold timerCtrlOp
  repeat' first
    | (with_reducible first | intro _ | assumption | apply keeps_ite | apply keeps_ite_fst | apply keeps_State_refuse)
    | (with_reducible first | apply keeps_State_systemWrite | apply keeps_State_setFld | apply keeps_State_timerArm)
    | (with_reducible first | apply keeps_State_setTimer) | dsimp only | split
    | (refine keeps_mk ?_ rfl rfl rfl rfl rfl rfl rfl rfl rfl rfl rfl rfl)

theorem keeps_mbxSendOp {s₀ : State} (ag : Agent) (v : Word) {s : State} (hK : Keeps s₀ s) : Keeps s₀ (mbxSendOp ag v s) := by
  unfold mbxSendOp
  repeat' first
    | (with_reducible first | intro _ | assumption | apply keeps_ite | apply keeps_ite_fst | apply keeps_State_refuseSys)
    | (with_reducible first | apply keeps_State_setReg | apply keeps_State_refuse | apply keeps_State_deliver) | dsimp only
    | (refine keeps_of_eq (by assumption) ?_) | (refine keeps_of_eq_snd (by assumption) ?_) | split
    | (refine keeps_mk ?_ rfl rfl rfl rfl rfl rfl rfl rfl rfl rfl rfl rfl)

theorem keeps_mbxLatchOp {s₀ : State} (ag : Agent) (m : Nat) {s : State} (hK : Keeps s₀ s) : Keeps s₀ (mbxLatchOp ag m s) := by
  unfold mbxLatchOp
  repeat' first
    | (with_reducible first | assumption | apply keeps_ite | apply keeps_ite_fst | apply keeps_State_refuse)
    | (with_reducible first | apply keeps_State_answer | apply keeps_State_setMailbox) | dsimp only | split
    | (refine keeps_mk ?_ rfl rfl rfl rfl rfl rfl rfl rfl rfl rfl rfl rfl)

theorem keeps_mbxReleaseOp {s₀ : State} (ag : Agent) (m : Nat) (v : Word) {s : State} (hK : Keeps s₀ s) : Keeps s₀ (mbxReleaseOp ag m v s) := by
  unfold mbxReleaseOp
  repeat' first
    | (with_reducible first | assumption | apply keeps_ite | apply keeps_ite_fst | apply keeps_State_refuse)
    | (with_reducible first | apply keeps_State_setMailbox) | dsimp only | split
    | (refine keeps_mk ?_ rfl rfl rfl rfl rfl rfl rfl rfl rfl rfl rfl rfl)

theorem keeps_lockReadOp {s₀ : State} (ag : Agent) (n : Nat) {s : State} (hK : Keeps s₀ s) : Keeps s₀ (lockReadOp ag n s) := by
  unfold lockReadOp
  repeat' first
    | (with_reducible first | assumption | apply keeps_ite | apply keeps_ite_fst | apply keeps_State_refuse)
    | (with_reducible first | apply keeps_State_answer | apply keeps_State_count) | dsimp only | (refine keeps_of_eq (by assumption) ?_)
    | split | (refine keeps_mk ?_ rfl rfl rfl rfl rfl rfl rfl rfl rfl rfl rfl rfl)

theorem keeps_lockReleaseOp {s₀ : State} (ag : Agent) (n : Nat) (v : Word) {s : State} (hK : Keeps s₀ s) : Keeps s₀ (lockReleaseOp ag n v s) := by
  unfold lockReleaseOp
  repeat' first
    | (with_reducible first | assumption | apply keeps_ite | apply keeps_ite_fst | apply keeps_State_bump) | dsimp only | split
    | (refine keeps_mk ?_ rfl rfl rfl rfl rfl rfl rfl rfl rfl rfl rfl rfl)

theorem keeps_lckForceOp {s₀ : State} (ag : Agent) (v : Word) {s : State} (hK : Keeps s₀ s) : Keeps s₀ (lckForceOp ag v s) := by
  unfold lckForceOp
  repeat' first
    | (with_reducible first | assumption | apply keeps_ite | apply keeps_ite_fst | apply keeps_State_refuseSys) | dsimp only | split
    | (refine keeps_mk ?_ rfl rfl rfl rfl rfl rfl rfl rfl rfl rfl rfl rfl)

theorem keeps_cacheDirtyOp {s₀ : State} (n : Nat) (a : Nat) {s : State} (hK : Keeps s₀ s) : Keeps s₀ (cacheDirtyOp n a s) := by
  unfold cacheDirtyOp
  repeat' first
    | (with_reducible first | assumption | apply keeps_ite | apply keeps_ite_fst | apply keeps_State_setReg)
    | (with_reducible first | apply keeps_State_logRec | apply keeps_State_irqRaise) | dsimp only | split
    | (refine keeps_mk ?_ rfl rfl rfl rfl rfl rfl rfl rfl rfl rfl rfl rfl)

theorem keeps_gpioEdgeOp {s₀ : State} (n : Nat) (level : Bool) {s : State} (hK : Keeps s₀ s) : Keeps s₀ (gpioEdgeOp n level s) := by
  unfold gpioEdgeOp
  repeat' first
    | (with_reducible first | assumption | apply keeps_ite | apply keeps_ite_fst | apply keeps_State_gpioSense)
    | (with_reducible first | apply keeps_State_strobesEnd) | dsimp only | split
    | (refine keeps_mk ?_ rfl rfl rfl rfl rfl rfl rfl rfl rfl rfl rfl rfl)

theorem keeps_State_gpioSet {s₀ : State} {s : State} (n : Nat) (v : Word) (hK : Keeps s₀ s) : Keeps s₀ (State.gpioSet s n v) := by
  unfold State.gpioSet
  repeat' first
    | (with_reducible first | assumption | apply keeps_ite | apply keeps_ite_fst | apply keeps_State_setFld)
    | (with_reducible first | apply keeps_State_setFlag | apply keeps_State_gpioSense) | dsimp only | split
    | (refine keeps_mk ?_ rfl rfl rfl rfl rfl rfl rfl rfl rfl rfl rfl rfl)

theorem keeps_gpioCfgOp {s₀ : State} (ag : Agent) (n : Nat) (v : Word) {s : State} (hK : Keeps s₀ s) : Keeps s₀ (gpioCfgOp ag n v s) := by
  unfold gpioCfgOp
  repeat' first
    | (with_reducible first | intro _ | assumption | apply keeps_ite | apply keeps_ite_fst | apply keeps_State_refuse)
    | (with_reducible first | apply keeps_State_systemWrite | apply keeps_State_setFld | apply keeps_State_gpioSet) | dsimp only | split
    | (refine keeps_mk ?_ rfl rfl rfl rfl rfl rfl rfl rfl rfl rfl rfl rfl)

theorem keeps_State_jtagSelect {s₀ : State} {s : State} (ir : Nat) (bs : List Byte) (hK : Keeps s₀ s) : Keeps s₀ (State.jtagSelect s ir bs) := by
  unfold State.jtagSelect
  repeat' first
    | (with_reducible first | assumption) | dsimp only | (refine keeps_mk ?_ rfl rfl rfl rfl rfl rfl rfl rfl rfl rfl rfl rfl)

theorem keeps_State_jtagBoundary {s₀ : State} {s : State} (ir : Nat) (hK : Keeps s₀ s) : Keeps s₀ (State.jtagBoundary s ir) := by
  unfold State.jtagBoundary
  repeat' first
    | (with_reducible first | assumption | apply keeps_ite | apply keeps_ite_fst | apply keeps_State_freeBytes)
    | (with_reducible first | apply keeps_State_jtagSelect) | dsimp only | (refine keeps_of_eq (by assumption) ?_)
    | (refine keeps_of_eq_snd (by assumption) ?_) | split | (refine keeps_mk ?_ rfl rfl rfl rfl rfl rfl rfl rfl rfl rfl rfl rfl)

theorem keeps_jtagBypassOp {s₀ : State} (code : Nat) {s : State} (hK : Keeps s₀ s) : Keeps s₀ (jtagBypassOp code s) := by
  unfold jtagBypassOp
  repeat' first
    | (with_reducible first | assumption | apply keeps_ite | apply keeps_ite_fst | apply keeps_State_jtagSelect) | dsimp only | split
    | (refine keeps_mk ?_ rfl rfl rfl rfl rfl rfl rfl rfl rfl rfl rfl rfl)

theorem keeps_dbgChalOp {s₀ : State} (scope : Word) {s : State} (hK : Keeps s₀ s) : Keeps s₀ (dbgChalOp scope s) := by
  unfold dbgChalOp
  repeat' first
    | (with_reducible first | assumption | apply keeps_ite | apply keeps_ite_fst | apply keeps_State_debugChallenge)
    | (with_reducible first | apply keeps_State_freeBytes | apply keeps_State_jtagSelect) | dsimp only
    | (refine keeps_of_eq (by assumption) ?_) | (refine keeps_of_eq_snd (by assumption) ?_) | split
    | (refine keeps_mk ?_ rfl rfl rfl rfl rfl rfl rfl rfl rfl rfl rfl rfl)

theorem keeps_dbgRespOp {s₀ : State} (bs : List Byte) {s : State} (hK : Keeps s₀ s) : Keeps s₀ (dbgRespOp bs s) := by
  unfold dbgRespOp
  repeat' first
    | (with_reducible first | assumption | apply keeps_ite | apply keeps_ite_fst | apply keeps_State_debugResponse)
    | (with_reducible first | apply keeps_State_freeBytes | apply keeps_State_jtagSelect) | dsimp only
    | (refine keeps_of_eq (by assumption) ?_) | (refine keeps_of_eq_snd (by assumption) ?_) | split
    | (refine keeps_mk ?_ rfl rfl rfl rfl rfl rfl rfl rfl rfl rfl rfl rfl)

theorem keeps_consoleOp {s₀ : State} (c : Byte) {s : State} (hK : Keeps s₀ s) : Keeps s₀ (consoleOp c s) := by
  unfold consoleOp
  repeat' first
    | (with_reducible first | assumption | apply keeps_ite | apply keeps_ite_fst) | dsimp only | split
    | (refine keeps_mk ?_ rfl rfl rfl rfl rfl rfl rfl rfl rfl rfl rfl rfl)

theorem keeps_State_pmcWrite {s₀ : State} {s : State} (ag : Agent) (f : State → State) (hK : Keeps s₀ s) (hf : ∀ (x0 : State), Keeps s₀ x0 → Keeps s₀ (f x0)) : Keeps s₀ (State.pmcWrite s ag f) := by
  unfold State.pmcWrite
  repeat' first
    | (with_reducible first | intro _ | assumption | apply hf | apply keeps_ite | apply keeps_ite_fst)
    | (with_reducible first | apply keeps_State_refuseSys) | dsimp only | split
    | (refine keeps_mk ?_ rfl rfl rfl rfl rfl rfl rfl rfl rfl rfl rfl rfl)

theorem keeps_State_copyRegs {s₀ : State} {s : State} (l : List (Nat × Nat)) (hK : Keeps s₀ s) : Keeps s₀ (State.copyRegs s l) := by
  unfold State.copyRegs
  repeat' first
    | (with_reducible first | intro _ | assumption | apply keeps_foldl | apply keeps_foldl_fst | apply keeps_State_setReg) | dsimp only
    | (refine keeps_mk ?_ rfl rfl rfl rfl rfl rfl rfl rfl rfl rfl rfl rfl)

theorem keeps_State_pmcSnapshot {s₀ : State} {s : State} (hK : Keeps s₀ s) : Keeps s₀ (State.pmcSnapshot s) := by
  unfold State.pmcSnapshot
  repeat' first
    | (with_reducible first | intro _ | assumption | apply keeps_State_copyRegs | apply keeps_State_setFld) | dsimp only
    | (refine keeps_mk ?_ rfl rfl rfl rfl rfl rfl rfl rfl rfl rfl rfl rfl)

theorem keeps_State_pmcFreeze {s₀ : State} {s : State} (on : Bool) (hK : Keeps s₀ s) : Keeps s₀ (State.pmcFreeze s on) := by
  unfold State.pmcFreeze
  repeat' first
    | (with_reducible first | assumption | apply keeps_State_setFlag) | dsimp only
    | (refine keeps_mk ?_ rfl rfl rfl rfl rfl rfl rfl rfl rfl rfl rfl rfl)

theorem keeps_State_pmcClear {s₀ : State} {s : State} (hK : Keeps s₀ s) : Keeps s₀ (State.pmcClear s) := by
  unfold State.pmcClear
  repeat' first
    | (with_reducible first | assumption | apply keeps_State_zeroRegs) | dsimp only
    | (refine keeps_mk ?_ rfl rfl rfl rfl rfl rfl rfl rfl rfl rfl rfl rfl)

theorem keeps_State_pmcClearPeak {s₀ : State} {s : State} (hK : Keeps s₀ s) : Keeps s₀ (State.pmcClearPeak s) := by
  unfold State.pmcClearPeak
  repeat' first
    | (with_reducible first | assumption) | dsimp only | (refine keeps_mk ?_ rfl rfl rfl rfl rfl rfl rfl rfl rfl rfl rfl rfl)

theorem keeps_bwWindowOp {s₀ : State} (ag : Agent) (v : Word) {s : State} (hK : Keeps s₀ s) : Keeps s₀ (bwWindowOp ag v s) := by
  unfold bwWindowOp
  repeat' first
    | (with_reducible first | intro _ | assumption | apply keeps_ite | apply keeps_ite_fst | apply keeps_State_pmcWrite)
    | (with_reducible first | apply keeps_State_setReg) | dsimp only | split
    | (refine keeps_mk ?_ rfl rfl rfl rfl rfl rfl rfl rfl rfl rfl rfl rfl)

theorem keeps_State_bwMonitor {s₀ : State} {s : State} (k : Nat) (keep : Bool) (clear : Bool) (hK : Keeps s₀ s) : Keeps s₀ (State.bwMonitor s k keep clear) := by
  unfold State.bwMonitor
  repeat' first
    | (with_reducible first | intro _ | assumption | apply keeps_ite | apply keeps_ite_fst | apply keeps_State_setReg) | dsimp only
    | split | (refine keeps_mk ?_ rfl rfl rfl rfl rfl rfl rfl rfl rfl rfl rfl rfl)

theorem keeps_bwWindowEndOp {s₀ : State} {s : State} (hK : Keeps s₀ s) : Keeps s₀ (bwWindowEndOp s) := by
  unfold bwWindowEndOp
  repeat' first
    | (with_reducible first | intro _ | assumption | apply keeps_ite | apply keeps_foldl | apply keeps_ite_fst)
    | (with_reducible first | apply keeps_foldl_fst | apply keeps_State_bwMonitor) | dsimp only | split
    | (refine keeps_mk ?_ rfl rfl rfl rfl rfl rfl rfl rfl rfl rfl rfl rfl)

theorem keeps_State_ctCtrl {s₀ : State} {s : State} (on : Bool) (mode : Bool) (hK : Keeps s₀ s) : Keeps s₀ (State.ctCtrl s on mode) := by
  unfold State.ctCtrl
  repeat' first
    | (with_reducible first | assumption | apply keeps_ite | apply keeps_ite_fst | apply keeps_State_setFlag) | dsimp only | split
    | (refine keeps_mk ?_ rfl rfl rfl rfl rfl rfl rfl rfl rfl rfl rfl rfl)

theorem keeps_State_crumbDrop {s₀ : State} {s : State} (hK : Keeps s₀ s) : Keeps s₀ (State.crumbDrop s) := by
  unfold State.crumbDrop
  repeat' first
    | (with_reducible first | assumption | apply keeps_State_incReg | apply keeps_State_count) | dsimp only
    | (refine keeps_mk ?_ rfl rfl rfl rfl rfl rfl rfl rfl rfl rfl rfl rfl)

theorem keeps_crumbWriteOp {s₀ : State} {s : State} (hK : Keeps s₀ s) : Keeps s₀ (crumbWriteOp s) := by
  unfold crumbWriteOp
  repeat' first
    | (with_reducible first | assumption | apply keeps_ite | apply keeps_ite_fst | apply keeps_State_crumbDrop)
    | (with_reducible first | apply keeps_State_dramWrite | apply keeps_State_setReg | apply keeps_State_count) | dsimp only
    | (refine keeps_of_eq (by assumption) ?_) | (refine keeps_of_eq_snd (by assumption) ?_) | split
    | (refine keeps_mk ?_ rfl rfl rfl rfl rfl rfl rfl rfl rfl rfl rfl rfl)

theorem keeps_State_telemExpire {s₀ : State} {s : State} (hK : Keeps s₀ s) : Keeps s₀ (State.telemExpire s) := by
  unfold State.telemExpire
  repeat' first
    | (with_reducible first | intro _ | assumption | apply keeps_foldl | apply keeps_foldl_fst | apply keeps_State_dropResult)
    | dsimp only | (refine keeps_mk ?_ rfl rfl rfl rfl rfl rfl rfl rfl rfl rfl rfl rfl)

theorem keeps_State_telemSend {s₀ : State} {s : State} (n : Nat) (ws : List Word) (hK : Keeps s₀ s) : Keeps s₀ (State.telemSend s n ws) := by
  unfold State.telemSend
  repeat' first
    | (with_reducible first | assumption | apply keeps_ite | apply keeps_ite_fst | apply keeps_State_draw)
    | (with_reducible first | apply keeps_State_newResult | apply keeps_State_writeResult | apply keeps_State_dropResult) | dsimp only
    | (refine keeps_of_eq (by assumption) ?_) | (refine keeps_of_eq_snd (by assumption) ?_) | split
    | (refine keeps_mk ?_ rfl rfl rfl rfl rfl rfl rfl rfl rfl rfl rfl rfl)

theorem keeps_telemetryOp {s₀ : State} {s : State} (hK : Keeps s₀ s) : Keeps s₀ (telemetryOp s) := by
  unfold telemetryOp
  repeat' first
    | (with_reducible first | assumption | apply keeps_ite | apply keeps_ite_fst | apply keeps_State_logRec)
    | (with_reducible first | apply keeps_State_telemExpire | apply keeps_State_telemSend) | dsimp only | split
    | (refine keeps_mk ?_ rfl rfl rfl rfl rfl rfl rfl rfl rfl rfl rfl rfl)

theorem keeps_State_smbusRead {s₀ : State} {s : State} (cmd : Nat) (block : Bool) (data : List Byte) (hK : Keeps s₀ s) : Keeps s₀ (State.smbusRead s cmd block data) := by
  unfold State.smbusRead
  repeat' first
    | (with_reducible first | assumption | apply keeps_ite | apply keeps_ite_fst | apply keeps_State_answer) | dsimp only
    | (refine keeps_of_eq (by assumption) ?_) | split | (refine keeps_mk ?_ rfl rfl rfl rfl rfl rfl rfl rfl rfl rfl rfl rfl)

theorem keeps_smbusLowOp {s₀ : State} {s : State} (hK : Keeps s₀ s) : Keeps s₀ (smbusLowOp s) := by
  unfold smbusLowOp
  repeat' first
    | (with_reducible first | assumption | apply keeps_ite | apply keeps_ite_fst | apply keeps_State_smbusRead) | dsimp only | split
    | (refine keeps_mk ?_ rfl rfl rfl rfl rfl rfl rfl rfl rfl rfl rfl rfl)

theorem keeps_smbusWriteOp {s₀ : State} (v : BitVec 16) (pec : Option Byte) {s : State} (hK : Keeps s₀ s) : Keeps s₀ (smbusWriteOp v pec s) := by
  unfold smbusWriteOp
  repeat' first
    | (with_reducible first | assumption | apply keeps_ite | apply keeps_ite_fst | apply keeps_State_answer)
    | (with_reducible first | apply keeps_budgetLimitOp) | dsimp only | (refine keeps_of_eq (by assumption) ?_) | split
    | (refine keeps_mk ?_ rfl rfl rfl rfl rfl rfl rfl rfl rfl rfl rfl rfl)

theorem keeps_State_setTpp {s₀ : State} {s : State} (n : Nat) (st : Nat) (hK : Keeps s₀ s) : Keeps s₀ (State.setTpp s n st) := by
  unfold State.setTpp
  repeat' first
    | (with_reducible first | assumption | apply keeps_State_setFld) | dsimp only
    | (refine keeps_mk ?_ rfl rfl rfl rfl rfl rfl rfl rfl rfl rfl rfl rfl)

theorem keeps_State_holdPin {s₀ : State} {s : State} (n : Nat) (hK : Keeps s₀ s) : Keeps s₀ (State.holdPin s n) := by
  unfold State.holdPin
  repeat' first
    | (with_reducible first | assumption | apply keeps_ite | apply keeps_ite_fst | apply keeps_State_setFlag)
    | (with_reducible first | apply keeps_State_count) | dsimp only | split
    | (refine keeps_mk ?_ rfl rfl rfl rfl rfl rfl rfl rfl rfl rfl rfl rfl)

theorem keeps_State_modStream {s₀ : State} {s : State} (st : Nat) (f : Stream → Stream) (hK : Keeps s₀ s) : Keeps s₀ (State.modStream s st f) := by
  unfold State.modStream
  repeat' first
    | (with_reducible first | assumption | apply keeps_State_setStream) | dsimp only
    | (refine keeps_mk ?_ rfl rfl rfl rfl rfl rfl rfl rfl rfl rfl rfl rfl)

theorem keeps_State_modOpen {s₀ : State} {s : State} (st : Nat) (f : OpenFrame → OpenFrame) (hK : Keeps s₀ s) : Keeps s₀ (State.modOpen s st f) := by
  unfold State.modOpen
  repeat' first
    | (with_reducible first | intro _ | assumption | apply keeps_State_modStream) | dsimp only
    | (refine keeps_mk ?_ rfl rfl rfl rfl rfl rfl rfl rfl rfl rfl rfl rfl)

theorem keeps_State_markOpen {s₀ : State} {s : State} (st : Nat) (m : Nat) (hK : Keeps s₀ s) : Keeps s₀ (State.markOpen s st m) := by
  unfold State.markOpen
  repeat' first
    | (with_reducible first | intro _ | assumption | apply keeps_State_modStream) | dsimp only | (refine keeps_of_eq (by assumption) ?_)
    | split | (refine keeps_mk ?_ rfl rfl rfl rfl rfl rfl rfl rfl rfl rfl rfl rfl)

theorem keeps_State_badRow {s₀ : State} {s : State} (st : Nat) (reason : Nat) (kind : Nat) (line : Nat) (hK : Keeps s₀ s) : Keeps s₀ (State.badRow s st reason kind line) := by
  unfold State.badRow
  repeat' first
    | (with_reducible first | intro _ | assumption | apply keeps_ite | apply keeps_ite_fst | apply keeps_State_modOpen) | dsimp only
    | split | (refine keeps_mk ?_ rfl rfl rfl rfl rfl rfl rfl rfl rfl rfl rfl rfl)

theorem keeps_State_badLine {s₀ : State} {s : State} (st : Nat) (num : Nat) (reason : Nat) (kind : Nat) (line : Nat) (hK : Keeps s₀ s) : Keeps s₀ (State.badLine s st num reason kind line) := by
  unfold State.badLine
  repeat' first
    | (with_reducible first | intro _ | assumption | apply keeps_ite | apply keeps_ite_fst | apply keeps_State_modOpen)
    | (with_reducible first | apply keeps_State_badRow) | dsimp only | (refine keeps_of_eq (by assumption) ?_) | split
    | (refine keeps_mk ?_ rfl rfl rfl rfl rfl rfl rfl rfl rfl rfl rfl rfl)

theorem keeps_State_dropFrame {s₀ : State} {s : State} (st : Nat) (hK : Keeps s₀ s) : Keeps s₀ (State.dropFrame s st) := by
  unfold State.dropFrame
  repeat' first
    | (with_reducible first | intro _ | assumption | apply keeps_State_modStream | apply keeps_State_streamInc) | dsimp only
    | (refine keeps_mk ?_ rfl rfl rfl rfl rfl rfl rfl rfl rfl rfl rfl rfl)

theorem keeps_State_closeFrame {s₀ : State} {s : State} (st : Nat) (fe : Bool) (late : Bool) (hK : Keeps s₀ s) : Keeps s₀ (State.closeFrame s st fe late) := by
  unfold State.closeFrame
  repeat' first
    | (with_reducible first | intro _ | assumption | apply keeps_ite | apply keeps_ite_fst | apply keeps_State_dramWrite)
    | (with_reducible first | apply keeps_State_modStream | apply keeps_State_streamInc | apply keeps_State_cutoff)
    | (with_reducible first | apply keeps_State_frameLanded | apply keeps_State_askYields) | dsimp only
    | (refine keeps_of_eq (by assumption) ?_) | split | (refine keeps_mk ?_ rfl rfl rfl rfl rfl rfl rfl rfl rfl rfl rfl rfl)

theorem keeps_State_openFrame {s₀ : State} {s : State} (st : Nat) (num : Nat) (fsMissing : Bool) (hK : Keeps s₀ s) : Keeps s₀ (State.openFrame s st num fsMissing) := by
  unfold State.openFrame
  repeat' first
    | (with_reducible first | intro _ | assumption | apply keeps_ite | apply keeps_ite_fst | apply keeps_State_closeFrame)
    | (with_reducible first | apply keeps_State_modStream | apply keeps_State_dropFrame | apply keeps_State_dramWrite)
    | (with_reducible first | apply keeps_State_modelOpen) | dsimp only | (refine keeps_of_eq (by assumption) ?_) | split
    | (refine keeps_mk ?_ rfl rfl rfl rfl rfl rfl rfl rfl rfl rfl rfl rfl)

theorem keeps_State_rowLanded {s₀ : State} {s : State} (st : Nat) (row : Nat) (hK : Keeps s₀ s) : Keeps s₀ (State.rowLanded s st row) := by
  unfold State.rowLanded
  repeat' first
    | (with_reducible first | intro _ | assumption | apply keeps_ite | apply keeps_ite_fst | apply keeps_State_modOpen)
    | (with_reducible first | apply keeps_State_fgsFrame | apply keeps_State_cutoff | apply keeps_State_askYields) | dsimp only
    | (refine keeps_of_eq (by assumption) ?_) | split | (refine keeps_mk ?_ rfl rfl rfl rfl rfl rfl rfl rfl rfl rfl rfl rfl)

theorem keeps_State_landRow {s₀ : State} {s : State} (n : Nat) (st : Nat) (emb : Bool) (row : Nat) (payload : List Word) (crcBad : Bool) (hK : Keeps s₀ s) : Keeps s₀ (State.landRow s n st emb row payload crcBad) := by
  unfold State.landRow
  repeat' first
    | (with_reducible first | intro _ | assumption | apply keeps_ite | apply keeps_ite_fst | apply keeps_State_modOpen)
    | (with_reducible first | apply keeps_State_streamInc | apply keeps_State_dramWrite | apply keeps_State_count)
    | (with_reducible first | apply keeps_State_markOpen | apply keeps_State_badRow | apply keeps_State_rowLanded) | dsimp only
    | (refine keeps_of_eq (by assumption) ?_) | (refine keeps_of_eq_snd (by assumption) ?_) | split
    | (refine keeps_mk ?_ rfl rfl rfl rfl rfl rfl rfl rfl rfl rfl rfl rfl)

theorem keeps_State_acceptLine {s₀ : State} {s : State} (n : Nat) (st : Nat) (kind : Nat) (num : Nat) (row : Nat) (payload : List Word) (crcBad : Bool) (hK : Keeps s₀ s) : Keeps s₀ (State.acceptLine s n st kind num row payload crcBad) := by
  unfold State.acceptLine
  repeat' first
    | (with_reducible first | assumption | apply keeps_ite | apply keeps_ite_fst | apply keeps_State_markOpen)
    | (with_reducible first | apply keeps_State_streamInc | apply keeps_State_badRow | apply keeps_State_openFrame)
    | (with_reducible first | apply keeps_State_count | apply keeps_State_closeFrame | apply keeps_State_landRow) | dsimp only
    | (refine keeps_of_eq (by assumption) ?_) | split | (refine keeps_mk ?_ rfl rfl rfl rfl rfl rfl rfl rfl rfl rfl rfl rfl)

theorem keeps_State_linePacket {s₀ : State} {s : State} (n : Nat) (p : LinePacket) (hK : Keeps s₀ s) : Keeps s₀ (State.linePacket s n p) := by
  unfold State.linePacket
  repeat' first
    | (with_reducible first | intro _ | assumption | apply keeps_ite | apply keeps_ite_fst | apply keeps_State_bwCount)
    | (with_reducible first | apply keeps_State_modPort | apply keeps_State_holdPin | apply keeps_State_bump)
    | (with_reducible first | apply keeps_State_setFlag | apply keeps_State_badLine | apply keeps_State_streamInc)
    | (with_reducible first | apply keeps_State_acceptLine) | dsimp only | split
    | (refine keeps_mk ?_ rfl rfl rfl rfl rfl rfl rfl rfl rfl rfl rfl rfl)

theorem keeps_State_disableStream {s₀ : State} {s : State} (st : Nat) (hK : Keeps s₀ s) : Keeps s₀ (State.disableStream s st) := by
  unfold State.disableStream
  repeat' first
    | (with_reducible first | intro _ | assumption | apply keeps_ite | apply keeps_ite_fst | apply keeps_State_closeFrame)
    | (with_reducible first | apply keeps_State_modStream) | dsimp only | split
    | (refine keeps_mk ?_ rfl rfl rfl rfl rfl rfl rfl rfl rfl rfl rfl rfl)

theorem keeps_State_installCtx {s₀ : State} {s : State} (st : Nat) (cfg : List Word) (hK : Keeps s₀ s) : Keeps s₀ (State.installCtx s st cfg) := by
  unfold State.installCtx
  repeat' first
    | (with_reducible first | intro _ | assumption | apply keeps_ite | apply keeps_ite_fst | apply keeps_State_disableStream)
    | (with_reducible first | apply keeps_State_modStream | apply keeps_State_resetModel) | dsimp only | split
    | (refine keeps_mk ?_ rfl rfl rfl rfl rfl rfl rfl rfl rfl rfl rfl rfl)

theorem keeps_State_readEntries {s₀ : State} {s : State} (a : Nat) (h : List Byte) (hK : Keeps s₀ s) : Keeps s₀ (State.readEntries s a h).1 := by
  unfold State.readEntries
  repeat' first
    | (with_reducible first | assumption | apply keeps_ite | apply keeps_ite_fst | apply keeps_State_readAgain) | dsimp only | split
    | (refine keeps_mk ?_ rfl rfl rfl rfl rfl rfl rfl rfl rfl rfl rfl rfl)

theorem keeps_State_readSet {s₀ : State} {s : State} (k : Nat) (hK : Keeps s₀ s) : Keeps s₀ (State.readSet s k).1 := by
  unfold State.readSet
  repeat' first
    | (with_reducible first | assumption | apply keeps_ite | apply keeps_ite_fst | apply keeps_State_readAgain)
    | (with_reducible first | apply keeps_State_readEntries) | dsimp only | split
    | (refine keeps_mk ?_ rfl rfl rfl rfl rfl rfl rfl rfl rfl rfl rfl rfl)

theorem keeps_State_readSets {s₀ : State} {s : State} (hK : Keeps s₀ s) : Keeps s₀ (State.readSets s).1 := by
  unfold State.readSets
  repeat' first
    | (with_reducible first | intro _ | assumption | apply keeps_foldl | apply keeps_foldl_fst | apply keeps_State_readSet) | dsimp only
    | (refine keeps_mk ?_ rfl rfl rfl rfl rfl rfl rfl rfl rfl rfl rfl rfl)

theorem keeps_State_lockChecks {s₀ : State} {s : State} (hK : Keeps s₀ s) : Keeps s₀ (State.lockChecks s).1 := by
  unfold State.lockChecks
  repeat' first
    | (with_reducible first | intro _ | assumption | apply keeps_ite | apply keeps_ite_fst | apply keeps_State_readSets) | dsimp only
    | (refine keeps_of_eq (by assumption) ?_) | split | (refine keeps_mk ?_ rfl rfl rfl rfl rfl rfl rfl rfl rfl rfl rfl rfl)

theorem keeps_State_lockGrant {s₀ : State} {s : State} (hK : Keeps s₀ s) : Keeps s₀ (State.lockGrant s) := by
  unfold State.lockGrant
  repeat' first
    | (with_reducible first | intro _ | assumption | apply keeps_State_setReg | apply keeps_State_setFlag)
    | (with_reducible first | apply keeps_State_setFld) | dsimp only
    | (refine keeps_mk ?_ rfl rfl rfl rfl rfl rfl rfl rfl rfl rfl rfl rfl)

theorem keeps_State_lockDeny {s₀ : State} {s : State} (c : Nat) (d : Nat) (hK : Keeps s₀ s) : Keeps s₀ (State.lockDeny s c d) := by
  unfold State.lockDeny
  repeat' first
    | (with_reducible first | assumption | apply keeps_State_setReg | apply keeps_State_setFld) | dsimp only
    | (refine keeps_mk ?_ rfl rfl rfl rfl rfl rfl rfl rfl rfl rfl rfl rfl)

theorem keeps_State_lockRequest {s₀ : State} {s : State} (hK : Keeps s₀ s) : Keeps s₀ (State.lockRequest s) := by
  unfold State.lockRequest
  repeat' first
    | (with_reducible first | assumption | apply keeps_ite | apply keeps_ite_fst | apply keeps_State_lockChecks)
    | (with_reducible first | apply keeps_State_lockGrant | apply keeps_State_lockDeny) | dsimp only | split
    | (refine keeps_mk ?_ rfl rfl rfl rfl rfl rfl rfl rfl rfl rfl rfl rfl)

theorem keeps_State_safWrite {s₀ : State} {s : State} (ag : Agent) (f : State → State) (hK : Keeps s₀ s) (hf : ∀ (x0 : State), Keeps s₀ x0 → Keeps s₀ (f x0)) : Keeps s₀ (State.safWrite s ag f) := by
  unfold State.safWrite
  repeat' first
    | (with_reducible first | intro _ | assumption | apply hf | apply keeps_ite | apply keeps_ite_fst)
    | (with_reducible first | apply keeps_State_refuseSys) | dsimp only | split
    | (refine keeps_mk ?_ rfl rfl rfl rfl rfl rfl rfl rfl rfl rfl rfl rfl)

theorem keeps_State_runtimeReady {s₀ : State} {s : State} (hK : Keeps s₀ s) : Keeps s₀ (State.runtimeReady s) := by
  unfold State.runtimeReady
  repeat' first
    | (with_reducible first | assumption | apply keeps_ite | apply keeps_ite_fst | apply keeps_State_setFlag) | dsimp only | split
    | (refine keeps_mk ?_ rfl rfl rfl rfl rfl rfl rfl rfl rfl rfl rfl rfl)

theorem keeps_lockReqOp {s₀ : State} (ag : Agent) {s : State} (hK : Keeps s₀ s) : Keeps s₀ (lockReqOp ag s) := by
  unfold lockReqOp
  repeat' first
    | (with_reducible first | assumption | apply keeps_ite | apply keeps_ite_fst | apply keeps_State_refuseSys)
    | (with_reducible first | apply keeps_State_setFld | apply keeps_State_lockRequest | apply keeps_State_runtimeReady)
    | (with_reducible first | apply keeps_State_cmdBegin) | dsimp only | split
    | (refine keeps_mk ?_ rfl rfl rfl rfl rfl rfl rfl rfl rfl rfl rfl rfl)

theorem keeps_armOp {s₀ : State} (ag : Agent) {s : State} (hK : Keeps s₀ s) : Keeps s₀ (armOp ag s) := by
  unfold armOp
  repeat' first
    | (with_reducible first | intro _ | assumption | apply keeps_ite | apply keeps_ite_fst | apply keeps_State_safWrite)
    | (with_reducible first | apply keeps_State_setFlag | apply keeps_State_maybeRun) | dsimp only | split
    | (refine keeps_mk ?_ rfl rfl rfl rfl rfl rfl rfl rfl rfl rfl rfl rfl)

theorem keeps_safForceOp {s₀ : State} (ag : Agent) {s : State} (hK : Keeps s₀ s) : Keeps s₀ (safForceOp ag s) := by
  unfold safForceOp
  repeat' first
    | (with_reducible first | intro _ | assumption | apply keeps_State_safWrite | apply keeps_State_cause) | dsimp only
    | (refine keeps_mk ?_ rfl rfl rfl rfl rfl rfl rfl rfl rfl rfl rfl rfl)

theorem keeps_safHeartbeatOp {s₀ : State} (ag : Agent) {s : State} (hK : Keeps s₀ s) : Keeps s₀ (safHeartbeatOp ag s) := by
  unfold safHeartbeatOp
  repeat' first
    | (with_reducible first | intro _ | assumption | apply keeps_ite | apply keeps_ite_fst | apply keeps_State_safWrite) | dsimp only
    | split | (refine keeps_mk ?_ rfl rfl rfl rfl rfl rfl rfl rfl rfl rfl rfl rfl)

theorem keeps_heartbeatOp {s₀ : State} {s : State} (hK : Keeps s₀ s) : Keeps s₀ (heartbeatOp s) := by
  unfold heartbeatOp
  repeat' first
    | (with_reducible first | assumption | apply keeps_ite | apply keeps_ite_fst | apply keeps_State_cause)
    | (with_reducible first | apply keeps_State_notice) | dsimp only | (refine keeps_of_eq (by assumption) ?_) | split
    | (refine keeps_mk ?_ rfl rfl rfl rfl rfl rfl rfl rfl rfl rfl rfl rfl)

theorem keeps_causeClearOp {s₀ : State} (ag : Agent) {s : State} (hK : Keeps s₀ s) : Keeps s₀ (causeClearOp ag s) := by
  unfold causeClearOp
  repeat' first
    | (with_reducible first | intro _ | assumption | apply keeps_State_safWrite) | dsimp only
    | (refine keeps_mk ?_ rfl rfl rfl rfl rfl rfl rfl rfl rfl rfl rfl rfl)

theorem keeps_safClearOp {s₀ : State} (ag : Agent) {s : State} (hK : Keeps s₀ s) : Keeps s₀ (safClearOp ag s) := by
  unfold safClearOp
  repeat' first
    | (with_reducible first | intro _ | assumption | apply keeps_State_safWrite | apply keeps_State_zeroRegs) | dsimp only
    | (refine keeps_mk ?_ rfl rfl rfl rfl rfl rfl rfl rfl rfl rfl rfl rfl)

theorem keeps_wdEventOp {s₀ : State} {s : State} (hK : Keeps s₀ s) : Keeps s₀ (wdEventOp s) := by
  unfold wdEventOp
  repeat' first
    | (with_reducible first | assumption | apply keeps_ite | apply keeps_ite_fst | apply keeps_State_cause)
    | (with_reducible first | apply keeps_State_bump | apply keeps_State_notice) | dsimp only | (refine keeps_of_eq (by assumption) ?_)
    | split | (refine keeps_mk ?_ rfl rfl rfl rfl rfl rfl rfl rfl rfl rfl rfl rfl)

theorem keeps_safeOffOp {s₀ : State} {s : State} (hK : Keeps s₀ s) : Keeps s₀ (safeOffOp s) := by
  unfold safeOffOp
  repeat' first
    | (with_reducible first | assumption | apply keeps_ite | apply keeps_ite_fst | apply keeps_State_setFld) | dsimp only
    | (refine keeps_of_eq (by assumption) ?_) | split | (refine keeps_mk ?_ rfl rfl rfl rfl rfl rfl rfl rfl rfl rfl rfl rfl)

theorem keeps_tasterCompleteOp {s₀ : State} {s : State} (hK : Keeps s₀ s) : Keeps s₀ (tasterCompleteOp s) := by
  unfold tasterCompleteOp
  repeat' first
    | (with_reducible first | assumption | apply keeps_ite | apply keeps_ite_fst | apply keeps_State_tasterFinish) | dsimp only
    | (refine keeps_of_eq (by assumption) ?_) | split | (refine keeps_mk ?_ rfl rfl rfl rfl rfl rfl rfl rfl rfl rfl rfl rfl)

theorem keeps_State_shiftVerdict {s₀ : State} {s : State} (policy : Nat) (v : Bool) (hK : Keeps s₀ s) : Keeps s₀ (State.shiftVerdict s policy v) := by
  unfold State.shiftVerdict
  repeat' first
    | (with_reducible first | assumption | apply keeps_ite | apply keeps_ite_fst | apply keeps_State_bump)
    | (with_reducible first | apply keeps_State_cause | apply keeps_State_notice) | dsimp only | split
    | (refine keeps_mk ?_ rfl rfl rfl rfl rfl rfl rfl rfl rfl rfl rfl rfl)

theorem keeps_tasterVerdictOp {s₀ : State} {s : State} (hK : Keeps s₀ s) : Keeps s₀ (tasterVerdictOp s) := by
  unfold tasterVerdictOp
  repeat' first
    | (with_reducible first | assumption | apply keeps_State_shiftVerdict) | dsimp only | (refine keeps_of_eq (by assumption) ?_) | split
    | (refine keeps_mk ?_ rfl rfl rfl rfl rfl rfl rfl rfl rfl rfl rfl rfl)

theorem keeps_State_reland {s₀ : State} {s : State} (st : Nat) (hK : Keeps s₀ s) : Keeps s₀ (State.reland s st).1 := by
  unfold State.reland
  repeat' first
    | (with_reducible first | intro _ | assumption | apply keeps_ite | apply keeps_ite_fst | apply keeps_State_dramWrite)
    | (with_reducible first | apply keeps_State_modStream | apply keeps_State_streamInc | apply keeps_State_frameLanded)
    | (with_reducible first | apply keeps_State_askYields) | dsimp only | split
    | (refine keeps_mk ?_ rfl rfl rfl rfl rfl rfl rfl rfl rfl rfl rfl rfl)

theorem keeps_State_closeInterval {s₀ : State} {s : State} (hK : Keeps s₀ s) : Keeps s₀ (State.closeInterval s) := by
  unfold State.closeInterval
  repeat' first
    | (with_reducible first | intro _ | assumption | apply keeps_foldl | apply keeps_foldl_fst | apply keeps_State_proofOutcome)
    | dsimp only | (refine keeps_mk ?_ rfl rfl rfl rfl rfl rfl rfl rfl rfl rfl rfl rfl)

theorem keeps_proofOpenOp {s₀ : State} {s : State} (hK : Keeps s₀ s) : Keeps s₀ (proofOpenOp s) := by
  unfold proofOpenOp
  repeat' first
    | (with_reducible first | intro _ | assumption | apply keeps_ite | apply keeps_foldl | apply keeps_ite_fst)
    | (with_reducible first | apply keeps_foldl_fst | apply keeps_State_closeInterval | apply keeps_State_readSet)
    | (with_reducible first | apply keeps_State_reland | apply keeps_State_proofOutcome | apply keeps_State_judgeInterval) | dsimp only
    | (refine keeps_of_eq (by assumption) ?_) | (refine keeps_of_eq_snd (by assumption) ?_) | split
    | (refine keeps_mk ?_ rfl rfl rfl rfl rfl rfl rfl rfl rfl rfl rfl rfl)

theorem keeps_proofCloseOp {s₀ : State} {s : State} (hK : Keeps s₀ s) : Keeps s₀ (proofCloseOp s) := by
  unfold proofCloseOp
  repeat' first
    | (with_reducible first | assumption | apply keeps_ite | apply keeps_ite_fst | apply keeps_State_closeInterval) | dsimp only | split
    | (refine keeps_mk ?_ rfl rfl rfl rfl rfl rfl rfl rfl rfl rfl rfl rfl)

theorem keeps_timeLostOp {s₀ : State} {s : State} (hK : Keeps s₀ s) : Keeps s₀ (timeLostOp s) := by
  unfold timeLostOp
  repeat' first
    | (with_reducible first | assumption | apply keeps_ite | apply keeps_ite_fst | apply keeps_State_setFld)
    | (with_reducible first | apply keeps_State_setFlag | apply keeps_State_irqRaise) | dsimp only | split
    | (refine keeps_mk ?_ rfl rfl rfl rfl rfl rfl rfl rfl rfl rfl rfl rfl)

theorem keeps_controlFaultOp {s₀ : State} (ag : Agent) (code : Byte) {s : State} (hK : Keeps s₀ s) : Keeps s₀ (controlFaultOp ag code s) := by
  unfold controlFaultOp
  repeat' first
    | (with_reducible first | assumption | apply keeps_ite | apply keeps_ite_fst | apply keeps_State_report)
    | (with_reducible first | apply keeps_State_cause | apply keeps_State_notice) | dsimp only | split
    | (refine keeps_mk ?_ rfl rfl rfl rfl rfl rfl rfl rfl rfl rfl rfl rfl)

theorem keeps_State_liveEngine {s₀ : State} {s : State} (e : Nat) (o : Nat) (w : Word) (hK : Keeps s₀ s) : Keeps s₀ (State.liveEngine s e o w).1 := by
  unfold State.liveEngine
  repeat' first
    | (with_reducible first | assumption | apply keeps_ite | apply keeps_ite_fst | apply keeps_State_engineState)
    | (with_reducible first | apply keeps_State_fteProgress | apply keeps_State_countShown) | dsimp only
    | (refine keeps_of_eq (by assumption) ?_) | (refine keeps_of_eq_snd (by assumption) ?_) | split
    | (refine keeps_mk ?_ rfl rfl rfl rfl rfl rfl rfl rfl rfl rfl rfl rfl)

theorem keeps_State_liveIsp {s₀ : State} {s : State} (n : Nat) (o : Nat) (w : Word) (hK : Keeps s₀ s) : Keeps s₀ (State.liveIsp s n o w).1 := by
  unfold State.liveIsp
  repeat' first
    | (with_reducible first | assumption | apply keeps_ite | apply keeps_ite_fst | apply keeps_State_ispState)
    | (with_reducible first | apply keeps_State_countShown) | dsimp only | (refine keeps_of_eq (by assumption) ?_)
    | (refine keeps_of_eq_snd (by assumption) ?_) | split | (refine keeps_mk ?_ rfl rfl rfl rfl rfl rfl rfl rfl rfl rfl rfl rfl)

theorem keeps_State_queryResult {s₀ : State} {s : State} (hK : Keeps s₀ s) : Keeps s₀ (State.queryResult s).1 := by
  unfold State.queryResult
  repeat' first
    | (with_reducible first | assumption | apply keeps_ite | apply keeps_ite_fst | apply keeps_State_draw) | dsimp only
    | (refine keeps_of_eq (by assumption) ?_) | (refine keeps_of_eq_snd (by assumption) ?_) | split
    | (refine keeps_mk ?_ rfl rfl rfl rfl rfl rfl rfl rfl rfl rfl rfl rfl)

theorem keeps_State_live {s₀ : State} {s : State} (off : Nat) (hK : Keeps s₀ s) : Keeps s₀ (State.live s off).1 := by
  unfold State.live
  repeat' first
    | (with_reducible first | intro _ | assumption | apply keeps_ite | apply keeps_ite_fst | apply keeps_State_liveIsp)
    | (with_reducible first | apply keeps_State_queryResult | apply keeps_State_liveEngine) | dsimp only
    | (refine keeps_of_eq (by assumption) ?_) | split | (refine keeps_mk ?_ rfl rfl rfl rfl rfl rfl rfl rfl rfl rfl rfl rfl)

theorem keeps_State_viewMbx {s₀ : State} {s : State} (ag : Agent) (off : Nat) (hK : Keeps s₀ s) : Keeps s₀ (State.viewMbx s ag off).1 := by
  unfold State.viewMbx
  repeat' first
    | (with_reducible first | assumption | apply keeps_ite | apply keeps_ite_fst | apply keeps_State_live | apply keeps_State_draw)
    | dsimp only | (refine keeps_of_eq (by assumption) ?_) | (refine keeps_of_eq_snd (by assumption) ?_) | split
    | (refine keeps_mk ?_ rfl rfl rfl rfl rfl rfl rfl rfl rfl rfl rfl rfl)

theorem keeps_State_regView {s₀ : State} {s : State} (ag : Agent) (off : Nat) (hK : Keeps s₀ s) : Keeps s₀ (State.regView s ag off).1 := by
  unfold State.regView
  repeat' first
    | (with_reducible first | assumption | apply keeps_ite | apply keeps_ite_fst | apply keeps_State_viewMbx)
    | (with_reducible first | apply keeps_State_live) | dsimp only | (refine keeps_of_eq (by assumption) ?_)
    | (refine keeps_of_eq_snd (by assumption) ?_) | split | (refine keeps_mk ?_ rfl rfl rfl rfl rfl rfl rfl rfl rfl rfl rfl rfl)

theorem keeps_State_busRead {s₀ : State} {s : State} (ag : Agent) (off : Nat) (hK : Keeps s₀ s) : Keeps s₀ (State.busRead s ag off).1 := by
  unfold State.busRead
  repeat' first
    | (with_reducible first | intro _ | assumption | apply keeps_ite | apply keeps_ite_fst | apply keeps_State_wakeDomain)
    | (with_reducible first | apply keeps_State_regView | apply keeps_State_refuse | apply keeps_State_refuseSys)
    | (with_reducible first | apply keeps_State_live) | dsimp only | (refine keeps_of_eq (by assumption) ?_)
    | (refine keeps_of_eq_snd (by assumption) ?_) | split | (refine keeps_mk ?_ rfl rfl rfl rfl rfl rfl rfl rfl rfl rfl rfl rfl)

theorem keeps_busReadOp {s₀ : State} (ag : Agent) (off : Nat) {s : State} (hK : Keeps s₀ s) : Keeps s₀ (busReadOp ag off s) := by
  unfold busReadOp
  repeat' first
    | (with_reducible first | assumption | apply keeps_ite | apply keeps_ite_fst | apply keeps_postTryOp | apply keeps_eventTryOp)
    | (with_reducible first | apply keeps_takeOp | apply keeps_mbxLatchOp | apply keeps_lockReadOp | apply keeps_State_busRead)
    | (with_reducible first | apply keeps_State_answer) | dsimp only | (refine keeps_of_eq (by assumption) ?_)
    | (refine keeps_of_eq_snd (by assumption) ?_) | split | (refine keeps_mk ?_ rfl rfl rfl rfl rfl rfl rfl rfl rfl rfl rfl rfl)

theorem keeps_portEnableOp {s₀ : State} (ag : Agent) (n : Nat) {s : State} (hK : Keeps s₀ s) : Keeps s₀ (portEnableOp ag n s) := by
  unfold portEnableOp
  repeat' first
    | (with_reducible first | assumption | apply keeps_ite | apply keeps_ite_fst | apply keeps_State_refuseSys)
    | (with_reducible first | apply keeps_State_setFlag | apply keeps_State_setTpp) | dsimp only | split
    | (refine keeps_mk ?_ rfl rfl rfl rfl rfl rfl rfl rfl rfl rfl rfl rfl)

theorem keeps_portDisableOp {s₀ : State} (ag : Agent) (n : Nat) {s : State} (hK : Keeps s₀ s) : Keeps s₀ (portDisableOp ag n s) := by
  unfold portDisableOp
  repeat' first
    | (with_reducible first | assumption | apply keeps_ite | apply keeps_ite_fst | apply keeps_State_refuseSys)
    | (with_reducible first | apply keeps_State_setFlag | apply keeps_State_setTpp | apply keeps_State_holdPin) | dsimp only | split
    | (refine keeps_mk ?_ rfl rfl rfl rfl rfl rfl rfl rfl rfl rfl rfl rfl)

theorem keeps_tppRetrainOp {s₀ : State} (ag : Agent) (n : Nat) {s : State} (hK : Keeps s₀ s) : Keeps s₀ (tppRetrainOp ag n s) := by
  unfold tppRetrainOp
  repeat' first
    | (with_reducible first | assumption | apply keeps_ite | apply keeps_ite_fst | apply keeps_State_refuseSys)
    | (with_reducible first | apply keeps_State_setTpp) | dsimp only | split
    | (refine keeps_mk ?_ rfl rfl rfl rfl rfl rfl rfl rfl rfl rfl rfl rfl)

theorem keeps_tppClearOp {s₀ : State} (ag : Agent) (n : Nat) {s : State} (hK : Keeps s₀ s) : Keeps s₀ (tppClearOp ag n s) := by
  unfold tppClearOp
  repeat' first
    | (with_reducible first | assumption | apply keeps_ite | apply keeps_ite_fst | apply keeps_State_refuseSys)
    | (with_reducible first | apply keeps_State_zeroRegs) | dsimp only | split
    | (refine keeps_mk ?_ rfl rfl rfl rfl rfl rfl rfl rfl rfl rfl rfl rfl)

theorem keeps_ctlEnableOp {s₀ : State} (ag : Agent) (n : Nat) (on : Bool) {s : State} (hK : Keeps s₀ s) : Keeps s₀ (ctlEnableOp ag n on s) := by
  unfold ctlEnableOp
  repeat' first
    | (with_reducible first | assumption | apply keeps_ite | apply keeps_ite_fst | apply keeps_State_refuseSys)
    | (with_reducible first | apply keeps_State_setFlag) | dsimp only | split
    | (refine keeps_mk ?_ rfl rfl rfl rfl rfl rfl rfl rfl rfl rfl rfl rfl)

theorem keeps_trainingOp {s₀ : State} (n : Nat) {s : State} (hK : Keeps s₀ s) : Keeps s₀ (trainingOp n s) := by
  unfold trainingOp
  repeat' first
    | (with_reducible first | intro _ | assumption | apply keeps_ite | apply keeps_ite_fst | apply keeps_State_setTpp)
    | (with_reducible first | apply keeps_State_modPort) | dsimp only | split
    | (refine keeps_mk ?_ rfl rfl rfl rfl rfl rfl rfl rfl rfl rfl rfl rfl)

theorem keeps_clockLostOp {s₀ : State} (n : Nat) (cut : Bool) {s : State} (hK : Keeps s₀ s) : Keeps s₀ (clockLostOp n cut s) := by
  unfold clockLostOp
  repeat' first
    | (with_reducible first | assumption | apply keeps_ite | apply keeps_ite_fst | apply keeps_State_setTpp)
    | (with_reducible first | apply keeps_State_setFlag | apply keeps_State_bump) | dsimp only | split
    | (refine keeps_mk ?_ rfl rfl rfl rfl rfl rfl rfl rfl rfl rfl rfl rfl)

theorem keeps_clockReturnOp {s₀ : State} (n : Nat) {s : State} (hK : Keeps s₀ s) : Keeps s₀ (clockReturnOp n s) := by
  unfold clockReturnOp
  repeat' first
    | (with_reducible first | assumption | apply keeps_ite | apply keeps_ite_fst | apply keeps_State_setTpp) | dsimp only | split
    | (refine keeps_mk ?_ rfl rfl rfl rfl rfl rfl rfl rfl rfl rfl rfl rfl)

theorem keeps_deskewOp {s₀ : State} (n : Nat) {s : State} (hK : Keeps s₀ s) : Keeps s₀ (deskewOp n s) := by
  unfold deskewOp
  repeat' first
    | (with_reducible first | intro _ | assumption | apply keeps_ite | apply keeps_ite_fst | apply keeps_State_modPort) | dsimp only
    | split | (refine keeps_mk ?_ rfl rfl rfl rfl rfl rfl rfl rfl rfl rfl rfl rfl)

theorem keeps_deskewStaleOp {s₀ : State} (n : Nat) {s : State} (hK : Keeps s₀ s) : Keeps s₀ (deskewStaleOp n s) := by
  unfold deskewStaleOp
  repeat' first
    | (with_reducible first | intro _ | assumption | apply keeps_ite | apply keeps_ite_fst | apply keeps_State_bump)
    | (with_reducible first | apply keeps_State_modPort) | dsimp only | split
    | (refine keeps_mk ?_ rfl rfl rfl rfl rfl rfl rfl rfl rfl rfl rfl rfl)

theorem keeps_drainOp {s₀ : State} (n : Nat) (transfers : Nat) {s : State} (hK : Keeps s₀ s) : Keeps s₀ (drainOp n transfers s) := by
  unfold drainOp
  repeat' first
    | (with_reducible first | intro _ | assumption | apply keeps_State_modPort | apply keeps_State_holdPin) | dsimp only
    | (refine keeps_mk ?_ rfl rfl rfl rfl rfl rfl rfl rfl rfl rfl rfl rfl)

theorem keeps_lateOp {s₀ : State} (st : Nat) {s : State} (hK : Keeps s₀ s) : Keeps s₀ (lateOp st s) := by
  unfold lateOp
  repeat' first
    | (with_reducible first | assumption | apply keeps_ite | apply keeps_ite_fst | apply keeps_State_closeFrame) | dsimp only
    | (refine keeps_of_eq (by assumption) ?_) | split | (refine keeps_mk ?_ rfl rfl rfl rfl rfl rfl rfl rfl rfl rfl rfl rfl)

theorem keeps_ctlSendOp {s₀ : State} (n : Nat) {s : State} (hK : Keeps s₀ s) : Keeps s₀ (ctlSendOp n s) := by
  unfold ctlSendOp
  repeat' first
    | (with_reducible first | intro _ | assumption | apply keeps_ite | apply keeps_ite_fst | apply keeps_State_ctlQueue)
    | (with_reducible first | apply keeps_State_modPort) | dsimp only | (refine keeps_of_eq (by assumption) ?_) | split
    | (refine keeps_mk ?_ rfl rfl rfl rfl rfl rfl rfl rfl rfl rfl rfl rfl)

theorem keeps_ctlReplyOp {s₀ : State} (n : Nat) (frame : BitVec 56) {s : State} (hK : Keeps s₀ s) : Keeps s₀ (ctlReplyOp n frame s) := by
  unfold ctlReplyOp
  repeat' first
    | (with_reducible first | intro _ | assumption | apply keeps_ite | apply keeps_ite_fst | apply keeps_State_ctlEnd)
    | (with_reducible first | apply keeps_State_bump) | dsimp only | (refine keeps_of_eq (by assumption) ?_) | split
    | (refine keeps_mk ?_ rfl rfl rfl rfl rfl rfl rfl rfl rfl rfl rfl rfl)

theorem keeps_ctlTimeoutOp {s₀ : State} (n : Nat) {s : State} (hK : Keeps s₀ s) : Keeps s₀ (ctlTimeoutOp n s) := by
  unfold ctlTimeoutOp
  repeat' first
    | (with_reducible first | intro _ | assumption | apply keeps_ite | apply keeps_ite_fst | apply keeps_State_bump)
    | (with_reducible first | apply keeps_State_ctlEnd) | dsimp only | (refine keeps_of_eq (by assumption) ?_) | split
    | (refine keeps_mk ?_ rfl rfl rfl rfl rfl rfl rfl rfl rfl rfl rfl rfl)

theorem keeps_tppSendOp {s₀ : State} (ag : Agent) (n : Nat) {s : State} (hK : Keeps s₀ s) : Keeps s₀ (tppSendOp ag n s) := by
  unfold tppSendOp
  repeat' first
    | (with_reducible first | intro _ | assumption | apply keeps_ite | apply keeps_ite_fst | apply keeps_State_setFlag)
    | (with_reducible first | apply keeps_State_ctlQueue | apply keeps_State_refuse | apply keeps_State_setReg)
    | (with_reducible first | apply keeps_State_modPort) | dsimp only | split
    | (refine keeps_mk ?_ rfl rfl rfl rfl rfl rfl rfl rfl rfl rfl rfl rfl)

theorem keeps_State_ctxStatus {s₀ : State} {s : State} (st : Nat) (hK : Keeps s₀ s) : Keeps s₀ (State.ctxStatus s st) := by
  unfold State.ctxStatus
  repeat' first
    | (with_reducible first | assumption | apply keeps_State_setReg | apply keeps_State_cmdBegin) | dsimp only
    | (refine keeps_mk ?_ rfl rfl rfl rfl rfl rfl rfl rfl rfl rfl rfl rfl)

theorem keeps_lndCtxWriteGo {s₀ : State} (ag : Agent) (st : Nat) {s : State} (hK : Keeps s₀ s) : Keeps s₀ (lndCtxWriteGo ag st s) := by
  unfold lndCtxWriteGo
  repeat' first
    | (with_reducible first | intro _ | assumption | apply keeps_ite | apply keeps_ite_fst | apply keeps_State_setFld)
    | (with_reducible first | apply keeps_State_refuse | apply keeps_State_ctxStatus | apply keeps_State_installCtx) | dsimp only | split
    | (refine keeps_mk ?_ rfl rfl rfl rfl rfl rfl rfl rfl rfl rfl rfl rfl)

theorem keeps_lndCtxWriteOp {s₀ : State} (ag : Agent) (st : Nat) {s : State} (hK : Keeps s₀ s) : Keeps s₀ (lndCtxWriteOp ag st s) := by
  unfold lndCtxWriteOp
  repeat' first
    | (with_reducible first | assumption | apply keeps_ite | apply keeps_ite_fst | apply keeps_lndCtxWriteGo) | dsimp only | split
    | (refine keeps_mk ?_ rfl rfl rfl rfl rfl rfl rfl rfl rfl rfl rfl rfl)

theorem keeps_lndCtxReadGo {s₀ : State} (ag : Agent) (st : Nat) {s : State} (hK : Keeps s₀ s) : Keeps s₀ (lndCtxReadGo ag st s) := by
  unfold lndCtxReadGo
  repeat' first
    | (with_reducible first | intro _ | assumption | apply keeps_ite | apply keeps_foldl | apply keeps_ite_fst)
    | (with_reducible first | apply keeps_foldl_fst | apply keeps_State_setFld | apply keeps_State_refuse)
    | (with_reducible first | apply keeps_State_ctxStatus | apply keeps_State_setReg) | dsimp only | split
    | (refine keeps_mk ?_ rfl rfl rfl rfl rfl rfl rfl rfl rfl rfl rfl rfl)

theorem keeps_lndCtxReadOp {s₀ : State} (ag : Agent) (st : Nat) {s : State} (hK : Keeps s₀ s) : Keeps s₀ (lndCtxReadOp ag st s) := by
  unfold lndCtxReadOp
  repeat' first
    | (with_reducible first | assumption | apply keeps_ite | apply keeps_ite_fst | apply keeps_lndCtxReadGo) | dsimp only | split
    | (refine keeps_mk ?_ rfl rfl rfl rfl rfl rfl rfl rfl rfl rfl rfl rfl)

theorem keeps_landingEnableOp {s₀ : State} (ag : Agent) (on : Bool) {s : State} (hK : Keeps s₀ s) : Keeps s₀ (landingEnableOp ag on s) := by
  unfold landingEnableOp
  repeat' first
    | (with_reducible first | intro _ | assumption | apply keeps_ite | apply keeps_foldl | apply keeps_ite_fst)
    | (with_reducible first | apply keeps_foldl_fst | apply keeps_State_refuseSys | apply keeps_State_holdPin)
    | (with_reducible first | apply keeps_State_setFlag) | dsimp only | split
    | (refine keeps_mk ?_ rfl rfl rfl rfl rfl rfl rfl rfl rfl rfl rfl rfl)

theorem keeps_lndClearOp {s₀ : State} (ag : Agent) {s : State} (hK : Keeps s₀ s) : Keeps s₀ (lndClearOp ag s) := by
  unfold lndClearOp
  repeat' first
    | (with_reducible first | intro _ | assumption | apply keeps_ite | apply keeps_foldl | apply keeps_ite_fst)
    | (with_reducible first | apply keeps_foldl_fst | apply keeps_State_refuseSys | apply keeps_State_modStream) | dsimp only | split
    | (refine keeps_mk ?_ rfl rfl rfl rfl rfl rfl rfl rfl rfl rfl rfl rfl)

theorem keeps_lndReleaseOp {s₀ : State} (ag : Agent) (st : Nat) (slot : Nat) {s : State} (hK : Keeps s₀ s) : Keeps s₀ (lndReleaseOp ag st slot s) := by
  unfold lndReleaseOp
  repeat' first
    | (with_reducible first | assumption | apply keeps_ite | apply keeps_ite_fst | apply keeps_State_refuse)
    | (with_reducible first | apply keeps_State_setReg | apply keeps_State_count | apply keeps_State_releaseSlot) | dsimp only | split
    | (refine keeps_mk ?_ rfl rfl rfl rfl rfl rfl rfl rfl rfl rfl rfl rfl)

theorem keeps_State_fieldWriteAt {s₀ : State} {s : State} (off : Nat) (tgt : Nat) (v : Word) (lk : Bool) (hK : Keeps s₀ s) : Keeps s₀ (State.fieldWriteAt s off tgt v lk) := by
  unfold State.fieldWriteAt
  repeat' first
    | (with_reducible first | assumption | apply keeps_ite | apply keeps_ite_fst | apply keeps_State_setReg) | dsimp only
    | (refine keeps_of_eq (by assumption) ?_) | split | (refine keeps_mk ?_ rfl rfl rfl rfl rfl rfl rfl rfl rfl rfl rfl rfl)

theorem keeps_State_fieldWrite {s₀ : State} {s : State} (off : Nat) (v : Word) (lk : Bool) (hK : Keeps s₀ s) : Keeps s₀ (State.fieldWrite s off v lk) := by
  unfold State.fieldWrite
  repeat' first
    | (with_reducible first | assumption | apply keeps_State_fieldWriteAt) | dsimp only
    | (refine keeps_mk ?_ rfl rfl rfl rfl rfl rfl rfl rfl rfl rfl rfl rfl)

theorem keeps_State_mixedWrite {s₀ : State} {s : State} (ag : Agent) (off : Nat) (v : Word) (hK : Keeps s₀ s) : Keeps s₀ (State.mixedWrite s ag off v) := by
  unfold State.mixedWrite
  repeat' first
    | (with_reducible first | assumption | apply keeps_ite | apply keeps_ite_fst | apply keeps_State_refuseSys)
    | (with_reducible first | apply keeps_State_fieldWrite) | dsimp only | split
    | (refine keeps_mk ?_ rfl rfl rfl rfl rfl rfl rfl rfl rfl rfl rfl rfl)

theorem keeps_State_fullWrite {s₀ : State} {s : State} (ag : Agent) (f : State → State) (hK : Keeps s₀ s) (hf : ∀ (x0 : State), Keeps s₀ x0 → Keeps s₀ (f x0)) : Keeps s₀ (State.fullWrite s ag f) := by
  unfold State.fullWrite
  repeat' first
    | (with_reducible first | intro _ | assumption | apply hf | apply keeps_ite | apply keeps_ite_fst)
    | (with_reducible first | apply keeps_State_refuseSys) | dsimp only | split
    | (refine keeps_mk ?_ rfl rfl rfl rfl rfl rfl rfl rfl rfl rfl rfl rfl)

theorem keeps_State_partWrite {s₀ : State} {s : State} (ag : Agent) (p : Nat) (f : State → State) (hK : Keeps s₀ s) (hf : ∀ (x0 : State), Keeps s₀ x0 → Keeps s₀ (f x0)) : Keeps s₀ (State.partWrite s ag p f) := by
  unfold State.partWrite
  repeat' first
    | (with_reducible first | intro _ | assumption | apply hf | apply keeps_ite | apply keeps_ite_fst | apply keeps_State_refuse)
    | dsimp only | split | (refine keeps_mk ?_ rfl rfl rfl rfl rfl rfl rfl rfl rfl rfl rfl rfl)

theorem keeps_whenB {s₀ : State} (b : Bool) (f : State → State) {s : State} (hK : Keeps s₀ s) (hf : ∀ (x0 : State), Keeps s₀ x0 → Keeps s₀ (f x0)) : Keeps s₀ (whenB b f s) := by
  unfold whenB
  repeat' first
    | (with_reducible first | intro _ | assumption | apply hf | apply keeps_ite | apply keeps_ite_fst) | dsimp only | split
    | (refine keeps_mk ?_ rfl rfl rfl rfl rfl rfl rfl rfl rfl rfl rfl rfl)

theorem keeps_timeCtrlWrite {s₀ : State} (v : Word) {s : State} (hK : Keeps s₀ s) : Keeps s₀ (timeCtrlWrite v s) := by
  unfold timeCtrlWrite
  repeat' first
    | (with_reducible first | assumption | apply keeps_ite | apply keeps_ite_fst | apply keeps_State_fieldWrite) | dsimp only | split
    | (refine keeps_mk ?_ rfl rfl rfl rfl rfl rfl rfl rfl rfl rfl rfl rfl)

theorem keeps_timeStatusWrite {s₀ : State} (v : Word) {s : State} (hK : Keeps s₀ s) : Keeps s₀ (timeStatusWrite v s) := by
  unfold timeStatusWrite
  repeat' first
    | (with_reducible first | assumption | apply keeps_ite | apply keeps_ite_fst | apply keeps_State_fieldWrite)
    | (with_reducible first | apply keeps_State_irqDrop) | dsimp only | split
    | (refine keeps_mk ?_ rfl rfl rfl rfl rfl rfl rfl rfl rfl rfl rfl rfl)

theorem keeps_writeSmc {s₀ : State} (ag : Agent) (off : Nat) (v : Word) {s : State} (hK : Keeps s₀ s) : Keeps s₀ (writeSmc ag off v s) := by
  unfold writeSmc
  repeat' first
    | (with_reducible first | assumption | apply keeps_ite | apply keeps_ite_fst | apply keeps_gpioCfgOp)
    | (with_reducible first | apply keeps_timeCtrlWrite | apply keeps_timeStatusWrite) | dsimp only | split
    | (refine keeps_mk ?_ rfl rfl rfl rfl rfl rfl rfl rfl rfl rfl rfl rfl)

theorem keeps_writePmg {s₀ : State} (ag : Agent) (off : Nat) (v : Word) {s : State} (hK : Keeps s₀ s) : Keeps s₀ (writePmg ag off v s) := by
  unfold writePmg
  repeat' first
    | (with_reducible first | intro _ | assumption | apply keeps_ite | apply keeps_ite_fst | apply keeps_pmgClearOp)
    | (with_reducible first | apply keeps_State_pmgWrite | apply keeps_budgetLimitOp | apply keeps_budgetMaxOp)
    | (with_reducible first | apply keeps_p0ReserveOp | apply keeps_thermCfgOp | apply keeps_State_fieldWrite) | dsimp only | split
    | (refine keeps_mk ?_ rfl rfl rfl rfl rfl rfl rfl rfl rfl rfl rfl rfl)

theorem keeps_noticeClear {s₀ : State} (v : Word) {s : State} (hK : Keeps s₀ s) : Keeps s₀ (noticeClear v s) := by
  unfold noticeClear
  repeat' first
    | (with_reducible first | assumption | apply keeps_ite | apply keeps_ite_fst | apply keeps_State_fieldWrite)
    | (with_reducible first | apply keeps_State_irqDrop) | dsimp only | split
    | (refine keeps_mk ?_ rfl rfl rfl rfl rfl rfl rfl rfl rfl rfl rfl rfl)

theorem keeps_writeSaf {s₀ : State} (ag : Agent) (off : Nat) (v : Word) {s : State} (hK : Keeps s₀ s) : Keeps s₀ (writeSaf ag off v s) := by
  unfold writeSaf
  repeat' first
    | (with_reducible first | intro _ | assumption | apply keeps_ite | apply keeps_ite_fst | apply keeps_State_safWrite)
    | (with_reducible first | apply keeps_whenB | apply keeps_safClearOp | apply keeps_armOp | apply keeps_lockReqOp)
    | (with_reducible first | apply keeps_safHeartbeatOp | apply keeps_safForceOp | apply keeps_causeClearOp)
    | (with_reducible first | apply keeps_noticeClear | apply keeps_State_mixedWrite | apply keeps_State_fullWrite)
    | (with_reducible first | apply keeps_State_fieldWrite) | dsimp only | split
    | (refine keeps_mk ?_ rfl rfl rfl rfl rfl rfl rfl rfl rfl rfl rfl rfl)

theorem keeps_portCtrlWrite {s₀ : State} (ag : Agent) (n : Nat) (v : Word) {s : State} (hK : Keeps s₀ s) : Keeps s₀ (portCtrlWrite ag n v s) := by
  unfold portCtrlWrite
  repeat' first
    | (with_reducible first | assumption | apply keeps_ite | apply keeps_ite_fst | apply keeps_State_refuseSys)
    | (with_reducible first | apply keeps_portEnableOp | apply keeps_portDisableOp | apply keeps_ctlEnableOp | apply keeps_whenB)
    | (with_reducible first | apply keeps_tppClearOp | apply keeps_tppRetrainOp) | dsimp only | split
    | (refine keeps_mk ?_ rfl rfl rfl rfl rfl rfl rfl rfl rfl rfl rfl rfl)

theorem keeps_ctlCmdWrite {s₀ : State} (ag : Agent) (n : Nat) (cmd0 : Bool) (v : Word) {s : State} (hK : Keeps s₀ s) : Keeps s₀ (ctlCmdWrite ag n cmd0 v s) := by
  unfold ctlCmdWrite
  repeat' first
    | (with_reducible first | assumption | apply keeps_ite | apply keeps_ite_fst | apply keeps_State_refuse)
    | (with_reducible first | apply keeps_State_setFlag | apply keeps_State_fieldWriteAt | apply keeps_whenB)
    | (with_reducible first | apply keeps_tppSendOp | apply keeps_State_setReg) | dsimp only | split
    | (refine keeps_mk ?_ rfl rfl rfl rfl rfl rfl rfl rfl rfl rfl rfl rfl)

theorem keeps_ctlRspWrite {s₀ : State} (ag : Agent) (n : Nat) (v : Word) {s : State} (hK : Keeps s₀ s) : Keeps s₀ (ctlRspWrite ag n v s) := by
  unfold ctlRspWrite
  repeat' first
    | (with_reducible first | assumption | apply keeps_ite | apply keeps_ite_fst | apply keeps_State_setFlag) | dsimp only
    | (refine keeps_of_eq (by assumption) ?_) | split | (refine keeps_mk ?_ rfl rfl rfl rfl rfl rfl rfl rfl rfl rfl rfl rfl)

theorem keeps_writePort {s₀ : State} (ag : Agent) (off : Nat) (v : Word) {s : State} (hK : Keeps s₀ s) : Keeps s₀ (writePort ag off v s) := by
  unfold writePort
  repeat' first
    | (with_reducible first | intro _ | assumption | apply keeps_ite | apply keeps_ite_fst | apply keeps_portCtrlWrite)
    | (with_reducible first | apply keeps_ctlCmdWrite | apply keeps_ctlRspWrite | apply keeps_State_fullWrite)
    | (with_reducible first | apply keeps_State_fieldWrite | apply keeps_State_refuseSys | apply keeps_whenB)
    | (with_reducible first | apply keeps_lndClearOp | apply keeps_landingEnableOp | apply keeps_lndCtxReadGo)
    | (with_reducible first | apply keeps_lndCtxWriteGo | apply keeps_State_setFld | apply keeps_lndReleaseOp)
    | (with_reducible first | apply keeps_State_partWrite | apply keeps_State_setReg) | dsimp only | split
    | (refine keeps_mk ?_ rfl rfl rfl rfl rfl rfl rfl rfl rfl rfl rfl rfl)

theorem keeps_ctrlWrite {s₀ : State} (ctrl : Nat) (v : Word) (enable : Bool → State → State) (abort : State → State) (clear : State → State) {s : State} (hK : Keeps s₀ s) (henable : ∀ (x0 : Bool) (x1 : State), Keeps s₀ x1 → Keeps s₀ (enable x0 x1)) (habort : ∀ (x0 : State), Keeps s₀ x0 → Keeps s₀ (abort x0)) (hclear : ∀ (x0 : State), Keeps s₀ x0 → Keeps s₀ (clear x0)) : Keeps s₀ (ctrlWrite ctrl v enable abort clear s) := by
  unfold ctrlWrite
  repeat' first
    | (with_reducible first | intro _ | assumption | apply henable | apply habort | apply hclear | apply keeps_ite)
    | (with_reducible first | apply keeps_ite_fst | apply keeps_whenB) | dsimp only | split
    | (refine keeps_mk ?_ rfl rfl rfl rfl rfl rfl rfl rfl rfl rfl rfl rfl)

theorem keeps_writeIsp {s₀ : State} (ag : Agent) (off : Nat) (v : Word) {s : State} (hK : Keeps s₀ s) : Keeps s₀ (writeIsp ag off v s) := by
  unfold writeIsp
  repeat' first
    | (with_reducible first | intro _ | assumption | apply keeps_ite | apply keeps_ite_fst | apply keeps_ctxCmdOp)
    | (with_reducible first | apply keeps_postOp | apply keeps_ctrlWrite | apply keeps_ispEnableOp | apply keeps_ispAbortOp)
    | (with_reducible first | apply keeps_ispClearOp | apply keeps_State_fieldWrite) | dsimp only | split
    | (refine keeps_mk ?_ rfl rfl rfl rfl rfl rfl rfl rfl rfl rfl rfl rfl)

theorem keeps_writePipe {s₀ : State} (ag : Agent) (off : Nat) (v : Word) {s : State} (hK : Keeps s₀ s) : Keeps s₀ (writePipe ag off v s) := by
  unfold writePipe
  repeat' first
    | (with_reducible first | intro _ | assumption | apply keeps_ite | apply keeps_ite_fst | apply keeps_ctrlWrite)
    | (with_reducible first | apply keeps_engineEnableOp | apply keeps_engineAbortOp | apply keeps_engineClearOp)
    | (with_reducible first | apply keeps_pairTableLoadOp | apply keeps_trackSetOp | apply keeps_State_partWrite)
    | (with_reducible first | apply keeps_State_setFlag | apply keeps_State_systemWrite | apply keeps_State_setFld)
    | (with_reducible first | apply keeps_State_fieldWrite) | dsimp only | split
    | (refine keeps_mk ?_ rfl rfl rfl rfl rfl rfl rfl rfl rfl rfl rfl rfl)

theorem keeps_writeNc {s₀ : State} (ag : Agent) (off : Nat) (v : Word) {s : State} (hK : Keeps s₀ s) : Keeps s₀ (writeNc ag off v s) := by
  unfold writeNc
  repeat' first
    | (with_reducible first | intro _ | assumption | apply keeps_ite | apply keeps_ite_fst | apply keeps_ctrlWrite)
    | (with_reducible first | apply keeps_engineEnableOp | apply keeps_engineAbortOp | apply keeps_engineClearOp)
    | (with_reducible first | apply keeps_ncQuotaOp | apply keeps_State_partWrite | apply keeps_State_fieldWrite) | dsimp only | split
    | (refine keeps_mk ?_ rfl rfl rfl rfl rfl rfl rfl rfl rfl rfl rfl rfl)

theorem keeps_writeFgs {s₀ : State} (ag : Agent) (off : Nat) (v : Word) {s : State} (hK : Keeps s₀ s) : Keeps s₀ (writeFgs ag off v s) := by
  unfold writeFgs
  repeat' first
    | (with_reducible first | assumption | apply keeps_ite | apply keeps_ite_fst | apply keeps_whenB | apply keeps_fgsClearOp)
    | (with_reducible first | apply keeps_fgsEnableOp | apply keeps_graphCmdOp | apply keeps_fgsAbortOp)
    | (with_reducible first | apply keeps_State_fieldWrite | apply keeps_fgsCqWriteOp | apply keeps_State_refuse) | dsimp only | split
    | (refine keeps_mk ?_ rfl rfl rfl rfl rfl rfl rfl rfl rfl rfl rfl rfl)

theorem keeps_hcCfgWrite {s₀ : State} (ag : Agent) (n : Nat) (v : Word) {s : State} (hK : Keeps s₀ s) : Keeps s₀ (hcCfgWrite ag n v s) := by
  unfold hcCfgWrite
  repeat' first
    | (with_reducible first | intro _ | assumption | apply keeps_State_partWrite | apply keeps_State_mixedWrite)
    | (with_reducible first | apply keeps_State_checkPreempts) | dsimp only
    | (refine keeps_mk ?_ rfl rfl rfl rfl rfl rfl rfl rfl rfl rfl rfl rfl)

theorem keeps_timerParamWrite {s₀ : State} (off : Nat) (n : Nat) (v : Word) {s : State} (hK : Keeps s₀ s) : Keeps s₀ (timerParamWrite off n v s) := by
  unfold timerParamWrite
  repeat' first
    | (with_reducible first | assumption | apply keeps_ite | apply keeps_ite_fst | apply keeps_State_setReg)
    | (with_reducible first | apply keeps_State_timerArm) | dsimp only | split
    | (refine keeps_mk ?_ rfl rfl rfl rfl rfl rfl rfl rfl rfl rfl rfl rfl)

theorem keeps_writeTim {s₀ : State} (ag : Agent) (off : Nat) (v : Word) {s : State} (hK : Keeps s₀ s) : Keeps s₀ (writeTim ag off v s) := by
  unfold writeTim
  repeat' first
    | (with_reducible first | intro _ | assumption | apply keeps_ite | apply keeps_ite_fst | apply keeps_timerCtrlOp)
    | (with_reducible first | apply keeps_State_partWrite | apply keeps_timerParamWrite | apply keeps_State_fieldWrite) | dsimp only
    | split | (refine keeps_mk ?_ rfl rfl rfl rfl rfl rfl rfl rfl rfl rfl rfl rfl)

theorem keeps_writeSets {s₀ : State} (ag : Agent) (off : Nat) (v : Word) {s : State} (hK : Keeps s₀ s) : Keeps s₀ (writeSets ag off v s) := by
  unfold writeSets
  repeat' first
    | (with_reducible first | intro _ | assumption | apply keeps_ite | apply keeps_ite_fst | apply keeps_State_systemWrite)
    | (with_reducible first | apply keeps_State_fieldWrite | apply keeps_State_partWrite | apply keeps_hcCfgWrite)
    | (with_reducible first | apply keeps_htsDoneOp | apply keeps_htsYieldOp) | dsimp only | (refine keeps_of_eq (by assumption) ?_)
    | split | (refine keeps_mk ?_ rfl rfl rfl rfl rfl rfl rfl rfl rfl rfl rfl rfl)

theorem keeps_writeHts {s₀ : State} (ag : Agent) (off : Nat) (v : Word) {s : State} (hK : Keeps s₀ s) : Keeps s₀ (writeHts ag off v s) := by
  unfold writeHts
  repeat' first
    | (with_reducible first | intro _ | assumption | apply keeps_ite | apply keeps_ite_fst | apply keeps_whenB)
    | (with_reducible first | apply keeps_State_zeroRegs | apply keeps_State_setFlag | apply keeps_htsTickOp)
    | (with_reducible first | apply keeps_majorCycleOp | apply keeps_htsQuotaOp | apply keeps_htsAbortOp | apply keeps_htsFreeOp)
    | (with_reducible first | apply keeps_writeSets | apply keeps_groupClearOp | apply keeps_State_systemWrite)
    | (with_reducible first | apply keeps_State_fieldWrite | apply keeps_writeTim) | dsimp only | split
    | (refine keeps_mk ?_ rfl rfl rfl rfl rfl rfl rfl rfl rfl rfl rfl rfl)

theorem keeps_writeTdu {s₀ : State} (ag : Agent) (off : Nat) (v : Word) {s : State} (hK : Keeps s₀ s) : Keeps s₀ (writeTdu ag off v s) := by
  unfold writeTdu
  repeat' first
    | (with_reducible first | intro _ | assumption | apply keeps_ite | apply keeps_ite_fst | apply keeps_regionCreateOp)
    | (with_reducible first | apply keeps_State_fieldWrite | apply keeps_regionDestroyOp | apply keeps_regionReadOp)
    | (with_reducible first | apply keeps_tduCreateOp | apply keeps_tduDestroyOp | apply keeps_tduReadOp | apply keeps_tduClearOp)
    | (with_reducible first | apply keeps_State_tduFor) | dsimp only | (refine keeps_of_eq (by assumption) ?_) | split
    | (refine keeps_mk ?_ rfl rfl rfl rfl rfl rfl rfl rfl rfl rfl rfl rfl)

theorem keeps_State_logIrq {s₀ : State} {s : State} (hK : Keeps s₀ s) : Keeps s₀ (State.logIrq s) := by
  unfold State.logIrq
  repeat' first
    | (with_reducible first | assumption | apply keeps_ite | apply keeps_ite_fst | apply keeps_State_irqDrop) | dsimp only | split
    | (refine keeps_mk ?_ rfl rfl rfl rfl rfl rfl rfl rfl rfl rfl rfl rfl)

theorem keeps_logWrite {s₀ : State} (ag : Agent) (off : Nat) (v : Word) {s : State} (hK : Keeps s₀ s) : Keeps s₀ (logWrite ag off v s) := by
  unfold logWrite
  repeat' first
    | (with_reducible first | assumption | apply keeps_ite | apply keeps_ite_fst | apply keeps_State_fieldWrite)
    | (with_reducible first | apply keeps_State_logIrq | apply keeps_State_refuseSys) | dsimp only | split
    | (refine keeps_mk ?_ rfl rfl rfl rfl rfl rfl rfl rfl rfl rfl rfl rfl)

theorem keeps_writeSpm {s₀ : State} (ag : Agent) (off : Nat) (v : Word) {s : State} (hK : Keeps s₀ s) : Keeps s₀ (writeSpm ag off v s) := by
  unfold writeSpm
  repeat' first
    | (with_reducible first | intro _ | assumption | apply keeps_ite | apply keeps_ite_fst | apply keeps_State_fullWrite)
    | (with_reducible first | apply keeps_whenB | apply keeps_spmClearOp | apply keeps_State_fieldWrite | apply keeps_ownChangeOp)
    | (with_reducible first | apply keeps_logWrite) | dsimp only | split
    | (refine keeps_mk ?_ rfl rfl rfl rfl rfl rfl rfl rfl rfl rfl rfl rfl)

theorem keeps_writeChan {s₀ : State} (ag : Agent) (e : Nat) (c : Nat) (off : Nat) (v : Word) {s : State} (hK : Keeps s₀ s) : Keeps s₀ (writeChan ag e c off v s) := by
  unfold writeChan
  repeat' first
    | (with_reducible first | intro _ | assumption | apply keeps_ite | apply keeps_ite_fst | apply keeps_dmaCfgOp)
    | (with_reducible first | apply keeps_dmaStartOp | apply keeps_dmaPauseOp | apply keeps_dmaResumeOp | apply keeps_dmaAbortOp)
    | (with_reducible first | apply keeps_State_dmaWriter | apply keeps_State_fieldWrite) | dsimp only
    | (refine keeps_of_eq (by assumption) ?_) | split | (refine keeps_mk ?_ rfl rfl rfl rfl rfl rfl rfl rfl rfl rfl rfl rfl)

theorem keeps_writeDma {s₀ : State} (ag : Agent) (off : Nat) (v : Word) {s : State} (hK : Keeps s₀ s) : Keeps s₀ (writeDma ag off v s) := by
  unfold writeDma
  repeat' first
    | (with_reducible first | intro _ | assumption | apply keeps_ite | apply keeps_ite_fst | apply keeps_writeChan)
    | (with_reducible first | apply keeps_State_dmaWriter | apply keeps_dmaEnableOp | apply keeps_whenB | apply keeps_dmaClearOp)
    | (with_reducible first | apply keeps_dmaRestartOp | apply keeps_dmaCqWriteOp | apply keeps_State_fieldWrite)
    | (with_reducible first | apply keeps_State_dmaCqRetry) | dsimp only | split
    | (refine keeps_mk ?_ rfl rfl rfl rfl rfl rfl rfl rfl rfl rfl rfl rfl)

theorem keeps_writeMbox {s₀ : State} (ag : Agent) (off : Nat) (v : Word) {s : State} (hK : Keeps s₀ s) : Keeps s₀ (writeMbox ag off v s) := by
  unfold writeMbox
  repeat' first
    | (with_reducible first | intro _ | assumption | apply keeps_mbxReleaseOp | apply keeps_State_partWrite)
    | (with_reducible first | apply keeps_State_fieldWrite) | dsimp only | (refine keeps_of_eq (by assumption) ?_) | split
    | (refine keeps_mk ?_ rfl rfl rfl rfl rfl rfl rfl rfl rfl rfl rfl rfl)

theorem keeps_hcPartWrite {s₀ : State} (ag : Agent) (v : Word) {s : State} (hK : Keeps s₀ s) : Keeps s₀ (hcPartWrite ag v s) := by
  unfold hcPartWrite
  repeat' first
    | (with_reducible first | intro _ | assumption | apply keeps_ite | apply keeps_ite_fst | apply keeps_State_systemWrite)
    | (with_reducible first | apply keeps_State_setReg) | dsimp only | split
    | (refine keeps_mk ?_ rfl rfl rfl rfl rfl rfl rfl rfl rfl rfl rfl rfl)

theorem keeps_hcErrWrite {s₀ : State} (off : Nat) (v : Word) {s : State} (hK : Keeps s₀ s) : Keeps s₀ (hcErrWrite off v s) := by
  unfold hcErrWrite
  repeat' first
    | (with_reducible first | intro _ | assumption | apply keeps_ite | apply keeps_ite_fst | apply keeps_State_fieldWrite)
    | (with_reducible first | apply keeps_State_irqDrop) | dsimp only | split
    | (refine keeps_mk ?_ rfl rfl rfl rfl rfl rfl rfl rfl rfl rfl rfl rfl)

theorem keeps_writeMbx {s₀ : State} (ag : Agent) (off : Nat) (v : Word) {s : State} (hK : Keeps s₀ s) : Keeps s₀ (writeMbx ag off v s) := by
  unfold writeMbx
  repeat' first
    | (with_reducible first | intro _ | assumption | apply keeps_ite | apply keeps_ite_fst | apply keeps_State_setReg)
    | (with_reducible first | apply keeps_mbxSendOp | apply keeps_writeMbox | apply keeps_lockReleaseOp)
    | (with_reducible first | apply keeps_State_systemWrite | apply keeps_State_fieldWrite | apply keeps_lckForceOp)
    | (with_reducible first | apply keeps_hcPartWrite | apply keeps_hcErrWrite) | dsimp only | (refine keeps_of_eq (by assumption) ?_)
    | split | (refine keeps_mk ?_ rfl rfl rfl rfl rfl rfl rfl rfl rfl rfl rfl rfl)

theorem keeps_writePmc {s₀ : State} (ag : Agent) (off : Nat) (v : Word) {s : State} (hK : Keeps s₀ s) : Keeps s₀ (writePmc ag off v s) := by
  unfold writePmc
  repeat' first
    | (with_reducible first | intro _ | assumption | apply keeps_ite | apply keeps_ite_fst | apply keeps_State_pmcWrite)
    | (with_reducible first | apply keeps_State_pmcFreeze | apply keeps_whenB | apply keeps_State_pmcClearPeak)
    | (with_reducible first | apply keeps_State_pmcClear | apply keeps_State_pmcSnapshot | apply keeps_bwWindowOp)
    | (with_reducible first | apply keeps_State_ctCtrl | apply keeps_State_fieldWrite) | dsimp only | split
    | (refine keeps_mk ?_ rfl rfl rfl rfl rfl rfl rfl rfl rfl rfl rfl rfl)

theorem keeps_pantryRangeWrite {s₀ : State} (ag : Agent) (off : Nat) (v : Word) {s : State} (hK : Keeps s₀ s) : Keeps s₀ (pantryRangeWrite ag off v s) := by
  unfold pantryRangeWrite
  repeat' first
    | (with_reducible first | assumption | apply keeps_ite | apply keeps_ite_fst | apply keeps_State_refuseSys)
    | (with_reducible first | apply keeps_State_fieldWrite) | dsimp only | split
    | (refine keeps_mk ?_ rfl rfl rfl rfl rfl rfl rfl rfl rfl rfl rfl rfl)

theorem keeps_writeDmc {s₀ : State} (ag : Agent) (off : Nat) (v : Word) {s : State} (hK : Keeps s₀ s) : Keeps s₀ (writeDmc ag off v s) := by
  unfold writeDmc
  repeat' first
    | (with_reducible first | intro _ | assumption | apply keeps_ite | apply keeps_ite_fst | apply keeps_State_fullWrite)
    | (with_reducible first | apply keeps_whenB | apply keeps_dmcClearOp | apply keeps_State_fieldWrite)
    | (with_reducible first | apply keeps_dmcScrubCfgOp | apply keeps_dmcShareOp | apply keeps_logWrite | apply keeps_firewallOp)
    | (with_reducible first | apply keeps_pantryCfgOp | apply keeps_pantryRangeWrite) | dsimp only | split
    | (refine keeps_mk ?_ rfl rfl rfl rfl rfl rfl rfl rfl rfl rfl rfl rfl)

theorem keeps_writePci {s₀ : State} (ag : Agent) (off : Nat) (v : Word) {s : State} (hK : Keeps s₀ s) : Keeps s₀ (writePci ag off v s) := by
  unfold writePci
  repeat' first
    | (with_reducible first | intro _ | assumption | apply keeps_ite | apply keeps_ite_fst | apply keeps_secConfirmOp)
    | (with_reducible first | apply keeps_pciQueueOp | apply keeps_State_pciWrite | apply keeps_State_fieldWrite)
    | (with_reducible first | apply keeps_State_setReg) | dsimp only | split
    | (refine keeps_mk ?_ rfl rfl rfl rfl rfl rfl rfl rfl rfl rfl rfl rfl)

theorem keeps_blockWrite {s₀ : State} (ag : Agent) (off : Nat) (v : Word) {s : State} (hK : Keeps s₀ s) : Keeps s₀ (blockWrite ag off v s) := by
  unfold blockWrite
  repeat' first
    | (with_reducible first | assumption | apply keeps_writeSmc | apply keeps_writePmg | apply keeps_writeSaf)
    | (with_reducible first | apply keeps_writePort | apply keeps_writeIsp | apply keeps_writeFgs | apply keeps_writeHts)
    | (with_reducible first | apply keeps_writePipe | apply keeps_writeNc | apply keeps_writeTdu | apply keeps_writeSpm)
    | (with_reducible first | apply keeps_writeDma | apply keeps_writeMbx | apply keeps_writePmc | apply keeps_writeDmc)
    | (with_reducible first | apply keeps_writePci) | dsimp only | (refine keeps_of_eq (by assumption) ?_) | split
    | (refine keeps_mk ?_ rfl rfl rfl rfl rfl rfl rfl rfl rfl rfl rfl rfl)

theorem keeps_busWriteOp {s₀ : State} (ag : Agent) (off : Nat) (v : Word) {s : State} (hK : Keeps s₀ s) : Keeps s₀ (busWriteOp ag off v s) := by
  unfold busWriteOp
  repeat' first
    | (with_reducible first | assumption | apply keeps_ite | apply keeps_ite_fst | apply keeps_blockWrite)
    | (with_reducible first | apply keeps_State_wakeDomain) | dsimp only | split
    | (refine keeps_mk ?_ rfl rfl rfl rfl rfl rfl rfl rfl rfl rfl rfl rfl)

theorem keeps_aplicWrite {s₀ : State} (ag : Agent) (src : Nat) (v : Word) {s : State} (hK : Keeps s₀ s) : Keeps s₀ (aplicWrite ag src v s) := by
  unfold aplicWrite
  repeat' first
    | (with_reducible first | intro _ | assumption | apply keeps_ite | apply keeps_ite_fst | apply keeps_State_refuse) | dsimp only
    | (refine keeps_of_eq (by assumption) ?_) | split | (refine keeps_mk ?_ rfl rfl rfl rfl rfl rfl rfl rfl rfl rfl rfl rfl)

theorem keeps_inboundBar0 {s₀ : State} (ag : Agent) (off : Nat) (size : Nat) (v : Option Word) {s : State} (hK : Keeps s₀ s) : Keeps s₀ (inboundBar0 ag off size v s) := by
  unfold inboundBar0
  repeat' first
    | (with_reducible first | assumption | apply keeps_ite | apply keeps_ite_fst | apply keeps_State_bwCount)
    | (with_reducible first | apply keeps_State_answer | apply keeps_busWriteOp | apply keeps_busReadOp) | dsimp only
    | (refine keeps_of_eq (by assumption) ?_) | split | (refine keeps_mk ?_ rfl rfl rfl rfl rfl rfl rfl rfl rfl rfl rfl rfl)

theorem keeps_registerWriteOp {s₀ : State} (ag : Agent) (off : Nat) (size : Nat) (v : Word) {s : State} (hK : Keeps s₀ s) : Keeps s₀ (registerWriteOp ag off size v s) := by
  unfold registerWriteOp
  repeat' first
    | (with_reducible first | assumption | apply keeps_ite | apply keeps_ite_fst | apply keeps_inboundBar0)
    | (with_reducible first | apply keeps_aplicWrite | apply keeps_State_answer | apply keeps_busWriteOp) | dsimp only
    | (refine keeps_of_eq (by assumption) ?_) | split | (refine keeps_mk ?_ rfl rfl rfl rfl rfl rfl rfl rfl rfl rfl rfl rfl)

theorem keeps_pairLoad {s₀ : State} (ag : Agent) (off : Nat) {s : State} (hK : Keeps s₀ s) : Keeps s₀ (pairLoad ag off s) := by
  unfold pairLoad
  repeat' first
    | (with_reducible first | assumption | apply keeps_State_busRead | apply keeps_State_answer) | dsimp only
    | (refine keeps_of_eq (by assumption) ?_) | (refine keeps_of_eq_snd (by assumption) ?_) | split
    | (refine keeps_mk ?_ rfl rfl rfl rfl rfl rfl rfl rfl rfl rfl rfl rfl)

theorem keeps_registerReadOp {s₀ : State} (ag : Agent) (off : Nat) (size : Nat) {s : State} (hK : Keeps s₀ s) : Keeps s₀ (registerReadOp ag off size s) := by
  unfold registerReadOp
  repeat' first
    | (with_reducible first | assumption | apply keeps_ite | apply keeps_ite_fst | apply keeps_inboundBar0 | apply keeps_busReadOp)
    | (with_reducible first | apply keeps_pairLoad | apply keeps_State_answer) | dsimp only | (refine keeps_of_eq (by assumption) ?_)
    | split | (refine keeps_mk ?_ rfl rfl rfl rfl rfl rfl rfl rfl rfl rfl rfl rfl)

theorem keeps_inboundBar2 {s₀ : State} (rid : Nat) (o : Nat) (n : Nat) (data : Option (List Byte)) (poison : Bool) {s : State} (hK : Keeps s₀ s) : Keeps s₀ (inboundBar2 rid o n data poison s) := by
  unfold inboundBar2
  repeat' first
    | (with_reducible first | intro _ | assumption | apply keeps_ite | apply keeps_ite_fst | apply keeps_State_bwCount)
    | (with_reducible first | apply keeps_State_answer | apply keeps_State_bump | apply keeps_State_count)
    | (with_reducible first | apply keeps_State_dramWrite | apply keeps_State_dramRead) | dsimp only
    | (refine keeps_of_eq (by assumption) ?_) | (refine keeps_of_eq_snd (by assumption) ?_) | split
    | (refine keeps_mk ?_ rfl rfl rfl rfl rfl rfl rfl rfl rfl rfl rfl rfl)

theorem keeps_State_bootLog {s₀ : State} {s : State} (hK : Keeps s₀ s) : Keeps s₀ (State.bootLog s) := by
  unfold State.bootLog
  repeat' first
    | (with_reducible first | intro _ | assumption) | dsimp only | (refine keeps_of_eq (by assumption) ?_) | split
    | (refine keeps_mk ?_ rfl rfl rfl rfl rfl rfl rfl rfl rfl rfl rfl rfl)

theorem keeps_State_bootDerate {s₀ : State} {s : State} (hK : Keeps s₀ s) : Keeps s₀ (State.bootDerate s) := by
  unfold State.bootDerate
  repeat' first
    | (with_reducible first | intro _ | assumption | apply keeps_foldl | apply keeps_foldl_fst | apply keeps_State_showMargin)
    | (with_reducible first | apply keeps_State_setFld | apply keeps_State_showClocks) | dsimp only
    | (refine keeps_of_eq (by assumption) ?_) | split | (refine keeps_mk ?_ rfl rfl rfl rfl rfl rfl rfl rfl rfl rfl rfl rfl)

theorem keeps_State_bootCause {s₀ : State} {s : State} (hK : Keeps s₀ s) : Keeps s₀ (State.bootCause s) := by
  unfold State.bootCause
  repeat' first
    | (with_reducible first | intro _ | assumption | apply keeps_ite | apply keeps_foldl | apply keeps_ite_fst)
    | (with_reducible first | apply keeps_foldl_fst | apply keeps_State_setReg | apply keeps_State_logRec) | dsimp only | split
    | (refine keeps_mk ?_ rfl rfl rfl rfl rfl rfl rfl rfl rfl rfl rfl rfl)

theorem keeps_State_configRecord {s₀ : State} {s : State} (off : Nat) (v : Word) (hK : Keeps s₀ s) : Keeps s₀ (State.configRecord s off v) := by
  unfold State.configRecord
  repeat' first
    | (with_reducible first | assumption | apply keeps_ite | apply keeps_ite_fst | apply keeps_zeroFillOp | apply keeps_busWriteOp)
    | dsimp only | split | (refine keeps_mk ?_ rfl rfl rfl rfl rfl rfl rfl rfl rfl rfl rfl rfl)

theorem keeps_State_applyConfig {s₀ : State} {s : State} (l : List Word) (h : Keeps s₀ s) : Keeps s₀ (State.applyConfig s l) := by
  fun_induction State.applyConfig with
  | case1 => exact h
  | case2 s off v t hne ih => exact ih (keeps_State_configRecord _ _ h)
  | case3 => exact h

theorem keeps_State_loadSection {s₀ : State} {s : State} (k : Nat) (e : List Word) (hK : Keeps s₀ s) : Keeps s₀ (State.loadSection s k e) := by
  unfold State.loadSection
  repeat' first
    | (with_reducible first | assumption | apply keeps_ite | apply keeps_ite_fst | apply keeps_State_dramWrite) | dsimp only | split
    | (refine keeps_mk ?_ rfl rfl rfl rfl rfl rfl rfl rfl rfl rfl rfl rfl)

theorem keeps_State_loadSections {s₀ : State} {s : State} (k : Nat) (n : List (List Word))  (hK : Keeps s₀ s) : Keeps s₀ (State.loadSections s k n).1 := by
  induction n generalizing s  with
  | nil =>
    unfold State.loadSections
    repeat' first
      | (with_reducible first | intro _ | assumption | apply ih | apply keeps_ite | apply keeps_ite_fst)
      | (with_reducible first | apply keeps_State_loadSection) | dsimp only | split
      | (refine keeps_mk ?_ rfl rfl rfl rfl rfl rfl rfl rfl rfl rfl rfl rfl)
  | cons x n ih =>
    unfold State.loadSections
    repeat' first
      | (with_reducible first | intro _ | assumption | apply ih | apply keeps_ite | apply keeps_ite_fst)
      | (with_reducible first | apply keeps_State_loadSection) | dsimp only | split
      | (refine keeps_mk ?_ rfl rfl rfl rfl rfl rfl rfl rfl rfl rfl rfl rfl)

theorem keeps_State_bootStart {s₀ : State} {s : State} (k : Nat) (hK : Keeps s₀ s) : Keeps s₀ (State.bootStart s k) := by
  unfold State.bootStart
  repeat' first
    | (with_reducible first | intro _ | assumption | apply keeps_State_setFlag | apply keeps_State_setFld)
    | (with_reducible first | apply keeps_State_setReg) | dsimp only
    | (refine keeps_mk ?_ rfl rfl rfl rfl rfl rfl rfl rfl rfl rfl rfl rfl)

theorem keeps_State_trySlot {s₀ : State} {s : State} (k : Nat) (hK : Keeps s₀ s) : Keeps s₀ (State.trySlot s k).1 := by
  unfold State.trySlot
  repeat' first
    | (with_reducible first | intro _ | assumption | apply keeps_ite | apply keeps_ite_fst | apply keeps_State_applyConfig)
    | (with_reducible first | apply keeps_State_loadSections | apply keeps_State_bootStart) | dsimp only
    | (refine keeps_of_eq (by assumption) ?_) | (refine keeps_of_eq_snd (by assumption) ?_) | split
    | (refine keeps_mk ?_ rfl rfl rfl rfl rfl rfl rfl rfl rfl rfl rfl rfl)

theorem keeps_State_enterRecovery {s₀ : State} {s : State} (hK : Keeps s₀ s) : Keeps s₀ (State.enterRecovery s) := by
  unfold State.enterRecovery
  repeat' first
    | (with_reducible first | assumption | apply keeps_State_setFlag) | dsimp only
    | (refine keeps_mk ?_ rfl rfl rfl rfl rfl rfl rfl rfl rfl rfl rfl rfl)

theorem keeps_State_trySlots {s₀ : State} {s : State}  (n : List Nat)  (hK : Keeps s₀ s) : Keeps s₀ (State.trySlots s n) := by
  induction n generalizing s  with
  | nil =>
    unfold State.trySlots
    repeat' first
      | (with_reducible first | intro _ | assumption | apply ih | apply keeps_ite | apply keeps_ite_fst)
      | (with_reducible first | apply keeps_State_enterRecovery | apply keeps_State_setTrailer | apply keeps_State_trySlot) | dsimp only
      | (refine keeps_of_eq (by assumption) ?_) | (refine keeps_of_eq_snd (by assumption) ?_) | split
      | (refine keeps_mk ?_ rfl rfl rfl rfl rfl rfl rfl rfl rfl rfl rfl rfl)
  | cons x n ih =>
    unfold State.trySlots
    repeat' first
      | (with_reducible first | intro _ | assumption | apply ih | apply keeps_ite | apply keeps_ite_fst)
      | (with_reducible first | apply keeps_State_enterRecovery | apply keeps_State_setTrailer | apply keeps_State_trySlot) | dsimp only
      | (refine keeps_of_eq (by assumption) ?_) | (refine keeps_of_eq_snd (by assumption) ?_) | split
      | (refine keeps_mk ?_ rfl rfl rfl rfl rfl rfl rfl rfl rfl rfl rfl rfl)

theorem keeps_State_bootReady {s₀ : State} {s : State} (hK : Keeps s₀ s) : Keeps s₀ (State.bootReady s) := by
  unfold State.bootReady
  repeat' first
    | (with_reducible first | assumption | apply keeps_ite | apply keeps_ite_fst | apply keeps_State_setFlag) | dsimp only | split
    | (refine keeps_mk ?_ rfl rfl rfl rfl rfl rfl rfl rfl rfl rfl rfl rfl)

theorem keeps_pantryReloadOp {s₀ : State} (e : Nat) {s : State} (hK : Keeps s₀ s) : Keeps s₀ (pantryReloadOp e s) := by
  unfold pantryReloadOp
  repeat' first
    | (with_reducible first | assumption | apply keeps_ite | apply keeps_ite_fst | apply keeps_State_dramWrite) | dsimp only
    | (refine keeps_of_eq (by assumption) ?_) | split | (refine keeps_mk ?_ rfl rfl rfl rfl rfl rfl rfl rfl rfl rfl rfl rfl)

theorem keeps_State_bumpIf {s₀ : State} {s : State} (b : Bool) (off : Nat) (hK : Keeps s₀ s) : Keeps s₀ (State.bumpIf s b off) := by
  unfold State.bumpIf
  repeat' first
    | (with_reducible first | assumption | apply keeps_ite | apply keeps_ite_fst | apply keeps_State_bump) | dsimp only | split
    | (refine keeps_mk ?_ rfl rfl rfl rfl rfl rfl rfl rfl rfl rfl rfl rfl)

theorem keeps_State_stallCounts {s₀ : State} {s : State} (hK : Keeps s₀ s) : Keeps s₀ (State.stallCounts s) := by
  unfold State.stallCounts
  repeat' first
    | (with_reducible first | intro _ | assumption | apply keeps_ite | apply keeps_foldl | apply keeps_ite_fst)
    | (with_reducible first | apply keeps_foldl_fst | apply keeps_State_draw | apply keeps_State_bumpIf) | dsimp only
    | (refine keeps_of_eq (by assumption) ?_) | (refine keeps_of_eq_snd (by assumption) ?_) | split
    | (refine keeps_mk ?_ rfl rfl rfl rfl rfl rfl rfl rfl rfl rfl rfl rfl)

theorem keeps_State_microsecond {s₀ : State} {s : State} (hK : Keeps s₀ s) : Keeps s₀ (State.microsecond s) := by
  unfold State.microsecond
  repeat' first
    | (with_reducible first | intro _ | assumption | apply keeps_foldl | apply keeps_foldl_fst | apply keeps_State_bumpIf)
    | (with_reducible first | apply keeps_State_stallCounts) | dsimp only
    | (refine keeps_mk ?_ rfl rfl rfl rfl rfl rfl rfl rfl rfl rfl rfl rfl)

theorem keeps_State_delayTick {s₀ : State} {s : State} (hK : Keeps s₀ s) : Keeps s₀ (State.delayTick s) := by
  unfold State.delayTick
  repeat' first
    | (with_reducible first | intro _ | assumption) | dsimp only | (refine keeps_mk ?_ rfl rfl rfl rfl rfl rfl rfl rfl rfl rfl rfl rfl)

theorem keeps_State_dramWindow {s₀ : State} {s : State} (hK : Keeps s₀ s) : Keeps s₀ (State.dramWindow s) := by
  unfold State.dramWindow
  repeat' first
    | (with_reducible first | intro _ | assumption | apply keeps_ite | apply keeps_foldl | apply keeps_ite_fst)
    | (with_reducible first | apply keeps_foldl_fst | apply keeps_State_draw | apply keeps_State_count) | dsimp only
    | (refine keeps_of_eq (by assumption) ?_) | (refine keeps_of_eq_snd (by assumption) ?_) | split
    | (refine keeps_mk ?_ rfl rfl rfl rfl rfl rfl rfl rfl rfl rfl rfl rfl)

end Sys2Proof.Machine
end

