-- ==== Sys2Proof/Laws/Lasts.lean ====
section
/-! SUPPORT. What resets, the loss of rails and the passing of time keep (`Lasts`), and the rules by which `Keeps` reaches a command. -/

namespace Sys2Proof.Machine

variable {s t u : State}

theorem Keeps.lasts (h : Keeps s t) : Lasts s t := ⟨h.pending, h.freeCtr, h.reports, h.fuses, h.canonical⟩

theorem lasts_refl (s : State) : Lasts s s := (keeps_refl s).lasts

theorem lasts_trans (h : Lasts s t) (k : Lasts t u) : Lasts s u :=
  ⟨k.pending.trans h.pending, Nat.le_trans h.freeCtr k.freeCtr, h.reports.trans k.reports, Fuses.le_trans h.fuses k.fuses,
    fun c => k.canonical (h.canonical c)⟩

theorem reset_canonical : State.reset.canonical := by
  refine ⟨rfl, rfl, ?_, rfl⟩
  intro m hm
  have : m = [] := List.eq_of_mem_replicate hm
  rw [this]; rfl

theorem lasts_underReset (s : State) : Lasts s s.underReset :=
  ⟨rfl, Nat.le_refl _, ⟨[], by simp [State.underReset]⟩, Fuses.le_refl _,
    fun c => ⟨reset_canonical.1, reset_canonical.2.1, reset_canonical.2.2.1, c.2.2.2⟩⟩

theorem lasts_railRemovalOp (s : State) : Lasts s (railRemovalOp s) := by
  unfold railRemovalOp
  split
  · exact ⟨rfl, Nat.le_refl _, ⟨[], by simp [State.underReset]⟩, Fuses.le_refl _, (lasts_underReset s).canonical⟩
  · split
    · exact ⟨rfl, Nat.le_refl _, List.prefix_refl _, Fuses.le_refl _, id⟩
    · exact lasts_refl s

theorem lasts_aonLossOp (s : State) : Lasts s (aonLossOp s) :=
  ⟨rfl, Nat.le_refl _, ⟨[], by simp [aonLossOp, State.underReset]⟩, Fuses.le_refl _, (lasts_underReset s).canonical⟩

theorem lasts_porReleaseOp (s : State) : Lasts s (porReleaseOp s) := by
  unfold porReleaseOp
  split
  · generalize hb : ({ s with sec := { s.sec with por := false, railsOff := false, step := 2 }, saf := { s.saf with bootSeq := s.saf.bootSeq + 1 } } : State) = b
    have h : Lasts s b := by subst hb; exact ⟨rfl, Nat.le_refl _, List.prefix_refl _, Fuses.le_refl _, id⟩
    refine lasts_trans h (Keeps.lasts (s := b) ?_)
    exact keeps_State_bootReady (keeps_State_trySlots _ (keeps_State_setFlag _ _ _ (keeps_State_bootDerate (keeps_State_bootCause
      (keeps_State_bootLog (keeps_refl b))))))
  · exact lasts_refl s

theorem keeps_State_stepTime {s₀ : State} (n : Nat) (h : Keeps s₀ s) : Keeps s₀ (s.stepTime n) :=
  keeps_trans h ⟨rfl, rfl, rfl, rfl, Nat.le_add_right _ _, Nat.le_refl _, List.prefix_refl _, Fuses.le_refl _, id⟩

/-- A correction adds to device time or leaves it (R44): what is slewed is slewed later. -/
theorem keeps_timeCorrectionOp {s₀ : State} (src : TimeSource) (delta : Int) (h : Keeps s₀ s) : Keeps s₀ (timeCorrectionOp src delta s) := by
  have h1 : Keeps s₀ { s with tm.lastUpdate := s.now } := keeps_mk h rfl rfl rfl rfl rfl rfl rfl rfl rfl rfl rfl rfl
  have h2 := keeps_State_setFlag R.SMC_TIME_STATUS 0 (decide (delta.natAbs < 1000)) h1
  unfold timeCorrectionOp
  refine keeps_ite h (keeps_ite ?_ ?_)
  · exact keeps_State_irqRaise _ (keeps_State_setFlag _ _ _ (keeps_State_setFld _ _ _ _ (keeps_State_stepTime _ h2)))
  · exact keeps_mk h2 rfl rfl rfl rfl rfl rfl rfl rfl rfl rfl rfl rfl

/-- One cycle: neither count runs backwards, whatever correction is slewed. -/
theorem advance_dev (s : State) : s.tm.devCount ≤ s.advance.tm.devCount := by
  unfold State.advance
  simp only [State.setFld, State.setReg]
  unfold clampI
  omega

theorem advance_local (s : State) : s.advance.tm.localCount = s.tm.localCount + s.tickUnits := rfl

theorem lasts_advance (s : State) : Lasts s s.advance := by
  unfold State.advance
  refine lasts_trans ?_ (keeps_State_setFld _ _ _ _ (keeps_refl _)).lasts
  exact ⟨rfl, Nat.le_refl _, List.prefix_refl _, Fuses.le_refl _, id⟩

/-- All that a cycle does after the counts have advanced keeps what a command keeps. -/
theorem tick_keeps (h : s.awake = true) : Keeps s.advance (tick s) := by
  unfold tick
  rw [h]
  simp only [Bool.not_true, Bool.false_eq_true, if_false]
  have w : Keeps s.advance (if crosses 80 s.now s.advance.now then s.advance.dramWindow else s.advance) :=
    keeps_ite (keeps_State_dramWindow (keeps_refl _)) (keeps_refl _)
  refine keeps_State_strobesEnd (keeps_ite ?_ (keeps_State_postProofs ?_)) <;>
    exact keeps_ite (keeps_State_delayTick (keeps_ite (keeps_State_microsecond w) w)) (keeps_ite (keeps_State_microsecond w) w)

theorem tick_asleep (h : s.awake = false) : tick s = s := by
  unfold tick
  simp [h]

/-- What a command answers: what its operation keeps, `awakeNext` keeps. -/
theorem keeps_awakeNext {o : State} (h : awakeNext s o = .next t) (k : Keeps s o) : Keeps s t := by
  unfold awakeNext at h
  simp only [Host.Outcome.next.injEq] at h
  subst h
  exact keeps_ite k (keeps_refl s)

@[simp] theorem awakeNext_awake {o : State} (h : s.awake = true) : awakeNext s o = .next o := by simp [awakeNext, h]
@[simp] theorem awakeNext_asleep {o : State} (h : s.awake = false) : awakeNext s o = .next s := by simp [awakeNext, h]

theorem lasts_withPending {q : List Instr} (h : Lasts (s.withPending q) t) : s.canonical → t.canonical := h.canonical

end Sys2Proof.Machine
end

