-- ==== Sys2Proof/Laws/Regs.lean ====
section
/-! SUPPORT. Laws of the register file: what a register, a field or a flag reads after a write of a register, a field or a flag. -/

namespace Sys2Proof.Machine

/-! ### Fields of a word -/

/-- The parts of a word with one field replaced fit 32 bits. -/
theorem setBits_toNat (v : Word) {hi lo : Nat} (n : Nat) (h : lo ≤ hi) (h32 : hi < 32) :
    (setBits v hi lo n).toNat = v.toNat % 2 ^ lo + n % 2 ^ (hi + 1 - lo) * 2 ^ lo + v.toNat / 2 ^ (hi + 1) * 2 ^ (hi + 1) := by
  have hp : 2 ^ (hi + 1 - lo) * 2 ^ lo = 2 ^ (hi + 1) := by rw [← Nat.pow_add]; congr 1; omega
  have hq : 2 ^ (32 - (hi + 1)) * 2 ^ (hi + 1) = 2 ^ 32 := by rw [← Nat.pow_add]; congr 1; omega
  have h1 : v.toNat % 2 ^ lo < 2 ^ lo := Nat.mod_lt _ (Nat.two_pow_pos _)
  have h2 : n % 2 ^ (hi + 1 - lo) < 2 ^ (hi + 1 - lo) := Nat.mod_lt _ (Nat.two_pow_pos _)
  have h3 : v.toNat / 2 ^ (hi + 1) < 2 ^ (32 - (hi + 1)) := by
    rw [Nat.div_lt_iff_lt_mul (Nat.two_pow_pos _), hq]; exact v.isLt
  have h4 := Nat.mul_le_mul_right (2 ^ lo) (Nat.succ_le_of_lt h2)
  have h5 := Nat.mul_le_mul_right (2 ^ (hi + 1)) (Nat.succ_le_of_lt h3)
  rw [hp, Nat.succ_mul] at h4
  rw [hq, Nat.succ_mul] at h5
  unfold setBits
  rw [BitVec.toNat_ofNat, Nat.mod_eq_of_lt]
  omega

/-- A field reads what was put into it. -/
theorem bits_setBits_same (v : Word) {hi lo : Nat} (n : Nat) (h : lo ≤ hi) (h32 : hi < 32) :
    bits (setBits v hi lo n) hi lo = n % 2 ^ (hi + 1 - lo) := by
  have hp : 2 ^ (hi + 1) = 2 ^ (hi + 1 - lo) * 2 ^ lo := by rw [← Nat.pow_add]; congr 1; omega
  unfold bits nbits
  rw [setBits_toNat v n h h32, hp, ← Nat.mul_assoc, Nat.add_assoc, ← Nat.add_mul,
    Nat.add_mul_div_right _ _ (Nat.two_pow_pos _), Nat.div_eq_of_lt (Nat.mod_lt _ (Nat.two_pow_pos _)), Nat.zero_add,
    Nat.add_mul_mod_self_right, Nat.mod_mod]

/-- A field above the one that was replaced keeps its value. -/
theorem bits_setBits_above (v : Word) {hi lo h2 l2 : Nat} (n : Nat) (h : lo ≤ hi) (h32 : hi < 32) (hd : hi < l2) :
    bits (setBits v hi lo n) h2 l2 = bits v h2 l2 := by
  have hp : 2 ^ (hi + 1 - lo) * 2 ^ lo = 2 ^ (hi + 1) := by rw [← Nat.pow_add]; congr 1; omega
  have h1 : v.toNat % 2 ^ lo < 2 ^ lo := Nat.mod_lt _ (Nat.two_pow_pos _)
  have h2' : n % 2 ^ (hi + 1 - lo) < 2 ^ (hi + 1 - lo) := Nat.mod_lt _ (Nat.two_pow_pos _)
  have h4 := Nat.mul_le_mul_right (2 ^ lo) (Nat.succ_le_of_lt h2')
  rw [hp, Nat.succ_mul] at h4
  have hlt : v.toNat % 2 ^ lo + n % 2 ^ (hi + 1 - lo) * 2 ^ lo < 2 ^ (hi + 1) := by omega
  unfold bits nbits
  rw [setBits_toNat v n h h32]
  have e : ∀ x : Nat, x / 2 ^ l2 = x / 2 ^ (hi + 1) / 2 ^ (l2 - (hi + 1)) := by
    intro x; rw [Nat.div_div_eq_div_mul, ← Nat.pow_add]; congr 2; omega
  rw [e, e v.toNat, Nat.add_mul_div_right _ _ (Nat.two_pow_pos _), Nat.div_eq_of_lt hlt, Nat.zero_add]

/-- A field below the one that was replaced keeps its value. -/
theorem bits_setBits_below (v : Word) {hi lo h2 l2 : Nat} (n : Nat) (h : lo ≤ hi) (h32 : hi < 32) (hl : l2 ≤ h2) (hd : h2 < lo) :
    bits (setBits v hi lo n) h2 l2 = bits v h2 l2 := by
  unfold bits nbits
  rw [setBits_toNat v n h h32]
  have key : ∀ x : Nat, x / 2 ^ l2 % 2 ^ (h2 + 1 - l2) = x % 2 ^ (h2 + 1) / 2 ^ l2 := by
    intro x
    have : 2 ^ (h2 + 1) = 2 ^ l2 * 2 ^ (h2 + 1 - l2) := by rw [← Nat.pow_add]; congr 1; omega
    rw [this, Nat.mod_mul_right_div_self]
  rw [key, key]
  congr 1
  have e1 : 2 ^ lo = 2 ^ (lo - (h2 + 1)) * 2 ^ (h2 + 1) := by rw [← Nat.pow_add]; congr 1; omega
  have e2 : 2 ^ (hi + 1) = 2 ^ (hi - h2) * 2 ^ (h2 + 1) := by rw [← Nat.pow_add]; congr 1; omega
  rw [e2, ← Nat.mul_assoc, Nat.add_mul_mod_self_right, e1, ← Nat.mul_assoc, Nat.add_mul_mod_self_right, ← e1]
  exact Nat.mod_mod_of_dvd _ (Nat.pow_dvd_pow 2 (by omega))

theorem bit_setBits_same (v : Word) {i : Nat} (b : Bool) (h : i < 32) : bit (setBits v i i (b2n b)) i = b := by
  have := bits_setBits_same v (b2n b) (Nat.le_refl i) h
  unfold bits at this
  unfold bit
  rw [this]
  cases b <;> simp [b2n]

/-- A bit outside the field that was replaced keeps its value. -/
theorem bit_setBits_other (v : Word) {hi lo i : Nat} (n : Nat) (h : lo ≤ hi) (h32 : hi < 32) (hd : i < lo ∨ hi < i) :
    bit (setBits v hi lo n) i = bit v i := by
  have : bits (setBits v hi lo n) i i = bits v i i := by
    rcases hd with hd | hd
    · exact bits_setBits_below v n h h32 (Nat.le_refl _) hd
    · exact bits_setBits_above v n h h32 hd
  unfold bits at this
  unfold bit
  rw [this]

/-! ### Registers -/

variable {s : State} {off o hi lo n i : Nat} {v : Word}

/-- A register reads what was written to it; every other register is unchanged. -/
theorem reg_setReg : (s.setReg off v).reg o = if o = off then v else s.reg o := Store.get_put _ _ _ _ _

@[simp] theorem reg_setReg_same : (s.setReg off v).reg off = v := by simp [reg_setReg]

theorem reg_setReg_other (h : o ≠ off) : (s.setReg off v).reg o = s.reg o := by simp [reg_setReg, h]

theorem reg_setFld_other (h : o ≠ off) : (s.setFld off hi lo n).reg o = s.reg o := reg_setReg_other h

theorem reg_setFlag_other {b : Bool} (h : o ≠ off) : (s.setFlag off i b).reg o = s.reg o := reg_setReg_other h

theorem fld_setFld_same (h : lo ≤ hi) (h32 : hi < 32) : (s.setFld off hi lo n).fld off hi lo = n % 2 ^ (hi + 1 - lo) := by
  simp [State.fld, State.setFld, bits_setBits_same _ n h h32]

theorem flag_setFlag_same {b : Bool} (h : i < 32) : (s.setFlag off i b).flag off i = b := by
  simp [State.flag, State.setFlag, State.setFld, bit_setBits_same _ b h]

theorem flag_setFlag_other {b : Bool} {j : Nat} (h : i < 32) (hd : j ≠ i) : (s.setFlag off i b).flag o j = s.flag o j := by
  by_cases ho : o = off
  · subst ho
    simp only [State.flag, State.setFlag, State.setFld, reg_setReg_same]
    exact bit_setBits_other _ _ (Nat.le_refl _) h (by omega)
  · simp [State.flag, reg_setFlag_other ho]

/-- A register outside the list that is zeroed is unchanged; one of the list reads zero. -/
theorem reg_zeroRegs (offs : List Nat) : (s.zeroRegs offs).reg o = if o ∈ offs then 0 else s.reg o := by
  unfold State.zeroRegs
  induction offs generalizing s with
  | nil => simp
  | cons a t ih =>
    rw [List.foldl_cons, ih]
    by_cases ht : o ∈ t
    · simp [ht]
    · by_cases ha : o = a <;> simp [ht, ha, reg_setReg]

/-- Zeroing registers changes registers alone. -/
theorem zeroRegs_regs (offs : List Nat) : s.zeroRegs offs = { s with regs := (s.zeroRegs offs).regs } := by
  unfold State.zeroRegs
  induction offs generalizing s with
  | nil => rfl
  | cons a t ih =>
    rw [List.foldl_cons, ih]
    rfl

end Sys2Proof.Machine
end

