-- ==== Sys2Proof/Laws/State.lean ====
section
/-! SUPPORT. What the plain updates of the state leave in each field: one lemma per field per update. -/

namespace Sys2Proof.Machine

variable (s : State)

/-! ### State.withPending -/

@[simp] theorem State.withPending_pending (q : List Instr) : (s.withPending q).pending = q := (rfl)
@[simp] theorem State.withPending_regs (q : List Instr) : (s.withPending q).regs = s.regs := (rfl)
@[simp] theorem State.withPending_freeCtr (q : List Instr) : (s.withPending q).freeCtr = s.freeCtr := (rfl)
@[simp] theorem State.withPending_tm (q : List Instr) : (s.withPending q).tm = s.tm := (rfl)
@[simp] theorem State.withPending_reply (q : List Instr) : (s.withPending q).reply = s.reply := (rfl)
@[simp] theorem State.withPending_reports (q : List Instr) : (s.withPending q).reports = s.reports := (rfl)
@[simp] theorem State.withPending_latches (q : List Instr) : (s.withPending q).latches = s.latches := (rfl)
@[simp] theorem State.withPending_ports (q : List Instr) : (s.withPending q).ports = s.ports := (rfl)
@[simp] theorem State.withPending_streams (q : List Instr) : (s.withPending q).streams = s.streams := (rfl)
@[simp] theorem State.withPending_dma (q : List Instr) : (s.withPending q).dma = s.dma := (rfl)
@[simp] theorem State.withPending_isp (q : List Instr) : (s.withPending q).isp = s.isp := (rfl)
@[simp] theorem State.withPending_hts (q : List Instr) : (s.withPending q).hts = s.hts := (rfl)
@[simp] theorem State.withPending_fgs (q : List Instr) : (s.withPending q).fgs = s.fgs := (rfl)
@[simp] theorem State.withPending_tdu (q : List Instr) : (s.withPending q).tdu = s.tdu := (rfl)
@[simp] theorem State.withPending_spm (q : List Instr) : (s.withPending q).spm = s.spm := (rfl)
@[simp] theorem State.withPending_fte (q : List Instr) : (s.withPending q).fte = s.fte := (rfl)
@[simp] theorem State.withPending_nc (q : List Instr) : (s.withPending q).nc = s.nc := (rfl)
@[simp] theorem State.withPending_dram (q : List Instr) : (s.withPending q).dram = s.dram := (rfl)
@[simp] theorem State.withPending_saf (q : List Instr) : (s.withPending q).saf = s.saf := (rfl)
@[simp] theorem State.withPending_pmc (q : List Instr) : (s.withPending q).pmc = s.pmc := (rfl)
@[simp] theorem State.withPending_flashLog (q : List Instr) : (s.withPending q).flashLog = s.flashLog := (rfl)
@[simp] theorem State.withPending_pci (q : List Instr) : (s.withPending q).pci = s.pci := (rfl)
@[simp] theorem State.withPending_power (q : List Instr) : (s.withPending q).power = s.power := (rfl)
@[simp] theorem State.withPending_gpio (q : List Instr) : (s.withPending q).gpio = s.gpio := (rfl)
@[simp] theorem State.withPending_jtag (q : List Instr) : (s.withPending q).jtag = s.jtag := (rfl)
@[simp] theorem State.withPending_sec (q : List Instr) : (s.withPending q).sec = s.sec := (rfl)
@[simp] theorem State.withPending_age (q : List Instr) : (s.withPending q).age = s.age := (rfl)
@[simp] theorem State.withPending_host (q : List Instr) : (s.withPending q).host = s.host := (rfl)

/-! ### State.setReg -/

@[simp] theorem State.setReg_pending (o : Nat) (v : Word) : (s.setReg o v).pending = s.pending := (rfl)
@[simp] theorem State.setReg_freeCtr (o : Nat) (v : Word) : (s.setReg o v).freeCtr = s.freeCtr := (rfl)
@[simp] theorem State.setReg_tm (o : Nat) (v : Word) : (s.setReg o v).tm = s.tm := (rfl)
@[simp] theorem State.setReg_reply (o : Nat) (v : Word) : (s.setReg o v).reply = s.reply := (rfl)
@[simp] theorem State.setReg_reports (o : Nat) (v : Word) : (s.setReg o v).reports = s.reports := (rfl)
@[simp] theorem State.setReg_latches (o : Nat) (v : Word) : (s.setReg o v).latches = s.latches := (rfl)
@[simp] theorem State.setReg_ports (o : Nat) (v : Word) : (s.setReg o v).ports = s.ports := (rfl)
@[simp] theorem State.setReg_streams (o : Nat) (v : Word) : (s.setReg o v).streams = s.streams := (rfl)
@[simp] theorem State.setReg_dma (o : Nat) (v : Word) : (s.setReg o v).dma = s.dma := (rfl)
@[simp] theorem State.setReg_isp (o : Nat) (v : Word) : (s.setReg o v).isp = s.isp := (rfl)
@[simp] theorem State.setReg_hts (o : Nat) (v : Word) : (s.setReg o v).hts = s.hts := (rfl)
@[simp] theorem State.setReg_fgs (o : Nat) (v : Word) : (s.setReg o v).fgs = s.fgs := (rfl)
@[simp] theorem State.setReg_tdu (o : Nat) (v : Word) : (s.setReg o v).tdu = s.tdu := (rfl)
@[simp] theorem State.setReg_spm (o : Nat) (v : Word) : (s.setReg o v).spm = s.spm := (rfl)
@[simp] theorem State.setReg_fte (o : Nat) (v : Word) : (s.setReg o v).fte = s.fte := (rfl)
@[simp] theorem State.setReg_nc (o : Nat) (v : Word) : (s.setReg o v).nc = s.nc := (rfl)
@[simp] theorem State.setReg_dram (o : Nat) (v : Word) : (s.setReg o v).dram = s.dram := (rfl)
@[simp] theorem State.setReg_saf (o : Nat) (v : Word) : (s.setReg o v).saf = s.saf := (rfl)
@[simp] theorem State.setReg_pmc (o : Nat) (v : Word) : (s.setReg o v).pmc = s.pmc := (rfl)
@[simp] theorem State.setReg_flashLog (o : Nat) (v : Word) : (s.setReg o v).flashLog = s.flashLog := (rfl)
@[simp] theorem State.setReg_pci (o : Nat) (v : Word) : (s.setReg o v).pci = s.pci := (rfl)
@[simp] theorem State.setReg_power (o : Nat) (v : Word) : (s.setReg o v).power = s.power := (rfl)
@[simp] theorem State.setReg_gpio (o : Nat) (v : Word) : (s.setReg o v).gpio = s.gpio := (rfl)
@[simp] theorem State.setReg_jtag (o : Nat) (v : Word) : (s.setReg o v).jtag = s.jtag := (rfl)
@[simp] theorem State.setReg_sec (o : Nat) (v : Word) : (s.setReg o v).sec = s.sec := (rfl)
@[simp] theorem State.setReg_age (o : Nat) (v : Word) : (s.setReg o v).age = s.age := (rfl)
@[simp] theorem State.setReg_host (o : Nat) (v : Word) : (s.setReg o v).host = s.host := (rfl)

/-! ### State.setFld -/

@[simp] theorem State.setFld_pending (o h l n : Nat) : (s.setFld o h l n).pending = s.pending := (rfl)
@[simp] theorem State.setFld_freeCtr (o h l n : Nat) : (s.setFld o h l n).freeCtr = s.freeCtr := (rfl)
@[simp] theorem State.setFld_tm (o h l n : Nat) : (s.setFld o h l n).tm = s.tm := (rfl)
@[simp] theorem State.setFld_reply (o h l n : Nat) : (s.setFld o h l n).reply = s.reply := (rfl)
@[simp] theorem State.setFld_reports (o h l n : Nat) : (s.setFld o h l n).reports = s.reports := (rfl)
@[simp] theorem State.setFld_latches (o h l n : Nat) : (s.setFld o h l n).latches = s.latches := (rfl)
@[simp] theorem State.setFld_ports (o h l n : Nat) : (s.setFld o h l n).ports = s.ports := (rfl)
@[simp] theorem State.setFld_streams (o h l n : Nat) : (s.setFld o h l n).streams = s.streams := (rfl)
@[simp] theorem State.setFld_dma (o h l n : Nat) : (s.setFld o h l n).dma = s.dma := (rfl)
@[simp] theorem State.setFld_isp (o h l n : Nat) : (s.setFld o h l n).isp = s.isp := (rfl)
@[simp] theorem State.setFld_hts (o h l n : Nat) : (s.setFld o h l n).hts = s.hts := (rfl)
@[simp] theorem State.setFld_fgs (o h l n : Nat) : (s.setFld o h l n).fgs = s.fgs := (rfl)
@[simp] theorem State.setFld_tdu (o h l n : Nat) : (s.setFld o h l n).tdu = s.tdu := (rfl)
@[simp] theorem State.setFld_spm (o h l n : Nat) : (s.setFld o h l n).spm = s.spm := (rfl)
@[simp] theorem State.setFld_fte (o h l n : Nat) : (s.setFld o h l n).fte = s.fte := (rfl)
@[simp] theorem State.setFld_nc (o h l n : Nat) : (s.setFld o h l n).nc = s.nc := (rfl)
@[simp] theorem State.setFld_dram (o h l n : Nat) : (s.setFld o h l n).dram = s.dram := (rfl)
@[simp] theorem State.setFld_saf (o h l n : Nat) : (s.setFld o h l n).saf = s.saf := (rfl)
@[simp] theorem State.setFld_pmc (o h l n : Nat) : (s.setFld o h l n).pmc = s.pmc := (rfl)
@[simp] theorem State.setFld_flashLog (o h l n : Nat) : (s.setFld o h l n).flashLog = s.flashLog := (rfl)
@[simp] theorem State.setFld_pci (o h l n : Nat) : (s.setFld o h l n).pci = s.pci := (rfl)
@[simp] theorem State.setFld_power (o h l n : Nat) : (s.setFld o h l n).power = s.power := (rfl)
@[simp] theorem State.setFld_gpio (o h l n : Nat) : (s.setFld o h l n).gpio = s.gpio := (rfl)
@[simp] theorem State.setFld_jtag (o h l n : Nat) : (s.setFld o h l n).jtag = s.jtag := (rfl)
@[simp] theorem State.setFld_sec (o h l n : Nat) : (s.setFld o h l n).sec = s.sec := (rfl)
@[simp] theorem State.setFld_age (o h l n : Nat) : (s.setFld o h l n).age = s.age := (rfl)
@[simp] theorem State.setFld_host (o h l n : Nat) : (s.setFld o h l n).host = s.host := (rfl)

/-! ### State.setFlag -/

@[simp] theorem State.setFlag_pending (o i : Nat) (b : Bool) : (s.setFlag o i b).pending = s.pending := (rfl)
@[simp] theorem State.setFlag_freeCtr (o i : Nat) (b : Bool) : (s.setFlag o i b).freeCtr = s.freeCtr := (rfl)
@[simp] theorem State.setFlag_tm (o i : Nat) (b : Bool) : (s.setFlag o i b).tm = s.tm := (rfl)
@[simp] theorem State.setFlag_reply (o i : Nat) (b : Bool) : (s.setFlag o i b).reply = s.reply := (rfl)
@[simp] theorem State.setFlag_reports (o i : Nat) (b : Bool) : (s.setFlag o i b).reports = s.reports := (rfl)
@[simp] theorem State.setFlag_latches (o i : Nat) (b : Bool) : (s.setFlag o i b).latches = s.latches := (rfl)
@[simp] theorem State.setFlag_ports (o i : Nat) (b : Bool) : (s.setFlag o i b).ports = s.ports := (rfl)
@[simp] theorem State.setFlag_streams (o i : Nat) (b : Bool) : (s.setFlag o i b).streams = s.streams := (rfl)
@[simp] theorem State.setFlag_dma (o i : Nat) (b : Bool) : (s.setFlag o i b).dma = s.dma := (rfl)
@[simp] theorem State.setFlag_isp (o i : Nat) (b : Bool) : (s.setFlag o i b).isp = s.isp := (rfl)
@[simp] theorem State.setFlag_hts (o i : Nat) (b : Bool) : (s.setFlag o i b).hts = s.hts := (rfl)
@[simp] theorem State.setFlag_fgs (o i : Nat) (b : Bool) : (s.setFlag o i b).fgs = s.fgs := (rfl)
@[simp] theorem State.setFlag_tdu (o i : Nat) (b : Bool) : (s.setFlag o i b).tdu = s.tdu := (rfl)
@[simp] theorem State.setFlag_spm (o i : Nat) (b : Bool) : (s.setFlag o i b).spm = s.spm := (rfl)
@[simp] theorem State.setFlag_fte (o i : Nat) (b : Bool) : (s.setFlag o i b).fte = s.fte := (rfl)
@[simp] theorem State.setFlag_nc (o i : Nat) (b : Bool) : (s.setFlag o i b).nc = s.nc := (rfl)
@[simp] theorem State.setFlag_dram (o i : Nat) (b : Bool) : (s.setFlag o i b).dram = s.dram := (rfl)
@[simp] theorem State.setFlag_saf (o i : Nat) (b : Bool) : (s.setFlag o i b).saf = s.saf := (rfl)
@[simp] theorem State.setFlag_pmc (o i : Nat) (b : Bool) : (s.setFlag o i b).pmc = s.pmc := (rfl)
@[simp] theorem State.setFlag_flashLog (o i : Nat) (b : Bool) : (s.setFlag o i b).flashLog = s.flashLog := (rfl)
@[simp] theorem State.setFlag_pci (o i : Nat) (b : Bool) : (s.setFlag o i b).pci = s.pci := (rfl)
@[simp] theorem State.setFlag_power (o i : Nat) (b : Bool) : (s.setFlag o i b).power = s.power := (rfl)
@[simp] theorem State.setFlag_gpio (o i : Nat) (b : Bool) : (s.setFlag o i b).gpio = s.gpio := (rfl)
@[simp] theorem State.setFlag_jtag (o i : Nat) (b : Bool) : (s.setFlag o i b).jtag = s.jtag := (rfl)
@[simp] theorem State.setFlag_sec (o i : Nat) (b : Bool) : (s.setFlag o i b).sec = s.sec := (rfl)
@[simp] theorem State.setFlag_age (o i : Nat) (b : Bool) : (s.setFlag o i b).age = s.age := (rfl)
@[simp] theorem State.setFlag_host (o i : Nat) (b : Bool) : (s.setFlag o i b).host = s.host := (rfl)

/-! ### State.answer -/

@[simp] theorem State.answer_pending (r : Reply) : (s.answer r).pending = s.pending := (rfl)
@[simp] theorem State.answer_regs (r : Reply) : (s.answer r).regs = s.regs := (rfl)
@[simp] theorem State.answer_freeCtr (r : Reply) : (s.answer r).freeCtr = s.freeCtr := (rfl)
@[simp] theorem State.answer_tm (r : Reply) : (s.answer r).tm = s.tm := (rfl)
@[simp] theorem State.answer_reply (r : Reply) : (s.answer r).reply = r := (rfl)
@[simp] theorem State.answer_reports (r : Reply) : (s.answer r).reports = s.reports := (rfl)
@[simp] theorem State.answer_latches (r : Reply) : (s.answer r).latches = s.latches := (rfl)
@[simp] theorem State.answer_ports (r : Reply) : (s.answer r).ports = s.ports := (rfl)
@[simp] theorem State.answer_streams (r : Reply) : (s.answer r).streams = s.streams := (rfl)
@[simp] theorem State.answer_dma (r : Reply) : (s.answer r).dma = s.dma := (rfl)
@[simp] theorem State.answer_isp (r : Reply) : (s.answer r).isp = s.isp := (rfl)
@[simp] theorem State.answer_hts (r : Reply) : (s.answer r).hts = s.hts := (rfl)
@[simp] theorem State.answer_fgs (r : Reply) : (s.answer r).fgs = s.fgs := (rfl)
@[simp] theorem State.answer_tdu (r : Reply) : (s.answer r).tdu = s.tdu := (rfl)
@[simp] theorem State.answer_spm (r : Reply) : (s.answer r).spm = s.spm := (rfl)
@[simp] theorem State.answer_fte (r : Reply) : (s.answer r).fte = s.fte := (rfl)
@[simp] theorem State.answer_nc (r : Reply) : (s.answer r).nc = s.nc := (rfl)
@[simp] theorem State.answer_dram (r : Reply) : (s.answer r).dram = s.dram := (rfl)
@[simp] theorem State.answer_saf (r : Reply) : (s.answer r).saf = s.saf := (rfl)
@[simp] theorem State.answer_pmc (r : Reply) : (s.answer r).pmc = s.pmc := (rfl)
@[simp] theorem State.answer_flashLog (r : Reply) : (s.answer r).flashLog = s.flashLog := (rfl)
@[simp] theorem State.answer_pci (r : Reply) : (s.answer r).pci = s.pci := (rfl)
@[simp] theorem State.answer_power (r : Reply) : (s.answer r).power = s.power := (rfl)
@[simp] theorem State.answer_gpio (r : Reply) : (s.answer r).gpio = s.gpio := (rfl)
@[simp] theorem State.answer_jtag (r : Reply) : (s.answer r).jtag = s.jtag := (rfl)
@[simp] theorem State.answer_sec (r : Reply) : (s.answer r).sec = s.sec := (rfl)
@[simp] theorem State.answer_age (r : Reply) : (s.answer r).age = s.age := (rfl)
@[simp] theorem State.answer_host (r : Reply) : (s.answer r).host = s.host := (rfl)

/-! ### State.report -/

@[simp] theorem State.report_pending (a st p : Nat) : (s.report a st p).pending = s.pending := (rfl)
@[simp] theorem State.report_regs (a st p : Nat) : (s.report a st p).regs = s.regs := (rfl)
@[simp] theorem State.report_freeCtr (a st p : Nat) : (s.report a st p).freeCtr = s.freeCtr := (rfl)
@[simp] theorem State.report_tm (a st p : Nat) : (s.report a st p).tm = s.tm := (rfl)
@[simp] theorem State.report_reply (a st p : Nat) : (s.report a st p).reply = s.reply := (rfl)
@[simp] theorem State.report_reports (a st p : Nat) : (s.report a st p).reports = s.reports ++ [⟨a, st, p⟩] := (rfl)
@[simp] theorem State.report_latches (a st p : Nat) : (s.report a st p).latches = s.latches := (rfl)
@[simp] theorem State.report_ports (a st p : Nat) : (s.report a st p).ports = s.ports := (rfl)
@[simp] theorem State.report_streams (a st p : Nat) : (s.report a st p).streams = s.streams := (rfl)
@[simp] theorem State.report_dma (a st p : Nat) : (s.report a st p).dma = s.dma := (rfl)
@[simp] theorem State.report_isp (a st p : Nat) : (s.report a st p).isp = s.isp := (rfl)
@[simp] theorem State.report_hts (a st p : Nat) : (s.report a st p).hts = s.hts := (rfl)
@[simp] theorem State.report_fgs (a st p : Nat) : (s.report a st p).fgs = s.fgs := (rfl)
@[simp] theorem State.report_tdu (a st p : Nat) : (s.report a st p).tdu = s.tdu := (rfl)
@[simp] theorem State.report_spm (a st p : Nat) : (s.report a st p).spm = s.spm := (rfl)
@[simp] theorem State.report_fte (a st p : Nat) : (s.report a st p).fte = s.fte := (rfl)
@[simp] theorem State.report_nc (a st p : Nat) : (s.report a st p).nc = s.nc := (rfl)
@[simp] theorem State.report_dram (a st p : Nat) : (s.report a st p).dram = s.dram := (rfl)
@[simp] theorem State.report_saf (a st p : Nat) : (s.report a st p).saf = s.saf := (rfl)
@[simp] theorem State.report_pmc (a st p : Nat) : (s.report a st p).pmc = s.pmc := (rfl)
@[simp] theorem State.report_flashLog (a st p : Nat) : (s.report a st p).flashLog = s.flashLog := (rfl)
@[simp] theorem State.report_pci (a st p : Nat) : (s.report a st p).pci = s.pci := (rfl)
@[simp] theorem State.report_power (a st p : Nat) : (s.report a st p).power = s.power := (rfl)
@[simp] theorem State.report_gpio (a st p : Nat) : (s.report a st p).gpio = s.gpio := (rfl)
@[simp] theorem State.report_jtag (a st p : Nat) : (s.report a st p).jtag = s.jtag := (rfl)
@[simp] theorem State.report_sec (a st p : Nat) : (s.report a st p).sec = s.sec := (rfl)
@[simp] theorem State.report_age (a st p : Nat) : (s.report a st p).age = s.age := (rfl)
@[simp] theorem State.report_host (a st p : Nat) : (s.report a st p).host = s.host := (rfl)

/-! ### State.draw -/

@[simp] theorem State.draw_pending : (s.draw.2).pending = s.pending := (rfl)
@[simp] theorem State.draw_regs : (s.draw.2).regs = s.regs := (rfl)
@[simp] theorem State.draw_freeCtr : (s.draw.2).freeCtr = s.freeCtr + 1 := (rfl)
@[simp] theorem State.draw_tm : (s.draw.2).tm = s.tm := (rfl)
@[simp] theorem State.draw_reply : (s.draw.2).reply = s.reply := (rfl)
@[simp] theorem State.draw_reports : (s.draw.2).reports = s.reports := (rfl)
@[simp] theorem State.draw_latches : (s.draw.2).latches = s.latches := (rfl)
@[simp] theorem State.draw_ports : (s.draw.2).ports = s.ports := (rfl)
@[simp] theorem State.draw_streams : (s.draw.2).streams = s.streams := (rfl)
@[simp] theorem State.draw_dma : (s.draw.2).dma = s.dma := (rfl)
@[simp] theorem State.draw_isp : (s.draw.2).isp = s.isp := (rfl)
@[simp] theorem State.draw_hts : (s.draw.2).hts = s.hts := (rfl)
@[simp] theorem State.draw_fgs : (s.draw.2).fgs = s.fgs := (rfl)
@[simp] theorem State.draw_tdu : (s.draw.2).tdu = s.tdu := (rfl)
@[simp] theorem State.draw_spm : (s.draw.2).spm = s.spm := (rfl)
@[simp] theorem State.draw_fte : (s.draw.2).fte = s.fte := (rfl)
@[simp] theorem State.draw_nc : (s.draw.2).nc = s.nc := (rfl)
@[simp] theorem State.draw_dram : (s.draw.2).dram = s.dram := (rfl)
@[simp] theorem State.draw_saf : (s.draw.2).saf = s.saf := (rfl)
@[simp] theorem State.draw_pmc : (s.draw.2).pmc = s.pmc := (rfl)
@[simp] theorem State.draw_flashLog : (s.draw.2).flashLog = s.flashLog := (rfl)
@[simp] theorem State.draw_pci : (s.draw.2).pci = s.pci := (rfl)
@[simp] theorem State.draw_power : (s.draw.2).power = s.power := (rfl)
@[simp] theorem State.draw_gpio : (s.draw.2).gpio = s.gpio := (rfl)
@[simp] theorem State.draw_jtag : (s.draw.2).jtag = s.jtag := (rfl)
@[simp] theorem State.draw_sec : (s.draw.2).sec = s.sec := (rfl)
@[simp] theorem State.draw_age : (s.draw.2).age = s.age := (rfl)
@[simp] theorem State.draw_host : (s.draw.2).host = s.host := (rfl)

/-! ### State.drawMany -/

@[simp] theorem State.drawMany_pending (n : Nat) : ((s.drawMany n).2).pending = s.pending := (rfl)
@[simp] theorem State.drawMany_regs (n : Nat) : ((s.drawMany n).2).regs = s.regs := (rfl)
@[simp] theorem State.drawMany_freeCtr (n : Nat) : ((s.drawMany n).2).freeCtr = s.freeCtr + n := (rfl)
@[simp] theorem State.drawMany_tm (n : Nat) : ((s.drawMany n).2).tm = s.tm := (rfl)
@[simp] theorem State.drawMany_reply (n : Nat) : ((s.drawMany n).2).reply = s.reply := (rfl)
@[simp] theorem State.drawMany_reports (n : Nat) : ((s.drawMany n).2).reports = s.reports := (rfl)
@[simp] theorem State.drawMany_latches (n : Nat) : ((s.drawMany n).2).latches = s.latches := (rfl)
@[simp] theorem State.drawMany_ports (n : Nat) : ((s.drawMany n).2).ports = s.ports := (rfl)
@[simp] theorem State.drawMany_streams (n : Nat) : ((s.drawMany n).2).streams = s.streams := (rfl)
@[simp] theorem State.drawMany_dma (n : Nat) : ((s.drawMany n).2).dma = s.dma := (rfl)
@[simp] theorem State.drawMany_isp (n : Nat) : ((s.drawMany n).2).isp = s.isp := (rfl)
@[simp] theorem State.drawMany_hts (n : Nat) : ((s.drawMany n).2).hts = s.hts := (rfl)
@[simp] theorem State.drawMany_fgs (n : Nat) : ((s.drawMany n).2).fgs = s.fgs := (rfl)
@[simp] theorem State.drawMany_tdu (n : Nat) : ((s.drawMany n).2).tdu = s.tdu := (rfl)
@[simp] theorem State.drawMany_spm (n : Nat) : ((s.drawMany n).2).spm = s.spm := (rfl)
@[simp] theorem State.drawMany_fte (n : Nat) : ((s.drawMany n).2).fte = s.fte := (rfl)
@[simp] theorem State.drawMany_nc (n : Nat) : ((s.drawMany n).2).nc = s.nc := (rfl)
@[simp] theorem State.drawMany_dram (n : Nat) : ((s.drawMany n).2).dram = s.dram := (rfl)
@[simp] theorem State.drawMany_saf (n : Nat) : ((s.drawMany n).2).saf = s.saf := (rfl)
@[simp] theorem State.drawMany_pmc (n : Nat) : ((s.drawMany n).2).pmc = s.pmc := (rfl)
@[simp] theorem State.drawMany_flashLog (n : Nat) : ((s.drawMany n).2).flashLog = s.flashLog := (rfl)
@[simp] theorem State.drawMany_pci (n : Nat) : ((s.drawMany n).2).pci = s.pci := (rfl)
@[simp] theorem State.drawMany_power (n : Nat) : ((s.drawMany n).2).power = s.power := (rfl)
@[simp] theorem State.drawMany_gpio (n : Nat) : ((s.drawMany n).2).gpio = s.gpio := (rfl)
@[simp] theorem State.drawMany_jtag (n : Nat) : ((s.drawMany n).2).jtag = s.jtag := (rfl)
@[simp] theorem State.drawMany_sec (n : Nat) : ((s.drawMany n).2).sec = s.sec := (rfl)
@[simp] theorem State.drawMany_age (n : Nat) : ((s.drawMany n).2).age = s.age := (rfl)
@[simp] theorem State.drawMany_host (n : Nat) : ((s.drawMany n).2).host = s.host := (rfl)

/-! ### State.logRec -/

@[simp] theorem State.logRec_pending (k : Nat) (b : List Word) : (s.logRec k b).pending = s.pending := (rfl)
@[simp] theorem State.logRec_regs (k : Nat) (b : List Word) : (s.logRec k b).regs = s.regs := (rfl)
@[simp] theorem State.logRec_freeCtr (k : Nat) (b : List Word) : (s.logRec k b).freeCtr = s.freeCtr := (rfl)
@[simp] theorem State.logRec_tm (k : Nat) (b : List Word) : (s.logRec k b).tm = s.tm := (rfl)
@[simp] theorem State.logRec_reply (k : Nat) (b : List Word) : (s.logRec k b).reply = s.reply := (rfl)
@[simp] theorem State.logRec_reports (k : Nat) (b : List Word) : (s.logRec k b).reports = s.reports := (rfl)
@[simp] theorem State.logRec_latches (k : Nat) (b : List Word) : (s.logRec k b).latches = s.latches := (rfl)
@[simp] theorem State.logRec_ports (k : Nat) (b : List Word) : (s.logRec k b).ports = s.ports := (rfl)
@[simp] theorem State.logRec_streams (k : Nat) (b : List Word) : (s.logRec k b).streams = s.streams := (rfl)
@[simp] theorem State.logRec_dma (k : Nat) (b : List Word) : (s.logRec k b).dma = s.dma := (rfl)
@[simp] theorem State.logRec_isp (k : Nat) (b : List Word) : (s.logRec k b).isp = s.isp := (rfl)
@[simp] theorem State.logRec_hts (k : Nat) (b : List Word) : (s.logRec k b).hts = s.hts := (rfl)
@[simp] theorem State.logRec_fgs (k : Nat) (b : List Word) : (s.logRec k b).fgs = s.fgs := (rfl)
@[simp] theorem State.logRec_tdu (k : Nat) (b : List Word) : (s.logRec k b).tdu = s.tdu := (rfl)
@[simp] theorem State.logRec_spm (k : Nat) (b : List Word) : (s.logRec k b).spm = s.spm := (rfl)
@[simp] theorem State.logRec_fte (k : Nat) (b : List Word) : (s.logRec k b).fte = s.fte := (rfl)
@[simp] theorem State.logRec_nc (k : Nat) (b : List Word) : (s.logRec k b).nc = s.nc := (rfl)
@[simp] theorem State.logRec_dram (k : Nat) (b : List Word) : (s.logRec k b).dram = s.dram := (rfl)
@[simp] theorem State.logRec_saf (k : Nat) (b : List Word) : (s.logRec k b).saf = s.saf := (rfl)
@[simp] theorem State.logRec_pmc (k : Nat) (b : List Word) : (s.logRec k b).pmc = s.pmc := (rfl)
@[simp] theorem State.logRec_flashLog (k : Nat) (b : List Word) : (s.logRec k b).flashLog = s.flashLog ++ [⟨k, s.devNow, b⟩] := (rfl)
@[simp] theorem State.logRec_pci (k : Nat) (b : List Word) : (s.logRec k b).pci = s.pci := (rfl)
@[simp] theorem State.logRec_power (k : Nat) (b : List Word) : (s.logRec k b).power = s.power := (rfl)
@[simp] theorem State.logRec_gpio (k : Nat) (b : List Word) : (s.logRec k b).gpio = s.gpio := (rfl)
@[simp] theorem State.logRec_jtag (k : Nat) (b : List Word) : (s.logRec k b).jtag = s.jtag := (rfl)
@[simp] theorem State.logRec_sec (k : Nat) (b : List Word) : (s.logRec k b).sec = s.sec := (rfl)
@[simp] theorem State.logRec_age (k : Nat) (b : List Word) : (s.logRec k b).age = s.age := (rfl)
@[simp] theorem State.logRec_host (k : Nat) (b : List Word) : (s.logRec k b).host = s.host := (rfl)

/-! ### State.vector -/

@[simp] theorem State.vector_pending (v : Nat) : (s.vector v).pending = s.pending := (rfl)
@[simp] theorem State.vector_regs (v : Nat) : (s.vector v).regs = s.regs := (rfl)
@[simp] theorem State.vector_freeCtr (v : Nat) : (s.vector v).freeCtr = s.freeCtr := (rfl)
@[simp] theorem State.vector_tm (v : Nat) : (s.vector v).tm = s.tm := (rfl)
@[simp] theorem State.vector_reply (v : Nat) : (s.vector v).reply = s.reply := (rfl)
@[simp] theorem State.vector_reports (v : Nat) : (s.vector v).reports = s.reports := (rfl)
@[simp] theorem State.vector_latches (v : Nat) : (s.vector v).latches = s.latches := (rfl)
@[simp] theorem State.vector_ports (v : Nat) : (s.vector v).ports = s.ports := (rfl)
@[simp] theorem State.vector_streams (v : Nat) : (s.vector v).streams = s.streams := (rfl)
@[simp] theorem State.vector_dma (v : Nat) : (s.vector v).dma = s.dma := (rfl)
@[simp] theorem State.vector_isp (v : Nat) : (s.vector v).isp = s.isp := (rfl)
@[simp] theorem State.vector_hts (v : Nat) : (s.vector v).hts = s.hts := (rfl)
@[simp] theorem State.vector_fgs (v : Nat) : (s.vector v).fgs = s.fgs := (rfl)
@[simp] theorem State.vector_tdu (v : Nat) : (s.vector v).tdu = s.tdu := (rfl)
@[simp] theorem State.vector_spm (v : Nat) : (s.vector v).spm = s.spm := (rfl)
@[simp] theorem State.vector_fte (v : Nat) : (s.vector v).fte = s.fte := (rfl)
@[simp] theorem State.vector_nc (v : Nat) : (s.vector v).nc = s.nc := (rfl)
@[simp] theorem State.vector_dram (v : Nat) : (s.vector v).dram = s.dram := (rfl)
@[simp] theorem State.vector_saf (v : Nat) : (s.vector v).saf = s.saf := (rfl)
@[simp] theorem State.vector_pmc (v : Nat) : (s.vector v).pmc = s.pmc := (rfl)
@[simp] theorem State.vector_flashLog (v : Nat) : (s.vector v).flashLog = s.flashLog := (rfl)
@[simp] theorem State.vector_power (v : Nat) : (s.vector v).power = s.power := (rfl)
@[simp] theorem State.vector_gpio (v : Nat) : (s.vector v).gpio = s.gpio := (rfl)
@[simp] theorem State.vector_jtag (v : Nat) : (s.vector v).jtag = s.jtag := (rfl)
@[simp] theorem State.vector_sec (v : Nat) : (s.vector v).sec = s.sec := (rfl)
@[simp] theorem State.vector_age (v : Nat) : (s.vector v).age = s.age := (rfl)
@[simp] theorem State.vector_host (v : Nat) : (s.vector v).host = s.host := (rfl)

/-! ### State.irqDrop -/

@[simp] theorem State.irqDrop_pending (n : Nat) : (s.irqDrop n).pending = s.pending := (rfl)
@[simp] theorem State.irqDrop_regs (n : Nat) : (s.irqDrop n).regs = s.regs := (rfl)
@[simp] theorem State.irqDrop_freeCtr (n : Nat) : (s.irqDrop n).freeCtr = s.freeCtr := (rfl)
@[simp] theorem State.irqDrop_tm (n : Nat) : (s.irqDrop n).tm = s.tm := (rfl)
@[simp] theorem State.irqDrop_reply (n : Nat) : (s.irqDrop n).reply = s.reply := (rfl)
@[simp] theorem State.irqDrop_reports (n : Nat) : (s.irqDrop n).reports = s.reports := (rfl)
@[simp] theorem State.irqDrop_latches (n : Nat) : (s.irqDrop n).latches = s.latches := (rfl)
@[simp] theorem State.irqDrop_ports (n : Nat) : (s.irqDrop n).ports = s.ports := (rfl)
@[simp] theorem State.irqDrop_streams (n : Nat) : (s.irqDrop n).streams = s.streams := (rfl)
@[simp] theorem State.irqDrop_dma (n : Nat) : (s.irqDrop n).dma = s.dma := (rfl)
@[simp] theorem State.irqDrop_isp (n : Nat) : (s.irqDrop n).isp = s.isp := (rfl)
@[simp] theorem State.irqDrop_hts (n : Nat) : (s.irqDrop n).hts = s.hts := (rfl)
@[simp] theorem State.irqDrop_fgs (n : Nat) : (s.irqDrop n).fgs = s.fgs := (rfl)
@[simp] theorem State.irqDrop_tdu (n : Nat) : (s.irqDrop n).tdu = s.tdu := (rfl)
@[simp] theorem State.irqDrop_spm (n : Nat) : (s.irqDrop n).spm = s.spm := (rfl)
@[simp] theorem State.irqDrop_fte (n : Nat) : (s.irqDrop n).fte = s.fte := (rfl)
@[simp] theorem State.irqDrop_nc (n : Nat) : (s.irqDrop n).nc = s.nc := (rfl)
@[simp] theorem State.irqDrop_dram (n : Nat) : (s.irqDrop n).dram = s.dram := (rfl)
@[simp] theorem State.irqDrop_saf (n : Nat) : (s.irqDrop n).saf = s.saf := (rfl)
@[simp] theorem State.irqDrop_pmc (n : Nat) : (s.irqDrop n).pmc = s.pmc := (rfl)
@[simp] theorem State.irqDrop_flashLog (n : Nat) : (s.irqDrop n).flashLog = s.flashLog := (rfl)
@[simp] theorem State.irqDrop_pci (n : Nat) : (s.irqDrop n).pci = s.pci := (rfl)
@[simp] theorem State.irqDrop_power (n : Nat) : (s.irqDrop n).power = s.power := (rfl)
@[simp] theorem State.irqDrop_gpio (n : Nat) : (s.irqDrop n).gpio = s.gpio := (rfl)
@[simp] theorem State.irqDrop_jtag (n : Nat) : (s.irqDrop n).jtag = s.jtag := (rfl)
@[simp] theorem State.irqDrop_sec (n : Nat) : (s.irqDrop n).sec = s.sec := (rfl)
@[simp] theorem State.irqDrop_age (n : Nat) : (s.irqDrop n).age = s.age := (rfl)

@[simp] theorem State.draw_fst : s.draw.1 = s.freeCtr := (rfl)
@[simp] theorem State.drawMany_fst (n : Nat) : (s.drawMany n).1 = s.freeCtr := (rfl)

@[simp] theorem State.withPending_awake (q : List Instr) : (s.withPending q).awake = s.awake := (rfl)
@[simp] theorem State.setReg_awake (o : Nat) (v : Word) : (s.setReg o v).awake = s.awake := (rfl)
@[simp] theorem State.setFld_awake (o h l n : Nat) : (s.setFld o h l n).awake = s.awake := (rfl)
@[simp] theorem State.setFlag_awake (o i : Nat) (b : Bool) : (s.setFlag o i b).awake = s.awake := (rfl)
@[simp] theorem State.answer_awake (r : Reply) : (s.answer r).awake = s.awake := (rfl)
@[simp] theorem State.report_awake (a st p : Nat) : (s.report a st p).awake = s.awake := (rfl)
@[simp] theorem State.draw_awake : (s.draw.2).awake = s.awake := (rfl)
@[simp] theorem State.drawMany_awake (n : Nat) : ((s.drawMany n).2).awake = s.awake := (rfl)
@[simp] theorem State.logRec_awake (k : Nat) (b : List Word) : (s.logRec k b).awake = s.awake := (rfl)
@[simp] theorem State.vector_awake (v : Nat) : (s.vector v).awake = s.awake := (rfl)
@[simp] theorem State.irqDrop_awake (n : Nat) : (s.irqDrop n).awake = s.awake := (rfl)

/-! ### State.irqRaise -/

@[simp] theorem State.irqRaise_pending (n : Nat) : (s.irqRaise n).pending = s.pending := by unfold State.irqRaise; split <;> rfl
@[simp] theorem State.irqRaise_regs (n : Nat) : (s.irqRaise n).regs = s.regs := by unfold State.irqRaise; split <;> rfl
@[simp] theorem State.irqRaise_freeCtr (n : Nat) : (s.irqRaise n).freeCtr = s.freeCtr := by unfold State.irqRaise; split <;> rfl
@[simp] theorem State.irqRaise_tm (n : Nat) : (s.irqRaise n).tm = s.tm := by unfold State.irqRaise; split <;> rfl
@[simp] theorem State.irqRaise_reply (n : Nat) : (s.irqRaise n).reply = s.reply := by unfold State.irqRaise; split <;> rfl
@[simp] theorem State.irqRaise_reports (n : Nat) : (s.irqRaise n).reports = s.reports := by unfold State.irqRaise; split <;> rfl
@[simp] theorem State.irqRaise_latches (n : Nat) : (s.irqRaise n).latches = s.latches := by unfold State.irqRaise; split <;> rfl
@[simp] theorem State.irqRaise_ports (n : Nat) : (s.irqRaise n).ports = s.ports := by unfold State.irqRaise; split <;> rfl
@[simp] theorem State.irqRaise_streams (n : Nat) : (s.irqRaise n).streams = s.streams := by unfold State.irqRaise; split <;> rfl
@[simp] theorem State.irqRaise_dma (n : Nat) : (s.irqRaise n).dma = s.dma := by unfold State.irqRaise; split <;> rfl
@[simp] theorem State.irqRaise_isp (n : Nat) : (s.irqRaise n).isp = s.isp := by unfold State.irqRaise; split <;> rfl
@[simp] theorem State.irqRaise_hts (n : Nat) : (s.irqRaise n).hts = s.hts := by unfold State.irqRaise; split <;> rfl
@[simp] theorem State.irqRaise_fgs (n : Nat) : (s.irqRaise n).fgs = s.fgs := by unfold State.irqRaise; split <;> rfl
@[simp] theorem State.irqRaise_tdu (n : Nat) : (s.irqRaise n).tdu = s.tdu := by unfold State.irqRaise; split <;> rfl
@[simp] theorem State.irqRaise_spm (n : Nat) : (s.irqRaise n).spm = s.spm := by unfold State.irqRaise; split <;> rfl
@[simp] theorem State.irqRaise_fte (n : Nat) : (s.irqRaise n).fte = s.fte := by unfold State.irqRaise; split <;> rfl
@[simp] theorem State.irqRaise_nc (n : Nat) : (s.irqRaise n).nc = s.nc := by unfold State.irqRaise; split <;> rfl
@[simp] theorem State.irqRaise_dram (n : Nat) : (s.irqRaise n).dram = s.dram := by unfold State.irqRaise; split <;> rfl
@[simp] theorem State.irqRaise_saf (n : Nat) : (s.irqRaise n).saf = s.saf := by unfold State.irqRaise; split <;> rfl
@[simp] theorem State.irqRaise_pmc (n : Nat) : (s.irqRaise n).pmc = s.pmc := by unfold State.irqRaise; split <;> rfl
@[simp] theorem State.irqRaise_flashLog (n : Nat) : (s.irqRaise n).flashLog = s.flashLog := by unfold State.irqRaise; split <;> rfl
@[simp] theorem State.irqRaise_pci (n : Nat) : (s.irqRaise n).pci = s.pci := by unfold State.irqRaise; split <;> rfl
@[simp] theorem State.irqRaise_power (n : Nat) : (s.irqRaise n).power = s.power := by unfold State.irqRaise; split <;> rfl
@[simp] theorem State.irqRaise_gpio (n : Nat) : (s.irqRaise n).gpio = s.gpio := by unfold State.irqRaise; split <;> rfl
@[simp] theorem State.irqRaise_jtag (n : Nat) : (s.irqRaise n).jtag = s.jtag := by unfold State.irqRaise; split <;> rfl
@[simp] theorem State.irqRaise_sec (n : Nat) : (s.irqRaise n).sec = s.sec := by unfold State.irqRaise; split <;> rfl
@[simp] theorem State.irqRaise_age (n : Nat) : (s.irqRaise n).age = s.age := by unfold State.irqRaise; split <;> rfl

/-! ### State.irqSet -/

@[simp] theorem State.irqSet_pending (n : Nat) (b : Bool) : (s.irqSet n b).pending = s.pending := by unfold State.irqSet; split <;> (try split) <;> simp
@[simp] theorem State.irqSet_regs (n : Nat) (b : Bool) : (s.irqSet n b).regs = s.regs := by unfold State.irqSet; split <;> (try split) <;> simp
@[simp] theorem State.irqSet_freeCtr (n : Nat) (b : Bool) : (s.irqSet n b).freeCtr = s.freeCtr := by unfold State.irqSet; split <;> (try split) <;> simp
@[simp] theorem State.irqSet_tm (n : Nat) (b : Bool) : (s.irqSet n b).tm = s.tm := by unfold State.irqSet; split <;> (try split) <;> simp
@[simp] theorem State.irqSet_reply (n : Nat) (b : Bool) : (s.irqSet n b).reply = s.reply := by unfold State.irqSet; split <;> (try split) <;> simp
@[simp] theorem State.irqSet_reports (n : Nat) (b : Bool) : (s.irqSet n b).reports = s.reports := by unfold State.irqSet; split <;> (try split) <;> simp
@[simp] theorem State.irqSet_latches (n : Nat) (b : Bool) : (s.irqSet n b).latches = s.latches := by unfold State.irqSet; split <;> (try split) <;> simp
@[simp] theorem State.irqSet_ports (n : Nat) (b : Bool) : (s.irqSet n b).ports = s.ports := by unfold State.irqSet; split <;> (try split) <;> simp
@[simp] theorem State.irqSet_streams (n : Nat) (b : Bool) : (s.irqSet n b).streams = s.streams := by unfold State.irqSet; split <;> (try split) <;> simp
@[simp] theorem State.irqSet_dma (n : Nat) (b : Bool) : (s.irqSet n b).dma = s.dma := by unfold State.irqSet; split <;> (try split) <;> simp
@[simp] theorem State.irqSet_isp (n : Nat) (b : Bool) : (s.irqSet n b).isp = s.isp := by unfold State.irqSet; split <;> (try split) <;> simp
@[simp] theorem State.irqSet_hts (n : Nat) (b : Bool) : (s.irqSet n b).hts = s.hts := by unfold State.irqSet; split <;> (try split) <;> simp
@[simp] theorem State.irqSet_fgs (n : Nat) (b : Bool) : (s.irqSet n b).fgs = s.fgs := by unfold State.irqSet; split <;> (try split) <;> simp
@[simp] theorem State.irqSet_tdu (n : Nat) (b : Bool) : (s.irqSet n b).tdu = s.tdu := by unfold State.irqSet; split <;> (try split) <;> simp
@[simp] theorem State.irqSet_spm (n : Nat) (b : Bool) : (s.irqSet n b).spm = s.spm := by unfold State.irqSet; split <;> (try split) <;> simp
@[simp] theorem State.irqSet_fte (n : Nat) (b : Bool) : (s.irqSet n b).fte = s.fte := by unfold State.irqSet; split <;> (try split) <;> simp
@[simp] theorem State.irqSet_nc (n : Nat) (b : Bool) : (s.irqSet n b).nc = s.nc := by unfold State.irqSet; split <;> (try split) <;> simp
@[simp] theorem State.irqSet_dram (n : Nat) (b : Bool) : (s.irqSet n b).dram = s.dram := by unfold State.irqSet; split <;> (try split) <;> simp
@[simp] theorem State.irqSet_saf (n : Nat) (b : Bool) : (s.irqSet n b).saf = s.saf := by unfold State.irqSet; split <;> (try split) <;> simp
@[simp] theorem State.irqSet_pmc (n : Nat) (b : Bool) : (s.irqSet n b).pmc = s.pmc := by unfold State.irqSet; split <;> (try split) <;> simp
@[simp] theorem State.irqSet_flashLog (n : Nat) (b : Bool) : (s.irqSet n b).flashLog = s.flashLog := by unfold State.irqSet; split <;> (try split) <;> simp
@[simp] theorem State.irqSet_pci (n : Nat) (b : Bool) : (s.irqSet n b).pci = s.pci := by unfold State.irqSet; split <;> (try split) <;> simp
@[simp] theorem State.irqSet_power (n : Nat) (b : Bool) : (s.irqSet n b).power = s.power := by unfold State.irqSet; split <;> (try split) <;> simp
@[simp] theorem State.irqSet_gpio (n : Nat) (b : Bool) : (s.irqSet n b).gpio = s.gpio := by unfold State.irqSet; split <;> (try split) <;> simp
@[simp] theorem State.irqSet_jtag (n : Nat) (b : Bool) : (s.irqSet n b).jtag = s.jtag := by unfold State.irqSet; split <;> (try split) <;> simp
@[simp] theorem State.irqSet_sec (n : Nat) (b : Bool) : (s.irqSet n b).sec = s.sec := by unfold State.irqSet; split <;> (try split) <;> simp
@[simp] theorem State.irqSet_age (n : Nat) (b : Bool) : (s.irqSet n b).age = s.age := by unfold State.irqSet; split <;> (try split) <;> simp

/-! ### State.count -/

@[simp] theorem State.count_pending (i n : Nat) : (s.count i n).pending = s.pending := by unfold State.count; dsimp only; split <;> (try split) <;> rfl
@[simp] theorem State.count_freeCtr (i n : Nat) : (s.count i n).freeCtr = s.freeCtr := by unfold State.count; dsimp only; split <;> (try split) <;> rfl
@[simp] theorem State.count_tm (i n : Nat) : (s.count i n).tm = s.tm := by unfold State.count; dsimp only; split <;> (try split) <;> rfl
@[simp] theorem State.count_reply (i n : Nat) : (s.count i n).reply = s.reply := by unfold State.count; dsimp only; split <;> (try split) <;> rfl
@[simp] theorem State.count_reports (i n : Nat) : (s.count i n).reports = s.reports := by unfold State.count; dsimp only; split <;> (try split) <;> rfl
@[simp] theorem State.count_latches (i n : Nat) : (s.count i n).latches = s.latches := by unfold State.count; dsimp only; split <;> (try split) <;> rfl
@[simp] theorem State.count_ports (i n : Nat) : (s.count i n).ports = s.ports := by unfold State.count; dsimp only; split <;> (try split) <;> rfl
@[simp] theorem State.count_streams (i n : Nat) : (s.count i n).streams = s.streams := by unfold State.count; dsimp only; split <;> (try split) <;> rfl
@[simp] theorem State.count_dma (i n : Nat) : (s.count i n).dma = s.dma := by unfold State.count; dsimp only; split <;> (try split) <;> rfl
@[simp] theorem State.count_isp (i n : Nat) : (s.count i n).isp = s.isp := by unfold State.count; dsimp only; split <;> (try split) <;> rfl
@[simp] theorem State.count_hts (i n : Nat) : (s.count i n).hts = s.hts := by unfold State.count; dsimp only; split <;> (try split) <;> rfl
@[simp] theorem State.count_fgs (i n : Nat) : (s.count i n).fgs = s.fgs := by unfold State.count; dsimp only; split <;> (try split) <;> rfl
@[simp] theorem State.count_tdu (i n : Nat) : (s.count i n).tdu = s.tdu := by unfold State.count; dsimp only; split <;> (try split) <;> rfl
@[simp] theorem State.count_spm (i n : Nat) : (s.count i n).spm = s.spm := by unfold State.count; dsimp only; split <;> (try split) <;> rfl
@[simp] theorem State.count_fte (i n : Nat) : (s.count i n).fte = s.fte := by unfold State.count; dsimp only; split <;> (try split) <;> rfl
@[simp] theorem State.count_nc (i n : Nat) : (s.count i n).nc = s.nc := by unfold State.count; dsimp only; split <;> (try split) <;> rfl
@[simp] theorem State.count_dram (i n : Nat) : (s.count i n).dram = s.dram := by unfold State.count; dsimp only; split <;> (try split) <;> rfl
@[simp] theorem State.count_saf (i n : Nat) : (s.count i n).saf = s.saf := by unfold State.count; dsimp only; split <;> (try split) <;> rfl
@[simp] theorem State.count_flashLog (i n : Nat) : (s.count i n).flashLog = s.flashLog := by unfold State.count; dsimp only; split <;> (try split) <;> rfl
@[simp] theorem State.count_pci (i n : Nat) : (s.count i n).pci = s.pci := by unfold State.count; dsimp only; split <;> (try split) <;> rfl
@[simp] theorem State.count_power (i n : Nat) : (s.count i n).power = s.power := by unfold State.count; dsimp only; split <;> (try split) <;> rfl
@[simp] theorem State.count_gpio (i n : Nat) : (s.count i n).gpio = s.gpio := by unfold State.count; dsimp only; split <;> (try split) <;> rfl
@[simp] theorem State.count_jtag (i n : Nat) : (s.count i n).jtag = s.jtag := by unfold State.count; dsimp only; split <;> (try split) <;> rfl
@[simp] theorem State.count_sec (i n : Nat) : (s.count i n).sec = s.sec := by unfold State.count; dsimp only; split <;> (try split) <;> rfl
@[simp] theorem State.count_age (i n : Nat) : (s.count i n).age = s.age := by unfold State.count; dsimp only; split <;> (try split) <;> rfl
@[simp] theorem State.count_host (i n : Nat) : (s.count i n).host = s.host := by unfold State.count; dsimp only; split <;> (try split) <;> rfl

/-! ### State.bumpN -/

@[simp] theorem State.bumpN_pending (o n : Nat) : (s.bumpN o n).pending = s.pending := by unfold State.bumpN; split <;> simp [State.incReg]
@[simp] theorem State.bumpN_freeCtr (o n : Nat) : (s.bumpN o n).freeCtr = s.freeCtr := by unfold State.bumpN; split <;> simp [State.incReg]
@[simp] theorem State.bumpN_tm (o n : Nat) : (s.bumpN o n).tm = s.tm := by unfold State.bumpN; split <;> simp [State.incReg]
@[simp] theorem State.bumpN_reply (o n : Nat) : (s.bumpN o n).reply = s.reply := by unfold State.bumpN; split <;> simp [State.incReg]
@[simp] theorem State.bumpN_reports (o n : Nat) : (s.bumpN o n).reports = s.reports := by unfold State.bumpN; split <;> simp [State.incReg]
@[simp] theorem State.bumpN_latches (o n : Nat) : (s.bumpN o n).latches = s.latches := by unfold State.bumpN; split <;> simp [State.incReg]
@[simp] theorem State.bumpN_ports (o n : Nat) : (s.bumpN o n).ports = s.ports := by unfold State.bumpN; split <;> simp [State.incReg]
@[simp] theorem State.bumpN_streams (o n : Nat) : (s.bumpN o n).streams = s.streams := by unfold State.bumpN; split <;> simp [State.incReg]
@[simp] theorem State.bumpN_dma (o n : Nat) : (s.bumpN o n).dma = s.dma := by unfold State.bumpN; split <;> simp [State.incReg]
@[simp] theorem State.bumpN_isp (o n : Nat) : (s.bumpN o n).isp = s.isp := by unfold State.bumpN; split <;> simp [State.incReg]
@[simp] theorem State.bumpN_hts (o n : Nat) : (s.bumpN o n).hts = s.hts := by unfold State.bumpN; split <;> simp [State.incReg]
@[simp] theorem State.bumpN_fgs (o n : Nat) : (s.bumpN o n).fgs = s.fgs := by unfold State.bumpN; split <;> simp [State.incReg]
@[simp] theorem State.bumpN_tdu (o n : Nat) : (s.bumpN o n).tdu = s.tdu := by unfold State.bumpN; split <;> simp [State.incReg]
@[simp] theorem State.bumpN_spm (o n : Nat) : (s.bumpN o n).spm = s.spm := by unfold State.bumpN; split <;> simp [State.incReg]
@[simp] theorem State.bumpN_fte (o n : Nat) : (s.bumpN o n).fte = s.fte := by unfold State.bumpN; split <;> simp [State.incReg]
@[simp] theorem State.bumpN_nc (o n : Nat) : (s.bumpN o n).nc = s.nc := by unfold State.bumpN; split <;> simp [State.incReg]
@[simp] theorem State.bumpN_dram (o n : Nat) : (s.bumpN o n).dram = s.dram := by unfold State.bumpN; split <;> simp [State.incReg]
@[simp] theorem State.bumpN_saf (o n : Nat) : (s.bumpN o n).saf = s.saf := by unfold State.bumpN; split <;> simp [State.incReg]
@[simp] theorem State.bumpN_flashLog (o n : Nat) : (s.bumpN o n).flashLog = s.flashLog := by unfold State.bumpN; split <;> simp [State.incReg]
@[simp] theorem State.bumpN_pci (o n : Nat) : (s.bumpN o n).pci = s.pci := by unfold State.bumpN; split <;> simp [State.incReg]
@[simp] theorem State.bumpN_power (o n : Nat) : (s.bumpN o n).power = s.power := by unfold State.bumpN; split <;> simp [State.incReg]
@[simp] theorem State.bumpN_gpio (o n : Nat) : (s.bumpN o n).gpio = s.gpio := by unfold State.bumpN; split <;> simp [State.incReg]
@[simp] theorem State.bumpN_jtag (o n : Nat) : (s.bumpN o n).jtag = s.jtag := by unfold State.bumpN; split <;> simp [State.incReg]
@[simp] theorem State.bumpN_sec (o n : Nat) : (s.bumpN o n).sec = s.sec := by unfold State.bumpN; split <;> simp [State.incReg]
@[simp] theorem State.bumpN_age (o n : Nat) : (s.bumpN o n).age = s.age := by unfold State.bumpN; split <;> simp [State.incReg]
@[simp] theorem State.bumpN_host (o n : Nat) : (s.bumpN o n).host = s.host := by unfold State.bumpN; split <;> simp [State.incReg]

/-! ### State.bump -/

@[simp] theorem State.bump_pending (o : Nat) : (s.bump o).pending = s.pending := by simp [State.bump]
@[simp] theorem State.bump_freeCtr (o : Nat) : (s.bump o).freeCtr = s.freeCtr := by simp [State.bump]
@[simp] theorem State.bump_tm (o : Nat) : (s.bump o).tm = s.tm := by simp [State.bump]
@[simp] theorem State.bump_reply (o : Nat) : (s.bump o).reply = s.reply := by simp [State.bump]
@[simp] theorem State.bump_reports (o : Nat) : (s.bump o).reports = s.reports := by simp [State.bump]
@[simp] theorem State.bump_latches (o : Nat) : (s.bump o).latches = s.latches := by simp [State.bump]
@[simp] theorem State.bump_ports (o : Nat) : (s.bump o).ports = s.ports := by simp [State.bump]
@[simp] theorem State.bump_streams (o : Nat) : (s.bump o).streams = s.streams := by simp [State.bump]
@[simp] theorem State.bump_dma (o : Nat) : (s.bump o).dma = s.dma := by simp [State.bump]
@[simp] theorem State.bump_isp (o : Nat) : (s.bump o).isp = s.isp := by simp [State.bump]
@[simp] theorem State.bump_hts (o : Nat) : (s.bump o).hts = s.hts := by simp [State.bump]
@[simp] theorem State.bump_fgs (o : Nat) : (s.bump o).fgs = s.fgs := by simp [State.bump]
@[simp] theorem State.bump_tdu (o : Nat) : (s.bump o).tdu = s.tdu := by simp [State.bump]
@[simp] theorem State.bump_spm (o : Nat) : (s.bump o).spm = s.spm := by simp [State.bump]
@[simp] theorem State.bump_fte (o : Nat) : (s.bump o).fte = s.fte := by simp [State.bump]
@[simp] theorem State.bump_nc (o : Nat) : (s.bump o).nc = s.nc := by simp [State.bump]
@[simp] theorem State.bump_dram (o : Nat) : (s.bump o).dram = s.dram := by simp [State.bump]
@[simp] theorem State.bump_saf (o : Nat) : (s.bump o).saf = s.saf := by simp [State.bump]
@[simp] theorem State.bump_flashLog (o : Nat) : (s.bump o).flashLog = s.flashLog := by simp [State.bump]
@[simp] theorem State.bump_pci (o : Nat) : (s.bump o).pci = s.pci := by simp [State.bump]
@[simp] theorem State.bump_power (o : Nat) : (s.bump o).power = s.power := by simp [State.bump]
@[simp] theorem State.bump_gpio (o : Nat) : (s.bump o).gpio = s.gpio := by simp [State.bump]
@[simp] theorem State.bump_jtag (o : Nat) : (s.bump o).jtag = s.jtag := by simp [State.bump]
@[simp] theorem State.bump_sec (o : Nat) : (s.bump o).sec = s.sec := by simp [State.bump]
@[simp] theorem State.bump_age (o : Nat) : (s.bump o).age = s.age := by simp [State.bump]
@[simp] theorem State.bump_host (o : Nat) : (s.bump o).host = s.host := by simp [State.bump]

/-! ### State.bwCount -/

@[simp] theorem State.bwCount_pending (k n : Nat) : (s.bwCount k n).pending = s.pending := by unfold State.bwCount; split <;> rfl
@[simp] theorem State.bwCount_regs (k n : Nat) : (s.bwCount k n).regs = s.regs := by unfold State.bwCount; split <;> rfl
@[simp] theorem State.bwCount_freeCtr (k n : Nat) : (s.bwCount k n).freeCtr = s.freeCtr := by unfold State.bwCount; split <;> rfl
@[simp] theorem State.bwCount_tm (k n : Nat) : (s.bwCount k n).tm = s.tm := by unfold State.bwCount; split <;> rfl
@[simp] theorem State.bwCount_reply (k n : Nat) : (s.bwCount k n).reply = s.reply := by unfold State.bwCount; split <;> rfl
@[simp] theorem State.bwCount_reports (k n : Nat) : (s.bwCount k n).reports = s.reports := by unfold State.bwCount; split <;> rfl
@[simp] theorem State.bwCount_latches (k n : Nat) : (s.bwCount k n).latches = s.latches := by unfold State.bwCount; split <;> rfl
@[simp] theorem State.bwCount_ports (k n : Nat) : (s.bwCount k n).ports = s.ports := by unfold State.bwCount; split <;> rfl
@[simp] theorem State.bwCount_streams (k n : Nat) : (s.bwCount k n).streams = s.streams := by unfold State.bwCount; split <;> rfl
@[simp] theorem State.bwCount_dma (k n : Nat) : (s.bwCount k n).dma = s.dma := by unfold State.bwCount; split <;> rfl
@[simp] theorem State.bwCount_isp (k n : Nat) : (s.bwCount k n).isp = s.isp := by unfold State.bwCount; split <;> rfl
@[simp] theorem State.bwCount_hts (k n : Nat) : (s.bwCount k n).hts = s.hts := by unfold State.bwCount; split <;> rfl
@[simp] theorem State.bwCount_fgs (k n : Nat) : (s.bwCount k n).fgs = s.fgs := by unfold State.bwCount; split <;> rfl
@[simp] theorem State.bwCount_tdu (k n : Nat) : (s.bwCount k n).tdu = s.tdu := by unfold State.bwCount; split <;> rfl
@[simp] theorem State.bwCount_spm (k n : Nat) : (s.bwCount k n).spm = s.spm := by unfold State.bwCount; split <;> rfl
@[simp] theorem State.bwCount_fte (k n : Nat) : (s.bwCount k n).fte = s.fte := by unfold State.bwCount; split <;> rfl
@[simp] theorem State.bwCount_nc (k n : Nat) : (s.bwCount k n).nc = s.nc := by unfold State.bwCount; split <;> rfl
@[simp] theorem State.bwCount_dram (k n : Nat) : (s.bwCount k n).dram = s.dram := by unfold State.bwCount; split <;> rfl
@[simp] theorem State.bwCount_saf (k n : Nat) : (s.bwCount k n).saf = s.saf := by unfold State.bwCount; split <;> rfl
@[simp] theorem State.bwCount_flashLog (k n : Nat) : (s.bwCount k n).flashLog = s.flashLog := by unfold State.bwCount; split <;> rfl
@[simp] theorem State.bwCount_pci (k n : Nat) : (s.bwCount k n).pci = s.pci := by unfold State.bwCount; split <;> rfl
@[simp] theorem State.bwCount_power (k n : Nat) : (s.bwCount k n).power = s.power := by unfold State.bwCount; split <;> rfl
@[simp] theorem State.bwCount_gpio (k n : Nat) : (s.bwCount k n).gpio = s.gpio := by unfold State.bwCount; split <;> rfl
@[simp] theorem State.bwCount_jtag (k n : Nat) : (s.bwCount k n).jtag = s.jtag := by unfold State.bwCount; split <;> rfl
@[simp] theorem State.bwCount_sec (k n : Nat) : (s.bwCount k n).sec = s.sec := by unfold State.bwCount; split <;> rfl
@[simp] theorem State.bwCount_age (k n : Nat) : (s.bwCount k n).age = s.age := by unfold State.bwCount; split <;> rfl
@[simp] theorem State.bwCount_host (k n : Nat) : (s.bwCount k n).host = s.host := by unfold State.bwCount; split <;> rfl

/-! ### State.zeroRegs -/

@[simp] theorem State.zeroRegs_pending (l : List Nat) : (s.zeroRegs l).pending = s.pending := by rw [zeroRegs_regs]
@[simp] theorem State.zeroRegs_freeCtr (l : List Nat) : (s.zeroRegs l).freeCtr = s.freeCtr := by rw [zeroRegs_regs]
@[simp] theorem State.zeroRegs_tm (l : List Nat) : (s.zeroRegs l).tm = s.tm := by rw [zeroRegs_regs]
@[simp] theorem State.zeroRegs_reply (l : List Nat) : (s.zeroRegs l).reply = s.reply := by rw [zeroRegs_regs]
@[simp] theorem State.zeroRegs_reports (l : List Nat) : (s.zeroRegs l).reports = s.reports := by rw [zeroRegs_regs]
@[simp] theorem State.zeroRegs_latches (l : List Nat) : (s.zeroRegs l).latches = s.latches := by rw [zeroRegs_regs]
@[simp] theorem State.zeroRegs_ports (l : List Nat) : (s.zeroRegs l).ports = s.ports := by rw [zeroRegs_regs]
@[simp] theorem State.zeroRegs_streams (l : List Nat) : (s.zeroRegs l).streams = s.streams := by rw [zeroRegs_regs]
@[simp] theorem State.zeroRegs_dma (l : List Nat) : (s.zeroRegs l).dma = s.dma := by rw [zeroRegs_regs]
@[simp] theorem State.zeroRegs_isp (l : List Nat) : (s.zeroRegs l).isp = s.isp := by rw [zeroRegs_regs]
@[simp] theorem State.zeroRegs_hts (l : List Nat) : (s.zeroRegs l).hts = s.hts := by rw [zeroRegs_regs]
@[simp] theorem State.zeroRegs_fgs (l : List Nat) : (s.zeroRegs l).fgs = s.fgs := by rw [zeroRegs_regs]
@[simp] theorem State.zeroRegs_tdu (l : List Nat) : (s.zeroRegs l).tdu = s.tdu := by rw [zeroRegs_regs]
@[simp] theorem State.zeroRegs_spm (l : List Nat) : (s.zeroRegs l).spm = s.spm := by rw [zeroRegs_regs]
@[simp] theorem State.zeroRegs_fte (l : List Nat) : (s.zeroRegs l).fte = s.fte := by rw [zeroRegs_regs]
@[simp] theorem State.zeroRegs_nc (l : List Nat) : (s.zeroRegs l).nc = s.nc := by rw [zeroRegs_regs]
@[simp] theorem State.zeroRegs_dram (l : List Nat) : (s.zeroRegs l).dram = s.dram := by rw [zeroRegs_regs]
@[simp] theorem State.zeroRegs_saf (l : List Nat) : (s.zeroRegs l).saf = s.saf := by rw [zeroRegs_regs]
@[simp] theorem State.zeroRegs_pmc (l : List Nat) : (s.zeroRegs l).pmc = s.pmc := by rw [zeroRegs_regs]
@[simp] theorem State.zeroRegs_flashLog (l : List Nat) : (s.zeroRegs l).flashLog = s.flashLog := by rw [zeroRegs_regs]
@[simp] theorem State.zeroRegs_pci (l : List Nat) : (s.zeroRegs l).pci = s.pci := by rw [zeroRegs_regs]
@[simp] theorem State.zeroRegs_power (l : List Nat) : (s.zeroRegs l).power = s.power := by rw [zeroRegs_regs]
@[simp] theorem State.zeroRegs_gpio (l : List Nat) : (s.zeroRegs l).gpio = s.gpio := by rw [zeroRegs_regs]
@[simp] theorem State.zeroRegs_jtag (l : List Nat) : (s.zeroRegs l).jtag = s.jtag := by rw [zeroRegs_regs]
@[simp] theorem State.zeroRegs_sec (l : List Nat) : (s.zeroRegs l).sec = s.sec := by rw [zeroRegs_regs]
@[simp] theorem State.zeroRegs_age (l : List Nat) : (s.zeroRegs l).age = s.age := by rw [zeroRegs_regs]
@[simp] theorem State.zeroRegs_host (l : List Nat) : (s.zeroRegs l).host = s.host := by rw [zeroRegs_regs]

/-! ### State.notice -/

@[simp] theorem State.notice_pending (b : Nat) : (s.notice b).pending = s.pending := by simp [State.notice]
@[simp] theorem State.notice_freeCtr (b : Nat) : (s.notice b).freeCtr = s.freeCtr := by simp [State.notice]
@[simp] theorem State.notice_tm (b : Nat) : (s.notice b).tm = s.tm := by simp [State.notice]
@[simp] theorem State.notice_reply (b : Nat) : (s.notice b).reply = s.reply := by simp [State.notice]
@[simp] theorem State.notice_reports (b : Nat) : (s.notice b).reports = s.reports := by simp [State.notice]
@[simp] theorem State.notice_latches (b : Nat) : (s.notice b).latches = s.latches := by simp [State.notice]
@[simp] theorem State.notice_ports (b : Nat) : (s.notice b).ports = s.ports := by simp [State.notice]
@[simp] theorem State.notice_streams (b : Nat) : (s.notice b).streams = s.streams := by simp [State.notice]
@[simp] theorem State.notice_dma (b : Nat) : (s.notice b).dma = s.dma := by simp [State.notice]
@[simp] theorem State.notice_isp (b : Nat) : (s.notice b).isp = s.isp := by simp [State.notice]
@[simp] theorem State.notice_hts (b : Nat) : (s.notice b).hts = s.hts := by simp [State.notice]
@[simp] theorem State.notice_fgs (b : Nat) : (s.notice b).fgs = s.fgs := by simp [State.notice]
@[simp] theorem State.notice_tdu (b : Nat) : (s.notice b).tdu = s.tdu := by simp [State.notice]
@[simp] theorem State.notice_spm (b : Nat) : (s.notice b).spm = s.spm := by simp [State.notice]
@[simp] theorem State.notice_fte (b : Nat) : (s.notice b).fte = s.fte := by simp [State.notice]
@[simp] theorem State.notice_nc (b : Nat) : (s.notice b).nc = s.nc := by simp [State.notice]
@[simp] theorem State.notice_dram (b : Nat) : (s.notice b).dram = s.dram := by simp [State.notice]
@[simp] theorem State.notice_saf (b : Nat) : (s.notice b).saf = s.saf := by simp [State.notice]
@[simp] theorem State.notice_flashLog (b : Nat) : (s.notice b).flashLog = s.flashLog := by simp [State.notice]
@[simp] theorem State.notice_pci (b : Nat) : (s.notice b).pci = s.pci := by simp [State.notice]
@[simp] theorem State.notice_power (b : Nat) : (s.notice b).power = s.power := by simp [State.notice]
@[simp] theorem State.notice_gpio (b : Nat) : (s.notice b).gpio = s.gpio := by simp [State.notice]
@[simp] theorem State.notice_jtag (b : Nat) : (s.notice b).jtag = s.jtag := by simp [State.notice]
@[simp] theorem State.notice_sec (b : Nat) : (s.notice b).sec = s.sec := by simp [State.notice]
@[simp] theorem State.notice_age (b : Nat) : (s.notice b).age = s.age := by simp [State.notice]

/-! ### State.cause -/

@[simp] theorem State.cause_pending (c a p : Nat) (i : Word) : (s.cause c a p i).pending = s.pending := by unfold State.cause; dsimp only; (repeat' split) <;> rfl
@[simp] theorem State.cause_freeCtr (c a p : Nat) (i : Word) : (s.cause c a p i).freeCtr = s.freeCtr := by unfold State.cause; dsimp only; (repeat' split) <;> rfl
@[simp] theorem State.cause_tm (c a p : Nat) (i : Word) : (s.cause c a p i).tm = s.tm := by unfold State.cause; dsimp only; (repeat' split) <;> rfl
@[simp] theorem State.cause_reply (c a p : Nat) (i : Word) : (s.cause c a p i).reply = s.reply := by unfold State.cause; dsimp only; (repeat' split) <;> rfl
@[simp] theorem State.cause_reports (c a p : Nat) (i : Word) : (s.cause c a p i).reports = s.reports := by unfold State.cause; dsimp only; (repeat' split) <;> rfl
@[simp] theorem State.cause_latches (c a p : Nat) (i : Word) : (s.cause c a p i).latches = s.latches := by unfold State.cause; dsimp only; (repeat' split) <;> rfl
@[simp] theorem State.cause_ports (c a p : Nat) (i : Word) : (s.cause c a p i).ports = s.ports := by unfold State.cause; dsimp only; (repeat' split) <;> rfl
@[simp] theorem State.cause_streams (c a p : Nat) (i : Word) : (s.cause c a p i).streams = s.streams := by unfold State.cause; dsimp only; (repeat' split) <;> rfl
@[simp] theorem State.cause_dma (c a p : Nat) (i : Word) : (s.cause c a p i).dma = s.dma := by unfold State.cause; dsimp only; (repeat' split) <;> rfl
@[simp] theorem State.cause_isp (c a p : Nat) (i : Word) : (s.cause c a p i).isp = s.isp := by unfold State.cause; dsimp only; (repeat' split) <;> rfl
@[simp] theorem State.cause_hts (c a p : Nat) (i : Word) : (s.cause c a p i).hts = s.hts := by unfold State.cause; dsimp only; (repeat' split) <;> rfl
@[simp] theorem State.cause_fgs (c a p : Nat) (i : Word) : (s.cause c a p i).fgs = s.fgs := by unfold State.cause; dsimp only; (repeat' split) <;> rfl
@[simp] theorem State.cause_tdu (c a p : Nat) (i : Word) : (s.cause c a p i).tdu = s.tdu := by unfold State.cause; dsimp only; (repeat' split) <;> rfl
@[simp] theorem State.cause_spm (c a p : Nat) (i : Word) : (s.cause c a p i).spm = s.spm := by unfold State.cause; dsimp only; (repeat' split) <;> rfl
@[simp] theorem State.cause_fte (c a p : Nat) (i : Word) : (s.cause c a p i).fte = s.fte := by unfold State.cause; dsimp only; (repeat' split) <;> rfl
@[simp] theorem State.cause_nc (c a p : Nat) (i : Word) : (s.cause c a p i).nc = s.nc := by unfold State.cause; dsimp only; (repeat' split) <;> rfl
@[simp] theorem State.cause_dram (c a p : Nat) (i : Word) : (s.cause c a p i).dram = s.dram := by unfold State.cause; dsimp only; (repeat' split) <;> rfl
@[simp] theorem State.cause_pmc (c a p : Nat) (i : Word) : (s.cause c a p i).pmc = s.pmc := by unfold State.cause; dsimp only; (repeat' split) <;> rfl
@[simp] theorem State.cause_flashLog (c a p : Nat) (i : Word) : (s.cause c a p i).flashLog = s.flashLog := by unfold State.cause; dsimp only; (repeat' split) <;> rfl
@[simp] theorem State.cause_power (c a p : Nat) (i : Word) : (s.cause c a p i).power = s.power := by unfold State.cause; dsimp only; (repeat' split) <;> rfl
@[simp] theorem State.cause_gpio (c a p : Nat) (i : Word) : (s.cause c a p i).gpio = s.gpio := by unfold State.cause; dsimp only; (repeat' split) <;> rfl
@[simp] theorem State.cause_jtag (c a p : Nat) (i : Word) : (s.cause c a p i).jtag = s.jtag := by unfold State.cause; dsimp only; (repeat' split) <;> rfl
@[simp] theorem State.cause_sec (c a p : Nat) (i : Word) : (s.cause c a p i).sec = s.sec := by unfold State.cause; dsimp only; (repeat' split) <;> rfl
@[simp] theorem State.cause_age (c a p : Nat) (i : Word) : (s.cause c a p i).age = s.age := by unfold State.cause; dsimp only; (repeat' split) <;> rfl
@[simp] theorem State.cause_host (c a p : Nat) (i : Word) : (s.cause c a p i).host = s.host := by unfold State.cause; dsimp only; (repeat' split) <;> rfl

/-! ### State.refuse -/

@[simp] theorem State.refuse_pending (a : Agent) (o : Nat) : (s.refuse a o).pending = s.pending := by unfold State.refuse; dsimp only; split <;> simp
@[simp] theorem State.refuse_freeCtr (a : Agent) (o : Nat) : (s.refuse a o).freeCtr = s.freeCtr := by unfold State.refuse; dsimp only; split <;> simp
@[simp] theorem State.refuse_tm (a : Agent) (o : Nat) : (s.refuse a o).tm = s.tm := by unfold State.refuse; dsimp only; split <;> simp
@[simp] theorem State.refuse_reply (a : Agent) (o : Nat) : (s.refuse a o).reply = s.reply := by unfold State.refuse; dsimp only; split <;> simp
@[simp] theorem State.refuse_latches (a : Agent) (o : Nat) : (s.refuse a o).latches = s.latches := by unfold State.refuse; dsimp only; split <;> simp
@[simp] theorem State.refuse_ports (a : Agent) (o : Nat) : (s.refuse a o).ports = s.ports := by unfold State.refuse; dsimp only; split <;> simp
@[simp] theorem State.refuse_streams (a : Agent) (o : Nat) : (s.refuse a o).streams = s.streams := by unfold State.refuse; dsimp only; split <;> simp
@[simp] theorem State.refuse_dma (a : Agent) (o : Nat) : (s.refuse a o).dma = s.dma := by unfold State.refuse; dsimp only; split <;> simp
@[simp] theorem State.refuse_isp (a : Agent) (o : Nat) : (s.refuse a o).isp = s.isp := by unfold State.refuse; dsimp only; split <;> simp
@[simp] theorem State.refuse_hts (a : Agent) (o : Nat) : (s.refuse a o).hts = s.hts := by unfold State.refuse; dsimp only; split <;> simp
@[simp] theorem State.refuse_fgs (a : Agent) (o : Nat) : (s.refuse a o).fgs = s.fgs := by unfold State.refuse; dsimp only; split <;> simp
@[simp] theorem State.refuse_tdu (a : Agent) (o : Nat) : (s.refuse a o).tdu = s.tdu := by unfold State.refuse; dsimp only; split <;> simp
@[simp] theorem State.refuse_spm (a : Agent) (o : Nat) : (s.refuse a o).spm = s.spm := by unfold State.refuse; dsimp only; split <;> simp
@[simp] theorem State.refuse_fte (a : Agent) (o : Nat) : (s.refuse a o).fte = s.fte := by unfold State.refuse; dsimp only; split <;> simp
@[simp] theorem State.refuse_nc (a : Agent) (o : Nat) : (s.refuse a o).nc = s.nc := by unfold State.refuse; dsimp only; split <;> simp
@[simp] theorem State.refuse_dram (a : Agent) (o : Nat) : (s.refuse a o).dram = s.dram := by unfold State.refuse; dsimp only; split <;> simp
@[simp] theorem State.refuse_saf (a : Agent) (o : Nat) : (s.refuse a o).saf = s.saf := by unfold State.refuse; dsimp only; split <;> simp
@[simp] theorem State.refuse_flashLog (a : Agent) (o : Nat) : (s.refuse a o).flashLog = s.flashLog := by unfold State.refuse; dsimp only; split <;> simp
@[simp] theorem State.refuse_pci (a : Agent) (o : Nat) : (s.refuse a o).pci = s.pci := by unfold State.refuse; dsimp only; split <;> simp
@[simp] theorem State.refuse_power (a : Agent) (o : Nat) : (s.refuse a o).power = s.power := by unfold State.refuse; dsimp only; split <;> simp
@[simp] theorem State.refuse_gpio (a : Agent) (o : Nat) : (s.refuse a o).gpio = s.gpio := by unfold State.refuse; dsimp only; split <;> simp
@[simp] theorem State.refuse_jtag (a : Agent) (o : Nat) : (s.refuse a o).jtag = s.jtag := by unfold State.refuse; dsimp only; split <;> simp
@[simp] theorem State.refuse_sec (a : Agent) (o : Nat) : (s.refuse a o).sec = s.sec := by unfold State.refuse; dsimp only; split <;> simp
@[simp] theorem State.refuse_age (a : Agent) (o : Nat) : (s.refuse a o).age = s.age := by unfold State.refuse; dsimp only; split <;> simp

/-! ### State.refuseSys -/

@[simp] theorem State.refuseSys_pending (a : Agent) : (s.refuseSys a).pending = s.pending := (rfl)
@[simp] theorem State.refuseSys_regs (a : Agent) : (s.refuseSys a).regs = s.regs := (rfl)
@[simp] theorem State.refuseSys_freeCtr (a : Agent) : (s.refuseSys a).freeCtr = s.freeCtr := (rfl)
@[simp] theorem State.refuseSys_tm (a : Agent) : (s.refuseSys a).tm = s.tm := (rfl)
@[simp] theorem State.refuseSys_reply (a : Agent) : (s.refuseSys a).reply = s.reply := (rfl)
@[simp] theorem State.refuseSys_latches (a : Agent) : (s.refuseSys a).latches = s.latches := (rfl)
@[simp] theorem State.refuseSys_ports (a : Agent) : (s.refuseSys a).ports = s.ports := (rfl)
@[simp] theorem State.refuseSys_streams (a : Agent) : (s.refuseSys a).streams = s.streams := (rfl)
@[simp] theorem State.refuseSys_dma (a : Agent) : (s.refuseSys a).dma = s.dma := (rfl)
@[simp] theorem State.refuseSys_isp (a : Agent) : (s.refuseSys a).isp = s.isp := (rfl)
@[simp] theorem State.refuseSys_hts (a : Agent) : (s.refuseSys a).hts = s.hts := (rfl)
@[simp] theorem State.refuseSys_fgs (a : Agent) : (s.refuseSys a).fgs = s.fgs := (rfl)
@[simp] theorem State.refuseSys_tdu (a : Agent) : (s.refuseSys a).tdu = s.tdu := (rfl)
@[simp] theorem State.refuseSys_spm (a : Agent) : (s.refuseSys a).spm = s.spm := (rfl)
@[simp] theorem State.refuseSys_fte (a : Agent) : (s.refuseSys a).fte = s.fte := (rfl)
@[simp] theorem State.refuseSys_nc (a : Agent) : (s.refuseSys a).nc = s.nc := (rfl)
@[simp] theorem State.refuseSys_dram (a : Agent) : (s.refuseSys a).dram = s.dram := (rfl)
@[simp] theorem State.refuseSys_saf (a : Agent) : (s.refuseSys a).saf = s.saf := (rfl)
@[simp] theorem State.refuseSys_pmc (a : Agent) : (s.refuseSys a).pmc = s.pmc := (rfl)
@[simp] theorem State.refuseSys_flashLog (a : Agent) : (s.refuseSys a).flashLog = s.flashLog := (rfl)
@[simp] theorem State.refuseSys_pci (a : Agent) : (s.refuseSys a).pci = s.pci := (rfl)
@[simp] theorem State.refuseSys_power (a : Agent) : (s.refuseSys a).power = s.power := (rfl)
@[simp] theorem State.refuseSys_gpio (a : Agent) : (s.refuseSys a).gpio = s.gpio := (rfl)
@[simp] theorem State.refuseSys_jtag (a : Agent) : (s.refuseSys a).jtag = s.jtag := (rfl)
@[simp] theorem State.refuseSys_sec (a : Agent) : (s.refuseSys a).sec = s.sec := (rfl)
@[simp] theorem State.refuseSys_age (a : Agent) : (s.refuseSys a).age = s.age := (rfl)
@[simp] theorem State.refuseSys_host (a : Agent) : (s.refuseSys a).host = s.host := (rfl)

/-! ### Registers after events, interrupts and causes -/

variable {s}

/-- Registers are read from the register file alone. -/
theorem reg_of_regs {t : State} (h : t.regs = s.regs) (o : Nat) : t.reg o = s.reg o := by unfold State.reg; rw [h]

@[simp] theorem reg_irqRaise (n o : Nat) : (s.irqRaise n).reg o = s.reg o := by simp [State.reg]
@[simp] theorem reg_irqDrop (n o : Nat) : (s.irqDrop n).reg o = s.reg o := (rfl)
@[simp] theorem reg_bwCount (k n o : Nat) : (s.bwCount k n).reg o = s.reg o := by simp [State.reg]
@[simp] theorem reg_answer (r : Reply) (o : Nat) : (s.answer r).reg o = s.reg o := (rfl)
@[simp] theorem reg_report (a st p o : Nat) : (s.report a st p).reg o = s.reg o := (rfl)
@[simp] theorem reg_withPending (q : List Instr) (o : Nat) : (s.withPending q).reg o = s.reg o := (rfl)

/-- An interrupt source that is raised pends. -/
theorem mem_irqRaise (n : Nat) : n ∈ (s.irqRaise n).host.irq := by
  show n ∈ if s.host.irq.contains n then s.host.irq else s.host.irq ++ [n]
  split
  · rename_i h; simpa using h
  · simp

/-- An event changes no register but the overflow word of its counter. -/
theorem reg_count {i n o : Nat} (h : o ≠ R.PMC_OVF (i / 32)) : (s.count i n).reg o = s.reg o := by
  unfold State.count
  split
  · rfl
  · dsimp only
    split
    · rfl
    · rw [reg_setFlag_other h]; rfl

/-- An event of a counter register changes, beside it, no register but overflow words. -/
theorem reg_bumpN {off n o : Nat} (ho : o ≠ off) (h : ∀ k, o ≠ R.PMC_OVF k) : (s.bumpN off n).reg o = s.reg o := by
  unfold State.bumpN
  dsimp only
  split
  · rw [reg_count (h _), State.incReg, reg_setReg_other ho]
  · rw [State.incReg, reg_setReg_other ho]

theorem reg_bump {off o : Nat} (ho : o ≠ off) (h : ∀ k, o ≠ R.PMC_OVF k) : (s.bump off).reg o = s.reg o := reg_bumpN ho h

/-! ### State.cmdBegin -/

@[simp] theorem State.cmdBegin_pending (o b : Nat) : (s.cmdBegin o b).pending = s.pending := (rfl)
@[simp] theorem State.cmdBegin_regs (o b : Nat) : (s.cmdBegin o b).regs = s.regs := (rfl)
@[simp] theorem State.cmdBegin_freeCtr (o b : Nat) : (s.cmdBegin o b).freeCtr = s.freeCtr := (rfl)
@[simp] theorem State.cmdBegin_reply (o b : Nat) : (s.cmdBegin o b).reply = s.reply := (rfl)
@[simp] theorem State.cmdBegin_reports (o b : Nat) : (s.cmdBegin o b).reports = s.reports := (rfl)
@[simp] theorem State.cmdBegin_latches (o b : Nat) : (s.cmdBegin o b).latches = s.latches := (rfl)
@[simp] theorem State.cmdBegin_ports (o b : Nat) : (s.cmdBegin o b).ports = s.ports := (rfl)
@[simp] theorem State.cmdBegin_streams (o b : Nat) : (s.cmdBegin o b).streams = s.streams := (rfl)
@[simp] theorem State.cmdBegin_dma (o b : Nat) : (s.cmdBegin o b).dma = s.dma := (rfl)
@[simp] theorem State.cmdBegin_isp (o b : Nat) : (s.cmdBegin o b).isp = s.isp := (rfl)
@[simp] theorem State.cmdBegin_hts (o b : Nat) : (s.cmdBegin o b).hts = s.hts := (rfl)
@[simp] theorem State.cmdBegin_fgs (o b : Nat) : (s.cmdBegin o b).fgs = s.fgs := (rfl)
@[simp] theorem State.cmdBegin_tdu (o b : Nat) : (s.cmdBegin o b).tdu = s.tdu := (rfl)
@[simp] theorem State.cmdBegin_spm (o b : Nat) : (s.cmdBegin o b).spm = s.spm := (rfl)
@[simp] theorem State.cmdBegin_fte (o b : Nat) : (s.cmdBegin o b).fte = s.fte := (rfl)
@[simp] theorem State.cmdBegin_nc (o b : Nat) : (s.cmdBegin o b).nc = s.nc := (rfl)
@[simp] theorem State.cmdBegin_dram (o b : Nat) : (s.cmdBegin o b).dram = s.dram := (rfl)
@[simp] theorem State.cmdBegin_saf (o b : Nat) : (s.cmdBegin o b).saf = s.saf := (rfl)
@[simp] theorem State.cmdBegin_pmc (o b : Nat) : (s.cmdBegin o b).pmc = s.pmc := (rfl)
@[simp] theorem State.cmdBegin_flashLog (o b : Nat) : (s.cmdBegin o b).flashLog = s.flashLog := (rfl)
@[simp] theorem State.cmdBegin_pci (o b : Nat) : (s.cmdBegin o b).pci = s.pci := (rfl)
@[simp] theorem State.cmdBegin_power (o b : Nat) : (s.cmdBegin o b).power = s.power := (rfl)
@[simp] theorem State.cmdBegin_gpio (o b : Nat) : (s.cmdBegin o b).gpio = s.gpio := (rfl)
@[simp] theorem State.cmdBegin_jtag (o b : Nat) : (s.cmdBegin o b).jtag = s.jtag := (rfl)
@[simp] theorem State.cmdBegin_sec (o b : Nat) : (s.cmdBegin o b).sec = s.sec := (rfl)
@[simp] theorem State.cmdBegin_age (o b : Nat) : (s.cmdBegin o b).age = s.age := (rfl)
@[simp] theorem State.cmdBegin_host (o b : Nat) : (s.cmdBegin o b).host = s.host := (rfl)
@[simp] theorem State.cmdBegin_awake (o b : Nat) : (s.cmdBegin o b).awake = s.awake := (rfl)

/-! ### State.groupNote -/

@[simp] theorem State.groupNote_pending (g : Nat) (x : Word × Word) : (s.groupNote g x).pending = s.pending := (rfl)
@[simp] theorem State.groupNote_regs (g : Nat) (x : Word × Word) : (s.groupNote g x).regs = s.regs := (rfl)
@[simp] theorem State.groupNote_freeCtr (g : Nat) (x : Word × Word) : (s.groupNote g x).freeCtr = s.freeCtr := (rfl)
@[simp] theorem State.groupNote_tm (g : Nat) (x : Word × Word) : (s.groupNote g x).tm = s.tm := (rfl)
@[simp] theorem State.groupNote_reply (g : Nat) (x : Word × Word) : (s.groupNote g x).reply = s.reply := (rfl)
@[simp] theorem State.groupNote_reports (g : Nat) (x : Word × Word) : (s.groupNote g x).reports = s.reports := (rfl)
@[simp] theorem State.groupNote_latches (g : Nat) (x : Word × Word) : (s.groupNote g x).latches = s.latches := (rfl)
@[simp] theorem State.groupNote_ports (g : Nat) (x : Word × Word) : (s.groupNote g x).ports = s.ports := (rfl)
@[simp] theorem State.groupNote_streams (g : Nat) (x : Word × Word) : (s.groupNote g x).streams = s.streams := (rfl)
@[simp] theorem State.groupNote_dma (g : Nat) (x : Word × Word) : (s.groupNote g x).dma = s.dma := (rfl)
@[simp] theorem State.groupNote_isp (g : Nat) (x : Word × Word) : (s.groupNote g x).isp = s.isp := (rfl)
@[simp] theorem State.groupNote_fgs (g : Nat) (x : Word × Word) : (s.groupNote g x).fgs = s.fgs := (rfl)
@[simp] theorem State.groupNote_tdu (g : Nat) (x : Word × Word) : (s.groupNote g x).tdu = s.tdu := (rfl)
@[simp] theorem State.groupNote_spm (g : Nat) (x : Word × Word) : (s.groupNote g x).spm = s.spm := (rfl)
@[simp] theorem State.groupNote_fte (g : Nat) (x : Word × Word) : (s.groupNote g x).fte = s.fte := (rfl)
@[simp] theorem State.groupNote_nc (g : Nat) (x : Word × Word) : (s.groupNote g x).nc = s.nc := (rfl)
@[simp] theorem State.groupNote_dram (g : Nat) (x : Word × Word) : (s.groupNote g x).dram = s.dram := (rfl)
@[simp] theorem State.groupNote_saf (g : Nat) (x : Word × Word) : (s.groupNote g x).saf = s.saf := (rfl)
@[simp] theorem State.groupNote_pmc (g : Nat) (x : Word × Word) : (s.groupNote g x).pmc = s.pmc := (rfl)
@[simp] theorem State.groupNote_flashLog (g : Nat) (x : Word × Word) : (s.groupNote g x).flashLog = s.flashLog := (rfl)
@[simp] theorem State.groupNote_pci (g : Nat) (x : Word × Word) : (s.groupNote g x).pci = s.pci := (rfl)
@[simp] theorem State.groupNote_power (g : Nat) (x : Word × Word) : (s.groupNote g x).power = s.power := (rfl)
@[simp] theorem State.groupNote_gpio (g : Nat) (x : Word × Word) : (s.groupNote g x).gpio = s.gpio := (rfl)
@[simp] theorem State.groupNote_jtag (g : Nat) (x : Word × Word) : (s.groupNote g x).jtag = s.jtag := (rfl)
@[simp] theorem State.groupNote_sec (g : Nat) (x : Word × Word) : (s.groupNote g x).sec = s.sec := (rfl)
@[simp] theorem State.groupNote_age (g : Nat) (x : Word × Word) : (s.groupNote g x).age = s.age := (rfl)
@[simp] theorem State.groupNote_host (g : Nat) (x : Word × Word) : (s.groupNote g x).host = s.host := (rfl)
@[simp] theorem State.groupNote_awake (g : Nat) (x : Word × Word) : (s.groupNote g x).awake = s.awake := (rfl)

/-! ### State.setTask -/

@[simp] theorem State.setTask_pending (i : Nat) (t : Task) : (s.setTask i t).pending = s.pending := (rfl)
@[simp] theorem State.setTask_regs (i : Nat) (t : Task) : (s.setTask i t).regs = s.regs := (rfl)
@[simp] theorem State.setTask_freeCtr (i : Nat) (t : Task) : (s.setTask i t).freeCtr = s.freeCtr := (rfl)
@[simp] theorem State.setTask_tm (i : Nat) (t : Task) : (s.setTask i t).tm = s.tm := (rfl)
@[simp] theorem State.setTask_reply (i : Nat) (t : Task) : (s.setTask i t).reply = s.reply := (rfl)
@[simp] theorem State.setTask_reports (i : Nat) (t : Task) : (s.setTask i t).reports = s.reports := (rfl)
@[simp] theorem State.setTask_latches (i : Nat) (t : Task) : (s.setTask i t).latches = s.latches := (rfl)
@[simp] theorem State.setTask_ports (i : Nat) (t : Task) : (s.setTask i t).ports = s.ports := (rfl)
@[simp] theorem State.setTask_streams (i : Nat) (t : Task) : (s.setTask i t).streams = s.streams := (rfl)
@[simp] theorem State.setTask_dma (i : Nat) (t : Task) : (s.setTask i t).dma = s.dma := (rfl)
@[simp] theorem State.setTask_isp (i : Nat) (t : Task) : (s.setTask i t).isp = s.isp := (rfl)
@[simp] theorem State.setTask_fgs (i : Nat) (t : Task) : (s.setTask i t).fgs = s.fgs := (rfl)
@[simp] theorem State.setTask_tdu (i : Nat) (t : Task) : (s.setTask i t).tdu = s.tdu := (rfl)
@[simp] theorem State.setTask_spm (i : Nat) (t : Task) : (s.setTask i t).spm = s.spm := (rfl)
@[simp] theorem State.setTask_fte (i : Nat) (t : Task) : (s.setTask i t).fte = s.fte := (rfl)
@[simp] theorem State.setTask_nc (i : Nat) (t : Task) : (s.setTask i t).nc = s.nc := (rfl)
@[simp] theorem State.setTask_dram (i : Nat) (t : Task) : (s.setTask i t).dram = s.dram := (rfl)
@[simp] theorem State.setTask_saf (i : Nat) (t : Task) : (s.setTask i t).saf = s.saf := (rfl)
@[simp] theorem State.setTask_pmc (i : Nat) (t : Task) : (s.setTask i t).pmc = s.pmc := (rfl)
@[simp] theorem State.setTask_flashLog (i : Nat) (t : Task) : (s.setTask i t).flashLog = s.flashLog := (rfl)
@[simp] theorem State.setTask_pci (i : Nat) (t : Task) : (s.setTask i t).pci = s.pci := (rfl)
@[simp] theorem State.setTask_power (i : Nat) (t : Task) : (s.setTask i t).power = s.power := (rfl)
@[simp] theorem State.setTask_gpio (i : Nat) (t : Task) : (s.setTask i t).gpio = s.gpio := (rfl)
@[simp] theorem State.setTask_jtag (i : Nat) (t : Task) : (s.setTask i t).jtag = s.jtag := (rfl)
@[simp] theorem State.setTask_sec (i : Nat) (t : Task) : (s.setTask i t).sec = s.sec := (rfl)
@[simp] theorem State.setTask_age (i : Nat) (t : Task) : (s.setTask i t).age = s.age := (rfl)
@[simp] theorem State.setTask_host (i : Nat) (t : Task) : (s.setTask i t).host = s.host := (rfl)
@[simp] theorem State.setTask_awake (i : Nat) (t : Task) : (s.setTask i t).awake = s.awake := (rfl)

/-! ### State.modTask -/

@[simp] theorem State.modTask_pending (i : Nat) (f : Task → Task) : (s.modTask i f).pending = s.pending := (rfl)
@[simp] theorem State.modTask_regs (i : Nat) (f : Task → Task) : (s.modTask i f).regs = s.regs := (rfl)
@[simp] theorem State.modTask_freeCtr (i : Nat) (f : Task → Task) : (s.modTask i f).freeCtr = s.freeCtr := (rfl)
@[simp] theorem State.modTask_tm (i : Nat) (f : Task → Task) : (s.modTask i f).tm = s.tm := (rfl)
@[simp] theorem State.modTask_reply (i : Nat) (f : Task → Task) : (s.modTask i f).reply = s.reply := (rfl)
@[simp] theorem State.modTask_reports (i : Nat) (f : Task → Task) : (s.modTask i f).reports = s.reports := (rfl)
@[simp] theorem State.modTask_latches (i : Nat) (f : Task → Task) : (s.modTask i f).latches = s.latches := (rfl)
@[simp] theorem State.modTask_ports (i : Nat) (f : Task → Task) : (s.modTask i f).ports = s.ports := (rfl)
@[simp] theorem State.modTask_streams (i : Nat) (f : Task → Task) : (s.modTask i f).streams = s.streams := (rfl)
@[simp] theorem State.modTask_dma (i : Nat) (f : Task → Task) : (s.modTask i f).dma = s.dma := (rfl)
@[simp] theorem State.modTask_isp (i : Nat) (f : Task → Task) : (s.modTask i f).isp = s.isp := (rfl)
@[simp] theorem State.modTask_fgs (i : Nat) (f : Task → Task) : (s.modTask i f).fgs = s.fgs := (rfl)
@[simp] theorem State.modTask_tdu (i : Nat) (f : Task → Task) : (s.modTask i f).tdu = s.tdu := (rfl)
@[simp] theorem State.modTask_spm (i : Nat) (f : Task → Task) : (s.modTask i f).spm = s.spm := (rfl)
@[simp] theorem State.modTask_fte (i : Nat) (f : Task → Task) : (s.modTask i f).fte = s.fte := (rfl)
@[simp] theorem State.modTask_nc (i : Nat) (f : Task → Task) : (s.modTask i f).nc = s.nc := (rfl)
@[simp] theorem State.modTask_dram (i : Nat) (f : Task → Task) : (s.modTask i f).dram = s.dram := (rfl)
@[simp] theorem State.modTask_saf (i : Nat) (f : Task → Task) : (s.modTask i f).saf = s.saf := (rfl)
@[simp] theorem State.modTask_pmc (i : Nat) (f : Task → Task) : (s.modTask i f).pmc = s.pmc := (rfl)
@[simp] theorem State.modTask_flashLog (i : Nat) (f : Task → Task) : (s.modTask i f).flashLog = s.flashLog := (rfl)
@[simp] theorem State.modTask_pci (i : Nat) (f : Task → Task) : (s.modTask i f).pci = s.pci := (rfl)
@[simp] theorem State.modTask_power (i : Nat) (f : Task → Task) : (s.modTask i f).power = s.power := (rfl)
@[simp] theorem State.modTask_gpio (i : Nat) (f : Task → Task) : (s.modTask i f).gpio = s.gpio := (rfl)
@[simp] theorem State.modTask_jtag (i : Nat) (f : Task → Task) : (s.modTask i f).jtag = s.jtag := (rfl)
@[simp] theorem State.modTask_sec (i : Nat) (f : Task → Task) : (s.modTask i f).sec = s.sec := (rfl)
@[simp] theorem State.modTask_age (i : Nat) (f : Task → Task) : (s.modTask i f).age = s.age := (rfl)
@[simp] theorem State.modTask_host (i : Nat) (f : Task → Task) : (s.modTask i f).host = s.host := (rfl)
@[simp] theorem State.modTask_awake (i : Nat) (f : Task → Task) : (s.modTask i f).awake = s.awake := (rfl)

/-! ### State.setStream -/

@[simp] theorem State.setStream_pending (i : Nat) (x : Stream) : (s.setStream i x).pending = s.pending := (rfl)
@[simp] theorem State.setStream_regs (i : Nat) (x : Stream) : (s.setStream i x).regs = s.regs := (rfl)
@[simp] theorem State.setStream_freeCtr (i : Nat) (x : Stream) : (s.setStream i x).freeCtr = s.freeCtr := (rfl)
@[simp] theorem State.setStream_tm (i : Nat) (x : Stream) : (s.setStream i x).tm = s.tm := (rfl)
@[simp] theorem State.setStream_reply (i : Nat) (x : Stream) : (s.setStream i x).reply = s.reply := (rfl)
@[simp] theorem State.setStream_reports (i : Nat) (x : Stream) : (s.setStream i x).reports = s.reports := (rfl)
@[simp] theorem State.setStream_latches (i : Nat) (x : Stream) : (s.setStream i x).latches = s.latches := (rfl)
@[simp] theorem State.setStream_ports (i : Nat) (x : Stream) : (s.setStream i x).ports = s.ports := (rfl)
@[simp] theorem State.setStream_dma (i : Nat) (x : Stream) : (s.setStream i x).dma = s.dma := (rfl)
@[simp] theorem State.setStream_isp (i : Nat) (x : Stream) : (s.setStream i x).isp = s.isp := (rfl)
@[simp] theorem State.setStream_hts (i : Nat) (x : Stream) : (s.setStream i x).hts = s.hts := (rfl)
@[simp] theorem State.setStream_fgs (i : Nat) (x : Stream) : (s.setStream i x).fgs = s.fgs := (rfl)
@[simp] theorem State.setStream_tdu (i : Nat) (x : Stream) : (s.setStream i x).tdu = s.tdu := (rfl)
@[simp] theorem State.setStream_spm (i : Nat) (x : Stream) : (s.setStream i x).spm = s.spm := (rfl)
@[simp] theorem State.setStream_fte (i : Nat) (x : Stream) : (s.setStream i x).fte = s.fte := (rfl)
@[simp] theorem State.setStream_nc (i : Nat) (x : Stream) : (s.setStream i x).nc = s.nc := (rfl)
@[simp] theorem State.setStream_dram (i : Nat) (x : Stream) : (s.setStream i x).dram = s.dram := (rfl)
@[simp] theorem State.setStream_saf (i : Nat) (x : Stream) : (s.setStream i x).saf = s.saf := (rfl)
@[simp] theorem State.setStream_pmc (i : Nat) (x : Stream) : (s.setStream i x).pmc = s.pmc := (rfl)
@[simp] theorem State.setStream_flashLog (i : Nat) (x : Stream) : (s.setStream i x).flashLog = s.flashLog := (rfl)
@[simp] theorem State.setStream_pci (i : Nat) (x : Stream) : (s.setStream i x).pci = s.pci := (rfl)
@[simp] theorem State.setStream_power (i : Nat) (x : Stream) : (s.setStream i x).power = s.power := (rfl)
@[simp] theorem State.setStream_gpio (i : Nat) (x : Stream) : (s.setStream i x).gpio = s.gpio := (rfl)
@[simp] theorem State.setStream_jtag (i : Nat) (x : Stream) : (s.setStream i x).jtag = s.jtag := (rfl)
@[simp] theorem State.setStream_sec (i : Nat) (x : Stream) : (s.setStream i x).sec = s.sec := (rfl)
@[simp] theorem State.setStream_age (i : Nat) (x : Stream) : (s.setStream i x).age = s.age := (rfl)
@[simp] theorem State.setStream_host (i : Nat) (x : Stream) : (s.setStream i x).host = s.host := (rfl)
@[simp] theorem State.setStream_awake (i : Nat) (x : Stream) : (s.setStream i x).awake = s.awake := (rfl)

/-! ### State.setIspStream -/

@[simp] theorem State.setIspStream_pending (i : Nat) (x : IspStream) : (s.setIspStream i x).pending = s.pending := (rfl)
@[simp] theorem State.setIspStream_regs (i : Nat) (x : IspStream) : (s.setIspStream i x).regs = s.regs := (rfl)
@[simp] theorem State.setIspStream_freeCtr (i : Nat) (x : IspStream) : (s.setIspStream i x).freeCtr = s.freeCtr := (rfl)
@[simp] theorem State.setIspStream_tm (i : Nat) (x : IspStream) : (s.setIspStream i x).tm = s.tm := (rfl)
@[simp] theorem State.setIspStream_reply (i : Nat) (x : IspStream) : (s.setIspStream i x).reply = s.reply := (rfl)
@[simp] theorem State.setIspStream_reports (i : Nat) (x : IspStream) : (s.setIspStream i x).reports = s.reports := (rfl)
@[simp] theorem State.setIspStream_latches (i : Nat) (x : IspStream) : (s.setIspStream i x).latches = s.latches := (rfl)
@[simp] theorem State.setIspStream_ports (i : Nat) (x : IspStream) : (s.setIspStream i x).ports = s.ports := (rfl)
@[simp] theorem State.setIspStream_streams (i : Nat) (x : IspStream) : (s.setIspStream i x).streams = s.streams := (rfl)
@[simp] theorem State.setIspStream_dma (i : Nat) (x : IspStream) : (s.setIspStream i x).dma = s.dma := (rfl)
@[simp] theorem State.setIspStream_hts (i : Nat) (x : IspStream) : (s.setIspStream i x).hts = s.hts := (rfl)
@[simp] theorem State.setIspStream_fgs (i : Nat) (x : IspStream) : (s.setIspStream i x).fgs = s.fgs := (rfl)
@[simp] theorem State.setIspStream_tdu (i : Nat) (x : IspStream) : (s.setIspStream i x).tdu = s.tdu := (rfl)
@[simp] theorem State.setIspStream_spm (i : Nat) (x : IspStream) : (s.setIspStream i x).spm = s.spm := (rfl)
@[simp] theorem State.setIspStream_fte (i : Nat) (x : IspStream) : (s.setIspStream i x).fte = s.fte := (rfl)
@[simp] theorem State.setIspStream_nc (i : Nat) (x : IspStream) : (s.setIspStream i x).nc = s.nc := (rfl)
@[simp] theorem State.setIspStream_dram (i : Nat) (x : IspStream) : (s.setIspStream i x).dram = s.dram := (rfl)
@[simp] theorem State.setIspStream_saf (i : Nat) (x : IspStream) : (s.setIspStream i x).saf = s.saf := (rfl)
@[simp] theorem State.setIspStream_pmc (i : Nat) (x : IspStream) : (s.setIspStream i x).pmc = s.pmc := (rfl)
@[simp] theorem State.setIspStream_flashLog (i : Nat) (x : IspStream) : (s.setIspStream i x).flashLog = s.flashLog := (rfl)
@[simp] theorem State.setIspStream_pci (i : Nat) (x : IspStream) : (s.setIspStream i x).pci = s.pci := (rfl)
@[simp] theorem State.setIspStream_power (i : Nat) (x : IspStream) : (s.setIspStream i x).power = s.power := (rfl)
@[simp] theorem State.setIspStream_gpio (i : Nat) (x : IspStream) : (s.setIspStream i x).gpio = s.gpio := (rfl)
@[simp] theorem State.setIspStream_jtag (i : Nat) (x : IspStream) : (s.setIspStream i x).jtag = s.jtag := (rfl)
@[simp] theorem State.setIspStream_sec (i : Nat) (x : IspStream) : (s.setIspStream i x).sec = s.sec := (rfl)
@[simp] theorem State.setIspStream_age (i : Nat) (x : IspStream) : (s.setIspStream i x).age = s.age := (rfl)
@[simp] theorem State.setIspStream_host (i : Nat) (x : IspStream) : (s.setIspStream i x).host = s.host := (rfl)
@[simp] theorem State.setIspStream_awake (i : Nat) (x : IspStream) : (s.setIspStream i x).awake = s.awake := (rfl)

/-! ### State.setCqWaiting -/

@[simp] theorem State.setCqWaiting_pending (p : Nat) (l : List WaitRec) : (s.setCqWaiting p l).pending = s.pending := (rfl)
@[simp] theorem State.setCqWaiting_regs (p : Nat) (l : List WaitRec) : (s.setCqWaiting p l).regs = s.regs := (rfl)
@[simp] theorem State.setCqWaiting_freeCtr (p : Nat) (l : List WaitRec) : (s.setCqWaiting p l).freeCtr = s.freeCtr := (rfl)
@[simp] theorem State.setCqWaiting_tm (p : Nat) (l : List WaitRec) : (s.setCqWaiting p l).tm = s.tm := (rfl)
@[simp] theorem State.setCqWaiting_reply (p : Nat) (l : List WaitRec) : (s.setCqWaiting p l).reply = s.reply := (rfl)
@[simp] theorem State.setCqWaiting_reports (p : Nat) (l : List WaitRec) : (s.setCqWaiting p l).reports = s.reports := (rfl)
@[simp] theorem State.setCqWaiting_latches (p : Nat) (l : List WaitRec) : (s.setCqWaiting p l).latches = s.latches := (rfl)
@[simp] theorem State.setCqWaiting_ports (p : Nat) (l : List WaitRec) : (s.setCqWaiting p l).ports = s.ports := (rfl)
@[simp] theorem State.setCqWaiting_streams (p : Nat) (l : List WaitRec) : (s.setCqWaiting p l).streams = s.streams := (rfl)
@[simp] theorem State.setCqWaiting_dma (p : Nat) (l : List WaitRec) : (s.setCqWaiting p l).dma = s.dma := (rfl)
@[simp] theorem State.setCqWaiting_isp (p : Nat) (l : List WaitRec) : (s.setCqWaiting p l).isp = s.isp := (rfl)
@[simp] theorem State.setCqWaiting_hts (p : Nat) (l : List WaitRec) : (s.setCqWaiting p l).hts = s.hts := (rfl)
@[simp] theorem State.setCqWaiting_tdu (p : Nat) (l : List WaitRec) : (s.setCqWaiting p l).tdu = s.tdu := (rfl)
@[simp] theorem State.setCqWaiting_spm (p : Nat) (l : List WaitRec) : (s.setCqWaiting p l).spm = s.spm := (rfl)
@[simp] theorem State.setCqWaiting_fte (p : Nat) (l : List WaitRec) : (s.setCqWaiting p l).fte = s.fte := (rfl)
@[simp] theorem State.setCqWaiting_nc (p : Nat) (l : List WaitRec) : (s.setCqWaiting p l).nc = s.nc := (rfl)
@[simp] theorem State.setCqWaiting_dram (p : Nat) (l : List WaitRec) : (s.setCqWaiting p l).dram = s.dram := (rfl)
@[simp] theorem State.setCqWaiting_saf (p : Nat) (l : List WaitRec) : (s.setCqWaiting p l).saf = s.saf := (rfl)
@[simp] theorem State.setCqWaiting_pmc (p : Nat) (l : List WaitRec) : (s.setCqWaiting p l).pmc = s.pmc := (rfl)
@[simp] theorem State.setCqWaiting_flashLog (p : Nat) (l : List WaitRec) : (s.setCqWaiting p l).flashLog = s.flashLog := (rfl)
@[simp] theorem State.setCqWaiting_pci (p : Nat) (l : List WaitRec) : (s.setCqWaiting p l).pci = s.pci := (rfl)
@[simp] theorem State.setCqWaiting_power (p : Nat) (l : List WaitRec) : (s.setCqWaiting p l).power = s.power := (rfl)
@[simp] theorem State.setCqWaiting_gpio (p : Nat) (l : List WaitRec) : (s.setCqWaiting p l).gpio = s.gpio := (rfl)
@[simp] theorem State.setCqWaiting_jtag (p : Nat) (l : List WaitRec) : (s.setCqWaiting p l).jtag = s.jtag := (rfl)
@[simp] theorem State.setCqWaiting_sec (p : Nat) (l : List WaitRec) : (s.setCqWaiting p l).sec = s.sec := (rfl)
@[simp] theorem State.setCqWaiting_age (p : Nat) (l : List WaitRec) : (s.setCqWaiting p l).age = s.age := (rfl)
@[simp] theorem State.setCqWaiting_host (p : Nat) (l : List WaitRec) : (s.setCqWaiting p l).host = s.host := (rfl)
@[simp] theorem State.setCqWaiting_awake (p : Nat) (l : List WaitRec) : (s.setCqWaiting p l).awake = s.awake := (rfl)

/-! ### State.modJob -/

@[simp] theorem State.modJob_pending (j : Nat) (f : Job → Job) : (s.modJob j f).pending = s.pending := (rfl)
@[simp] theorem State.modJob_regs (j : Nat) (f : Job → Job) : (s.modJob j f).regs = s.regs := (rfl)
@[simp] theorem State.modJob_freeCtr (j : Nat) (f : Job → Job) : (s.modJob j f).freeCtr = s.freeCtr := (rfl)
@[simp] theorem State.modJob_tm (j : Nat) (f : Job → Job) : (s.modJob j f).tm = s.tm := (rfl)
@[simp] theorem State.modJob_reply (j : Nat) (f : Job → Job) : (s.modJob j f).reply = s.reply := (rfl)
@[simp] theorem State.modJob_reports (j : Nat) (f : Job → Job) : (s.modJob j f).reports = s.reports := (rfl)
@[simp] theorem State.modJob_latches (j : Nat) (f : Job → Job) : (s.modJob j f).latches = s.latches := (rfl)
@[simp] theorem State.modJob_ports (j : Nat) (f : Job → Job) : (s.modJob j f).ports = s.ports := (rfl)
@[simp] theorem State.modJob_streams (j : Nat) (f : Job → Job) : (s.modJob j f).streams = s.streams := (rfl)
@[simp] theorem State.modJob_dma (j : Nat) (f : Job → Job) : (s.modJob j f).dma = s.dma := (rfl)
@[simp] theorem State.modJob_isp (j : Nat) (f : Job → Job) : (s.modJob j f).isp = s.isp := (rfl)
@[simp] theorem State.modJob_hts (j : Nat) (f : Job → Job) : (s.modJob j f).hts = s.hts := (rfl)
@[simp] theorem State.modJob_tdu (j : Nat) (f : Job → Job) : (s.modJob j f).tdu = s.tdu := (rfl)
@[simp] theorem State.modJob_spm (j : Nat) (f : Job → Job) : (s.modJob j f).spm = s.spm := (rfl)
@[simp] theorem State.modJob_fte (j : Nat) (f : Job → Job) : (s.modJob j f).fte = s.fte := (rfl)
@[simp] theorem State.modJob_nc (j : Nat) (f : Job → Job) : (s.modJob j f).nc = s.nc := (rfl)
@[simp] theorem State.modJob_dram (j : Nat) (f : Job → Job) : (s.modJob j f).dram = s.dram := (rfl)
@[simp] theorem State.modJob_saf (j : Nat) (f : Job → Job) : (s.modJob j f).saf = s.saf := (rfl)
@[simp] theorem State.modJob_pmc (j : Nat) (f : Job → Job) : (s.modJob j f).pmc = s.pmc := (rfl)
@[simp] theorem State.modJob_flashLog (j : Nat) (f : Job → Job) : (s.modJob j f).flashLog = s.flashLog := (rfl)
@[simp] theorem State.modJob_pci (j : Nat) (f : Job → Job) : (s.modJob j f).pci = s.pci := (rfl)
@[simp] theorem State.modJob_power (j : Nat) (f : Job → Job) : (s.modJob j f).power = s.power := (rfl)
@[simp] theorem State.modJob_gpio (j : Nat) (f : Job → Job) : (s.modJob j f).gpio = s.gpio := (rfl)
@[simp] theorem State.modJob_jtag (j : Nat) (f : Job → Job) : (s.modJob j f).jtag = s.jtag := (rfl)
@[simp] theorem State.modJob_sec (j : Nat) (f : Job → Job) : (s.modJob j f).sec = s.sec := (rfl)
@[simp] theorem State.modJob_age (j : Nat) (f : Job → Job) : (s.modJob j f).age = s.age := (rfl)
@[simp] theorem State.modJob_host (j : Nat) (f : Job → Job) : (s.modJob j f).host = s.host := (rfl)
@[simp] theorem State.modJob_awake (j : Nat) (f : Job → Job) : (s.modJob j f).awake = s.awake := (rfl)

/-! ### State.modRing -/

@[simp] theorem State.modRing_pending (g r : Nat) (f : SlotRing → SlotRing) : (s.modRing g r f).pending = s.pending := (rfl)
@[simp] theorem State.modRing_regs (g r : Nat) (f : SlotRing → SlotRing) : (s.modRing g r f).regs = s.regs := (rfl)
@[simp] theorem State.modRing_freeCtr (g r : Nat) (f : SlotRing → SlotRing) : (s.modRing g r f).freeCtr = s.freeCtr := (rfl)
@[simp] theorem State.modRing_tm (g r : Nat) (f : SlotRing → SlotRing) : (s.modRing g r f).tm = s.tm := (rfl)
@[simp] theorem State.modRing_reply (g r : Nat) (f : SlotRing → SlotRing) : (s.modRing g r f).reply = s.reply := (rfl)
@[simp] theorem State.modRing_reports (g r : Nat) (f : SlotRing → SlotRing) : (s.modRing g r f).reports = s.reports := (rfl)
@[simp] theorem State.modRing_latches (g r : Nat) (f : SlotRing → SlotRing) : (s.modRing g r f).latches = s.latches := (rfl)
@[simp] theorem State.modRing_ports (g r : Nat) (f : SlotRing → SlotRing) : (s.modRing g r f).ports = s.ports := (rfl)
@[simp] theorem State.modRing_streams (g r : Nat) (f : SlotRing → SlotRing) : (s.modRing g r f).streams = s.streams := (rfl)
@[simp] theorem State.modRing_dma (g r : Nat) (f : SlotRing → SlotRing) : (s.modRing g r f).dma = s.dma := (rfl)
@[simp] theorem State.modRing_isp (g r : Nat) (f : SlotRing → SlotRing) : (s.modRing g r f).isp = s.isp := (rfl)
@[simp] theorem State.modRing_hts (g r : Nat) (f : SlotRing → SlotRing) : (s.modRing g r f).hts = s.hts := (rfl)
@[simp] theorem State.modRing_tdu (g r : Nat) (f : SlotRing → SlotRing) : (s.modRing g r f).tdu = s.tdu := (rfl)
@[simp] theorem State.modRing_spm (g r : Nat) (f : SlotRing → SlotRing) : (s.modRing g r f).spm = s.spm := (rfl)
@[simp] theorem State.modRing_fte (g r : Nat) (f : SlotRing → SlotRing) : (s.modRing g r f).fte = s.fte := (rfl)
@[simp] theorem State.modRing_nc (g r : Nat) (f : SlotRing → SlotRing) : (s.modRing g r f).nc = s.nc := (rfl)
@[simp] theorem State.modRing_dram (g r : Nat) (f : SlotRing → SlotRing) : (s.modRing g r f).dram = s.dram := (rfl)
@[simp] theorem State.modRing_saf (g r : Nat) (f : SlotRing → SlotRing) : (s.modRing g r f).saf = s.saf := (rfl)
@[simp] theorem State.modRing_pmc (g r : Nat) (f : SlotRing → SlotRing) : (s.modRing g r f).pmc = s.pmc := (rfl)
@[simp] theorem State.modRing_flashLog (g r : Nat) (f : SlotRing → SlotRing) : (s.modRing g r f).flashLog = s.flashLog := (rfl)
@[simp] theorem State.modRing_pci (g r : Nat) (f : SlotRing → SlotRing) : (s.modRing g r f).pci = s.pci := (rfl)
@[simp] theorem State.modRing_power (g r : Nat) (f : SlotRing → SlotRing) : (s.modRing g r f).power = s.power := (rfl)
@[simp] theorem State.modRing_gpio (g r : Nat) (f : SlotRing → SlotRing) : (s.modRing g r f).gpio = s.gpio := (rfl)
@[simp] theorem State.modRing_jtag (g r : Nat) (f : SlotRing → SlotRing) : (s.modRing g r f).jtag = s.jtag := (rfl)
@[simp] theorem State.modRing_sec (g r : Nat) (f : SlotRing → SlotRing) : (s.modRing g r f).sec = s.sec := (rfl)
@[simp] theorem State.modRing_age (g r : Nat) (f : SlotRing → SlotRing) : (s.modRing g r f).age = s.age := (rfl)
@[simp] theorem State.modRing_host (g r : Nat) (f : SlotRing → SlotRing) : (s.modRing g r f).host = s.host := (rfl)
@[simp] theorem State.modRing_awake (g r : Nat) (f : SlotRing → SlotRing) : (s.modRing g r f).awake = s.awake := (rfl)

/-! ### State.modPort -/

@[simp] theorem State.modPort_pending (n : Nat) (f : Port → Port) : (s.modPort n f).pending = s.pending := (rfl)
@[simp] theorem State.modPort_regs (n : Nat) (f : Port → Port) : (s.modPort n f).regs = s.regs := (rfl)
@[simp] theorem State.modPort_freeCtr (n : Nat) (f : Port → Port) : (s.modPort n f).freeCtr = s.freeCtr := (rfl)
@[simp] theorem State.modPort_tm (n : Nat) (f : Port → Port) : (s.modPort n f).tm = s.tm := (rfl)
@[simp] theorem State.modPort_reply (n : Nat) (f : Port → Port) : (s.modPort n f).reply = s.reply := (rfl)
@[simp] theorem State.modPort_reports (n : Nat) (f : Port → Port) : (s.modPort n f).reports = s.reports := (rfl)
@[simp] theorem State.modPort_latches (n : Nat) (f : Port → Port) : (s.modPort n f).latches = s.latches := (rfl)
@[simp] theorem State.modPort_streams (n : Nat) (f : Port → Port) : (s.modPort n f).streams = s.streams := (rfl)
@[simp] theorem State.modPort_dma (n : Nat) (f : Port → Port) : (s.modPort n f).dma = s.dma := (rfl)
@[simp] theorem State.modPort_isp (n : Nat) (f : Port → Port) : (s.modPort n f).isp = s.isp := (rfl)
@[simp] theorem State.modPort_hts (n : Nat) (f : Port → Port) : (s.modPort n f).hts = s.hts := (rfl)
@[simp] theorem State.modPort_fgs (n : Nat) (f : Port → Port) : (s.modPort n f).fgs = s.fgs := (rfl)
@[simp] theorem State.modPort_tdu (n : Nat) (f : Port → Port) : (s.modPort n f).tdu = s.tdu := (rfl)
@[simp] theorem State.modPort_spm (n : Nat) (f : Port → Port) : (s.modPort n f).spm = s.spm := (rfl)
@[simp] theorem State.modPort_fte (n : Nat) (f : Port → Port) : (s.modPort n f).fte = s.fte := (rfl)
@[simp] theorem State.modPort_nc (n : Nat) (f : Port → Port) : (s.modPort n f).nc = s.nc := (rfl)
@[simp] theorem State.modPort_dram (n : Nat) (f : Port → Port) : (s.modPort n f).dram = s.dram := (rfl)
@[simp] theorem State.modPort_saf (n : Nat) (f : Port → Port) : (s.modPort n f).saf = s.saf := (rfl)
@[simp] theorem State.modPort_pmc (n : Nat) (f : Port → Port) : (s.modPort n f).pmc = s.pmc := (rfl)
@[simp] theorem State.modPort_flashLog (n : Nat) (f : Port → Port) : (s.modPort n f).flashLog = s.flashLog := (rfl)
@[simp] theorem State.modPort_pci (n : Nat) (f : Port → Port) : (s.modPort n f).pci = s.pci := (rfl)
@[simp] theorem State.modPort_power (n : Nat) (f : Port → Port) : (s.modPort n f).power = s.power := (rfl)
@[simp] theorem State.modPort_gpio (n : Nat) (f : Port → Port) : (s.modPort n f).gpio = s.gpio := (rfl)
@[simp] theorem State.modPort_jtag (n : Nat) (f : Port → Port) : (s.modPort n f).jtag = s.jtag := (rfl)
@[simp] theorem State.modPort_sec (n : Nat) (f : Port → Port) : (s.modPort n f).sec = s.sec := (rfl)
@[simp] theorem State.modPort_age (n : Nat) (f : Port → Port) : (s.modPort n f).age = s.age := (rfl)
@[simp] theorem State.modPort_host (n : Nat) (f : Port → Port) : (s.modPort n f).host = s.host := (rfl)
@[simp] theorem State.modPort_awake (n : Nat) (f : Port → Port) : (s.modPort n f).awake = s.awake := (rfl)

end Sys2Proof.Machine
end

