-- ==== Sys2Proof/Machine/PinView.lean ====
section
/-! DEFINITION. What the output pins show in each condition of supply and reset (21_pins_electrical.md R658, R661, R662; 02_pixel_ports.md R73, R88;
15_functional_safety.md R541 to R544). -/

namespace Sys2Proof.Machine

/-- The conditions of R658 that the state tells apart: rails removed under POR_N or with VDD_AON; rails removed after SAFE_OFF_N (OFF);
POR_N low with the rails on; running. -/
inductive PinCond where
  | powerOff
  | aonOnly
  | inReset
  | running
deriving DecidableEq, Repr

/-- What a pin shows: released or high impedance (its pull sets the level), low, high, the pulses of SAFE_OK, an input, electrical idle, a
signal of its protocol, or nothing defined (R654). -/
inductive PinLevel where
  | released
  | low
  | high
  | toggling
  | input
  | idle
  | protocol
  | undefined
deriving DecidableEq, Repr

/-- The condition of the device. (DEDUCED, log 84) -/
def State.pinCond (s : State) : PinCond :=
  if s.sec.por then (if s.sec.railsOff then .powerOff else .inReset) else if s.sec.railsOff then .aonOnly else .running

/-- A level as a pin shows it. -/
def PinLevel.of (b : Bool) : PinLevel := if b then .high else .low

/-- TPPn_HOLD_N (R73): low asks the aggregator to stop. -/
def State.holdNPin (s : State) (n : Nat) : PinLevel :=
  match s.pinCond with
  | .running => if s.flag (R.TPP_STATUS n) 3 then .low else .released
  | .aonOnly => .undefined
  | _ => .released

/-- TPPn_CTL_CK and TPPn_CTL_DO (R88). -/
def State.ctlCkPin (s : State) (n : Nat) : PinLevel :=
  match s.pinCond with
  | .running => if s.flag (R.TPP_CTRL n) 3 then .protocol else .low
  | .aonOnly => .undefined
  | _ => .released
def State.ctlDoPin (s : State) (n : Nat) : PinLevel :=
  match s.pinCond with
  | .running => if s.flag (R.TPP_CTRL n) 3 then .protocol else .high
  | .aonOnly => .undefined
  | _ => .released

/-- PE_TX: electrical idle in reset and while PERST_N is low. -/
def State.peTxPin (s : State) : PinLevel :=
  match s.pinCond with
  | .running => if s.pci.perst then .idle else .protocol
  | .inReset => .idle
  | .aonOnly => .undefined
  | .powerOff => .released

/-- A GPIO ball as the device drives it (R662). (DEDUCED, log 84) -/
def State.gpioPin (s : State) (n : Nat) : PinLevel :=
  match s.pinCond with
  | .running => if s.fld (R.SMC_GPIO_CFG n) 5 4 = 1 ∨ s.fld (R.SMC_GPIO_CFG n) 5 4 = 2 then PinLevel.of (s.gpioLevel n) else .input
  | .inReset => .input
  | .aonOnly => .undefined
  | .powerOff => .released

/-- UART_TX. -/
def State.uartTxPin (s : State) : PinLevel :=
  match s.pinCond with
  | .running => .protocol
  | .inReset => .high
  | .aonOnly => .undefined
  | .powerOff => .released

/-- XSPI_RST_N (R661): low for the first 10 µs after POR_N release, where step 1 of R600 begins, high afterwards. (DEDUCED, log 84) -/
def State.xspiRstNPin (s : State) : PinLevel :=
  match s.pinCond with
  | .running => PinLevel.of (decide (10000 ≤ s.now))
  | .aonOnly => .undefined
  | _ => .released

/-- XSPI_CK, XSPI_CS_N and XSPI_DQ[7:0]. -/
def State.xspiPin (s : State) : PinLevel :=
  match s.pinCond with
  | .running => .protocol
  | .aonOnly => .undefined
  | _ => .released

/-- TDO: driven while the device runs, released in reset. -/
def State.tdoPin (s : State) : PinLevel :=
  match s.pinCond with
  | .running => .protocol
  | .aonOnly => .undefined
  | _ => .released

/-- PMB_SCL, PMB_SDA, SMB_SCL and SMB_SDA: released but while the device runs. -/
def State.smbusPin (s : State) : PinLevel :=
  match s.pinCond with
  | .running => .protocol
  | _ => .released

/-- SAFE_OK (R542, R544): pulses in RUN, static otherwise. (DEDUCED, log 84) -/
def State.safeOkPin (s : State) : PinLevel :=
  match s.pinCond with
  | .running => if s.saf.okToggling then .toggling else .low
  | .aonOnly => .low
  | _ => .released

/-- SAFE_OFF_N (R542, R655): low once dropped, released by POR_N. (DEDUCED, log 84) -/
def State.safeOffNPin (s : State) : PinLevel := if !s.sec.por && !s.saf.offN then .low else .released

/-- FAULT_N (R541). -/
def State.faultNPin (s : State) : PinLevel :=
  match s.pinCond with
  | .running => if s.faultNLow then .low else .released
  | .aonOnly => .low
  | _ => .released

end Sys2Proof.Machine
end

