-- ==== Sys2Proof/WellFormed.lean ====
section
/-! DEFINITION. Which commands are well formed: the operands that the rules fix the size or the range of. The meanings are total: they
answer for every command, well formed or not. -/

namespace Sys2Proof

/-- A bus access moves 1, 2, 4 or 8 bytes. -/
def busSize (n : Nat) : Bool := n == 1 || n == 2 || n == 4 || n == 8

/-- Bytes given for an access of `n` bytes are `n` bytes. -/
def dataFits {α : Type} (n : Nat) (data : Option (List α)) : Bool :=
  match data with
  | none => n != 0
  | some bs => n != 0 && bs.length == n

/-- A line packet: two header words and a trailer at least (02_pixel_ports.md R63). -/
def LinePacket.wf (p : LinePacket) : Bool := decide (3 ≤ p.words.length)

/-- The operands of a command are what its rule allows. (DESIGN CHOICE, log 80) -/
def Instr.wf : Instr → Bool
  | .registerWrite _ _ size _ => busSize size
  | .pairLowWordRead _ _ size => busSize size
  | .inboundBar0Access ag _ size _ => busSize size && (ag == .pcieHost || ag == .pciePeer)
  | .inboundBar2Access _ _ n data _ => dataFits n data
  | .configRequest c => decide (c.reg < 1024)
  | .frameStartLine _ p => p.wf
  | .activeLine _ p => p.wf
  | .embeddedLine _ p => p.wf
  | .frameEndLine _ p => p.wf
  | .dramRead _ _ n _ _ => n != 0
  | .dramWrite _ _ bs => !bs.isEmpty
  | .scratchpadAccess _ _ _ len data _ _ => dataFits len data
  | .lockAcquire readers _ => !readers.isEmpty && decide readers.Nodup
  | .thermalCapUpdate tj => tj.length == 10
  | .railRead rs => rs.length == 11
  | .slackSample xs => xs.length == 10
  | .mgqDoorbell _ cmds => cmds.all (fun c => c.length == 16)
  | .linkUp rate width => decide (1 ≤ rate.val ∧ rate.val ≤ 6) && [1, 2, 4, 8].contains width.val
  | .jtagDbgResp bs => bs.length == 128
  | .hostOutboundAccess _ _ len data _ => dataFits len data
  | .taskDispatch w => w != .noAgent
  | _ => true

end Sys2Proof
end

