-- ==== Sys2Proof/Tests/Slice0.lean ====
section
/-! SUPPORT. Small tests of the model, and for every statement of Certificates/Slice0/Obligations.lean that has hypotheses a witness: a small
state (and operands) that meets them. Expected values come from the spec's worked examples and register tables, or from its rules by hand. -/

set_option maxRecDepth 20000

namespace Sys2Proof.Tests
open Sys2Proof.Machine

/-! ### Small states -/

/-- The state after reset with some registers set. -/
def on (l : List (Nat × Word)) : State := l.foldl (fun s e => s.setReg e.1 e.2) State.reset

/-- A state at `ns` nanoseconds of local and device time. -/
def at_ (ns : Nat) (s : State) : State := { s with tm := { s.tm with localCount := 2 ^ 32 * ns, devCount := 2 ^ 32 * ns } }

/-- A firewall region 0 over all of DRAM, open to every agent. -/
def openDram : List (Nat × Word) := [(R.DMC_FW_LIMIT 0, 0x7FFFF), (R.DMC_FW_CFG 0, 0xB0FF000F)]

/-- The state a command answers (the state after reset where it answers none). -/
def out (o : Host.Outcome State Fault Refusal) : State :=
  match o with
  | .next t => t
  | _ => State.reset

/-- The state after reset with the command whose PENDING bit lies at `off` in progress. -/
def busy (off : Nat) : State := { State.reset with tm := { State.reset.tm with busy := [(off, 1)] } }

/-- Tasks put into the scheduler. -/
def tasks (l : List (Nat × Task)) (s : State) : State := { s with hts := { s.hts with tasks := l } }

/-- A task of partition 3 in a state, of a class, on an engine. -/
def task (st : TaskState) (cls : Nat) (w : Option Nat) : Task := { Task.freeOf 1 with state := st, part := 3, cls := cls, worker := w }

/-- A stream of partition 3 on port 0: enabled, 16 × 2 pixels of 16 bits, a ring of two frames at 0x10000. -/
def stream0 : Stream := { Stream.reset with cfg := [0x8C00F200, 0x00020010, 0, 1000, 0x10000, 0, 0x1000, 64] }

def withStream (x : Stream) (s : State) : State := { s with streams := [(0, x)] }

/-! ### The queue, time and resets (O1 to O12) -/

theorem witness_IdleStepPassesOneCycle : State.reset.pending = [] ∧ State.reset.awake = true ∧ State.reset.derate = 0 ∧
    State.reset.underReset.pending = [] ∧ State.reset.underReset.awake = false := by decide

theorem witness_StepKeepsMemoriesCanonical : State.reset.canonical ∧ ∃ t, step State.reset = .next t :=
  ⟨by unfold State.canonical; decide, _, rfl⟩

theorem witness_CommandsKeepClockAndReset : resetsDevice .clockFault = false ∧ ∃ t, exec .clockFault State.reset = .next t :=
  ⟨rfl, _, rfl⟩

theorem witness_StepOnlyBurnsFuses : ∃ t, step State.reset = .next t := ⟨_, rfl⟩

theorem witness_DeviceTimeNeverDecreases : (∃ t, step (State.reset.withPending [.clockFault]) = .next t) ∧
    ∀ c, (State.reset.withPending [.clockFault]).pending.head? = some c → resetsDevice c = false :=
  ⟨⟨_, rfl⟩, fun _ h => by cases h; rfl⟩

theorem witness_AsleepCommandsChangeNothing : actsAsleep .clockFault = false ∧ State.reset.underReset.awake = false := by decide

/-- PTM selected. -/
def ptm : State := on [(R.SMC_TIME_CTRL, 1)]

theorem witness_TimeCorrectionSlewsOrSteps : ptm.awake = true ∧ ptm.timeSource = some .ptm ∧ (1000000 : Int) < 1000001 ∧
    ptm.timeSource ≠ some .pps := by decide

theorem witness_LostSourceAndBlockFaultAreReported : (at_ 3000000000 ptm).awake = true ∧ ptm.timeSource.isSome = true ∧
    3000000000 + (at_ 3000000000 ptm).tm.lastUpdate ≤ (at_ 3000000000 ptm).now ∧ (0x41 : Byte).toNat ≠ St.internal ∧
    (BitVec.ofNat 8 St.internal).toNat = St.internal := by decide

theorem witness_ResetsAndRails : State.reset.underReset.sec.por = true ∧ State.reset.sec.step = 0 ∧ State.reset.sec.por = false ∧
    { State.reset with saf := { State.reset.saf with offN := false } }.saf.offN = false ∧
    { State.reset with pci := { State.reset.pci with perst := true } }.pci.perst = true := by decide

/-- R44: a correction of −2 ms is slewed at 200 ppm, so it is worked off after 10 s: after one second 200 µs are. -/
theorem test_negativeCorrectionIsSlewed : (out (exec (.timeCorrection .ptm (-2000000)) ptm)).tm.slew = -2000000 * 2 ^ 32 ∧
    (out (exec (.timeCorrection .ptm (-2000000)) ptm)).tm.devCount = 0 := by decide

/-- R44: a positive correction above 1 ms is one forward step, shown by STEPPED. -/
theorem test_largeCorrectionSteps : (out (exec (.timeCorrection .ptm 1000001) ptm)).tm.devCount = 2 ^ 32 * 1000001 ∧
    (out (exec (.timeCorrection .ptm 1000001) ptm)).flag R.SMC_TIME_STATUS 2 = true := by decide

/-! ### Pixel ports and landing (O13 to O21) -/

/-- Port 0 in a state, with landing on. -/
def port (st : Nat) : State := on [(R.TPP_STATUS 0, BitVec.ofNat 32 st), (R.LND_CTRL, 1)]

theorem witness_PortStates : State.reset.p3UntilLock .smc = true ∧ (port 2).tppState 0 = Tpp.active ∧ (port 1).tppState 0 = Tpp.training ∧
    (port 3).tppState 0 = Tpp.clockLost ∧ (port 0).tppState 0 ≠ Tpp.training ∧ (port 2).awake = true := by decide

theorem witness_PortControls : State.reset.p3UntilLock .smc = true ∧ State.reset.p3UntilLock .pcieHost = false ∧ (port 2).tppState 0 = Tpp.active ∧
    (port 1).tppState 0 ≠ Tpp.active ∧ 1000000000 + ((at_ 1000000000 (port 2)).port 0).lastGap ≤ (at_ 1000000000 (port 2)).now ∧
    (port 2).now < 1000000000 + ((port 2).port 0).lastGap := by decide

/-- A packet of `n` payload words of zeros with header words A and B, HCHK and trailer put in. -/
def packet (a b : Word) (n : Nat) : LinePacket :=
  let b := setBits b 7 0 (hdrCheck a b)
  let ws := [a, b] ++ List.replicate n 0#32
  ⟨ws ++ [crc32c (wordBytes ws)], bits b 31 30 == 2, false, false⟩

/-- Row 0 of frame 7 of stream 0: 64 bytes. -/
def row0 : LinePacket := packet 0x10000007 0x00000100 16

theorem witness_LinePacketsAreChecked : (port 1).tppState 0 ≠ Tpp.active ∧ (port 2).tppState 0 = Tpp.active ∧
    (on [(R.TPP_STATUS 0, 2)]).flag R.LND_CTRL 0 = false ∧ (port 2).flag R.LND_CTRL 0 = true ∧
    16384 < (((port 2).modPort 0 (fun p => { p with bufUsed := 16384 })).port 0).bufUsed + row0.words.length ∧
    ((port 2).port 0).bufUsed + row0.words.length ≤ 16384 ∧ row0.overrun = false ∧
    (packet 0x10000007 0x00000100 15).words.length ≠ 16 * hdrLen (wd (packet 0x10000007 0x00000100 15).words 1) + 3 ∧
    row0.words.length = 16 * hdrLen (wd row0.words 1) + 3 ∧ hdrCheck 0x10000007 0x00000100 ≠ bits 0x00000100#32 7 0 := by decide

def openF7 : OpenFrame := ⟨0, 7, 0, 0, false, [0], [], 0, 0, false, [], false, false⟩

/-- Port 0 ACTIVE, landing on, stream 0 enabled, DRAM open. -/
def landing : State := withStream stream0 (on ([(R.TPP_STATUS 0, 2), (R.LND_CTRL, 1)] ++ openDram))

/-- The same with frame 7 open in slot 0. -/
def landingOpen : State := withStream { stream0 with openF := some openF7, opened := true, lastFrame := 7 } landing

theorem witness_AcceptedLineLands :
    landing.awake = true ∧
    landing.tppState 0 = Tpp.active ∧
    landing.flag R.LND_CTRL 0 = true ∧
    row0.overrun = false ∧
    (landing.port 0).bufUsed + row0.words.length ≤ 16384 ∧
    row0.words.length = 16 * hdrLen (wd row0.words 1) + 3 ∧
    hdrCheck (wd row0.words 0) (wd row0.words 1) = bits (wd row0.words 1) 7 0 ∧
    bits (wd row0.words 0) 31 28 = 1 ∧
    bits (wd row0.words 0) 27 26 = 0 ∧
    (landing.stream 0).enabled = true ∧
    (landing.stream 0).port = 0 ∧
    landing.proofStream 0 = false ∧
    (landing.stream 0).lineOk (hdrKind (wd row0.words 1)) (hdrLine (wd row0.words 1)) (hdrLen (wd row0.words 1)) = true ∧
    (landing.stream 0).openF = none ∧
    (landing.stream 0).newer 7 = true ∧
    (landingOpen.stream 0).openF = some openF7 ∧
    openF7.active.contains 0 = true := by decide

theorem witness_FrameCloseWritesRecord :
    landingOpen.awake = true ∧
    (landingOpen.stream 0).openF = some openF7 ∧
    openF7.fsLocal + 1000 * ((at_ 1000000 landingOpen).stream 0).lateUs ≤ (at_ 1000000 landingOpen).now ∧
    landingOpen.now < openF7.fsLocal + 1000 * (landingOpen.stream 0).lateUs ∧
    landingOpen.fgs.graphs = [] ∧
    landingOpen.fgs.jobs = [] ∧
    openF7.slot < (landingOpen.stream 0).slots.length ∧
    (landing.stream 0).openF = none := by decide

/-- The SMC's landing context bank holds stream 0's words. -/
def staged : State := (List.range 8).foldl (fun s w => s.setReg (banked (R.LND_CTX_WORD w) 4) (wd stream0.cfg w)) (on openDram)

theorem witness_LandingContexts :
    staged.cmdBusy R.LND_CTX_STATUS = false ∧
    (busy R.LND_CTX_STATUS).cmdBusy R.LND_CTX_STATUS = true ∧
    (withStream { stream0 with cfg := [0x0C00F200, 0x00020010, 0, 1000, 0x10000, 0, 0x1000, 64], lockedPart := some 0 } (on [(R.SAF_STATUS, 0x10)])).ctxAccess .pcieHost 0 = false ∧
    staged.ctxAccess .smc 0 = true ∧
    (staged.setFld R.LND_CTX_CMD 9 0 0).ctxCheck 0 ((List.range 8).map (fun w => (staged.setFld R.LND_CTX_CMD 9 0 0).reg (banked (R.LND_CTX_WORD w) ((staged.setFld R.LND_CTX_CMD 9 0 0).lndBank .smc)))) = St.done ∧
    (State.reset.setFld R.LND_CTX_CMD 9 0 0).ctxCheck 0 (List.replicate 8 0) ≠ St.done ∧
    staged.p3UntilLock .smc = true ∧
    staged.ofPart .smc (staged.streamOwner (staged.stream 0)) = true ∧
    ((staged.stream 0).slot 0).hold = 0 ∧
    (((withStream (stream0.modSlot 0 (fun x => { x with hold := 1 })) staged).stream 0).slot 0).hold ≠ 0 := by decide

def cmd0 : CtlCmd := ⟨0, 0, 0x3500, 0x00FF, .direct, 0, 0⟩

/-- Port 0 with CTL_ENABLE, one command waiting and one outstanding since time 0. -/
def control : State := { on [(R.TPP_CTRL 0, 8)] with ports := ({ Port.reset with ctlQueue := [cmd0], ctlOut := [cmd0] } :: List.replicate 7 Port.reset) }

theorem witness_ControlChannel :
    State.reset.flag (R.TPP_CTRL 0) 3 = false ∧
    ctlFrame (1 / 256) ≠ 1 ∧
    (control.port 0).ctlOut.find? (fun c => c.stream == nbits (2 ^ 40) 55 46 && c.seq == nbits (2 ^ 40) 43 40) = none ∧
    control.awake = true ∧
    (control.port 0).ctlQueue = cmd0 :: [] ∧
    control.flag (R.TPP_CTRL 0) 3 = true ∧
    (control.port 0).ctlOut.length < 8 ∧
    (State.reset.port 0).ctlQueue = [] ∧
    (control.port 0).ctlOut.find? (fun c => c.stream == nbits 0 55 46 && c.seq == nbits 0 43 40) = some cmd0 ∧
    ctlFrame (0 / 256) = 0 ∧
    (State.reset.port 0).ctlOut.find? (fun c => c.stream == nbits 0 55 46 && c.seq == nbits 0 43 40) = none ∧
    ((at_ 500000 control).port 0).ctlOut.find? (fun c => decide (500000 + c.sent ≤ (at_ 500000 control).now)) = some cmd0 ∧
    cmd0.source = .direct ∧
    State.reset.p3UntilLock .smc = true ∧
    ((State.reset.port 0).ctlQueue ++ (State.reset.port 0).ctlOut).any (fun c => c.source == .direct) = false := by decide

/-! ### ISP and frame graphs (O22 to O27) -/

/-- A tensor of 16 × 2 bytes at the start of region 0. -/
def tensor0 : Desc := ⟨[0x00014200, 0, 0, 0xFFFF0000, 0, 16, 2, 1, 1, 1, 1, 16, 0, 0, 0, 0], 0⟩

/-- Partition 3 with tensor 0 as handle 0, its region at 0x2_0000, and DRAM open. -/
def tensors : State :=
  { on openDram with tdu := ⟨[(0, ⟨0, 0x20000, 0x1000, 3, 0, true, none⟩)], [⟨[], 0, []⟩, ⟨[], 0, []⟩, ⟨[], 0, []⟩, ⟨[(0, tensor0)], 1, []⟩]⟩ }

def trig0 : Trigger := ⟨none, none, none, 0x80000007, 0, 0, 0⟩

/-- Graph 5 of partition 3 with one ISP node and one PGE node. -/
def graph5 : Graph := ⟨5, 3, 0, 0, 0, 4, false, 1000, 0, 0, [⟨0, 0, 0, false, 0, 0, 0, 0, 0, 0, []⟩, ⟨1, 0, 0, false, 0, 0, 0, 0, 0, 0, []⟩], [⟨0, 1, 1, 0, 0⟩], [],
  [⟨24, 0, 2, 1, 100⟩], [], [], true, [], [], none⟩

/-- Its job 9: node 0 is task 1, node 1 is task 2. -/
def job9 : Job := ⟨9, 5, 3, 0, .running, trig0, [⟨some 1, false, false, 0, 0, 0, false, false⟩, ⟨some 2, false, false, 0, 0, 0, false, false⟩], [], [], false, false,
  none, none⟩

def withJob (j : Job) (s : State) : State := { s with fgs := { s.fgs with graphs := [graph5], jobs := [j] } }

/-- Task 1 of job 9. -/
def nodeTask (st : TaskState) (cls : Nat) (w : Option Nat) : Task := { task st cls w with owner := .node 9 0 }

/-- An ISP task running on ISP 0, its frame in slot 0 of stream 0. -/
def ispRun (data : List Byte) (y : Bool) : State :=
  let s := tasks [(1, { nodeTask .running 0 (some 0x20) with yieldAsked := y })] (withJob job9 landing)
  { s with isp := { s.isp with frames := [⟨1, some 0, 0x30000, data, 0, 0, false, false, none⟩] } }

/-- An enabled ISP with a READY task in its queue. -/
def ispReady : State :=
  let s := tasks [(1, { task .ready 0 none with inst := 0 })] (on [(R.ISP_CTRL 0, 1)])
  { s with isp := { s.isp with queue := [1] } }

theorem witness_IspFramesRun :
    ispReady.awake = true ∧
    ispReady.runningOn 0x20 = none ∧
    ispReady.flag (R.ISP_CTRL 0) 0 = true ∧
    ispReady.domState 1 = Dom.on ∧
    ispReady.ispSelect 0 = some 1 ∧
    ((ispReady.startOn 1 0x20).takeCredits 1 0x20).isp.frames.find? (·.task == 1) = none ∧
    (ispRun [] false).ispFrame 0 = some ⟨1, some 0, 0x30000, [], 0, 0, false, false, none⟩ ∧
    (ispRun [1] false).jobOn 0x20 = some 1 ∧
    (ispRun [1] false).rowsLanded ⟨1, some 0, 0x30000, [1], 0, 0, false, false, none⟩ = ((ispRun [1] false).stream 0).height ∧
    (ispRun [1] false).mayRepeat 1 = true ∧
    ((ispRun [1] true).task 1).yieldAsked = true ∧
    ((ispRun [1] false).task 1).yieldAsked = false ∧
    State.reset.ispFrame 0 = none ∧
    State.reset.runningOn 0x20 = none ∧
    (ispRun [1] false).ofPart .smc ((ispRun [1] false).task 1).part = true ∧
    ((ispRun [1] false).task 1).owner = .node 9 0 := by decide

/-- Graph 5 resident; a trigger waits; job 9 of it where asked. -/
def graphs (g : Graph) (js : List Job) (s : State) : State := { s with fgs := { s.fgs with graphs := [g], jobs := js } }

/-- A context of stream 0 at 0x3_0000: VALID, output 3 (16 × 2 bytes), no taps. -/
def withCtx (s : State) : State :=
  { s with dram := { s.dram with mem := [(0x30003, 0x83)] }, isp := { s.isp with streams := [(0, ⟨some 0x30000, none, [], none⟩)] } }

/-- An ISP that has a READY task of slot 0 of stream 0 with a context. -/
def ispFrameReady : State :=
  let s := withCtx (withStream stream0 tensors)
  let s := tasks [(1, { task .ready 0 none with args := [0, 0, 0x80000000], outs := [0] })] ((s.setReg (R.ISP_CTRL 0) 1).setReg R.HTS_CTRL 1)
  { s with isp := { s.isp with queue := [1] } }

/-- The same task running, its frame taken, its context not yet read. -/
def ispLoading : State :=
  let s := tasks [(1, { task .running 0 (some 0x20) with args := [0, 0, 0x80000000], outs := [0] })] ispFrameReady
  { s with isp := { s.isp with queue := [], frames := [⟨1, some 0, 0x30000, [], 0, 0, false, false, none⟩] } }

theorem witness_IspFrameStartsAndLoads :
    ispFrameReady.runningOn 0x20 = none ∧
    ispFrameReady.flag (R.ISP_CTRL 0) 0 = true ∧
    ispFrameReady.flag R.HTS_CTRL 0 = true ∧
    ispFrameReady.domState 1 = Dom.on ∧
    ispFrameReady.ispSelect 0 = some 1 ∧
    (((ispFrameReady.startOn 1 0x20).takeCredits 1 0x20).task 1).frame = some (0, 0) ∧
    (((ispFrameReady.startOn 1 0x20).takeCredits 1 0x20).ispStream 0).ctx = some 0x30000 ∧
    bit (((ispFrameReady.startOn 1 0x20).takeCredits 1 0x20).ctxWord 0x30000 0) 31 = true ∧
    ispLoading.ispFrame 0 = some ⟨1, some 0, 0x30000, [], 0, 0, false, false, none⟩ ∧
    (ispLoading.count 323 1).ispDestCheck 1 stream0 [0, 0, 0, 0x83] = St.done := by decide

theorem witness_IspContextReads : (ispLoading.dramRead (whoPart 0x20 (ispLoading.ownerOf 0)) 0x30000 65536).2.1 = St.done := by decide +kernel

/-- Stream 0 with context and a setting request window of agent SMC. -/
def settings : State := (withCtx (withStream stream0 (on openDram))).setReg (R.ISP_SR_ID 0) 5

theorem witness_IspRegistersAndSettings :
    settings.cmdBusy R.ISP_CTX_STATUS = false ∧
    (busy R.ISP_CTX_STATUS).cmdBusy R.ISP_CTX_STATUS = true ∧
    settings.p3OrFull .smc = true ∧
    State.reset.p3OrFull .pcieHost = false ∧
    ((on [(R.ISP_CTX_ADDR_LO, 4)]).swapCheck .smc 0 (on [(R.ISP_CTX_ADDR_LO, 4)]).ctxAddr).2 ≠ St.done ∧
    settings.ofPart .smc (settings.ownerOf 0) = true ∧
    bits 0#32 2 0 ≠ 7 ∧
    ((settings.setFld (R.ISP_SR_CTRL 0) 25 16 0).setFld (R.ISP_SR_CTRL 0) 2 0 0).postEnabled 0 = true ∧
    ((settings.setFld (R.ISP_SR_CTRL 0) 25 16 0).setFld (R.ISP_SR_CTRL 0) 2 0 0).openRequests 0 < 4 ∧
    4 ≤ { settings with isp := { settings.isp with streams := [(0, ⟨some 0x30000, none, List.replicate 4 ⟨0, 0, 0, 0, none, 0, 0, 0, false, false⟩, none⟩)] } }.openRequests 0 := by decide

theorem witness_GraphCommands :
    State.reset.cmdBusy R.FGS_GRAPH_STATUS = false ∧
    (busy R.FGS_GRAPH_STATUS).cmdBusy R.FGS_GRAPH_STATUS = true ∧
    (on [(R.FGS_GRAPH_ADDR_LO, 4)]).graphAddr % 64 ≠ 0 ∧
    State.reset.graphAddr % 64 = 0 ∧
    State.reset.graphAddr + 64 ≤ dramEnd ∧
    dramEnd < (on [(R.FGS_GRAPH_ADDR_HI, 0xFF)]).graphAddr + 64 ∧
    State.reset.graph? 5 = none ∧
    (graphs graph5 [] State.reset).graph? 5 = some graph5 ∧
    (graphs graph5 [] (on [(R.SAF_STATUS, 0x10)])).graphRefused .smc graph5 = true ∧
    (graphs graph5 [] State.reset).graphRefused .smc graph5 = false ∧
    graph5.started = true ∧
    { graph5 with started := false }.started = false ∧
    (graphs graph5 [] State.reset).fgs.jobs.any (·.graph == 5) = false := by decide

/-- A trigger waits at the started graph 5. -/
def triggered : State := graphs { graph5 with pending := [trig0] } [] (on [(R.HTS_QUOTA 3, 8)])

/-- Job 9 of graph 5, POSTING, its nodes' tasks entered and not yet posted. -/
def posting : State := tasks [(1, nodeTask .posting 0 none), (2, { task .posting 1 none with owner := .node 9 1 })] (graphs graph5 [{ job9 with state := .posting }] State.reset)

def fullQueue (s : State) : State := { s with hts := { s.hts with postq := List.replicate 512 (.event 0 0 0 3 false) } }

theorem witness_JobsAreInstantiatedAndPosted :
    State.reset.nextTrigger = none ∧
    triggered.fgsHeld = false ∧
    triggered.isSafe = false ∧
    (triggered.nextTrigger.map (·.2)) = some trig0 ∧
    State.reset.fgs.jobs.find? (·.state == .posting) = none ∧
    posting.fgs.jobs.find? (·.state == .posting) = some { job9 with state := .posting } ∧
    (List.range 2).find? (fun n => (job9.node n).unposted) = some 0 ∧
    (fullQueue posting).postqFull = true ∧
    posting.postqFull = false ∧
    posting.job? 9 = some { job9 with state := .posting } ∧
    (job9.node 0).task = some 1 ∧
    (job9.node 1).unposted = true ∧
    (graphs graph5 [job9] State.reset).graph? job9.graph = some graph5 ∧
    (job9.node 0).late = false ∧
    (job9.node 0).committed = false ∧
    job9.trig.time + 1000 * graph5.timeoutUs ≤ (at_ 1000000 State.reset).now ∧
    State.reset.now < job9.trig.time + 1000 * graph5.timeoutUs := by decide

theorem witness_SequencerRegisters :
    State.reset.cmdBusy R.FGS_ABORT_STATUS = false ∧
    (busy R.FGS_ABORT_STATUS).cmdBusy R.FGS_ABORT_STATUS = true ∧
    State.reset.fgs.ended = [] ∧
    { State.reset with fgs := { State.reset.fgs with ended := [(5, 7)] } }.fgs.ended.any (fun e => e.1 == bits 5#32 7 0) = true ∧
    State.reset.fgs.jobs.any (fun j => j.graph == bits 5#32 7 0) = false ∧
    State.reset.graph? (bits 5#32 7 0) = none ∧
    (graphs { graph5 with part := 1 } [] (on [(R.SAF_STATUS, 0x10)])).graph? (bits 5#32 7 0) = some { graph5 with part := 1 } ∧
    (on [(R.SAF_STATUS, 0x10)]).locked = true ∧
    (graphs graph5 [job9] State.reset).fgs.jobs = [job9] ∧
    job9.graph = bits 5#32 7 0 ∧
    bit 5#32 8 = false ∧
    job9.state = .running ∧
    State.reset.cqWaiting 3 = [] ∧
    isFull .pcieHost = false ∧
    State.reset.partOf .pcieHost = 2 := by decide

/-- Ring 0 of graph 5 given to job 9: its producer is task 1, its consumer task 2, two slots, the first in a state. -/
def ring0 (prod cons : RSlotState) (ps cs : Option Nat) : SlotRing :=
  ⟨5, 0, some 9, 10, [⟨prod, 0, 0, false⟩, ⟨cons, 0, 4, false⟩], 0, 1, ps, cs, [], [], false, false⟩

def ringed (x : SlotRing) : State :=
  let s := tasks [(1, nodeTask .running 0 (some 0x20)), (2, { task .running 1 (some 0x22) with owner := .node 9 1 })] (graphs graph5 [job9] State.reset)
  { s with fgs := { s.fgs with rings := [x] } }

theorem witness_SlotRingsMove :
    State.reset.ring? 5 0 = none ∧
    (ringed { ring0 .free .free none none with owner := none, next := 0 }).ring? 5 0 = some { ring0 .free .free none none with owner := none, next := 0 } ∧
    graph5.edges.find? (fun e => e.typ == Edge.ring && e.ring == 0) = some ⟨0, 1, 1, 0, 0⟩ ∧
    (([job9].filter (fun j => j.graph == 5 && decide (0 ≤ j.id) && !((j.node 0).committed && (j.node 1).committed))).head?) = some job9 ∧
    (ringed (ring0 .filling .draining none none)).ringJob 5 0 = some (ring0 .filling .draining none none, graph5, job9, ⟨0, 1, 1, 0, 0⟩) ∧
    ((ring0 .free .draining none none).at_ 0).state ≠ .filling ∧
    ((ring0 .filling .full none none).at_ 1).state ≠ .draining ∧
    (ringed (ring0 .filling .draining none none)).nodeTaskRunning job9 0 = some 1 ∧
    (ringed (ring0 .filling .draining none none)).nodeTaskRunning job9 1 = some 2 ∧
    (graph5.rings.getD 0 ⟨0, 0, 1, 1, 1⟩).timeoutUs = 100 ∧
    (0 : Nat) + 1000 * 100 ≤ (at_ 100000 State.reset).now := by decide

/-! ### The scheduler (O28 to O31) -/

/-- Post set 0 of partition 0 holding a HOST task, with quota. -/
def postSet : State := on [(R.HTS_PS_CFG 0, 0x0009F000), (R.HTS_QUOTA 0, 8), (R.HTS_CTRL, 1)]

def queued (t : Task) : State := let s := tasks [(1, t)] State.reset; { s with hts := { s.hts with postq := [.task 1 1] } }

def delayed (timeout : Bool) (t : Task) : State := let s := tasks [(1, t)] State.reset; { s with hts := { s.hts with delays := [⟨1, timeout, 0⟩] } }

theorem witness_PostsEnterAndLeaveTheQueue :
    postSet.ofPart .smc (postSet.setPart 0) = true ∧
    State.reset.postInvalid 0 = true ∧
    postSet.postInvalid 0 = false ∧
    (fullQueue postSet).postqFull = true ∧
    (on [(R.HTS_PS_CFG 0, 0x0009F000), (R.HTS_QUOTA 0, 0)]).quotaLeft 0 = 0 ∧
    postSet.postqFull = false ∧
    postSet.quotaLeft 0 ≠ 0 ∧
    postSet.freeHead = some 0 ∧
    (on [(R.HTS_PS_PART 0, 1)]).ofPart .pcieHost ((on [(R.HTS_PS_PART 0, 1)]).setPart 0) = false ∧
    State.reset.hts.postq = [] ∧
    ((queued { task .posting 9 none with delay := 3 }).task 1).delay ≠ 0 ∧
    ((queued (task .posting 9 none)).task 1).state = .posting ∧
    ((queued (task .waiting 9 none)).task 1).state ≠ .posting ∧
    ((queued { task .posting 9 none with gen := 2 }).task 1).gen ≠ 1 ∧
    (queued (task .posting 9 none)).hts.postq = .task 1 ((queued (task .posting 9 none)).task 1).gen :: [] ∧
    ((queued (task .posting 9 none)).task 1).delay = 0 ∧
    (queued (task .posting 9 none)).satisfied ((queued (task .posting 9 none)).task 1) = true ∧
    (queued { task .posting 9 none with mask := 1 }).satisfied ((queued { task .posting 9 none with mask := 1 }).task 1) = false ∧
    State.reset.expired false = none ∧
    (delayed false (task .delayed 9 none)).expired false = some 1 ∧
    State.reset.expired true = none ∧
    (delayed true (task .waiting 9 none)).expired true = some 1 := by decide

/-- READY tasks in level order, the scheduler on. -/
def ready (l : List (Nat × Task)) (s : State) : State :=
  let s := tasks l (s.setReg R.HTS_CTRL 1)
  { s with hts := { s.hts with ready := l.map (·.1) } }

def core0 (mode : Word) : List (Nat × Word) := [(R.HTS_HC_CFG 0, 0x10 + mode)]

/-- A PGE task that started before. -/
def pgeTask : Task := { task .ready 1 none with started := true }

/-- A TASTER task of a proof entry whose pair is tensor 0 twice. -/
def tasteTask : Task := { task .ready 11 none with owner := .proof 0 0 0 }

theorem witness_WorkersAreGivenTasks :
    State.reset.flag R.HTS_CTRL 0 = false ∧
    (ready [(1, { task .ready 9 none with part := 0, inst := 15 })] (on (core0 0))).coreTask 0 = some 1 ∧
    (on (core0 0)).takeMode 0 = false ∧
    (on (core0 1)).takeMode 0 = true ∧
    (ready [] State.reset).coreTask 0 = none ∧
    (ready [(1, pgeTask)] (on [(R.ENG_CTRL 0, 1)])).runningOn (agentId (.pge 0)) = none ∧
    State.reset.domState (domainOf (agentId (.pge 0))) = Dom.on ∧
    State.reset.selectFor (agentId (.pge 0)) = none ∧
    (ready [(1, pgeTask)] (on [(R.ENG_CTRL 0, 1)])).selectFor (agentId (.pge 0)) = some 1 ∧
    (ready [(1, task .ready 0 none)] State.reset).bestOf ([1].filter (fun i => ((ready [(1, task .ready 0 none)] State.reset).task i).cls == 0)) = some 1 ∧
    (ready [(1, task .ready 12 none)] (on [(R.FGS_CTRL, 1)])).selectFor emitUnit = some 1 ∧
    (ready [(1, tasteTask)] tensors).selectFor tasterUnit = some 1 ∧
    (ready [(1, tasteTask)] tensors).runningOn tasterUnit = none ∧
    ((((ready [(1, tasteTask)] tensors).giveArg 1).startOn 1 tasterUnit).tasterStart 1).2 = St.done ∧
    agentId (.hc 0) = 0 ∧
    (State.reset.hcs 0).takeUntil = none ∧
    State.reset.fld (R.HTS_HC_CFG 0) 19 8 = 0 ∧
    (on [(R.HTS_HC_CFG 0, 0x111)]).fld (R.HTS_HC_CFG 0) 19 8 ≠ 0 ∧
    { State.reset with hts := { State.reset.hts with hcs := setAt State.reset.hts.hcs 0 ⟨some 0, none⟩ } }.hcs 0 = ⟨some 0, none⟩ ∧
    (tasks [(1, task .running 9 (some 0))] State.reset).runningOn 0 = some 1 ∧
    State.reset.runningOn 0 = none ∧
    (State.reset.hcs 0).preempt = none ∧
    agentId .smc ≠ 0 := by decide

theorem witness_TaskAbortAndFree :
    State.reset.cmdBusy R.HTS_ABORT_STATUS = false ∧
    (busy R.HTS_ABORT_STATUS).cmdBusy R.HTS_ABORT_STATUS = true ∧
    bit 0#32 31 = false ∧
    bit 0x80000000#32 31 = true ∧
    State.reset.named (State.reset.reg R.HTS_ABORT_HANDLE) = none ∧
    (tasks [(1, task .running 9 (some 0))] (on [(R.HTS_ABORT_HANDLE, 0x01000001)])).named 0x01000001 = some 1 ∧
    (tasks [(1, task .running 9 (some 0))] State.reset).ofPart .smc 3 = true ∧
    State.reset.ofPart .pcieHost 3 = false ∧
    (task .running 9 (some 0)).owner = .software ∧
    (nodeTask .running 0 none).owner ≠ .software ∧
    (tasks [(1, task .done 9 none)] State.reset).named 0x01000001 = some 1 ∧
    (task .waiting 9 none).state ≠ .done ∧
    State.reset.ofPart .smc (State.reset.groupPart 0) = true := by decide

theorem witness_SchedulerRegistersAndTimers :
    bits 1000#32 9 0 ≤ 1000 ∧ 1 ≤ bits 1#32 9 0 ∧
    bits 0#32 9 0 = 0 ∧
    1000 < bits 1001#32 9 0 ∧
    isFull .smc = true ∧
    State.reset.locked = false ∧
    (on [(R.SAF_STATUS, 0x10)]).locked = true ∧
    isFull .pcieHost = false ∧
    10 ≤ bits 10#32 9 0 ∧
    bits 9#32 9 0 < 10 ∧
    (((List.range 4).filter (· != 3)).map (fun q => State.reset.fld (R.HTS_QUOTA q) 13 0)).sum + bits 2048#32 13 0 ≤ 8192 ∧
    8192 < (((List.range 4).filter (· != 3)).map (fun q => State.reset.fld (R.HTS_QUOTA q) 13 0)).sum + bits 2049#32 13 0 ∧
    State.reset.ofPart .smc (State.reset.fld (R.TIM_CTRL 0) 31 30) = true ∧
    bits 1#32 31 30 = State.reset.fld (R.TIM_CTRL 0) 31 30 ∧
    State.reset.flag (R.TIM_CTRL 0) 0 = false ∧
    ({ on [(R.TIM_CTRL 0, 3), (R.TIM_PERIOD 0, 10)] with hts := { State.reset.hts with timers := setAt State.reset.hts.timers 0 ⟨some 10, false⟩ } }.timer 0).due = some 10 ∧
    (on [(R.TIM_CTRL 0, 3), (R.TIM_PERIOD 0, 10)]).timerRuns 0 = true ∧
    State.reset.now < 1000 * 10 ∧
    1000 * 10 ≤ (at_ 10000 State.reset).now ∧
    (on [(R.TIM_CTRL 0, 3), (R.TIM_PERIOD 0, 10)]).flag (R.TIM_CTRL 0) 2 = false := by decide

/-! ### Engines and neural cores (O32 to O36) -/

/-- A started job, task 1, running on an engine with parameters, tensor 0 being handle 0. -/
def engine (id cls : Nat) (ps : List Word) (y : Bool) : State :=
  tasks [(1, { task .running cls (some id) with params := ps, started := true, yieldAsked := y, total := 2 })] tensors

/-- Parameters whose every handle is 0xFFFF. -/
def noHandles : List Word := List.replicate 32 0xFFFFFFFF

theorem witness_EngineJobsComplete :
    State.reset.jobOn 0x22 = none ∧
    State.reset.jobOn 0x28 = none ∧
    State.reset.jobOn 0x29 = none ∧
    (engine 0x22 1 [] false).jobOn 0x22 = some 1 ∧
    ((engine 0x22 1 [] false).readTensors 0x22 1 [pgeIn []] ((engine 0x22 1 [] false).readBudget 1)).2.1 = St.done ∧
    ((engine 0x22 1 noHandles false).readTensors 0x22 1 [pgeIn noHandles] ((engine 0x22 1 noHandles false).readBudget 1)).2.1 ≠ St.done ∧
    (engine 0x22 1 [] false).desc? 3 (pgeIn []) = some tensor0 ∧
    (engine 0x24 2 [] false).jobOn 0x24 = some 1 ∧
    ((engine 0x24 2 [] false).readTensors 0x24 1 (wpeIn [] :: (wpeOps []).drop 2) ((engine 0x24 2 [] false).readBudget 1)).2.1 = St.done ∧
    ((engine 0x24 2 noHandles false).readTensors 0x24 1 (wpeIn noHandles :: (wpeOps noHandles).drop 2) ((engine 0x24 2 noHandles false).readBudget 1)).2.1 ≠ St.done ∧
    (engine 0x24 2 [] false).desc? 3 (wpeOut []) = some tensor0 ∧
    (engine 0x26 3 [] false).jobOn 0x26 = some 1 ∧
    ((engine 0x26 3 [] false).readTensors 0x26 1 ((List.range (ofeLevels [])).map (ofeRef []) ++ (List.range (ofeLevels [])).map (ofeSrc []) ++ (if ofeUsedPrior [] = noHandle then [] else [ofeUsedPrior []])) ((engine 0x26 3 [] false).readBudget 1)).2.1 = St.done ∧
    ((engine 0x26 3 noHandles false).readTensors 0x26 1 ((List.range (ofeLevels noHandles)).map (ofeRef noHandles) ++ (List.range (ofeLevels noHandles)).map (ofeSrc noHandles) ++ (if ofeUsedPrior noHandles = noHandle then [] else [ofeUsedPrior noHandles])) ((engine 0x26 3 noHandles false).readBudget 1)).2.1 ≠ St.done ∧
    (engine 0x28 4 [] false).jobOn 0x28 = some 1 ∧
    ((engine 0x28 4 [] false).readTensors 0x28 1 [sgeLeft [], sgeRight []] ((engine 0x28 4 [] false).readBudget 1)).2.1 = St.done ∧
    ((engine 0x28 4 noHandles false).readTensors 0x28 1 [sgeLeft noHandles, sgeRight noHandles] ((engine 0x28 4 noHandles false).readBudget 1)).2.1 ≠ St.done ∧
    (engine 0x29 5 [] false).jobOn 0x29 = some 1 ∧
    ((engine 0x29 5 [] false).readTensors 0x29 1 ((List.range (fteLevels [])).map (fteLevel []) ++ (if fteMatch [] && fteFlow [] != noHandle then [fteFlow []] else [])) ((engine 0x29 5 [] false).readBudget 1)).2.1 = St.done ∧
    ((engine 0x29 5 noHandles false).readTensors 0x29 1 ((List.range (fteLevels noHandles)).map (fteLevel noHandles) ++ (if fteMatch noHandles && fteFlow noHandles != noHandle then [fteFlow noHandles] else [])) ((engine 0x29 5 noHandles false).readBudget 1)).2.1 ≠ St.done := by decide

/-- Task 1 of job 9 running on an engine. -/
def nodeRun (id cls : Nat) (reps : Nat) : State :=
  tasks [(1, { nodeTask .running cls (some id) with started := true, repeats := reps })] (withJob { job9 with graph := 6 } (graphs graph5 [] State.reset))

/-- The same in a graph without rings, so that it may be repeated. -/
def nodeRepeat (id cls reps : Nat) : State :=
  let s := tasks [(1, { nodeTask .running cls (some id) with started := true, repeats := reps })] State.reset
  graphs { graph5 with edges := [] } [job9] s

theorem witness_EnginesYieldAndRepeat :
    State.reset.runningOn 0x22 = none ∧
    (engine 0x22 1 [] false).runningOn 0x22 = some 1 ∧
    ((engine 0x22 1 [] false).task 1).yieldAsked = false ∧
    ((engine 0x24 2 [] true).task 1).yieldAsked = true ∧
    (engine 0x24 2 [] true).runningOn 0x24 = some 1 ∧
    (engine 0x26 3 [] true).runningOn 0x26 = some 1 ∧
    (nodeRepeat 0x22 1 0).mayRepeat 1 = true ∧
    (nodeRepeat 0x22 1 2).mayRepeat 1 = false ∧
    (nodeRepeat 0x26 3 0).mayRepeat 1 = true ∧
    (nodeRepeat 0x29 5 0).mayRepeat 1 = true ∧
    bit (wd ((nodeRepeat 0x29 5 0).task 1).params 0) 25 = false ∧
    (engine 0x22 1 [] false).ofPart .pcieHost 3 = false ∧
    (engine 0x22 1 [] false).ofPart .smc 3 = true ∧
    ((nodeRepeat 0x22 1 0).task 1).owner = .node 9 0 ∧
    engineId 0 = 0x22 ∧
    State.reset.p3OrFull .pcieHost = false := by decide

/-- A pair table held for partition 0. -/
def paired : State := { State.reset with fte := setAt State.reset.fte 0 (some ⟨0x40, List.replicate 256 0, 0⟩) }

theorem witness_PairTablesAndTrackSets :
    State.reset.cmdBusy R.FTE_PT_STATUS = false ∧
    (busy R.FTE_PT_STATUS).cmdBusy R.FTE_PT_STATUS = true ∧
    paired.pairTable 0 = some ⟨0x40, List.replicate 256 0, 0⟩ ∧
    paired.ofPart .pcieHost 0 = false ∧
    State.reset.pairTable 0 = none ∧
    bit 0x80000000#32 31 = true ∧
    ((on [(R.FTE_PT_ADDR_LO, 4)]).reg R.FTE_PT_ADDR_LO).toNat % 64 ≠ 0 ∧
    (engine 0x29 5 [] false).fteUses (fun w => ftePt w == 0) = true ∧
    State.reset.fteUses (fun w => ftePt w == 0) = false ∧
    State.reset.locked = false ∧
    (State.reset.readAgain { State.reset.whoOf .smc with agent := 0x29 } 0 1024 2).2.1 = St.done ∧
    (List.replicate 256 0#32).all pairOk = true ∧
    [0x00000010#32].all pairOk = false ∧
    paired.runningOn 0x29 = none ∧
    (paired.readAgain ⟨0x29, 0, 1⟩ 0x40 1024 2).2.1 = St.done ∧
    State.reset.ofPart .smc (State.reset.fld (R.FTE_TS_CFG 0) 31 30) = true ∧
    (1 : Word) ≠ 0 ∧
    State.reset.ofPart .pcieHost (State.reset.fld (R.FTE_TS_CFG 0) 31 30) = false := by decide

/-- A segment of one command on core 0 for node 0 of graph 5. -/
def segment (c : Word) : Segment := ⟨3, 0, [0], [(5, 0)], [], [[c]], [], [], [], [], none, none⟩

/-- Core 0 running it, with the command not issued (`pc` 0) or in flight (`pc` 1). -/
def neural (c : Word) (r : NcRun) (y : Bool) : State :=
  let s := tasks [(1, { nodeTask .running 6 (some 0x10) with yieldAsked := y })] (graphs { graph5 with edges := [] } [job9] State.reset)
  { s with nc := ⟨[segment c], [r], none⟩ }

def fresh : NcRun := NcRun.start 1 0 0 0

def flying : NcRun := { fresh with pc := 0, fly := [⟨0, false⟩] }

theorem witness_NeuralCommandsIssue :
    State.reset.ncNow 0 = none ∧
    (neural 0 fresh false).ncNow 0 = some (fresh, segment 0) ∧
    ((neural 0 fresh false).task 1).yieldAsked = false ∧
    cmdOp [0x01000000] ≠ 0 ∧
    (List.range 16).all (fun i => !bit (BitVec.ofNat 32 (cmdWait [0x00000001])) i || (fresh.flagBy.getD i none).isSome) = false ∧
    fresh.pc < (segment 0).cmds.length ∧
    cmdOp [0x00000000] = 0x00 ∧
    (List.range 16).all (fun i => !bit (BitVec.ofNat 32 (cmdWait [0x00000000])) i || (fresh.flagBy.getD i none).isSome) = true ∧
    (neural 0x01000000 fresh false).ncCheck 3 ((neural 0x01000000 fresh false).ncCmd fresh (segment 0x01000000) 0) ≠ St.done ∧
    (neural 0 fresh false).ncCheck 3 ((neural 0 fresh false).ncCmd fresh (segment 0) 0) = St.done := by decide

theorem witness_NeuralRunsEnd :
    (neural 0 fresh false).ncNow 0 = some (fresh, segment 0) ∧
    fresh.fly.find? (fun f => opUnit (cmdOp ((segment 0).cmds.getD f.idx [])) == 1) = none ∧
    (neural 0x10000000 flying false).ncNow 0 = some (flying, segment 0x10000000) ∧
    flying.fly.find? (fun f => opUnit (cmdOp ((segment 0x10000000).cmds.getD f.idx [])) == 2) = some ⟨0, false⟩ ∧
    cmdOp [0x10000000] ≠ 0 ∧
    ((neural 0x10000000 flying false).ncCmd flying (segment 0x10000000) 0).inputs.any ((neural 0x10000000 flying false).ringShort 3) = false ∧
    flying.pc < (segment 0x10000000).cmds.length ∧
    (neural 0 fresh false).mayRepeat 1 = true ∧
    State.reset.ofPart .pcieHost 0 = false ∧
    State.reset.ofPart .smc 3 = true ∧
    (on [(R.SAF_STATUS, 0x10)]).locked = true ∧
    State.reset.scratchUse 0 ≤ 2 ^ 20 * bits 1#32 15 0 ∧
    State.reset.ncUse [] 3 0 0 ≤ 1024 * bits 1#32 12 0 ∧
    bits 1#32 12 0 ≤ 64 * State.reset.granulesOf (spmMem 0 0) 3 := by decide

/-! ### Tensor unit, scratchpads, DMA, mailboxes (O37 to O41) -/

def stage (d : Desc) (s : State) : State := (List.range 16).foldl (fun s w => s.setReg (R.TDU_STAGE 3 w) (wd d.words w)) s

def tensorFor (pins : Nat) : State := { tensors with tdu := { tensors.tdu with tables := setAt tensors.tdu.tables 3 ⟨[(0, { tensor0 with pins := pins })], 1, []⟩ } }

def regionWords : State := on (openDram ++ [(R.TDU_REG_STAGE 0, 0x20000), (R.TDU_REG_STAGE 1, 0x00030000), (R.TDU_REG_STAGE 2, 0x1000)])

theorem witness_TensorDescriptorsAndRegions :
    State.reset.cmdBusy (R.TDU_STATUS 3) = false ∧
    (busy (R.TDU_STATUS 3)).cmdBusy (R.TDU_STATUS 3) = true ∧
    State.reset.cmdBusy R.TDU_REG_STATUS = false ∧
    (busy R.TDU_REG_STATUS).cmdBusy R.TDU_REG_STATUS = true ∧
    State.reset.ofPart .pcieHost 3 = false ∧
    State.reset.ofPart .smc 3 = true ∧
    (State.reset.createCheck .smc 3 (State.reset.staged 3)).isSome = true ∧
    (stage tensor0 tensors).createCheck .smc 3 ((stage tensor0 tensors).staged 3) = none ∧
    (tensors.table 3).head = some 1 ∧
    3 < tensors.tdu.tables.length ∧
    State.reset.desc? 3 0 = none ∧
    (tensorFor 1).desc? 3 0 = some { tensor0 with pins := 1 } ∧
    (tensorFor 0).desc? 3 0 = some tensor0 ∧
    (tensors.table 3).used.any (fun e => e.2.elem == El.se8 && e.2.companion == 0) = false ∧
    tensor0.words.length ≤ 32 ∧
    State.reset.regionCheck .smc ((List.range 4).map (fun w => State.reset.reg (R.TDU_REG_STAGE w))) ≠ St.done ∧
    regionWords.regionCheck .smc ((List.range 4).map (fun w => regionWords.reg (R.TDU_REG_STAGE w))) = St.done ∧
    regionWords.freeRegion = some 0 ∧
    State.reset.region? 4095 = none ∧
    tensors.region? 0 = some ⟨0, 0x20000, 0x1000, 3, 0, true, none⟩ ∧
    tensors.tdu.tables.any (fun t => t.used.any (fun e => e.2.region == 0)) = true ∧
    State.reset.tdu.tables.any (fun t => t.used.any (fun e => e.2.region == 0)) = false := by decide

def filling : State := { State.reset with spm := { State.reset.spm with fill := some ⟨24, 0, 1, 3⟩ } }

theorem witness_ScratchpadsServeAccesses :
    64 < 63 % 64 + 2 ∧
    60 % 64 + 4 ≤ 64 ∧
    60 + 4 ≤ spmSize 0 ∧
    State.reset.spm.fill = none ∧
    isFull .smc = true ∧
    State.reset.spmBadIn 0 60 4 = [] ∧
    0 < State.reset.spm.mem.length ∧
    filling.spm.fill = some ⟨24, 0, 1, 3⟩ ∧
    filling.spm.waiting = [] ∧
    bit 0x80000000#32 31 = true ∧
    bits 0x98000000#32 5 0 + (bits 0x98000000#32 13 8 + 1) ≤ granules (spmMem (bits 0x98000000#32 28 27) (bits 0x98000000#32 26 24)) ∧
    bits 0x98000000#32 26 24 = 0 ∧
    State.reset.regionMeets 24 0 1 = false ∧
    State.reset.locked = false ∧
    State.reset.runningOn 0x10 = none ∧
    State.reset.coreHoldsYield 0 = false ∧
    (on [(R.SPM_CTRL, 0)]).flag R.SPM_CTRL 0 = false ∧
    (on [(R.SPM_CTRL, 1)]).flag R.SPM_CTRL 0 = true ∧
    isFull .pcieHost = false := by decide

/-- Channel 0 of engine 3 in a state. -/
def channel (st : Nat) : State := on ([(R.DMA_CH_STATUS 3 0, BitVec.ofNat 32 st), (R.DMA_CH_CFG 3 0, 1)] ++ openDram)

/-- Group 5 of partition 3 has flag 0 up, and channel 0 of engine 3 has it in its mask. -/
def watched : State := on [(R.HTS_GROUP_PART 0, 0xC00), (R.HTS_GROUP_FLAGS 5, 1), (R.DMA_CH_EVT_MASK 3 0, 1), (R.DMA_CTRL 3, 1)]

/-- A 1-D copy of 64 bytes inside DRAM. -/
def copy64 : List Word := [0, 0, 0x20000, 0, 0x21000, 0, 64, 1, 0, 0, 0, 0, 0, 0, 0, 0]

def moving (ch : DmaChan) (rs : List DmaRead) : State :=
  let s := channel 2
  { s with dma := setAt s.dma 3 { DmaEng.reset with chans := setAt DmaEng.reset.chans 0 ch, reads := rs },
           power := { s.power with held := [⟨0x33, 3, 1, 0⟩] } }

def copying (issued : Nat) : DmaChan := { DmaChan.reset with desc := copy64, issued := issued }

def read0 : DmaRead := ⟨0, 0x20000, 64, 0, 0, none⟩

/-- The copy's descriptor stands at 0x1_0000. -/
def withDesc (s : State) : State :=
  { s with dram := { s.dram with mem := [(0x1000A, 0x02), (0x10011, 0x10), (0x10012, 0x02), (0x10018, 0x40), (0x1001C, 0x01)] } }

theorem witness_DmaChannelsObey :
    State.reset.ofPart .pcieHost 3 = false ∧
    State.reset.ofPart .smc 3 = true ∧
    State.reset.chState 3 0 = Ch.disabled ∧
    bits 1#32 31 29 < 6 ∧
    State.reset.dmaForeignTrig 3 (1 ||| 1) = none ∧
    State.reset.trigPending 3 0 = false ∧
    (channel 1).chState 3 0 = Ch.armed ∧
    (channel 1).reg (R.DMA_CH_CFG 3 0) &&& 0x3FFFE = 0 ∧
    State.reset.trigSrc 3 0 ≠ TrigSrc.task ∧
    (channel 2).chState 3 0 = Ch.running ∧
    ((channel 2).chan 3 0).aborting = false ∧
    (channel 5).chState 3 0 = Ch.paused ∨ (channel 4).chState 3 0 = Ch.paused ∨ (channel 6).chState 3 0 = Ch.paused ∨ (channel 3).chState 3 0 = Ch.paused ∧
    (channel 2).dmaOpen 3 0 = false ∧
    State.reset.flag (R.DMA_STATUS 3) 16 = false ∧
    (on [(R.DMA_STATUS 3, 0x10000)]).flag (R.DMA_STATUS 3) 16 = true ∧
    (on [(R.DMA_STATUS 3, 0x10000)]).flag (R.DMA_STATUS 3) 17 = false ∧
    ((on [(R.DMA_STATUS 3, 0x10000)]).eng 3).err = none ∧
    bits 0x60A00000#32 31 29 = TrigSrc.event ∧
    bits 0x60A00000#32 28 21 = 5 ∧
    State.reset.reg (R.HTS_GROUP_FLAGS 5) &&& State.reset.reg (R.DMA_CH_EVT_MASK 3 0) = 0 ∧
    (watched).reg (R.HTS_GROUP_FLAGS 5) &&& (watched).reg (R.DMA_CH_EVT_MASK 3 0) ≠ 0 ∧
    (watched).flag (R.DMA_CTRL 3) 0 = true ∧
    (watched).chState 3 0 = Ch.disabled ∧
    (watched).ofPart .smc 3 = true ∧
    (watched).dmaForeignTrig 3 (0x60A00000 ||| 1) = none ∧
    (watched).trigPending 3 0 = false ∧
    (List.range 16).all (fun k => (on [(R.DMA_STATUS 3, 0x10000)]).chState 3 k != Ch.stopped) = true ∧
    (State.reset.eng 3).cqWait = [] := by decide

theorem witness_DmaMovesData :
    State.reset.chState 3 0 ≠ Ch.running ∧
    (channel 2).chState 3 0 = Ch.running ∧
    ((channel 2).chan 3 0).desc = [] ∧
    ((moving { DmaChan.reset with next := 4 } []).chan 3 0).next % 64 ≠ 0 ∧
    dramEnd < ((moving { DmaChan.reset with next := dramEnd } []).chan 3 0).next + 64 ∧
    ((channel 2).chan 3 0).next + 64 ≤ dramEnd ∧
    ((withDesc (moving { DmaChan.reset with next := 0x10000 } [])).dmaDescRead 3 0 0x10000 2).2.1 = St.done ∧
    (List.range 16).map (wordAt ((withDesc (moving { DmaChan.reset with next := 0x10000 } [])).dmaDescRead 3 0 0x10000 2).2.2) = copy64 ∧
    (channel 2).dmaCheck 3 copy64 false 0 = St.done ∧
    (on [(R.DMA_STATUS 3, 0x10000)]).flag (R.DMA_STATUS 3) 16 = true ∧
    (channel 2).dmaOutstanding 3 < 256 ∧
    ((List.range 16).map (fun k => (((moving (copying 0) []).eng 3).last + 1 + k) % 16)).find? (fun c => (moving (copying 0) []).dmaReady 3 c && !([] : List Nat).contains c) = some 0 ∧
    (moving (copying 0) []).creditWaits 0x33 = false ∧
    (moving (copying 0) []).power.held.any (·.agent == 0x33) = true ∧
    3 < (moving (copying 0) []).dma.length ∧
    State.reset.dmaRead? 3 0 = none ∧
    (moving (copying 64) [read0]).dmaRead? 3 0 = some read0 ∧
    ((moving (copying 64) [read0]).dmaFrom 3 (dmaSrcSpace copy64) (dmaSrcCore copy64) 0x20000 64 [] false).2.1 = St.done ∧
    ((moving (copying 64) [read0]).dmaFrom 3 (dmaSrcSpace copy64) (dmaSrcCore copy64) 0x20000 64 [] true).2.1 = St.integrity ∧
    read0.tries < 2 := by decide

/-- Mailbox 0 valid with every sender, owned by partition 0. -/
def mail : State := on [(R.MBX_CFG 0, 0x8F000000)]

def full : Mailbox := ⟨true, 7, [0x3C000007], []⟩

def held (o : Option Nat) : State := { State.reset with host := { State.reset.host with lockOwner := setAt State.reset.host.lockOwner 0 o } }

theorem witness_MailboxesAndLocks :
    senderBank .smc = some 8 ∧
    bit 0x80000000#32 31 = true ∧
    State.reset.flag (R.MBX_CFG (bits 0x80000000#32 5 0)) 31 = false ∧
    mail.flag (R.MBX_CFG 0) 31 = true ∧
    mail.flag (R.MBX_CFG 0) (24 + mail.partOf .pcieHost) = true ∧
    senderBank .noAgent = none ∧
    mail.ofPart .smc (mail.mbxOwner 0) = true ∧
    full.full = true ∧
    full.seq = bits 7#32 15 0 ∧
    (mail.mailbox 0).full = false ∧
    mail.ofPart .pcieHost (mail.mbxOwner 0) = false ∧
    State.reset.ofPart .smc (State.reset.lockPart 0) = true ∧
    (held none).host.lockOwner.getD 0 none = none ∧
    (held (some (agentId .smc))).host.lockOwner.getD 0 none = some (agentId .smc) ∧
    isFull .smc = true ∧
    isFull .pcieHost = false := by decide

/-! ### DRAM and the safety island (O42 to O46) -/

/-- A region that lets nobody in over all of DRAM. -/
def closed : State := on [(R.DMC_FW_LIMIT 0, 0x7FFFF), (R.DMC_FW_CFG 0, 0x80000000)]

def stopped : State := on [(R.DMC_STATUS, 0x100)]

def island (st : Word) (l : List (Nat × Word)) : State := on ((R.SAF_STATUS, st) :: l)

def inSaf (f : SafSt → SafSt) (s : State) : State := { s with saf := f s.saf }

theorem witness_DramServesAccesses :
    stopped.dramStopped = true ∧
    (on openDram).dramStopped = false ∧
    (on openDram).dramCheck ((on openDram).whoOf (.hc 0)) false 0x1000 64 = none ∧
    (blocksOf 0x1000 64).all (fun b => !(on openDram).dram.bad.contains b) = true ∧
    closed.dramCheck (closed.whoOf (.hc 0)) false 0x1000 64 = some (St.partitionFault, 0x1000) ∧
    (on openDram).dramCheck ((on openDram).whoOf (.hc 0)) true 0x1000 64 = none ∧
    (List.range 32).all (fun e => !(on openDram).pantryValid e) = true ∧
    closed.dramCheck (closed.whoOf (.hc 0)) true 0x1000 64 = some (St.partitionFault, 0x1000) ∧
    (on openDram).dramCheck ((on openDram).whoOf (.hc 0)) true dramEnd 1 = some (St.rangeFault, dramEnd) ∧
    St.rangeFault ≠ St.partitionFault ∧
    St.rangeFault ≠ St.done := by decide

/-- Pantry entry 0 with 64 KiB at 0 and its copy at 0x11800, which lies on another die. -/
def pantry : State := on [(R.DMC_PANTRY_SIZE 0, 1), (R.DMC_PANTRY_COPY 0, 0x11800 / 2048)]

theorem witness_DramUpkeep :
    State.reset.dram.reload.contains 0 = false ∧
    { State.reset with dram := { State.reset.dram with reload := [0] } }.dram.reload.contains 0 = true ∧
    State.reset.sec.slot = none ∧
    (on [(R.DMC_CTRL, 0)]).flag R.DMC_CTRL 0 = false ∧
    (on [(R.DMC_CTRL, 1)]).flag R.DMC_CTRL 0 = true ∧
    State.reset.dramStopped = false ∧
    State.reset.dram.bad.contains State.reset.dram.scrubBlk = false ∧
    dieNext (State.reset.fld (R.DMC_TEMP 0) 17 16) (sext 16 400) ≠ 3 ∧
    dieNext (State.reset.fld (R.DMC_TEMP 0) 17 16) (sext 16 841) = 3 ∧
    State.reset.fld (R.DMC_TEMP 0) 17 16 ≠ 3 ∧
    (on [(R.DMC_TEMP 0, 0x30000)]).fld (R.DMC_TEMP 0) 17 16 = 3 ∧
    isFull .smc = true ∧
    State.reset.locked = false ∧
    bits 0x4000#32 6 0 ≤ bits 0x4000#32 14 8 ∧
    bits 0x4000#32 14 8 ≤ 64 ∧
    bits 0x4000#32 14 8 ≠ 0 ∧
    bits 0x4000#32 6 0 + (((List.range 4).filter (· != 0)).map (fun q => State.reset.fld (R.DMC_SHARE q) 6 0)).sum ≤ 64 ∧
    bits 0x0001#32 14 8 < bits 0x0001#32 6 0 ∧
    64 < bits 0x4100#32 14 8 ∧
    bits 0#32 14 8 = 0 ∧
    bit 0#32 31 = false ∧
    bit 0x80000000#32 31 = true ∧
    pantry.pantryValid 0 = false ∧
    pantry.pantryOk 0 = true ∧
    1 ≤ pantry.pantryLen 0 ∧
    (on [(R.DMC_PANTRY_SIZE 0, 1)]).pantryOk 0 = false ∧
    (on [(R.SAF_STATUS, 0x10)]).locked = true ∧
    60 ≤ bits 60#32 15 0 ∧ bits 3600#32 15 0 ≤ 3600 ∧
    bits 59#32 15 0 < 60 ∧
    3600 < bits 3601#32 15 0 ∧
    isFull .pcieHost = false ∧
    (on [(R.MBX_HC_ERR_LO 0, 1)]).flag (R.MBX_HC_ERR_LO 0) 0 = true ∧
    State.reset.flag (R.MBX_HC_ERR_LO 0) 0 = false := by decide

theorem witness_SafeStateIsEnteredAndStays :
    State.reset.isSafe = false ∧
    (island (BitVec.ofNat 32 Island.safe) []).island = Island.safe ∧
    (island (BitVec.ofNat 32 Island.off) []).island = Island.off ∧
    (island (BitVec.ofNat 32 Island.safe) []).isSafe = true ∧
    (inSaf (fun x => { x with decided := some 0 }) State.reset).saf.decided = some 0 ∧
    State.reset.saf.lockstep = false ∧
    (inSaf (fun x => { x with lockstep := true }) State.reset).saf.lockstep = true ∧
    20000000 + 0 ≤ (at_ 20000000 State.reset).now ∧
    State.reset.now < 20000000 + 0 ∧
    State.reset.island ≠ Island.safe ∧
    State.reset.saf.decided = none ∧
    isFull .smc = true := by decide

theorem witness_IslandIsSupervised :
    State.reset.isSafe = false ∧
    Agent.pcieHost ≠ .smc ∧
    (island (BitVec.ofNat 32 Island.lockedFailed) []).island = Island.lockedFailed ∧
    State.reset.island = Island.boot ∧
    State.reset.locked = false ∧
    State.reset.lockChecks.2.1 = 0 ∨ State.reset.lockChecks.2.1 ≠ 0 ∧
    isFull .smc = true ∧
    (island 0x12 []).locked = true ∧
    (on [(R.SAF_HB_CFG, 100)]).fld R.SAF_HB_CFG 16 0 ≠ 0 ∧
    isFull .pcieHost = false ∧
    State.reset.partOf .pcieHost ≠ 0 ∧
    State.reset.saf.heartbeat = none ∧
    (inSaf (fun x => { x with heartbeat := some 0 }) State.reset).saf.heartbeat = some 0 ∧
    State.reset.now ≤ 0 + 1000 * (on [(R.SAF_HB_CFG, 100)]).fld R.SAF_HB_CFG 16 0 ∧
    0 + 1000 * (on [(R.SAF_HB_CFG, 100)]).fld R.SAF_HB_CFG 16 0 < (at_ 100001 State.reset).now ∧
    (on [(R.SAF_REACT, 1)]).flag R.SAF_REACT 0 = true ∧
    (on [(R.SAF_REACT, 0)]).flag R.SAF_REACT 0 = false ∧
    State.reset.saf.wdEvents = [] ∧
    (inSaf (fun x => { x with wdEvents := [(5, 1, true)] }) State.reset).saf.wdEvents = (5, 1, true) :: [] ∧
    (inSaf (fun x => { x with wdEvents := [(5, 0, false)] }) State.reset).saf.wdEvents = (5, 0, false) :: [] := by decide

/-- Policy 0: window of 3, K = 1, partition 0 (or 2), verdicts waiting. -/
def judged (part : Word) (h : List Bool) (v : Bool) : State :=
  inSaf (fun x => { x with hist := setAt x.hist 0 h, verdicts := [(0, v)] }) (on [(R.SAF_TP_CFG 0, 0x80030100 + part * 0x10000000)])

theorem witness_TasterAndProofsJudge :
    State.reset.runningOn tasterUnit = none ∧
    (tasks [(1, task .running 11 (some tasterUnit))] State.reset).runningOn tasterUnit = some 1 ∧
    State.reset.saf.verdicts = [] ∧
    (judged 0 [] false).saf.verdicts = (0, false) :: [] ∧
    ones ((false :: (judged 0 [] false).saf.hist.getD 0 []).take ((judged 0 [] false).fld (R.SAF_TP_CFG 0) 23 16)) ≤ (judged 0 [] false).fld (R.SAF_TP_CFG 0) 15 8 ∧
    ones ((true :: (judged 0 [] true).saf.hist.getD 0 []).take ((judged 0 [] true).fld (R.SAF_TP_CFG 0) 23 16)) ≤ (judged 0 [] true).fld (R.SAF_TP_CFG 0) 15 8 ∧
    (judged 0 [true] true).fld (R.SAF_TP_CFG 0) 15 8 < ones ((true :: (judged 0 [true] true).saf.hist.getD 0 []).take ((judged 0 [true] true).fld (R.SAF_TP_CFG 0) 23 16)) ∧
    (judged 0 [true] true).fld (R.SAF_TP_CFG 0) 29 28 ≤ 1 ∧
    2 ≤ (judged 2 [true] true).fld (R.SAF_TP_CFG 0) 29 28 ∧
    (judged 0 [true] true).isSafe = false ∧
    State.reset.saf.nextInterval = none ∧
    (inSaf (fun x => { x with nextInterval := some 5 }) State.reset).saf.nextInterval = some 5 ∧
    State.reset.locked = false ∧
    State.reset.now < 5 ∧
    (island 0x12 []).locked = true ∧
    (island 0x12 []).isSafe = false ∧
    5 ≤ (at_ 5 State.reset).now ∧
    State.reset.validSets = [] ∧
    State.reset.saf.proofs = [] ∧
    State.reset.saf.windowOpen = false ∧
    (inSaf (fun x => { x with windowOpen := true }) State.reset).saf.windowOpen = true ∧
    (inSaf (fun x => { x with windowOpen := true }) State.reset).saf.windowClose ≤ State.reset.now := by decide

/-! ### Power, PCI Express, management (O47 to O53) -/

/-- Domain 3 may power off: AUTO_OFF, idle for 100 µs. -/
def idle3 : State := at_ 100000 (on [(R.PMG_DOM_CFG 3, 0x80000000)])

def domain (d st : Nat) : State := on [(R.PMG_DOM_STATUS d, BitVec.ofNat 32 st)]

theorem witness_PowerDomainsGoOffAndWake :
    idle3.mayOffNow 3 false = true ∧
    State.reset.mayOffNow 3 false = false ∧
    State.reset.domState 3 ≠ Dom.poweringOff ∧
    (domain 3 Dom.poweringOff).domState 3 = Dom.poweringOff ∧
    (domain 3 Dom.off).domState 3 = Dom.off ∧
    (domain 2 Dom.waking).domState 2 = Dom.waking ∧
    State.reset.domState 3 ≠ Dom.waking ∧
    State.reset.domState 3 ≠ Dom.off ∧
    State.reset.power.wakeAfterOff.contains 3 = false ∧
    [3].contains 3 = true ∧
    (List.range 4).all (fun k => (State.reset.fte.getD k none).isNone) = true := by decide

/-- Credit requests waiting: one of partition 2 before one of partition 0. -/
def credits (pool : Word) : State :=
  let s := on [(R.PMG_BUDGET_LIMIT, 760), (R.PMG_BUDGET_MAX, 760), (R.PMG_BUDGET_EFF, 0x02F80000), (R.PMG_BASE, 760 - pool)]
  { s with power := { s.power with waiting := [⟨0x22, 2, 4, 0⟩, ⟨0x23, 0, 4, 0⟩] } }

theorem witness_PowerCreditsAreGrantedInOrder :
    State.reset.nextCredit = none ∧
    (credits 8).nextCredit = some ⟨0x23, 0, 4, 0⟩ ∧
    (credits 8).power.waiting.any (·.part == 0) = true ∧
    (credits 8).creditFits 0 4 = true ∧
    (credits 3).creditFits 0 4 = false ∧
    sext 16 880 ≤ 880 ∧
    880 < sext 16 881 ∧
    isFull .smc = true ∧
    (on []).partOf .pcieHost ≠ 3 ∧
    isFull .pcieHost = false ∧
    200 ≤ bits 200#32 9 0 ∧
    bits 199#32 9 0 < 200 ∧
    State.reset.locked = false ∧
    (on [(R.SAF_STATUS, 0x10)]).locked = true := by decide

def ageing (f : AgeSt → AgeSt) (s : State) : State := { s with age := f s.age }

theorem witness_AgeingIsFollowed :
    State.reset.age.need = none ∧
    (ageing (fun x => { x with need := some (3, 5) }) State.reset).age.need = some (3, 5) ∧
    State.reset.now < 5 ∧
    5 ≤ (at_ 5 State.reset).now ∧
    State.reset.derate < 8 ∧
    (on [(R.PMG_CLK_STATUS, 8)]).derate = 8 ∧
    [(⟨39, 0⟩ : SlackReading)][0]? = some ⟨39, 0⟩ ∧
    (39 : Int) < 40 ∧
    (on [(R.PMG_MARGIN 3, 12)]).exhausted 3 = true ∧
    absDiff 730 700 ≤ 30 ∧
    30 < absDiff 731 700 ∧
    State.reset.isSafe = false ∧
    State.reset.age.droop.contains 3 = false ∧
    (ageing (fun x => { x with droop := [3] }) State.reset).age.droop.contains 3 = true ∧
    State.reset.flashLog = [] ∧
    State.reset.sec.logHour = State.reset.now / 3600000000000 ∧
    262144 < 262144 + 512 ∧
    State.reset.sec.logBytes + 512 ≤ 262144 := by decide

/-- The link up and bus mastering on. -/
def linked (l : List (Nat × Word)) : State := let s := on ((R.PCI_LINK_STATUS, 0x145) :: l); { s with pci := { s.pci with busMaster := true } }

/-- A DMA read of host memory under way in engine 3. -/
def hostRead : State := moving { DmaChan.reset with desc := [0x05000000] } [read0]

theorem witness_LinkAndConfigurationSpace :
    State.reset.pci.perst = false ∧
    ({ State.reset with pci := { State.reset.pci with perst := true } }).pci.perst = true ∧
    4 ∈ [1, 2, 4, 8] ∧
    3 ∉ [1, 2, 4, 8] ∧
    State.reset.linkUp = false ∧
    (linked []).linkUp = true ∧
    hostRead.dmaRead? 3 0 = some read0 ∧
    dmaSrcSpace (hostRead.chan 3 read0.chan).desc = 5 ∧
    State.reset.dmaRead? 3 0 = none ∧
    State.reset.inboundOk = false ∧
    (linked []).inboundOk = true ∧
    (linked []).pci.waiting = [] ∧
    (linked []).sec.answers = [] ∧
    pciQueueReg 0 = none ∧
    pciQueueReg (R.PCI_RQ_CFG 0) = some (R.PCI_RQ_CFG 0, 0xC0001F1F) ∧
    (on [(R.PCI_RQ_CFG 0, 0x80000000)]).flag (R.PCI_RQ_CFG 0) 31 = true ∧
    0#32 &&& BitVec.ofNat 32 0xC0001F1F = setBits ((on [(R.PCI_RQ_CFG 0, 0x80000000)]).reg (R.PCI_RQ_CFG 0)) 31 31 0 ∧
    State.reset.flag (R.PCI_RQ_CFG 0) 31 = false ∧
    State.reset.partOf .pciePeer ≠ 3 ∧
    Agent.pciePeer ≠ .smc ∧
    isFull .safety = true := by decide

theorem witness_InboundAndOutboundAccesses :
    State.reset.inboundOk = false ∧
    (linked []).inboundOk = true ∧
    natural 2 4 = false ∧
    natural 4 4 = true ∧
    { State.reset with sec := { State.reset.sec with step := 7 } }.sec.step = 7 ∧
    0x1000 + 64 ≤ dramEnd ∧
    dramEnd < dramEnd + 1 ∧
    (linked [(R.DMC_STATUS, 0x100)]).dramStopped = true ∧
    (linked openDram).dramCheck ((linked openDram).whoOf .pcieHost) true 0x1000 64 = none ∧
    (linked openDram).dramCheck ((linked openDram).whoOf .pcieHost) false 0x1000 64 = none ∧
    (linked []).dramCheck ((linked []).whoOf .pcieHost) false 0x1000 64 = some (St.partitionFault, 0x1000) ∧
    State.reset.host.inReset = true ∧
    { State.reset with host := { State.reset.host with inReset := false } }.host.inReset = false ∧
    State.reset.outboundAddr 0 = none ∧
    State.reset.outboundAddr 0x8000000010 = some (false, 0x10) ∧
    (linked []).outOk = true ∧
    State.reset.outOk = false := by decide

/-- A well-formed management command: its words, and the CRC-32C of bytes 0 to 59. -/
def command (ws : List Word) : List Word :=
  let ws := (ws ++ List.replicate 15 0#32).take 15
  ws ++ [crc32c (wordBytes ws)]

/-- The device past step 6 with one command in front. -/
def managed (ws : List Word) (s : State) : State := { s with sec := { s.sec with cmds := [command ws], step := 7 } }

theorem witness_ManagementQueueAnswers :
    State.reset.inboundOk = false ∧
    (linked []).mgqOn = false ∧
    (linked [(R.PCI_MGQ_CFG, 0x80000004)]).mgqOn = true ∧
    (linked [(R.PCI_MGQ_CFG, 0x80000004)]).pci.busMaster = true ∧
    (linked []).sec.cmds = [] ∧
    (linked []).reg R.PCI_MGQ_SQ_HEAD = 0 ∧
    State.reset.mgqRuns = false ∧
    (managed [0x01000007] (linked [])).mgqRuns = true ∧
    (managed [0x01000007] (linked [])).mgBad (command [0x01000007]) = false ∧
    mgOp (command [0x01000007]) = 0x01 ∧
    (linked []).outOk = true ∧
    mgOp (command [0x02000007]) = 0x02 ∧
    (List.range 32).find? (fun e => !State.reset.pantryValid e) = some 0 ∧
    (List.range 32).all (on ((List.range 32).map (fun e => (R.DMC_PANTRY_CFG e, 0x80000000)))).pantryValid = true ∧
    256 ≤ (wd (command [0x03000000, 256]) 1).toNat ∧
    State.reset.graph? 5 = none ∧
    (graphs graph5 [] State.reset).graph? 5 = some graph5 ∧
    (graphs graph5 [] State.reset).graphRefused .smc graph5 = false ∧
    graph5.pending = [] ∧
    (managed [0x03000001] (linked [])).mgBad (command [0x03000001]) = false := by decide

theorem witness_ManagementQueueChangesFlashFusesAndDebug :
    State.reset.flashRange (command [0x10000000, 0, 0, 256]) true = .inl 0 ∧
    State.reset.flashRange (command [0x10000000, 3, 0, 256]) true = .inr St.rangeFault ∧
    (linked []).hostRead none 256 = none ∧
    (linked []).hostRead (some [1]) 4 = some [1, 0, 0, 0] ∧
    State.reset.flashRange (command [0x11000000, 2, 0, 256]) false = .inl logBase ∧
    State.reset.slotVerifies 0 = false ∧
    State.reset.sec.fuseOps % 2 = 0 ∧
    { State.reset with sec := { State.reset.sec with fuseOps := 7 } }.sec.fuseOps / 4 % 2 = 1 ∧
    State.reset.sec.fuses.owner0 = none ∧
    ({ Fuses.blank with owner0 := some [] }).owner0.isSome = true ∧
    State.reset.runsOwner1 = false ∧
    wd (command [0x17000000, 2]) 1 = 2 ∧
    (linked []).outOk = true ∧
    State.reset.sec.challenge = none ∧
    State.reset.sec.slot = none ∧
    { State.reset with sec := { State.reset.sec with slot := some 1 } }.sec.slot = some 1 ∧
    State.reset.partOf .pcieHost ≠ 3 := by decide

/-! ### Registers, counters, pins (O54 to O60) -/

def run (s : State) : State := { s with host := { s.host with inReset := false } }

theorem witness_BarZeroTakesAlignedWords :
    (linked []).awake = true ∧
    (linked []).inboundOk = true ∧
    0x3FFFFFC < 0x4000000 ∧
    0x3FFFFFC % 4 = 0 ∧
    regRow 0x3FFFFFC = none ∧
    capWord 0x3FFFFFC = none ∧
    2 % 4 ≠ 0 := by decide

theorem witness_OnChipRegisterAccesses :
    State.reset.host.inReset = true ∧
    (run State.reset).host.inReset = false ∧
    aplicSource 0x40 = none ∧
    natural 0x42 4 = false ∧
    natural 0x40 4 = true ∧
    0x40 < bankStride ∧
    isPairLow 0x41 = false ∧
    State.reset.domState 9 = Dom.on ∧
    aplicSource 0xC003040 = some 16 ∨ (aplicSource 0xC003040).isSome = true ∧
    aplicSource (0xC003004 + 4 * 24) = some 25 ∧
    State.reset.sourceOwner 25 = some 0 ∧
    bits 0#32 31 18 < 8 ∧
    (run State.reset).homeOf 0 = 0 ∧
    8 ≤ bits 0x00200000#32 31 18 := by decide

theorem witness_CountersAndBandwidthMonitors :
    isFull .smc = true ∧
    isFull .pciePeer = false ∧
    Agent.pciePeer ≠ .pcieHost ∧
    State.reset.partOf .pciePeer ≠ 3 ∧
    1 ≤ bits 1#32 19 0 ∧
    bits 1000000#32 19 0 ≤ 1000000 ∧
    1000000 < bits 1000001#32 19 0 ∧
    bits 0#32 19 0 = 0 ∧
    State.reset.now < State.reset.pmc.winEnd ∧
    State.reset.pmc.winEnd ≤ (at_ 1000000 State.reset).now ∧
    State.reset.pmc.touched = false ∧
    State.reset.pmc.windowUs = 1000 := by decide

def crumbing (size : Word) : State :=
  let s := on ([(R.PMC_CT_SIZE, size)] ++ openDram)
  { s with pmc := { s.pmc with crumbs := [[1, 2, 3, 4]] } }

def smbus : State := { State.reset with sec := { State.reset.sec with step := 4, smbus := some 0x20 } }

theorem witness_TrailTelemetryAndSmbus :
    State.reset.pmc.crumbs = [] ∧
    (crumbing 256).pmc.crumbs = [1, 2, 3, 4] :: [] ∧
    (crumbing 256).dramStopped = false ∧
    (crumbing 0).ctSizeOk = false ∧
    (crumbing 256).ctSizeOk = true ∧
    decide ((2 ^ 32 + 0 - 0) % 2 ^ 32 = 256) = false ∧
    (crumbing 256).dramCheck (whoPart 0x39 3) true 0 16 = none ∧
    (blocksOf 0 16).all (fun b => !(crumbing 256).dram.bad.contains b) = true ∧
    (List.range 32).all (fun e => !(crumbing 256).pantryValid e) = true ∧
    State.reset.sec.step < 4 ∧
    4 ≤ smbus.sec.step ∧
    smbus.pmc.telemAt ≤ (at_ 1000000000 smbus).now ∧
    smbus.now < smbus.pmc.telemAt ∧
    smbus.pci.waiting = [] ∧
    State.reset.smbusAddr = none ∧
    smbus.smbusAddr = some 0x20 ∧
    bits (BitVec.ofNat 32 (199#16).toNat) 9 0 < 200 ∧
    200 ≤ bits (BitVec.ofNat 32 (200#16).toNat) 9 0 := by decide

theorem witness_PinsAndDebugPort :
    State.reset.underReset.awake = false ∧
    (List.range 16).all (fun k => (State.reset.gpio.strobe.getD k none).isNone) = true ∧
    State.reset.gpio.ext.length = 16 ∧
    State.reset.fld (R.SMC_GPIO_CFG 0) 5 4 ≠ 1 ∧
    State.reset.fld (R.SMC_GPIO_CFG 0) 5 4 ≠ 2 ∧
    State.reset.flag (R.SMC_GPIO_CFG 0) 16 = false ∧
    State.reset.flag (R.SMC_GPIO_CFG 0) 16 ≠ true ∧
    State.reset.fgs.graphs = [] ∧
    State.reset.trigSrc 0 0 ≠ TrigSrc.gpio ∧
    State.reset.host.irq.contains 26 = false ∧
    State.reset.ofPart .pcieHost (State.reset.fld (R.SMC_GPIO_CFG 0) 31 30) = false ∧
    State.reset.ofPart .smc (State.reset.fld (R.SMC_GPIO_CFG 0) 31 30) = true ∧
    bits 0x20#32 31 30 = State.reset.fld (R.SMC_GPIO_CFG 0) 31 30 ∧
    bits 0x20#32 5 4 = 2 ∧
    (on [(R.TIM_CTRL 0, 0x40000000)]).fld (R.TIM_CTRL (bits 0x20#32 12 8)) 31 30 ≠ 0 ∧
    jtagDefined.contains 2 = true ∧
    jtagDefined.contains 63 = false ∧
    State.reset.sec.challenge = none ∧
    State.reset.sec.scope ≠ 2 := by decide

/-! ### Well-formed and ill-formed commands (WellFormed.lean): one ill-formed command for each check -/

/-- Ill-formed commands are refused. -/
theorem test_illFormed_1 :
    Instr.wf (.registerWrite .smc 0 3 0) = false ∧
    Instr.wf (.pairLowWordRead .smc 0 16) = false ∧
    Instr.wf (.inboundBar0Access .smc 0 4 none) = false ∧
    Instr.wf (.inboundBar0Access .pcieHost 0 5 none) = false ∧
    Instr.wf (.inboundBar2Access 0 0 4 (some [1, 2]) false) = false ∧
    Instr.wf (.inboundBar2Access 0 0 0 none false) = false ∧
    Instr.wf (.configRequest ⟨false, 1024, 0⟩) = false := by decide

/-- Ill-formed commands are refused. -/
theorem test_illFormed_2 :
    Instr.wf (.frameStartLine 0 ⟨[0, 0], true, false, false⟩) = false ∧
    Instr.wf (.activeLine 0 ⟨[], false, false, false⟩) = false ∧
    Instr.wf (.embeddedLine 0 ⟨[0], false, false, false⟩) = false ∧
    Instr.wf (.frameEndLine 0 ⟨[0, 0], false, false, false⟩) = false ∧
    Instr.wf (.dramRead .smc 0 0 [] []) = false ∧
    Instr.wf (.dramWrite .smc 0 []) = false ∧
    Instr.wf (.scratchpadAccess .smc 0 0 2 (some [none]) none []) = false := by decide

/-- Ill-formed commands are refused. -/
theorem test_illFormed_3 :
    Instr.wf (.lockAcquire [] 0) = false ∧
    Instr.wf (.lockAcquire [.smc, .smc] 0) = false ∧
    Instr.wf (.thermalCapUpdate []) = false ∧
    Instr.wf (.railRead []) = false ∧
    Instr.wf (.slackSample []) = false ∧
    Instr.wf (.mgqDoorbell 0 [[0]]) = false ∧
    Instr.wf (.linkUp 0 1) = false := by decide

/-- Ill-formed commands are refused. -/
theorem test_illFormed_4 :
    Instr.wf (.linkUp 7 1) = false ∧
    Instr.wf (.linkUp 1 3) = false ∧
    Instr.wf (.jtagDbgResp []) = false ∧
    Instr.wf (.hostOutboundAccess 0 0 2 (some [1]) none) = false ∧
    Instr.wf (.taskDispatch .noAgent) = false := by decide

/-- Well-formed commands pass. -/
theorem test_wellFormed :
    Instr.wf (.registerWrite .smc 0 8 0) = true ∧
    Instr.wf (.pairLowWordRead .smc 0 4) = true ∧
    Instr.wf (.inboundBar0Access .pciePeer 0 4 none) = true ∧
    Instr.wf (.inboundBar2Access 0 0 2 (some [1, 2]) false) = true ∧
    Instr.wf (.configRequest ⟨true, 1023, 0⟩) = true ∧
    Instr.wf (.frameStartLine 0 ⟨[0, 0, 0], true, false, false⟩) = true ∧
    Instr.wf (.dramRead .smc 0 1 [] []) = true ∧
    Instr.wf (.dramWrite .smc 0 [0]) = true ∧
    Instr.wf (.scratchpadAccess .smc 0 0 1 (some [none]) none []) = true ∧
    Instr.wf (.lockAcquire [.smc, .pcieHost] 0) = true ∧
    Instr.wf (.mgqDoorbell 0 [List.replicate 16 0]) = true ∧
    Instr.wf (.linkUp 6 8) = true ∧
    Instr.wf (.jtagDbgResp (List.replicate 128 0)) = true ∧
    Instr.wf (.hostOutboundAccess 0 0 1 (some [1]) none) = true ∧
    Instr.wf (.taskDispatch .sge) = true ∧
    Instr.wf (.clockFault) = true := by decide

/-! ### Worked examples of the spec -/

/-- The ASCII string "123456789". -/
def digits : List Byte := [0x31, 0x32, 0x33, 0x34, 0x35, 0x36, 0x37, 0x38, 0x39]

/-- The check values of R47, R66 and R501. -/
theorem test_checkCodes :
    crc32c digits = 0xE3069283 ∧
    crc8 digits = 0xF4 ∧
    crc16 digits = 0x29B1 := by decide

/-- Word 0 of the completion record of SGE0 in 01_architecture.md. -/
theorem test_sgeRecordWord :
    wd (Rec.words ⟨St.inputMarked, 0x28, 0x10, 1, 0, 0, 0, frameTag 58 8000, 0x0024, 0, 2048⟩) 0 = 0x40281040 ∧
    wd (Rec.words ⟨St.inputMarked, 0x28, 0x10, 1, 0, 0, 0, frameTag 58 8000, Mark.late + Mark.joinPartial, 0, 2048⟩) 5 = 0x00240000 ∧
    frameTag 58 8000 = 0x803A1F40 := by decide

/-- The frame job record of 04_frame_graphs.md. -/
theorem test_frameJobRecord :
    wd (Rec.words ⟨St.done, 0x38, Kind.frameJob, 0, 0, 0, 0, frameTag 4 1200, 0, 0x10FF, 10⟩) 0 = 0x00383000 ∧
    frameTag 4 1200 = 0x800404B0 := by decide

/-- PAY_LEN and LINE_STRIDE of the worked example of 02_pixel_ports.md: 2,448 pixels at two per transfer. -/
theorem test_landingSizes :
    payLen 0 2448 = 77 := by decide

/-- The bilinear sample of 06_pyramid_warp.md: X = 261,200, Y = 128,432, taps 100, 120, 110 and 140. -/
theorem test_wpeSample :
    wpeValue [] El.uint8 2448 2048 (fun _ x y => if y = 501 then (if x = 1020 then 100 else 120) else if x = 1020 then 110 else 140) 0 (some (261200, 128432)) = 115 := by decide

/-- The disparity offset and confidence of 07_flow_stereo.md: 2/16 and 106. -/
theorem test_sgeOffset :
    subPixel (some 510) (some 402) (some 470) = 2 ∧
    confidence 455 402 0x20 = 106 := by decide

/-- The flow vector of 07_flow_stereo.md: dx = −10, dy = 2 in sixteenths, confidence 180. -/
theorem test_ofeOffsets :
    16 * (-1) + subPixel (some 400) (some 280) (some 300) = -10 ∧
    subPixel (some 400) (some 280) (some 360) = 2 ∧
    confidence 370 280 0x20 = 180 := by decide

/-- A descriptor with its lowest `n` bits set. -/
def desc (n : Nat) : List Word := (List.range 8).map (fun k => BitVec.ofNat 32 ((2 ^ n - 1) / 2 ^ (32 * k)))

/-- A track whose descriptor differs from that of `corner` in `n` bits. -/
def trackAt (n : Nat) : Track := ⟨1, 0, 0, 0, 0, 0, 0, 0, 0, desc n⟩

def corner : Query := ⟨⟨0, 0, 0, 0, 0, 0⟩, 0, desc 0⟩

/-- WIN 4, MAX_DIST 64, RATIO 0xCC. -/
def matching : List Word := [0, 0, 0, 0, 0, 0, 0, 0x000440CC]

/-- The three matching decisions of 08_feature_engine.md. -/
theorem test_matchingDecisions :
    fteBest matching corner 0 0 [trackAt 38, trackAt 71] = some (0, 38) ∧
    fteBest matching corner 0 0 [trackAt 60, trackAt 52] = none ∧
    fteBest matching corner 0 0 [trackAt 70] = none := by decide

/-- SCALE 0.0078125, OFFSET 3.0, ACT CLAMP_LOW with ACT_LO 3.0. -/
def relu : GlazeSet := ⟨[0x10000000, 0x40400000, 0, 0, 0, 0, 0x3C000000, 0x40400000], [], []⟩

/-- The three accumulators of 09_neural_cores.md. -/
theorem test_glazeExample :
    encElem El.int8 (relu.apply 0 (fpInt 12345)) = (99, false, false) ∧
    encElem El.int8 (relu.apply 0 (fpInt (-5000))) = (3, false, false) ∧
    encElem El.int8 (relu.apply 0 (fpInt 20000)) = (127, true, false) := by decide

/-- The block of 09_neural_cores.md whose largest value is 5.0 = 5·2⁰: E = 129, 5.0 stores 80 (0.3 is 0x3E99999A). -/
theorem test_se8Example :
    se8Block [.fin false 5 0, fpOf 0x3E99999A] = ([80, 5], 129, false) := by decide

/-- The two pairs of 15_functional_safety.md with ABS_TOL 0.02 and REL_TOL 0.01. -/
theorem test_tasterPairs :
    tasteAgrees (fpOf 0x3CA3D70A) (fpOf 0x3C23D70A) (fpOf 0x3F000000) (fpOf 0x3F03D70A) = true ∧
    tasteAgrees (fpOf 0x3CA3D70A) (fpOf 0x3C23D70A) (fpOf 0x3DCCCCCD) (fpOf 0x3E0F5C29) = false := by decide

/-- The worked example of 13_host_cores.md: lock 7 was last granted to 0x05. -/
theorem test_lockRotation :
    lockOrder 5 [.hc 3, .pcieHost] = [.pcieHost, .hc 3] ∧
    lockOrder 0x40 [.pcieHost, .hc 3] = [.hc 3, .pcieHost] ∧
    (out (exec (.lockAcquire [.smc, .safety] 7) State.reset)).host.lockOwner.getD 7 none ≠ none := by decide

/-- The window table of the worked example of 05_task_scheduler.md: 2,000 µs P0, 3,000 P2, 2,000 P0, 2,000 P2, 500 P3 of 10 ms. -/
def table6 : State := on [(R.HTS_MAJOR_CYCLE, 10), (R.HTS_WIN 6 0, 0x800000C8), (R.HTS_WIN 6 1, 0xA000012C), (R.HTS_WIN 6 2, 0x800000C8),
  (R.HTS_WIN 6 3, 0xA00000C8), (R.HTS_WIN 6 4, 0xB0000032)]

/-- At 123.404 ms the P2 window is open, at 125.000 ms the P0 one, at 129.6 ms none. -/
theorem test_windowExample :
    (at_ 123404000 table6).windowOf 0x10 = some 2 ∧
    (at_ 125000000 table6).windowOf 0x13 = some 0 ∧
    (at_ 129499999 table6).windowOf 0x10 = some 3 ∧
    (at_ 129600000 table6).windowOf 0x10 = none ∧
    (at_ 125000000 table6).windowOf 0x14 = none := by decide

/-! ### The decoder of the table, the queue -/

/-- No row of the opcode table gives bits: no word spells a command, and the state stays as it is. -/
theorem test_noRowGivesBits :
    decodeTableWord 0 0 = none ∧
    decodeTableWord 32 0xFFFFFFFF = none ∧
    State.reset.withFetchWord 32 5 = State.reset := by decide

/-- The front command runs with the rest of the queue behind it. -/
theorem test_stepTakesTheFront :
    (out (step (State.reset.withPending [.clockFault, .lockstepMismatch]))).pending = [.lockstepMismatch] := by decide

/-- Reset values the register tables give. -/
theorem test_resetRegisters :
    State.reset.reg R.SMC_DEVICE_ID = 0x51200A01 ∧
    State.reset.reg R.SMC_CONTRACT_LEVEL = 0x00010000 ∧
    State.reset.reg R.SMC_CAP_COUNT = 10 ∧
    State.reset.reg (R.TPP_STATUS 7) = 0x04000000 ∧
    State.reset.reg R.HTS_MAJOR_CYCLE = 0x64 := by decide

/-! ### Further clauses of the statements -/

/-- The non-zero bytes of words at an address, as cells of a memory. -/
def cells (a : Nat) (ws : List Word) : List Host.Cell := ((wordBytes ws).zipIdx.filter (fun e => e.1 != 0)).map (fun e => (a + e.2, e.1))

def withMem (m : List Host.Cell) (s : State) : State := { s with dram := { s.dram with mem := m } }

/-- Good lines of frame 7: its start, row 1, an embedded line, its end. -/
def startLine : LinePacket := packet 0x10000007 0x80000000 0
def row1 : LinePacket := packet 0x10000007 0x00010100 16
def embLine : LinePacket := packet 0x10000007 0x40000100 16
def endLine : LinePacket := packet 0x10000007 0xC0000000 0

/-- Stream 0 with one embedded line, frame 7 open. -/
def embOpen : State := withStream { stream0 with cfg := [0x8C00F200, 0x00020010, 1, 1000, 0x10000, 0, 0x1000, 64], openF := some openF7, opened := true, lastFrame := 7 } landing

theorem witness_AcceptedLineLands_goodLines : GoodLine landing 0 startLine 0 ∧ GoodLine landingOpen 0 row1 0 ∧ GoodLine embOpen 0 embLine 0 ∧
    GoodLine landingOpen 0 endLine 0 := by
  unfold GoodLine; decide

theorem witness_AcceptedLineLands_events :
    hdrKind (wd startLine.words 1) = 2 ∧
    (landing.stream 0).openF = none ∧
    (landing.stream 0).newer 7 = true ∧
    (landing.stream 0).pickSlot = some (0, false) ∧
    hdrKind (wd row1.words 1) = 0 ∧
    openF7.active.contains 1 = false ∧
    openF7.frame = hdrFrame (wd row1.words 0) ∧
    (landingOpen.stream 0).earlyLines = 0 ∧
    (landingOpen.ispStream 0).ctx = none ∧
    ((landingOpen.lineIn 0 row1).dramWrite ((landingOpen.lineIn 0 row1).lndWho 0) ((landingOpen.stream 0).rowAddr 0 1) (wordBytes ((row1.words.drop 2).take (row1.words.length - 3)))).2 = St.done ∧
    hdrKind (wd embLine.words 1) = 1 ∧
    openF7.emb.contains 0 = false ∧
    ((embOpen.lineIn 0 embLine).dramWrite ((embOpen.lineIn 0 embLine).lndWho 0) ((embOpen.stream 0).embAddr 0 0) (wordBytes ((embLine.words.drop 2).take (embLine.words.length - 3)))).2 = St.done ∧
    hdrKind (wd endLine.words 1) = 3 ∧
    landingOpen.fgs.graphs = [] ∧ landingOpen.fgs.jobs = [] ∧
    0 < (landingOpen.stream 0).slots.length := by decide

/-- Graph 5 without edges. -/
def graph5e : Graph := { graph5 with edges := [] }

/-- Task 1 of job 9 of that graph running on a worker with parameters; tensor 0 is handle 0. -/
def loneOn (id cls : Nat) (ps : List Word) : State :=
  graphs graph5e [job9] (tasks [(1, { nodeTask .running cls (some id) with params := ps, started := true, total := 2 })] tensors)

/-- The same with what the engine has made of it asked to yield. -/
def loneYield (id cls : Nat) (ps : List Word) : State :=
  graphs graph5e [job9] (tasks [(1, { nodeTask .running cls (some id) with params := ps, started := true, total := 2, yieldAsked := true })] tensors)

theorem lone_loneOn (id cls : Nat) (ps : List Word) : Lone (loneOn id cls ps) id 1 9 0 :=
  ⟨rfl, rfl, rfl, job9, graph5e, rfl, rfl, rfl, rfl, rfl, rfl, by decide, 1, by decide, by decide, rfl⟩

/-- The frame of an ISP in that graph, its context loaded. -/
def ispLone : State :=
  let s := withStream stream0 (loneOn 0x20 0 [])
  { s with isp := { s.isp with frames := [⟨1, some 0, 0x30000, [1], 0, 0, false, false, none⟩] } }

theorem witness_IspFramesRun_ends : Lone ispLone 0x20 1 9 0 ∧ ispLone.ispFrame 0 = some ⟨1, some 0, 0x30000, [1], 0, 0, false, false, none⟩ ∧
    ispLone.jobOn 0x20 = some 1 ∧ ispLone.runningOn 0x20 = some 1 ∧ ispLone.ofPart .smc (ispLone.task 1).part = true :=
  ⟨⟨rfl, rfl, rfl, job9, graph5e, rfl, rfl, rfl, rfl, rfl, rfl, by decide, 1, by decide, by decide, rfl⟩, by decide⟩

/-- A frame that yielded before, its task READY again. -/
def ispBack : State := { ispReady with isp := { ispReady.isp with frames := [⟨1, none, 0x30000, [1], 0, 0, false, false, none⟩] } }

/-- An idle instance whose job has committed in the present cycle. -/
def ispLate : State := { State.reset with hts := { State.reset.hts with ended := [(0x20, 3)] } }

def ispAsked : State :=
  let s := withStream stream0 (loneYield 0x20 0 [])
  { s with isp := { s.isp with frames := [⟨1, some 0, 0x30000, [1], 0, 0, false, false, none⟩] } }

theorem witness_IspFramesRun_more :
    (((ispBack.startOn 1 0x20).takeCredits 1 0x20).isp.frames.find? (·.task == 1)) = some ⟨1, none, 0x30000, [1], 0, 0, false, false, none⟩ ∧
    ispBack.ispSelect 0 = some 1 ∧
    ispLate.runningOn 0x20 = none ∧
    ispLate.hts.ended.find? (·.1 == 0x20) = some (0x20, 3) ∧
    ispLate.ofPart .smc 3 = true ∧
    ispAsked.runningOn 0x20 = some 1 ∧
    (ispAsked.task 1).yieldAsked = true ∧
    ispAsked.creditWaits 0x20 = false ∧
    0 % 4 = 0 ∧
    0 < (ispAsked.task 1).total ∧
    (ispAsked.engRun 0x20 1 0).2.2.counts.contains 0 = true ∧
    ispAsked.canReach 1 (ispAsked.engRun 0x20 1 0).2.2 0 = true ∧
    6 % 4 ≠ 0 := by decide

/-- The image of a graph of partition 3 with one PGE node, started by a timer. -/
def image : List Word :=
  let h : List Word := [0x01000100, 0, 0xC0200000, 1000, 0x10FF, 64, 0, 0, 0, 128, 0, 0, 0, 0, 0]
  let n : List Word := [0x1F00FE00, 0, 0, 0, 0, 0, 0, 0, 0, 0, 0, 0, 0, 0, 0, 0]
  h ++ [crc32c (wordBytes (h ++ n))] ++ n

/-- The image at 0x100000, its address staged. -/
def loading : State := withMem (cells 0x100000 image) (on ((R.FGS_GRAPH_ADDR_LO, 0x100000) :: openDram))

def loadingU : State := loading.setFld R.FGS_GRAPH_CMD 7 0 5

def loadedGraph : Parsed := parseGraph 5 0x100000 (image.take 16) (wordBytes image)

theorem witness_GraphCommands_load :
    loadingU.graphAddr = 0x100000 ∧
    (loadingU.readAgain ⟨0x38, 3, 1⟩ 0x100000 64 2).2.1 = St.done ∧
    (List.range 16).map (wordAt (loadingU.readAgain ⟨0x38, 3, 1⟩ 0x100000 64 2).2.2) = image.take 16 ∧
    0x100000 + ghBytes (image.take 16) ≤ dramEnd ∧
    (loadingU.readAgain (whoPart 0x38 (ghPart (image.take 16))) 0x100000 128 2).2 = (St.done, wordBytes image) ∧
    (loadingU.loadCheck .smc loadedGraph (image.take 16) (wordBytes image)).1 = St.done ∧
    loadedGraph.graph.rings = [] ∧
    (List.range loadedGraph.graph.nodes.length).all (fun n => (loadedGraph.graph.node n).kind != NK.nc) = true := by decide

/-- A graph whose node 0 is a JOIN that waits 100 µs, node 1 a HOST node with a window that closes at 50 µs; its job, both on host cores. -/
def joinGraph : Graph := { graph5e with nodes := [⟨NK.join, 0, 0, false, 0, 0, 0, 0, 0, 0, [100]⟩, ⟨NK.host, 0, 0, false, 0, 0, 5, 0, 0, 0, []⟩] }

def joining (us : Nat) : State :=
  at_ (1000 * us) (graphs joinGraph [job9] (tasks [(1, nodeTask .running 9 (some 0)), (2, { task .running 9 (some 1) with owner := .node 9 1 })] State.reset))

theorem witness_JobsAreInstantiatedAndPosted_clocks :
    (joining 100).fgs.jobs = [job9] ∧
    (joining 100).graph? job9.graph = some joinGraph ∧
    joinGraph.edges = [] ∧
    (joinGraph.node 0).kind = NK.join ∧
    (joinGraph.node 1).kind ≠ NK.join ∧
    (joinGraph.node 0).wdClose = 0 ∧
    job9.trig.time + 1000 * bits (wd (joinGraph.node 0).args 0) 15 0 ≤ (joining 100).now ∧
    (job9.node 1).committed = false ∧
    (joining 51).pastClose (joinGraph.node 1) job9 = true ∧
    (joining 50).pastClose (joinGraph.node 1) job9 = false ∧
    job9.trig.time + 1000 * joinGraph.timeoutUs ≤ (joining 1000).now ∧
    (joining 999).now < job9.trig.time + 1000 * joinGraph.timeoutUs ∧
    job9.state = .running ∧
    ((joining 1000).task 1).state = .running ∧
    ((joining 1000).task 2).worker = some 1 ∧
    (joining 100).pci.waiting = [] := by decide

/-- A tensor of 16 × 8 bytes, and one of 8 × 4 bytes in region 1. -/
def base16 : Desc := ⟨[0x00014200, 0, 0, 0xFFFF0000, 0, 16, 8, 1, 1, 1, 1, 16, 0, 0, 0, 0], 0⟩
def half8 : Desc := ⟨[0x00114200, 0, 0, 0xFFFF0000, 0, 8, 4, 1, 1, 1, 1, 8, 0, 0, 0, 0], 0⟩

/-- Partition 3 with them as handles 0 and 1, region 1 being a ring of 2 KiB in the shared memory. -/
def pyramids : State :=
  { on openDram with tdu := ⟨[(0, ⟨RK.dram, 0x20000, 0x1000, 3, 0, true, none⟩), (1, ⟨RK.ring, 0, 2048, 3, 0, true, some 24⟩)],
    [⟨[], 0, []⟩, ⟨[], 0, []⟩, ⟨[], 0, []⟩, ⟨[(0, base16), (1, half8)], 2, []⟩]⟩ }

/-- A pyramid of two levels of handle 0, its save area at 0x40000; level 1 to a handle or to none. -/
def pgeWords (g1 : Word) : List Word :=
  [0x02000000, 0, 0, 0, 0, 0, 0x40000, 0, 0xFFFF0000 + g1, 0xFFFFFFFF, 0xFFFFFFFF, 0xFFFFFFFF, 0xFFFF, 0xFFFFFFFF, 0xFFFFFFFF, 0xFFFFFFFF, 0xFFFFFFFF, 0xFFFF]
    ++ List.replicate 14 0

/-- The PGE node of graph 5 with its parameter block at 0x50000, its task READY. -/
def pgeGraph : Graph := { graph5e with nodes := [⟨1, 0, 0, false, 0, 0, 0, 0x50000, 128, 0, []⟩, ⟨1, 0, 0, false, 0, 0, 0, 0, 0, 0, []⟩] }

def pgeReady : State :=
  withMem (cells 0x50000 (pgeWords 0xFFFF)) (graphs pgeGraph [job9] (ready [(1, nodeTask .ready 1 none)] (pyramids.setReg (R.ENG_CTRL 0) 1)))

/-- The words that a started PGE job keeps: its parameters and the size of its save area. -/
def pgeJob (g1 : Word) : List Word := pgeWords g1 ++ areaWords 512

/-- Node 0 sends level 1 to node 1 through ring 0. -/
def ringGraph : Graph := { graph5e with edges := [⟨0, 1, 1, 0, 0⟩], rings := [⟨0, 0, 2, 1, 100⟩], ringRegions := [1] }

def ringJob9 (a b : Bool) : Job := { job9 with nodes := [⟨some 1, true, a, 0, 0, 0, false, a⟩, ⟨some 2, true, b, 0, 0, 0, false, b⟩, ⟨none, true, false, 0, 0, 0, false, false⟩] }

/-- Task 1 on its engine makes the ring's rows, task 2 on WPE 0 takes them. -/
def ringing (id cls : Nat) (x : SlotRing) (j : Job) : State :=
  let s := tasks [(1, { nodeTask .running cls (some id) with params := pgeJob 1, started := true, pinned := [0, 1], outs := [1] }),
    (2, { task .running 1 (some 0x23) with owner := .node 9 1, pinned := [1], started := true })] pyramids
  let s := graphs ringGraph [j] s
  { s with fgs := { s.fgs with rings := [x] } }

/-- A neural producer whose rows for the ring are formed. -/
def ringNc : State :=
  ringing 0x10 6 { ring0 .filling .draining none none with made := List.replicate 32 (some 7) } (ringJob9 false false)

theorem witness_SlotRingsMove_ends :
    (ringing 0x22 1 (ring0 .filling .draining none none) (ringJob9 false false)).ringJob 5 0 = some (ring0 .filling .draining none none, ringGraph, ringJob9 false false, ⟨0, 1, 1, 0, 0⟩) ∧
    (ringing 0x22 1 (ring0 .filling .draining none none) (ringJob9 false false)).ringEnd ringGraph 0 (ringJob9 false false) 0 = some (1, half8) ∧
    (ringing 0x22 1 (ring0 .filling .draining none none) (ringJob9 false false)).ringEnd ringGraph 0 (ringJob9 false false) 1 = some (2, half8) ∧
    ((ring0 .filling .draining none none).at_ 0).state = .filling ∧
    ((ring0 .filling .draining none none).at_ 1).state = .draining ∧
    (ringing 0x22 1 (ring0 .filling .draining none none) (ringJob9 false false)).creditWaits 0x22 = false ∧
    (ringing 0x22 1 (ring0 .filling .draining none none) (ringJob9 false false)).jobWaits 1 = false ∧
    (ringing 0x22 1 (ring0 .filling .draining none none) (ringJob9 false false)).jobWaits 2 = false ∧
    (ringing 0x22 1 (ring0 .filling .draining none none) (ringJob9 false false)).creditWaits 0x23 = false ∧
    (ringing 0x22 1 (ring0 .filling .draining none none) (ringJob9 false false)).slotSpent (ring0 .filling .draining none none) 2 half8 = true ∧
    ((ringing 0x22 1 (ring0 .filling .draining none none) (ringJob9 false false)).spmRead 0x23 3 false true (ringGraph.slotPlace 0 1).1 (ringGraph.slotPlace 0 1).2.1 4).2.1 ≠ St.integrity ∧
    ringNc.ringEnd ringGraph 0 (ringJob9 false false) 0 = some (1, half8) ∧
    (ringNc.ringSend ringGraph { ring0 .filling .draining none none with made := List.replicate 32 (some 7) } half8 (ringNc.ncMade { ring0 .filling .draining none none with made := List.replicate 32 (some 7) } 1 1)).2 = true ∧
    ringGraph.edges = [⟨0, 1, 1, 0, 0⟩] ∧
    (ringing 0x22 1 (ring0 .full .draining (some 0) none) (ringJob9 false true)).nodeTaskRunning (ringJob9 false true) 0 = some 1 ∧
    ((ringJob9 false true).node 1).committed = true ∧
    ((ringJob9 false true).node 0).committed = false ∧
    ((ringJob9 false true).node 2).committed = false ∧
    (ringing 0x22 1 (ring0 .full .free none (some 0)) (ringJob9 true false)).nodeTaskRunning (ringJob9 true false) 1 = some 2 ∧
    ((ringJob9 true false).node 0).committed = true ∧
    ((ringing 0x22 1 (ring0 .full .free none (some 0)) (ringJob9 true false)).task 2).worker = some 0x23 := by decide

-- The rows a PGE job makes for its ring fill a slot.
theorem witness_SlotRingsMove_rows : let s := ringing 0x22 1 (ring0 .filling .draining none none) (ringJob9 false false)
    let q := s.engRun 0x22 1 (s.readBudget 1)
    q.2.1 = St.done ∧ (q.1.ringSend ringGraph (ring0 .filling .draining none none) half8
      ((q.1.ringPieces 1 1 q.2.2).foldl (fun m o => putOpt m (half8.ringOff o.outer + o.first) o.bytes) [])).2 = true := by decide +kernel

/-- A software task on core 0, asked to stay DONE. -/
def coreRun : State := tasks [(1, { task .running 9 (some 0) with holdDone := true })] (on (core0 1))

theorem witness_WorkersAreGivenTasks_lone : Lone (loneOn 0 9 []) 0 1 9 0 ∧ ((loneOn 0 9 []).hcs 0).preempt = none ∧ (loneOn 0 9 []).runningOn 0 = some 1 :=
  ⟨lone_loneOn 0 9 [], by decide⟩

/-- A task whose delay is over, its flag not yet there. -/
def delayedOn : State := delayed false { task .delayed 9 none with mask := 1 }

theorem witness_WorkersAreGivenTasks_more :
    pgeReady.selectFor 0x22 = some 1 ∧
    (((pgeReady.giveArg 1).startOn 1 0x22).task 1).started = false ∧
    (((pgeReady.giveArg 1).startOn 1 0x22).engineStart 0x22 1).2 = St.done ∧
    ((((ready [(1, { pgeTask with started := false })] (on [(R.ENG_CTRL 0, 1)])).giveArg 1).startOn 1 0x22).engineStart 0x22 1).2 ≠ St.done ∧
    ((((ready [(1, pgeTask)] (on [(R.ENG_CTRL 0, 1)])).giveArg 1).startOn 1 0x22).task 1).started = true ∧
    (coreRun.task 1).owner = .software ∧
    (coreRun.task 1).ondone = false ∧
    (coreRun.task 1).holdDone = true ∧
    coreRun.takeMode 0 = true ∧
    coreRun.runningOn 0 = some 1 ∧
    bit 1#32 0 = true ∧
    bit 0#32 0 = false ∧
    (delayedOn.crumbTask 4 1 0x39 0).satisfied ((delayedOn.crumbTask 4 1 0x39 0).task 1) = false ∧
    ((delayed false (task .delayed 9 none)).crumbTask 4 1 0x39 0).satisfied (((delayed false (task .delayed 9 none)).crumbTask 4 1 0x39 0).task 1) = true := by decide

theorem witness_EngineJobsComplete_ends :
    (loneOn 0x22 1 []).jobOn 0x22 = some 1 ∧
    ((loneOn 0x22 1 []).engRun 0x22 1 ((loneOn 0x22 1 []).readBudget 1)).2.1 = St.done ∧
    (loneOn 0x24 2 []).jobOn 0x24 = some 1 ∧
    ((loneOn 0x24 2 []).engRun 0x24 1 ((loneOn 0x24 2 []).readBudget 1)).2.1 = St.done ∧
    (loneOn 0x26 3 []).jobOn 0x26 = some 1 ∧
    ((loneOn 0x26 3 []).engRun 0x26 1 ((loneOn 0x26 3 []).readBudget 1)).2.1 = St.done ∧
    (loneOn 0x28 4 []).jobOn 0x28 = some 1 ∧
    ((loneOn 0x28 4 []).engRun 0x28 1 ((loneOn 0x28 4 []).readBudget 1)).2.1 = St.done ∧
    (loneOn 0x29 5 []).jobOn 0x29 = some 1 ∧
    ((loneOn 0x29 5 []).engRun 0x29 1 ((loneOn 0x29 5 []).readBudget 1)).2.1 = St.done ∧
    ((engine 0x22 1 noHandles false).engRun 0x22 1 ((engine 0x22 1 noHandles false).readBudget 1)).2.1 ≠ St.done ∧
    ((loneOn 0x22 1 []).pipeDone 1 0x22 (fun o => o)).2.status = St.done := by decide

theorem witness_EngineJobsComplete_lone : Lone (loneOn 0x22 1 []) 0x22 1 9 0 ∧ Lone (loneOn 0x29 5 []) 0x29 1 9 0 := ⟨lone_loneOn _ _ _, lone_loneOn _ _ _⟩

/-- An idle engine whose job, of partition 3, has committed in the present cycle. -/
def engineLate : State := { State.reset with hts := { State.reset.hts with ended := [(0x22, 3)] } }

/-- A PGE job asked to yield. -/
def pgeAsked (g1 : Word) : State :=
  graphs graph5e [job9] (tasks [(1, { nodeTask .running 1 (some 0x22) with params := pgeJob g1, started := true, yieldAsked := true })] pyramids)

theorem witness_EnginesYieldAndRepeat_more :
    engineLate.runningOn (engineId 0) = none ∧
    engineLate.hts.ended.find? (·.1 == engineId 0) = some (0x22, 3) ∧
    engineLate.ofPart .smc 3 = true ∧
    engineLate.ofPart .pcieHost 3 = false ∧
    (pgeAsked 0xFFFF).runningOn 0x22 = some 1 ∧
    (pgeAsked 0xFFFF).desc? 3 (pgeIn (pgeJob 0xFFFF)) = some base16 ∧
    pgeYieldPoint 16 8 0 = true ∧
    pgeYieldPoint 16 8 1 = false ∧
    (pgeAsked 0xFFFF).yieldOk 1 0x22 0 0 = true ∧
    (pgeAsked 0xFFFF).ringRows 1 = none ∧
    ((loneYield 0x24 2 []).wpeSize 3 []) = (16, 2) ∧
    wpeYieldPoint 16 2 0 ((loneYield 0x24 2 []).wpeSplit 0x24 1) = true ∧
    (loneYield 0x24 2 []).yieldOk 1 0x24 0 (wpeRows 2 (wpeBandsAt 16 0)) = true ∧
    (loneYield 0x24 2 []).canReach 1 ((loneYield 0x24 2 []).wpeRun 0x24 1 0).2.2 (wpeRows 2 (wpeBandsAt 16 0)) = true ∧
    (loneYield 0x26 3 []).ofeSize 3 [] = (16, 2) ∧
    (loneYield 0x26 3 []).yieldOk 1 0x26 0 (ofeRows [] 2 ((0 - ofeAbove [] 16 2) / max 1 (ceilDiv 16 64))) = true ∧
    (loneYield 0x26 3 []).canReach 1 ((loneYield 0x26 3 []).ofeRun 0x26 1 0).2.2 (ofeRows [] 2 ((0 - ofeAbove [] 16 2) / max 1 (ceilDiv 16 64))) = true ∧
    (loneYield 0x28 4 []).sgeSize 3 [] = (16, 2) ∧
    (loneYield 0x28 4 []).yieldOk 1 0x28 2 (sgeRows 2 (2 - (2 + 1) / 2)) = true ∧
    2 ≤ 2 * ((2 + 1) / 2) ∧
    (loneYield 0x29 5 []).yieldOk 1 0x29 0 (fteCountAt ((loneYield 0x29 5 []).fteRun 0x29 1 0).2.2.whole 0) = true ∧
    fteYieldPoint [] ((loneYield 0x29 5 []).fteSize 3 []).2 ((loneYield 0x29 5 []).fteRun 0x29 1 0).2.2.whole 0 = true := by decide

theorem witness_EnginesYieldAndRepeat_lone : Lone (loneOn 0x22 1 []) 0x22 1 9 0 ∧ (loneOn 0x22 1 []).ofPart .smc ((loneOn 0x22 1 []).task 1).part = true :=
  ⟨lone_loneOn _ _ _, by decide⟩

/-- Where the save area of a PGE is written (R243). -/
theorem witness_EnginesYieldAndRepeat_saves : (((pgeAsked 0xFFFF).drawMany 2).2.dramWrite (whoPart 0x22 3) 0x40000 (List.replicate 4 0)).2 = St.done ∧
    ((pgeAsked 0xFFFF).task 1).area = (0x40000, 512) ∧ (((closed.drawMany 2).2.dramWrite (whoPart 0x22 3) 0x40000 [0]).2 ≠ St.done) := by decide

/-- A neural run whose last command, a NOP, is in flight; and one that has come to its stopping tile. -/
def lastNop : NcRun := { fresh with pc := 1, fly := [⟨0, false⟩] }

def tileDone : NcRun := { fresh with pc := 1, stop := some 0 }

theorem witness_NeuralRunsEnd_more :
    (neural 0 lastNop false).ncNow 0 = some (lastNop, segment 0) ∧
    lastNop.fly.find? (fun f => opUnit (cmdOp (((neural 0 lastNop false).cmdsOn (segment 0) 0).getD f.idx [])) == opUnit 0) = some ⟨0, false⟩ ∧
    lastNop.fly.filter (·.idx != 0) = [] ∧
    ((neural 0 lastNop false).cmdsOn (segment 0) 0).length ≤ lastNop.pc ∧
    (neural 0 lastNop false).ringsDone 1 = true ∧
    ((neural 0 lastNop false).ncRun 0 3 ((neural 0 lastNop false).ncCmd lastNop (segment 0) 0) false).st = St.done ∧
    ((neural 0 lastNop false).ncCmd lastNop (segment 0) 0).inputs = [] ∧
    ((neural 0 lastNop false).ncCmd lastNop (segment 0) 0).outputs = [] ∧
    ((neural 0x10000000 flying false).ncRun 0 3 ((neural 0x10000000 flying false).ncCmd flying (segment 0x10000000) 0) false).st ≠ St.integrity ∧
    ((neural 0x10000000 flying false).ncRun 0 3 ((neural 0x10000000 flying false).ncCmd flying (segment 0x10000000) 0) false).st ≠ St.done ∧
    (neural 0 tileDone true).ncNow 0 = some (tileDone, segment 0) ∧
    tileDone.fly = [] ∧
    tileDone.pc = 0 + 1 ∧
    ((neural 0 tileDone true).task 1).yieldAsked = true := by decide

theorem witness_NeuralRunsEnd_lone : Lone (neural 0 lastNop false) 0x10 1 9 0 :=
  ⟨rfl, rfl, rfl, job9, graph5e, rfl, rfl, rfl, rfl, rfl, rfl, by decide, 1, by decide, by decide, rfl⟩

/-- The channel's configuration as DMA_START and RESUME find it. -/
def armed : State := on [(R.DMA_CH_STATUS 3 0, BitVec.ofNat 32 Ch.armed), (R.DMA_CH_CFG 3 0, 1), (R.DMA_CTRL 3, 1)]

theorem witness_DmaChannelsObey_more :
    armed.trigSrc 3 0 ≠ TrigSrc.task ∧
    armed.chState 3 0 = Ch.armed ∧
    armed.trigPending 3 0 = false ∧
    armed.flag (R.DMA_CTRL 3) 0 = true ∧
    (channel 2).chState 3 0 = Ch.running ∧
    (channel 2).trigPending 3 0 = false ∧
    (channel 5).chState 3 0 = Ch.paused ∧
    (channel 5).trigPending 3 0 = false ∧
    ((channel 2).chan 3 0).task = none ∧
    (List.range 16).all (fun k => !armed.trigPending 3 k) = true ∧
    (on [(R.DMA_CH_CFG 3 0, 0xA0000001)]).trigSrc 3 0 = TrigSrc.task := by decide

/-- A copy into a core's memory, whose banks a fill takes. -/
def copyIn : List Word := [0x00300000, 0, 0x20000, 0, 0, 0, 64, 1, 0, 0, 0, 0, 0, 0, 0, 0]

theorem witness_DmaMovesData_more :
    (moving (copying 64) [read0]).dmaHeld copy64 read0 = false ∧
    (moving (copying 64) [read0]).chState 3 0 = Ch.running ∧
    ((moving (copying 64) [read0]).chan 3 0).aborting = false ∧
    copy64 ≠ [] ∧
    ((moving (copying 64) [read0]).eng 3).err = none ∧
    ((moving (copying 64) [read0]).eng 3).reads = [read0] ∧
    read0.pos = (moving (copying 64) [read0]).dmaDone 3 0 ∧
    (moving (copying 64) [{ read0 with pos := 1 }]).dmaDone 3 0 ≠ 1 ∧
    (moving (copying 64) [read0]).dmaDone 3 0 < ((moving (copying 64) [read0]).chan 3 0).total + dmaBytes copy64 := by decide

/-- Such a copy under way while a fill takes that memory's banks. -/
def heldCopy : State :=
  let s := moving { copying 64 with desc := copyIn } [read0]
  { s with spm := { s.spm with fill := some ⟨1, 1, 1, 3⟩ } }

theorem witness_DmaMovesData_held :
    heldCopy.dmaHeld copyIn read0 = true ∧
    heldCopy.dmaRead? 3 0 = some read0 ∧
    (State.reset.chan 3 0).aborting = false := by decide

/-- A copy of 128 bytes, half of it read. -/
def copy128 : List Word := [0, 0, 0x20000, 0, 0x21000, 0, 128, 1, 0, 0, 0, 0, 0, 0, 0, 0]

def halfway : State := moving { copying 64 with desc := copy128 } [read0]

/-- The same with the data back. -/
def arrived : State := let g := halfway.dmaFrom 3 0 0 0x20000 64 [] false; g.1.setRead 3 read0 { read0 with data := some g.2.2 }

theorem witness_DmaMovesData_written :
    halfway.dmaHeld copy128 read0 = false ∧
    halfway.dmaDone 3 0 + 64 < (halfway.chan 3 0).total + dmaBytes copy128 ∧
    read0.pos = halfway.dmaDone 3 0 ∧
    (halfway.dmaFrom 3 0 0 0x20000 64 [] false).2.1 = St.done ∧
    (halfway.dmaFrom 3 0 0 0x20000 64 [] false).2.2 ≠ [] ∧
    arrived.dmaOverlaps 3 0 = false ∧
    (arrived.dmaTo 3 (dmaDstSpace copy128) (dmaDstCore copy128) (dmaAt (dmaDst copy128) (dmaDstStride copy128) (dmaLine copy128) 0).toNat (List.replicate 64 0)).2 = St.done := by decide

/-- A compare of a node runs in the taster; its operands' banks are free, or taken by a fill. -/
def tasting (f : Option SpmFill) : State :=
  let s := graphs graph5e [job9] (tasks [(1, { nodeTask .running 11 (some tasterUnit) with pinned := [1] })] pyramids)
  { s with spm := { s.spm with fill := f }, tdu := { s.tdu with regions := [(1, ⟨RK.ring, 0, 2048, 3, 0, true, some 1⟩)] } }

theorem witness_TasterAndProofsJudge_lone : Lone (tasting none) tasterUnit 1 9 0 ∧ (tasting none).runningOn tasterUnit = some 1 ∧ (tasting none).jobWaits 1 = false ∧
    (tasting (some ⟨1, 1, 1, 3⟩)).jobWaits 1 = true :=
  ⟨⟨rfl, rfl, rfl, job9, graph5e, rfl, rfl, rfl, rfl, rfl, rfl, by decide, 1, by decide, by decide, rfl⟩, by decide⟩

/-- A proof window with one set still without an outcome. -/
def proving : State := inSaf (fun x => { x with windowOpen := true, proofs := [⟨0, 5, 0, false, [], 0, 1, 0⟩, ⟨1, 5, 0, true, [], 1, 1, 1⟩] }) State.reset

/-- Core 0 at a HALO to a PEER region. -/
def haloRun : NcRun := { fresh with fly := [⟨0, false⟩] }

def haloSegment : Segment := { segment 0 with cmds := [[0x28000000, 0, 0xFF00]] }

def halo : State :=
  let s := neural 0x28000000 haloRun false
  { s with nc := ⟨[haloSegment], [haloRun], none⟩, tdu := ⟨[(0, ⟨RK.peer, 0x20000, 0x1000, 3, 0, true, none⟩)], [⟨[], 0, []⟩, ⟨[], 0, []⟩, ⟨[], 0, []⟩, ⟨[(0, tensor0)], 1, []⟩]⟩ }

theorem witness_TasterAndProofsJudge_window :
    proving.saf.windowOpen = true ∧
    proving.saf.windowClose ≤ proving.now ∧
    proving.isSafe = false ∧
    proving.saf.proofs.any (fun r => r.outcome == 0) = true ∧
    proving.saf.proofs.all (fun r => r.outcome == 0 || r.outcome == 1) = true := by decide

/-- PCI_ registers can be written: past step 6, the link up. -/
def hosted : State := let s := linked []; { s with sec := { s.sec with step := 6 } }

theorem witness_InboundAndOutboundAccesses_registers :
    hosted.inboundOk = true ∧
    6 ≤ hosted.sec.step ∧
    hosted.domState 9 = Dom.on ∧
    (out (exec (.inboundBar0Access .pcieHost R.PCI_OBH_BASE_HI 4 (some 5)) hosted)).reg R.PCI_OBH_BASE_HI = 5 ∧
    (out (exec (.inboundBar0Access .pcieHost R.PCI_OBH_BASE_LO 4 none) hosted)).reply = .data 0 ∧
    (out (exec (.inboundBar0Access .pcieHost R.PCI_OBH_BASE_HI 4 (some 5)) hosted)).reply = .nothing := by decide

theorem witness_LinkAndConfigurationSpace_halo :
    halo.ncNow 0 = some (haloRun, haloSegment) ∧
    (neural 0x28000000 haloRun false).ncNow 0 = some (haloRun, segment 0x28000000) ∧
    (halo.ncCmd haloRun haloSegment 0).op = 0x28 ∧
    (halo.ncCmd haloRun haloSegment 0).outputs = [0] ∧
    halo.descIs 3 0 (fun d => match halo.region? d.region with | some g => g.kind == RK.peer | none => false) = true ∧
    ((neural 0x28000000 haloRun false).ncCmd haloRun (segment 0x28000000) 0).outputs.any (fun h => (neural 0x28000000 haloRun false).descIs 3 h (fun _ => true)) = false ∧
    State.reset.ncNow 7 = none ∧
    (hostRead.chan 3 0).aborting = false := by decide

theorem witness_LinkAndConfigurationSpace_lone : Lone halo 0x10 1 9 0 :=
  ⟨rfl, rfl, rfl, job9, graph5e, rfl, rfl, rfl, rfl, rfl, rfl, by decide, 1, by decide, by decide, rfl⟩

end Sys2Proof.Tests
end

section
/-! The statements of 00_scope.md: a device held in reset, what the resets and the rails leave, and the register accesses of BAR 0 and of
on-chip agents. -/

namespace Sys2Proof.Machine

variable {s : State} {ag : Agent} {off size d : Nat} {v : Word}

/-! ### A device held in reset (log 3) -/

/-- Every command but those of the reset pins, the rails and the GPIO balls is an operation that only a running device performs. -/
theorem exec_eq_awakeNext (c : Instr) (s : State) (h : actsAsleep c = false) : ∃ t, exec c s = awakeNext s t := by
  cases c
  case porAssert | porRelease | powerRailRemoval | vddAonLoss | perstAssert | perstRelease | gpioEdge => cases h
  all_goals exact ⟨_, rfl⟩

/-- Settles O9: such a command is `awakeNext` of its operation, and a sleeping device answers `awakeNext` unchanged. -/
theorem asleepCommandsChangeNothing : Obligations.AsleepCommandsChangeNothing := by
  intro c s hc hs
  obtain ⟨t, ht⟩ := exec_eq_awakeNext c s hc
  rw [ht, awakeNext_asleep hs]

/-! ### Resets and rails (R18, R547, R602, R654) -/

/-- Settles O4: the canonical form is `reset_canonical`, the rest stands in `State.reset`. -/
theorem resetIsCanonical : Obligations.ResetIsCanonical := ⟨reset_canonical, rfl, rfl, rfl, rfl⟩

theorem reg_underReset (s : State) (o : Nat) : s.underReset.reg o = regReset o := rfl

/-- The state in which POR_RELEASE starts the boot: out of reset, with the rails, at step 2 of the next boot (R547, R600). -/
def State.bootEntry (s : State) : State :=
  { s with sec := { s.sec with por := false, railsOff := false, step := 2 }, saf := { s.saf with bootSeq := s.saf.bootSeq + 1 } }

/-- POR_RELEASE of a device that is in reset or has not booted: from the start of the boot on, the boot does no more than a command may. -/
theorem porReleaseOp_boots (h : s.sec.por = true ∨ s.sec.step = 0) : Keeps s.bootEntry (porReleaseOp s) := by
  have hc : (s.sec.por || s.sec.step == 0) = true := by simpa using h
  unfold porReleaseOp
  rw [if_pos hc]
  exact keeps_State_bootReady (keeps_State_trySlots _ (keeps_State_setFlag _ _ _ (keeps_State_bootDerate
    (keeps_State_bootCause (keeps_State_bootLog (keeps_refl s.bootEntry))))))

theorem railRemovalOp_inReset (h : s.sec.por = true) :
    railRemovalOp s = { s.underReset with sec := { s.underReset.sec with railsOff := true } } := by simp [railRemovalOp, h]

theorem railRemovalOp_safeOff (h : s.sec.por = false) (ho : s.saf.offN = false) :
    railRemovalOp s = { s with sec := { s.sec with railsOff := true } } := by simp [railRemovalOp, h, ho]

/-- Settles O12: each reset by what its operation writes; what POR_RELEASE and PERST_ASSERT leave alone, by `Keeps`. -/
theorem resetsAndRails : Obligations.ResetsAndRails := by
  refine ⟨fun s => ?porAssert, fun s h => ?porRelease, fun s h => ?railsInReset, fun s h ho => ?railsAfterSafeOff, fun s => ?aonLoss,
    fun s => ?perstAssert, fun s h => ?perstRelease⟩
  case porAssert => exact ⟨s.underReset, rfl, reg_underReset s, rfl, rfl, rfl, rfl, rfl, rfl, rfl, rfl⟩
  case porRelease =>
    have hkeeps := porReleaseOp_boots h
    exact ⟨porReleaseOp s, rfl, hkeeps.por, hkeeps.rails, hkeeps.pending⟩
  case railsInReset =>
    refine ⟨railRemovalOp s, rfl, ?_⟩
    rw [railRemovalOp_inReset h]
    exact ⟨rfl, rfl, reg_underReset s⟩
  case railsAfterSafeOff => exact congrArg Host.Outcome.next (railRemovalOp_safeOff h ho)
  case aonLoss => exact ⟨aonLossOp s, rfl, rfl, rfl, rfl, rfl, rfl⟩
  case perstAssert => exact ⟨perstAssertOp s, rfl, rfl, rfl, rfl, rfl, (keeps_perstAssertOp (keeps_refl s)).localCount⟩
  case perstRelease => exact congrArg Host.Outcome.next (if_pos h)

/-! ### Offsets with and without a register (R11, R14) -/

/-- The first member of every line of a register family is a register of the family. -/
theorem RegRow.holds_family (r : RegRow) {i : Nat} (h1 : 1 < r.n1) (hs : 0 < r.s1) (hi : i < r.n1) : r.holds (r.base + i * r.s1) = true := by
  have hd : r.base + i * r.s1 - r.base = i * r.s1 := by omega
  have hi' : min i (r.n1 - 1) = i := by omega
  unfold RegRow.holds
  simp only [hd, Nat.mul_div_cancel _ hs, if_neg (Nat.not_le.mpr h1), hi', Nat.sub_self]
  by_cases h2 : r.n2 ≤ 1
  · simp [h2]
  · have hpos : 0 < r.n2 := by omega
    simp [h2, hpos]

/-- Such an offset is a register. -/
theorem regRow_ne_none_of_family {r : RegRow} {i : Nat} (hr : r ∈ rowsAt off) (h1 : 1 < r.n1) (hs : 0 < r.s1) (hi : i < r.n1)
    (ho : off = r.base + i * r.s1) : regRow off ≠ none := by
  intro hn
  have hh := List.find?_eq_none.mp hn r hr
  rw [ho] at hh
  exact hh (r.holds_family h1 hs hi)

/-- An offset within a family, aligned as its base is, is the first of a line. -/
theorem exists_family_index {base n st : Nat} (hb : base ≤ off) (hl : off < base + n * st) (hm : off % st = base % st) :
    ∃ i < n, off = base + i * st := by
  have hdiv : st * ((off - base) / st) = off - base := Nat.mul_div_cancel' (Nat.dvd_of_mod_eq_zero (Nat.sub_mod_eq_zero_of_mod_eq hm))
  have ho : off = base + (off - base) / st * st := by rw [Nat.mul_comm, hdiv]; omega
  exact ⟨(off - base) / st, Nat.lt_of_mul_lt_mul_right (a := st) (by omega), ho⟩

theorem rowsAt_hts (h : 0x900000 ≤ off) (h' : off < 0xA00000) : rowsAt off = htsRows := by
  unfold rowsAt
  repeat rw [if_neg (by omega)]
  rw [if_pos h']

theorem rowsAt_mbx (h : 0x1000000 ≤ off) (h' : off < 0x1100000) : rowsAt off = mbxRows := by
  unfold rowsAt
  repeat rw [if_neg (by omega)]
  rw [if_pos h']

/-- An offset without a register lies in no register family of the map. -/
theorem not_family_of_no_register {r : RegRow} {m : Nat} (hr : regRow off = none) (h1 : 1 < r.n1) (hs : 0 < r.s1) (hmod : r.base % r.s1 = m)
    (hmem : ∀ o, r.base ≤ o → o < r.base + r.n1 * r.s1 → r ∈ rowsAt o) :
    ¬(r.base ≤ off ∧ off < r.base + r.n1 * r.s1 ∧ off % r.s1 = m) := fun ⟨hb, hl, ho⟩ => by
  obtain ⟨i, hi, hoff⟩ := exists_family_index hb hl (ho.trans hmod.symm)
  exact regRow_ne_none_of_family (hmem off hb hl) h1 hs hi hoff hr

/-- The offsets of the registers whose read acts (R11): POST_TRY, EVENT_TRY, HTS_TAKE, the first words of messages, the locks. -/
def ReadActs (off : Nat) : Prop :=
  (R.HTS_PS_POST_TRY 0 ≤ off ∧ off < R.HTS_PS_POST_TRY 8 ∧ off % 0x40 = 0x30) ∨
  (R.HTS_PS_EVENT_TRY 0 ≤ off ∧ off < R.HTS_PS_EVENT_TRY 8 ∧ off % 0x40 = 0x34) ∨
  (R.HTS_TAKE 0 ≤ off ∧ off < R.HTS_TAKE 8 ∧ off % 0x40 = 4) ∨
  (R.MBX_MSG 0 0 ≤ off ∧ off < R.MBX_MSG 64 0 ∧ off % 0x80 = 0) ∨
  (R.LCK 0 ≤ off ∧ off < R.LCK 64 ∧ off % 4 = 0)

/-- Every other read only shows a value. -/
theorem busReadOp_of_not_readActs (h : ¬ReadActs off) : busReadOp ag off s = (s.busRead ag off).1.answer (.data (s.busRead ag off).2) := by
  simp only [ReadActs, not_or] at h
  obtain ⟨hpost, hevent, htake, hmessage, hlock⟩ := h
  unfold busReadOp
  rw [if_neg hpost, if_neg hevent, if_neg htake, if_neg hmessage, if_neg hlock]

theorem not_readActs_of_lt (h : off < 0x900000) : ¬ReadActs off := by grind [ReadActs]

/-- Every register whose read acts stands in the map. -/
theorem not_readActs_of_no_register (hr : regRow off = none) : ¬ReadActs off := by
  have hpost : ¬(R.HTS_PS_POST_TRY 0 ≤ off ∧ off < R.HTS_PS_POST_TRY 8 ∧ off % 0x40 = 0x30) :=
    not_family_of_no_register (r := ⟨"HTS_PS_POST_TRY_h", 0x900130, 8, 0x40, 1, 0, 0, 0, 0, 0⟩) hr (by decide) (by decide) rfl
      fun o hl hu => by rw [rowsAt_hts (by grind) (by grind)]; simp [htsRows]
  have hevent : ¬(R.HTS_PS_EVENT_TRY 0 ≤ off ∧ off < R.HTS_PS_EVENT_TRY 8 ∧ off % 0x40 = 0x34) :=
    not_family_of_no_register (r := ⟨"HTS_PS_EVENT_TRY_h", 0x900134, 8, 0x40, 1, 0, 0, 0, 0, 0⟩) hr (by decide) (by decide) rfl
      fun o hl hu => by rw [rowsAt_hts (by grind) (by grind)]; simp [htsRows]
  have htake : ¬(R.HTS_TAKE 0 ≤ off ∧ off < R.HTS_TAKE 8 ∧ off % 0x40 = 4) :=
    not_family_of_no_register (r := ⟨"HTS_TAKE_n", 0x900404, 8, 0x40, 1, 0, 0, 0, 0, 0⟩) hr (by decide) (by decide) rfl
      fun o hl hu => by rw [rowsAt_hts (by grind) (by grind)]; simp [htsRows]
  have hmessage : ¬(R.MBX_MSG 0 0 ≤ off ∧ off < R.MBX_MSG 64 0 ∧ off % 0x80 = 0) :=
    not_family_of_no_register (r := ⟨"MBX_MSG_m_w", 0x1000400, 64, 0x80, 16, 4, 0, 0, 0, 0⟩) hr (by decide) (by decide) rfl
      fun o hl hu => by rw [rowsAt_mbx (by grind) (by grind)]; simp [mbxRows]
  have hlock : ¬(R.LCK 0 ≤ off ∧ off < R.LCK 64 ∧ off % 4 = 0) :=
    not_family_of_no_register (r := ⟨"LCK_n", 0x1004000, 64, 4, 1, 0, 0, 0, 0, 0⟩) hr (by decide) (by decide) rfl
      fun o hl hu => by rw [rowsAt_mbx (by grind) (by grind)]; simp [mbxRows]
  simp only [ReadActs, not_or]
  exact ⟨hpost, hevent, htake, hmessage, hlock⟩

/-- A read of an offset that holds neither a register nor a capability word shows zero and has no effect (R14). -/
theorem busReadOp_of_no_register (hr : regRow off = none) (hc : capWord off = none) : busReadOp ag off s = s.answer (.data 0#32) := by
  have hread : s.busRead ag off = (s, 0) := by simp [State.busRead, hr, hc]
  simp [busReadOp_of_not_readActs (not_readActs_of_no_register hr), hread]

/-- A write at an offset without a register changes nothing (R14). -/
theorem busWriteOp_of_no_register (hr : regRow off = none) : busWriteOp ag off v s = s := by simp [busWriteOp, hr]

/-! ### BAR 0 from the host (R14, R618) -/

theorem natural_eq_false (h : size ≠ 4 ∨ off % 4 ≠ 0) : natural off size = false := by
  unfold natural
  rcases h with h | h
  · rw [decide_eq_false h, Bool.false_and]
  · rw [decide_eq_false h, Bool.and_false]

theorem natural_eq_true (h : off % 4 = 0) : natural off 4 = true := by simp [natural, h]

theorem inboundBar0_host_unnatural {w : Option Word} (hi : s.inboundOk = true) (h : natural off size = false) :
    inboundBar0 .pcieHost off size w s = (s.bwCount 40 size).answer .unsupportedRequest := by
  simp [inboundBar0, hi, h]

theorem inboundBar0_host_read_hole (hi : s.inboundOk = true) (h : natural off 4 = true) (hb : off < bankStride)
    (hr : regRow off = none) (hc : capWord off = none) :
    inboundBar0 .pcieHost off 4 none s = (s.bwCount 40 4).answer (.data 0#32) := by
  have hin : decide (bankStride ≤ off) = false := decide_eq_false (Nat.not_le.mpr hb)
  simp [inboundBar0, hi, h, hin, busReadOp_of_no_register hr hc]

theorem inboundBar0_host_write_hole (hi : s.inboundOk = true) (h : natural off 4 = true) (hb : off < bankStride)
    (hr : regRow off = none) : inboundBar0 .pcieHost off 4 (some v) s = (s.bwCount 40 4).answer .nothing := by
  have hin : decide (bankStride ≤ off) = false := decide_eq_false (Nat.not_le.mpr hb)
  simp [inboundBar0, hi, h, hin, busWriteOp_of_no_register hr]

/-- Counting an access and answering it change no register. -/
theorem regsBut_answer_bwCount (k n : Nat) (r : Reply) : RegsBut [] s ((s.bwCount k n).answer r) := fun o _ => by simp

/-- Settles O54: each of the three accesses is no more than its count and its answer. -/
theorem barZeroTakesAlignedWords : Obligations.BarZeroTakesAlignedWords := by
  intro s off hawake hlink hoff
  have hexec : ∀ size w, exec (.inboundBar0Access .pcieHost off size w) s = .next (inboundBar0 .pcieHost off size w s) :=
    fun size w => awakeNext_awake hawake
  refine ⟨fun size w h => ?unnatural, fun halign hr hc => ⟨?read, fun w => ?write⟩⟩
  case unnatural =>
    rw [hexec, inboundBar0_host_unnatural hlink (natural_eq_false h)]
    exact ⟨_, rfl, rfl, regsBut_answer_bwCount _ _ _, by simp, by simp⟩
  case read =>
    rw [hexec, inboundBar0_host_read_hole hlink (natural_eq_true halign) hoff hr hc]
    exact ⟨_, rfl, rfl, regsBut_answer_bwCount _ _ _, by simp⟩
  case write =>
    rw [hexec, inboundBar0_host_write_hole hlink (natural_eq_true halign) hoff hr]
    exact ⟨_, rfl, rfl, regsBut_answer_bwCount _ _ _, by simp⟩

/-! ### Reads of register pairs (R17) -/

/-- A latched high word replaces the one that its reader had in the block. -/
def State.latch (s : State) (l : Latch) : State :=
  { s with latches := l :: s.latches.filter (fun k => !(k.agent == l.agent && k.block == l.block)) }

/-- The high word that the next read of the pair `off` by `ag` takes. -/
def State.latched (s : State) (ag : Agent) (off : Nat) : Option Latch :=
  s.latches.find? (fun l => l.agent == agentId ag && l.block == blockOf off && l.pair == off)

theorem latched_latch (ag : Agent) (off : Nat) (h : Word) :
    (s.latch ⟨agentId ag, blockOf off, off, h⟩).latched ag off = some ⟨agentId ag, blockOf off, off, h⟩ := by
  simp [State.latched, State.latch]

theorem wakeDomain_of_on (h : s.domState d = Dom.on) : s.wakeDomain d = s := by simp [State.wakeDomain, h]

@[simp] theorem State.wakeDomain_latches (s : State) (d : Nat) : (s.wakeDomain d).latches = s.latches := by
  unfold State.wakeDomain
  dsimp only
  split
  · rw [State.count_latches, State.setFld_latches, State.setFld_latches]
  · split <;> rfl

/-- Below 0x50_0000 no value is drawn. -/
theorem live_low (hc : capWord off = none) (h : off < 0x500000) : s.live off = (s, s.liveLow off (s.reg off)) := by
  simp only [State.live, hc, if_pos h]

/-- Below 0x40_0000 no read is restricted. -/
theorem regView_low (hc : capWord off = none) (h : off < 0x400000) : s.regView ag off = (s, .value (s.liveLow off (s.reg off))) := by
  have hport : ¬(0x400000 ≤ off ∧ off < 0x500000) := by omega
  have hmbx : ¬(0x1000000 ≤ off ∧ off < 0x1100000) := by omega
  simp only [State.regView, if_neg hport, if_neg hmbx, live_low hc (show off < 0x500000 by omega)]

/-- A read of a low word below 0x40_0000, in a domain that needs no wake, latches the high word of that moment and shows the low word (R17). -/
theorem busRead_pairLow (hr : regRow off ≠ none) (hc : capWord off = none) (hc' : capWord (off + 4) = none) (h : off < 0x400000)
    (hp : isPairLow off = true) (hw : s.wakeDomain (regDomain off) = s) :
    s.busRead ag off =
      (s.latch ⟨agentId ag, blockOf off, off + 4, s.liveLow (off + 4) (s.reg (off + 4))⟩, s.liveLow off (s.reg off)) := by
  have hn : ((regRow off).isNone && (capWord off).isNone) = false := by simp [hr]
  simp only [State.busRead, hn, hw, regView_low hc h, hp, live_low hc' (show off + 4 < 0x500000 by omega)]
  rfl

/-- A read below 0x40_0000 that is no low word takes the word latched for its reader (R17). -/
theorem busRead_latched {l : Latch} (hr : regRow off ≠ none) (hc : capWord off = none) (h : off < 0x400000) (hp : isPairLow off = false)
    (hl : s.latched ag off = some l) : s.busRead ag off = (s.wakeDomain (regDomain off), l.high) := by
  have hn : ((regRow off).isNone && (capWord off).isNone) = false := by simp [hr]
  have hl' : (s.wakeDomain (regDomain off)).latches.find?
      (fun l => l.agent == agentId ag && l.block == blockOf off && l.pair == off) = some l := by
    rw [State.wakeDomain_latches]; exact hl
  simp only [State.busRead, hn, regView_low hc h, hp, hl']
  rfl

/-! ### Device time (R43, R45) -/

/-- The latch that a read of SMC_DEV_TIME_LO by `ag` leaves. -/
def State.devTimeLatch (s : State) (ag : Agent) : Latch :=
  ⟨agentId ag, blockOf R.SMC_DEV_TIME_HI, R.SMC_DEV_TIME_HI, BitVec.ofNat 32 (s.devNow / 2 ^ 32)⟩

theorem busRead_devTimeLo (h : s.domState 9 = Dom.on) :
    s.busRead ag R.SMC_DEV_TIME_LO = (s.latch (s.devTimeLatch ag), BitVec.ofNat 32 s.devNow) :=
  busRead_pairLow (by decide) (by decide) (by decide) (by decide) (by decide) (wakeDomain_of_on h)

theorem busRead_devTimeHi {l : Latch} (hl : s.latched ag R.SMC_DEV_TIME_HI = some l) :
    s.busRead ag R.SMC_DEV_TIME_HI = (s.wakeDomain 9, l.high) :=
  busRead_latched (by decide) (by decide) (by decide) (by decide) hl

theorem latched_latch_devTime : (s.latch (s.devTimeLatch ag)).latched ag R.SMC_DEV_TIME_HI = some (s.devTimeLatch ag) :=
  latched_latch ag R.SMC_DEV_TIME_HI _

/-- Reading SMC_DEV_TIME_LO shows the low word and leaves the high word latched. -/
theorem busReadOp_devTimeLo (h : s.domState 9 = Dom.on) :
    busReadOp ag R.SMC_DEV_TIME_LO s = (s.latch (s.devTimeLatch ag)).answer (.data (BitVec.ofNat 32 s.devNow)) := by
  rw [busReadOp_of_not_readActs (not_readActs_of_lt (by decide)), busRead_devTimeLo h]

theorem busReadOp_devTimeHi {l : Latch} (hl : s.latched ag R.SMC_DEV_TIME_HI = some l) :
    busReadOp ag R.SMC_DEV_TIME_HI s = (s.wakeDomain 9).answer (.data l.high) := by
  rw [busReadOp_of_not_readActs (not_readActs_of_lt (by decide)), busRead_devTimeHi hl]

/-- A 64-bit load of device time shows both words of one moment (R17). -/
theorem pairLoad_devTime (h : s.domState 9 = Dom.on) : pairLoad ag R.SMC_DEV_TIME_LO s =
    (s.latch (s.devTimeLatch ag)).answer (.data64 (BitVec.ofNat 32 s.devNow) (BitVec.ofNat 32 (s.devNow / 2 ^ 32))) := by
  have hw : (s.latch (s.devTimeLatch ag)).wakeDomain 9 = s.latch (s.devTimeLatch ag) := wakeDomain_of_on h
  have hhi := busRead_devTimeHi (latched_latch_devTime (s := s) (ag := ag))
  rw [hw] at hhi
  simp only [pairLoad, busRead_devTimeLo h]
  rw [show R.SMC_DEV_TIME_LO + 4 = R.SMC_DEV_TIME_HI from rfl, hhi]
  rfl

/-! ### Accesses of on-chip agents (R14, R464, R469, log 12) -/

theorem exec_registerWrite (hs : s.awake = true) : exec (.registerWrite ag off size v) s = .next (registerWriteOp ag off size v s) :=
  awakeNext_awake hs

theorem exec_pairLowWordRead (hs : s.awake = true) : exec (.pairLowWordRead ag off size) s = .next (registerReadOp ag off size s) :=
  awakeNext_awake hs

/-- An agent on the chip that is no host core. -/
def EngineAgent (ag : Agent) : Prop := ag ≠ .pcieHost ∧ ag ≠ .pciePeer ∧ ∀ n, ag ≠ .hc n

theorem registerWriteOp_engine (ha : EngineAgent ag) (hs : s.awake = true) : registerWriteOp ag off size v s =
    if natural off size = false ∨ bankStride ≤ off then s.answer .unsupportedRequest else (busWriteOp ag off v s).answer .nothing := by
  obtain ⟨hhost, hpeer, hcore⟩ := ha
  cases ag
  case pcieHost => exact absurd rfl hhost
  case pciePeer => exact absurd rfl hpeer
  case hc n => exact absurd rfl (hcore n)
  all_goals simp [registerWriteOp, hs]

theorem registerReadOp_engine (ha : EngineAgent ag) (hs : s.awake = true) : registerReadOp ag off size s =
    if natural off size = true ∧ off < bankStride then busReadOp ag off s else s.answer .unsupportedRequest := by
  obtain ⟨hhost, hpeer, hcore⟩ := ha
  cases ag
  case pcieHost => exact absurd rfl hhost
  case pciePeer => exact absurd rfl hpeer
  case hc n => exact absurd rfl (hcore n)
  all_goals simp [registerReadOp, hs]

theorem registerWriteOp_core {n : Fin 8} (hs : s.awake = true) (hr : s.host.inReset = false) (ha : aplicSource off = none) :
    registerWriteOp (.hc n) off size v s =
      if natural off size = false ∨ bankStride ≤ off then s.answer .accessFault else (busWriteOp (.hc n) off v s).answer .nothing := by
  simp [registerWriteOp, hs, hr, ha]

theorem registerReadOp_core {n : Fin 8} (hs : s.awake = true) (hr : s.host.inReset = false) :
    registerReadOp (.hc n) off size s =
      if natural off size = true ∧ off < bankStride then busReadOp (.hc n) off s
      else if size = 8 ∧ off % 8 = 0 ∧ isPairLow off = true then pairLoad (.hc n) off s else s.answer .accessFault := by
  simp [registerReadOp, hs, hr]

theorem registerWriteOp_aplic {n : Fin 8} {src : Nat} (hs : s.awake = true) (hr : s.host.inReset = false)
    (ha : aplicSource off = some src) : registerWriteOp (.hc n) off size v s = (aplicWrite (.hc n) src v s).answer .nothing := by
  simp [registerWriteOp, hs, hr, ha]

theorem not_natural_or_above (h : natural off size = false ∨ bankStride ≤ off) : ¬(natural off size = true ∧ off < bankStride) := by
  rintro ⟨hn, hb⟩
  rcases h with h | h
  · simp [h] at hn
  · omega

theorem natural_and_below (hn : natural off size = true) (hb : off < bankStride) : ¬(natural off size = false ∨ bankStride ≤ off) :=
  fun h => not_natural_or_above h ⟨hn, hb⟩

/-- An interrupt target takes a hart of its owner's partition. -/
theorem aplicWrite_own {src p : Nat} (ho : s.sourceOwner src = some p) (hh : bits v 31 18 < 8) (hp : s.homeOf (bits v 31 18) = p) :
    aplicWrite ag src v s =
      { s with host := { s.host with aplicTarget := Store.put (fun _ => 0#32) src v s.host.aplicTarget } } := by
  simp only [aplicWrite, ho]
  rw [if_pos ⟨hh, hp⟩]

theorem aplicWrite_foreign {src p : Nat} (ho : s.sourceOwner src = some p) (h : 8 ≤ bits v 31 18 ∨ s.homeOf (bits v 31 18) ≠ p) :
    aplicWrite ag src v s = s.refuse ag p := by
  have hn : ¬(bits v 31 18 < 8 ∧ s.homeOf (bits v 31 18) = p) := by omega
  simp only [aplicWrite, ho]
  rw [if_neg hn]

/-- A core held in reset makes no access. -/
theorem exec_access_of_core_inReset (hs : s.awake = true) (hr : s.host.inReset = true) (n : Fin 8) :
    exec (.registerWrite (.hc n) off size v) s = .next s ∧ exec (.pairLowWordRead (.hc n) off size) s = .next s := by
  rw [exec_registerWrite hs, exec_pairLowWordRead hs]
  simp [registerWriteOp, registerReadOp, hs, hr]

/-- The latch that a read of the low word leaves is what the next read of the high word shows, whatever else has changed. -/
theorem devTimeHi_after_latch {u : State} (ha : EngineAgent ag) (hu : u.awake = true) (hl : u.latches = (s.latch (s.devTimeLatch ag)).latches) :
    ∃ w, exec (.pairLowWordRead ag R.SMC_DEV_TIME_HI 4) u = .next w ∧ w.reply = .data (BitVec.ofNat 32 (s.devNow / 2 ^ 32)) := by
  have hlatched : u.latched ag R.SMC_DEV_TIME_HI = some (s.devTimeLatch ag) := by
    rw [State.latched, hl]; exact latched_latch_devTime
  have hbelow : natural R.SMC_DEV_TIME_HI 4 = true ∧ R.SMC_DEV_TIME_HI < bankStride := by decide
  rw [exec_pairLowWordRead hu, registerReadOp_engine ha hu, if_pos hbelow, busReadOp_devTimeHi hlatched]
  exact ⟨_, rfl, rfl⟩

/-- Settles O57: each access by the equation of its agent's kind; the latched word by the latch that the low word's read leaves. -/
theorem onChipRegisterAccesses : Obligations.OnChipRegisterAccesses := by
  intro s hs
  refine ⟨fun hr n off size v => exec_access_of_core_inReset hs hr n, fun hr n off v ha => ⟨fun size h => ?coreFault, fun hn hb => ⟨?coreWrite, ?coreRead⟩,
      fun size h h8 => ?coreReadFault⟩,
    fun hr hd n => ?coreLoad, fun hr n off src v p ha ho => ⟨fun hh hp size => ?targetOwn, fun h size => ?targetForeign⟩,
    fun ag hhost hpeer hcore => ?engine⟩
  case coreFault => rw [exec_registerWrite hs, registerWriteOp_core hs hr ha, if_pos h]
  case coreWrite => rw [exec_registerWrite hs, registerWriteOp_core hs hr ha, if_neg (natural_and_below hn hb)]
  case coreRead => rw [exec_pairLowWordRead hs, registerReadOp_core hs hr, if_pos ⟨hn, hb⟩]
  case coreReadFault =>
    have hpair : ¬(size = 8 ∧ off % 8 = 0 ∧ isPairLow off = true) := by
      rintro ⟨h1, h2, h3⟩
      simp [h1, h2, h3] at h8
    rw [exec_pairLowWordRead hs, registerReadOp_core hs hr, if_neg (not_natural_or_above h), if_neg hpair]
  case coreLoad =>
    rw [exec_pairLowWordRead hs, registerReadOp_core hs hr, if_neg (by decide), if_pos (by decide), pairLoad_devTime hd]
    exact ⟨_, rfl, _, _, rfl, rfl, rfl⟩
  case targetOwn =>
    rw [exec_registerWrite hs, registerWriteOp_aplic hs hr ha, aplicWrite_own ho hh hp]
    exact ⟨_, rfl, Store.get_put_same _ _ _ _, fun _ _ => rfl⟩
  case targetForeign => rw [exec_registerWrite hs, registerWriteOp_aplic hs hr ha, aplicWrite_foreign ho h]
  case engine =>
    have ha : EngineAgent ag := ⟨hhost, hpeer, hcore⟩
    refine ⟨fun off size v h => ⟨?_, ?_⟩, fun off v hn hb => ⟨?_, ?_⟩, fun hd => ?_⟩
    · rw [exec_registerWrite hs, registerWriteOp_engine ha hs, if_pos h]
    · rw [exec_pairLowWordRead hs, registerReadOp_engine ha hs, if_neg (not_natural_or_above h)]
    · rw [exec_registerWrite hs, registerWriteOp_engine ha hs, if_neg (natural_and_below hn hb)]
    · rw [exec_pairLowWordRead hs, registerReadOp_engine ha hs, if_pos ⟨hn, hb⟩]
    · rw [exec_pairLowWordRead hs, registerReadOp_engine ha hs, if_pos (by decide), busReadOp_devTimeLo hd]
      exact ⟨_, rfl, rfl, fun _ _ => rfl, fun u hl hu => devTimeHi_after_latch ha hu hl⟩

end Sys2Proof.Machine
end

section
/-! The statements of 03_image_pipeline.md about what agents write: enable and counters of an instance (R144), the context commands
(R123, R124, R146), and setting requests (R134, R139, R147). -/

namespace Sys2Proof.Machine

variable {s : State} {ag : Agent} {st k off hi lo n p : Nat} {v : Word}

/-! ### Enable and counters (R144, R146) -/

/-- Asking tasks to yield changes the scheduler alone (R207). -/
theorem askList_changes_hts (l claimed : List Nat) (s : State) : ∃ h, s.askList l claimed = { s with hts := h } := by
  induction l generalizing s claimed with
  | nil => exact ⟨s.hts, rfl⟩
  | cons i t ih =>
    simp only [State.askList]
    split -- whether a free engine takes `i` now
    · exact ih _ _
    · split -- whether an engine has been asked already
      · exact ih _ _
      · split -- whether an engine runs a task that may yield
        · exact ih _ _
        · split -- the task that it runs
          · exact ih _ (State.modTask _ _ _)
          · exact ih _ _

theorem askYields_changes_hts (s : State) : ∃ h, s.askYields = { s with hts := h } := askList_changes_hts _ _ s

theorem reg_askYields : s.askYields.reg off = s.reg off := by
  obtain ⟨h, hask⟩ := askYields_changes_hts s
  rw [hask]
  rfl

@[simp] theorem State.askYields_dram (s : State) : s.askYields.dram = s.dram := by
  obtain ⟨h, hask⟩ := askYields_changes_hts s
  rw [hask]

/-- An instance's enable is its flag, and what the scheduler then asks of its tasks. -/
theorem ispEnableOp_eq (h : s.p3OrFull ag = true) (on : Bool) : ispEnableOp ag n on s = (s.setFlag (R.ISP_CTRL n) 0 on).askYields :=
  if_pos h

theorem flag_ispEnableOp (h : s.p3OrFull ag = true) (on : Bool) : (ispEnableOp ag n on s).flag (R.ISP_CTRL n) 0 = on := by
  rw [ispEnableOp_eq h, State.flag, reg_askYields]
  exact flag_setFlag_same (by decide)

theorem regsBut_ispEnableOp (h : s.p3OrFull ag = true) (on : Bool) : RegsBut [R.ISP_CTRL n] s (ispEnableOp ag n on s) := fun o ho => by
  rw [ispEnableOp_eq h, reg_askYields, reg_setFlag_other (by simpa using ho)]

theorem ispClearOp_eq (h : s.p3OrFull ag = true) :
    ispClearOp ag n s = s.zeroRegs [R.ISP_FRAMES_CNT n, R.ISP_STALL_US n, R.ISP_YIELD_CNT n] := if_pos h

theorem onlyRegs_zeroRegs (offs : List Nat) : OnlyRegs offs s (s.zeroRegs offs) :=
  ⟨fun o ho => by rw [reg_zeroRegs, if_neg ho], zeroRegs_regs offs⟩

theorem ispEnableOp_refused (h : s.p3OrFull ag = false) (on : Bool) : ispEnableOp ag n on s = s.refuseSys ag := by
  simp [ispEnableOp, h]

theorem ispClearOp_refused (h : s.p3OrFull ag = false) : ispClearOp ag n s = s.refuseSys ag := by simp [ispClearOp, h]

/-! ### Whom a stream belongs to -/

theorem ofPart_setFld : (s.setFld off hi lo n).ofPart ag p = s.ofPart ag p := rfl

/-- The owner of a stream depends on no register but the lock's. -/
theorem ownerOf_setFld (h : R.SAF_STATUS ≠ off) : (s.setFld off hi lo n).ownerOf st = s.ownerOf st := by
  have hlock : (s.setFld off hi lo n).locked = s.locked := congrArg (bit · 4) (reg_setFld_other h)
  unfold State.ownerOf State.streamOwner
  rw [hlock]
  rfl

/-- What the ISP knows of a stream stands in its own part of the state. -/
theorem ispStream_congr {t : State} (h : t.isp = s.isp) (st : Nat) : t.ispStream st = s.ispStream st := by
  rw [State.ispStream, State.ispStream, h]

@[simp] theorem ispStream_setIspStream_same (s : State) (st : Nat) (x : IspStream) : (s.setIspStream st x).ispStream st = x :=
  Store.get_put_same _ _ _ _

/-! ### Context commands (R123, R124, R146) -/

/-- A context command is ignored while one is in progress (log 85). -/
theorem swapOp_busy (h : s.cmdBusy R.ISP_CTX_STATUS = true) : swapOp ag st s = s := if_pos h

theorem resetModelOp_busy (h : s.cmdBusy R.ISP_CTX_STATUS = true) : resetModelOp ag st s = s := if_pos h

/-- What the checks of a SWAP of stream `st` to the staged address answer, and the state they leave (R123, log 28). -/
def State.swapChecked (s : State) (ag : Agent) (st : Nat) : State × Nat :=
  let u := s.setFld R.ISP_CTX_CMD 9 0 st
  u.swapCheck ag st u.ctxAddr

/-- What a SWAP leaves beside the stream's context: the checks' own effects, the status shown, the time of its progress. -/
def State.swapAnswered (s : State) (ag : Agent) (st : Nat) : State :=
  let r := s.swapChecked ag st
  (r.1.setReg R.ISP_CTX_STATUS (BitVec.ofNat 32 (2 ^ 24 * r.2))).cmdBegin R.ISP_CTX_STATUS 20000

theorem reg_swapAnswered_status :
    (s.swapAnswered ag st).reg R.ISP_CTX_STATUS = BitVec.ofNat 32 (2 ^ 24 * (s.swapChecked ag st).2) := reg_setReg_same

theorem reg_swapAnswered_done (hr : (s.swapChecked ag st).2 = St.done) : (s.swapAnswered ag st).reg R.ISP_CTX_STATUS = 0 := by
  rw [reg_swapAnswered_status, hr]
  rfl

theorem State.swapAnswered_isp : (s.swapAnswered ag st).isp = (s.swapChecked ag st).1.isp := (rfl)

theorem swapOp_idle (hb : s.cmdBusy R.ISP_CTX_STATUS = false) : swapOp ag st s = swapGo ag st s := if_neg (by simp [hb])

/-- A SWAP whose checks pass makes the staged address the stream's context (R123). -/
theorem swapOp_done (hb : s.cmdBusy R.ISP_CTX_STATUS = false) (hr : (s.swapChecked ag st).2 = St.done) :
    swapOp ag st s = (s.swapAnswered ag st).setIspStream st
      { (s.swapAnswered ag st).ispStream st with ctx := some (s.setFld R.ISP_CTX_CMD 9 0 st).ctxAddr } := by
  rw [swapOp_idle hb]
  exact if_pos hr

/-- A SWAP that a check refuses answers the check's status alone. -/
theorem swapOp_refused (hb : s.cmdBusy R.ISP_CTX_STATUS = false) (hr : (s.swapChecked ag st).2 ≠ St.done) :
    swapOp ag st s = s.swapAnswered ag st := by
  rw [swapOp_idle hb]
  exact if_neg hr

/-- RESET_MODEL by an agent of the stream's owner resets the model (R124). -/
theorem resetModelOp_owner (hb : s.cmdBusy R.ISP_CTX_STATUS = false) (ho : s.ofPart ag (s.ownerOf st) = true) :
    resetModelOp ag st s = (s.setFld R.ISP_CTX_CMD 9 0 st).resetModel st := by
  have hgo : resetModelOp ag st s = resetModelGo ag st s := if_neg (by simp [hb])
  have hown : (s.setFld R.ISP_CTX_CMD 9 0 st).ofPart ag ((s.setFld R.ISP_CTX_CMD 9 0 st).ownerOf st) = true := by
    rw [ofPart_setFld, ownerOf_setFld (by decide), ho]
  rw [hgo]
  exact if_pos hown

theorem reg_resetModel : (s.resetModel st).reg off = s.reg off := rfl

/-- A reset model has no first values and no requests; the stream keeps its context. -/
theorem ispStream_resetModel (s : State) (st : Nat) :
    (s.resetModel st).ispStream st = { s.ispStream st with base := none, reqs := [], starter := none } :=
  ispStream_setIspStream_same _ _ _

/-! ### Setting requests (R134, R139, R147) -/

/-- The state in which a POST of set `k` is judged: its stream and the number of its writes stand in ISP_SR_CTRL. -/
def State.postEntry (s : State) (k : Nat) (v : Word) : State :=
  (s.setFld (R.ISP_SR_CTRL k) 25 16 (bits v 25 16)).setFld (R.ISP_SR_CTRL k) 2 0 (bits v 2 0)

theorem reg_postEntry (h : off ≠ R.ISP_SR_CTRL k) : (s.postEntry k v).reg off = s.reg off :=
  (reg_setFld_other h).trans (reg_setFld_other h)

@[simp] theorem State.postEntry_isp : (s.postEntry k v).isp = s.isp := by simp [State.postEntry]
@[simp] theorem State.postEntry_ports : (s.postEntry k v).ports = s.ports := by simp [State.postEntry]
@[simp] theorem State.postEntry_dram : (s.postEntry k v).dram = s.dram := by simp [State.postEntry]

/-- A POST that its stream's owner may make: at most 6 writes, for a stream with both contexts enabled. -/
def State.PostAdmitted (s : State) (ag : Agent) (v : Word) : Prop :=
  s.ofPart ag (s.ownerOf (bits v 25 16)) = true ∧ bits v 2 0 ≠ 7 ∧ s.postEnabled (bits v 25 16) = true

/-- A fifth open request is refused with BUSY (R139). -/
theorem postOp_busy (ha : (s.postEntry k v).PostAdmitted ag v) (hb : 4 ≤ (s.postEntry k v).openRequests (bits v 25 16)) :
    postOp ag k v s = (s.postEntry k v).setReg (R.ISP_SR_RESULT k) (BitVec.ofNat 32 (2 ^ 24 * St.busy)) := by
  obtain ⟨hown, hwrites, henabled⟩ := ha
  unfold State.postEntry at *
  simp only [postOp, hown, hwrites, henabled, hb, Bool.not_true, Bool.false_eq_true, if_false, if_true, or_self]

/-- The staged settings of set `k`: the request's ID, exposure, gain and white balance (R134). -/
def SetReq.Staged (r : SetReq) (s : State) (k : Nat) : Prop :=
  r.id = s.reg (R.ISP_SR_ID k) ∧ r.exposure = s.reg (R.ISP_SR_EXPOSURE k) ∧ r.gain = bits (s.reg (R.ISP_SR_GAIN k)) 31 16 ∧
    r.wb = if bit (s.reg (R.ISP_SR_GAIN k)) 0 then some (s.reg (R.ISP_SR_WB0 k), s.reg (R.ISP_SR_WB1 k)) else none

theorem staged_postEntry {r : SetReq} (h : r.Staged (s.postEntry k v) k) : r.Staged s k := by
  simpa [SetReq.Staged, reg_postEntry] using h

/-- Commands that join a port's queue change the ports alone (R90). -/
theorem foldl_ctlQueue_eq (cs : List CtlCmd) (s : State) :
    cs.foldl (fun s c => s.ctlQueue n c) s = { s with ports := (cs.foldl (fun s c => s.ctlQueue n c) s).ports } := by
  induction cs generalizing s with
  | nil => rfl
  | cons c cs ih => exact ih (s.ctlQueue n c)

/-- The state with request `r` of stream `st` behind its others, ports `ps`, and the answer DONE in set `k`. -/
def State.acceptRequest (s : State) (k st : Nat) (r : SetReq) (ps : List Port) : State :=
  let x := s.setIspStream st { s.ispStream st with reqs := (s.ispStream st).reqs ++ [r] }
  ({ x with isp.serial := s.isp.serial + 1, ports := ps }.setReg (R.ISP_SR_TARGET k)
    (BitVec.ofNat 32 (65536 * r.expTarget + r.gainTarget))).setReg (R.ISP_SR_RESULT k) (BitVec.ofNat 32 (2 ^ 24 * St.done))

section
variable {r : SetReq} {ps : List Port}

@[simp] theorem State.acceptRequest_dram : (s.acceptRequest k st r ps).dram = s.dram := (rfl)
@[simp] theorem State.acceptRequest_serial : (s.acceptRequest k st r ps).isp.serial = s.isp.serial + 1 := (rfl)

/-- An accepted request as it is written: the request, its commands at port `n`, its targets, the answer. -/
theorem acceptRequest_eq {id exposure : Word} {gain te tg deadline : Nat} {wb : Option (Word × Word)} {cs : List CtlCmd} :
    let r : SetReq := ⟨s.isp.serial, id, exposure, gain, wb, te, tg, deadline, false, false⟩
    let x := s.setIspStream st { s.ispStream st with reqs := (s.ispStream st).reqs ++ [r] }
    let t := cs.foldl (fun s c => s.ctlQueue n c) { x with isp.serial := x.isp.serial + 1 }
    (t.setReg (R.ISP_SR_TARGET k) (BitVec.ofNat 32 (65536 * te + tg))).setReg (R.ISP_SR_RESULT k) (BitVec.ofNat 32 (2 ^ 24 * St.done)) =
      s.acceptRequest k st r t.ports := by
  intro r x t
  have ht : t = { x with isp.serial := x.isp.serial + 1, ports := t.ports } := foldl_ctlQueue_eq _ _
  rw [ht]
  rfl

theorem reqs_acceptRequest : ((s.acceptRequest k st r ps).ispStream st).reqs = (s.ispStream st).reqs ++ [r] :=
  congrArg IspStream.reqs (ispStream_setIspStream_same s st _)

theorem result_acceptRequest : (s.acceptRequest k st r ps).reg (R.ISP_SR_RESULT k) = 0 := reg_setReg_same

end

/-- A request that is accepted (log 28) has the staged settings and stands behind the others; its commands wait at the stream's port, its targets are
shown, and the answer is DONE (R134, R139). -/
theorem postOp_accepts (ha : (s.postEntry k v).PostAdmitted ag v) (ho : (s.postEntry k v).openRequests (bits v 25 16) < 4) :
    ∃ r ps, r.Staged (s.postEntry k v) k ∧ postOp ag k v s = (s.postEntry k v).acceptRequest k (bits v 25 16) r ps := by
  obtain ⟨hown, hwrites, henabled⟩ := ha
  have hopen : ¬4 ≤ (s.postEntry k v).openRequests (bits v 25 16) := Nat.not_le.mpr ho
  generalize hu : s.postEntry k v = u at *
  unfold State.postEntry at hu
  simp only [postOp, hu, hown, hwrites, henabled, hopen, Bool.not_true, Bool.false_eq_true, if_false, or_self]
  exact ⟨_, _, ⟨rfl, rfl, rfl, rfl⟩, acceptRequest_eq⟩

/-! ### What the commands answer -/

section
variable (hs : s.awake = true)
include hs

theorem exec_ispEnable {n : Fin 2} {on : Bool} : exec (.ispEnable ag n on) s = .next (ispEnableOp ag n on s) := awakeNext_awake hs
theorem exec_ispClearCounts {n : Fin 2} : exec (.ispClearCounts ag n) s = .next (ispClearOp ag n s) := awakeNext_awake hs
theorem exec_ispSwap {st : Fin 1024} : exec (.ispSwap ag st) s = .next (swapOp ag st s) := awakeNext_awake hs
theorem exec_ispResetModel {st : Fin 1024} : exec (.ispResetModel ag st) s = .next (resetModelOp ag st s) := awakeNext_awake hs
theorem exec_ispPost {k : Fin 8} : exec (.ispPost ag k v) s = .next (postOp ag k v s) := awakeNext_awake hs

end

/-- Settles O23: each command by what its operation leaves, with authority and without. -/
theorem ispRegistersAndSettings : Obligations.IspRegistersAndSettings := by
  intro ag s hs
  refine ⟨fun n ha => ⟨fun on => ?enable, ?clear⟩, fun n ha c hc => ?refused, fun st hb => ?busy,
    fun st hb => ⟨fun hr => ?swapDone, fun hr => ?swapRefused⟩, fun st hb ho => ?reset,
    fun k v ho hw hown henabled => ⟨fun hopen => ?postBusy, fun hopen => ?postAccepted⟩⟩
  case enable =>
    rw [exec_ispEnable hs]
    exact ⟨_, rfl, flag_ispEnableOp ha on, regsBut_ispEnableOp ha on, by simp [ispEnableOp_eq ha]⟩
  case clear =>
    rw [exec_ispClearCounts hs, ispClearOp_eq ha]
    exact ⟨_, rfl, fun o h => by rw [reg_zeroRegs, if_pos h], onlyRegs_zeroRegs _⟩
  case refused =>
    simp only [List.mem_cons, List.not_mem_nil, or_false] at hc
    obtain rfl | rfl | rfl := hc
    · rw [exec_ispEnable hs, ispEnableOp_refused ha]; rfl
    · rw [exec_ispEnable hs, ispEnableOp_refused ha]; rfl
    · rw [exec_ispClearCounts hs, ispClearOp_refused ha]; rfl
  case busy =>
    rw [exec_ispSwap hs, exec_ispResetModel hs, swapOp_busy hb, resetModelOp_busy hb]
    exact ⟨rfl, rfl⟩
  case swapDone =>
    rw [exec_ispSwap hs, swapOp_done hb hr]
    exact ⟨_, rfl, congrArg IspStream.ctx (ispStream_setIspStream_same _ _ _), reg_swapAnswered_done hr⟩
  case swapRefused =>
    rw [exec_ispSwap hs, swapOp_refused hb hr]
    exact ⟨_, rfl, congrArg IspSt.streams State.swapAnswered_isp, reg_swapAnswered_status⟩
  case reset =>
    rw [exec_ispResetModel hs, resetModelOp_owner hb ho]
    have hstream := ispStream_resetModel (s.setFld R.ISP_CTX_CMD 9 0 st) st
    exact ⟨_, rfl, congrArg IspStream.base hstream, congrArg IspStream.reqs hstream, by rw [hstream]; rfl,
      fun o h => reg_resetModel.trans (reg_setFld_other (by simpa using h)), rfl⟩
  case postBusy =>
    rw [exec_ispPost hs, postOp_busy ⟨hown, hw, henabled⟩ hopen]
    exact ⟨_, rfl, by simp, by simp, reg_setReg_same⟩
  case postAccepted =>
    obtain ⟨r, ps, hstaged, hpost⟩ := postOp_accepts ⟨hown, hw, henabled⟩ hopen
    obtain ⟨hid, hexposure, -, -⟩ := staged_postEntry hstaged
    rw [exec_ispPost hs, hpost]
    have hreqs := reqs_acceptRequest (s := s.postEntry k v) (k := k) (st := bits v 25 16) (r := r) (ps := ps)
    rw [ispStream_congr State.postEntry_isp] at hreqs
    exact ⟨_, r, rfl, by simp, hreqs, hid, hexposure, result_acceptRequest, by simp⟩

end Sys2Proof.Machine
end

section
/-! The statements of 08_feature_engine.md about what agents load: pair tables (R320, R321, R329) and the counters of track sets (R313, R316,
R329). They rest on what a read of DRAM may change (14_dram_integrity.md R499, R504 to R508). -/

namespace Sys2Proof.Machine

variable {s t u : State} {ag : Agent} {off k i n : Nat} {v : Word}

/-! ### What a read of DRAM may change -/

/-- What counting, logging, reporting and repairing leave alone: `t` differs from `s` in registers, reports, interrupts, DRAM, the safety
island, counters, the flash log and the PCI Express endpoint at most. -/
def OnlyDramEffects (s t : State) : Prop :=
  t = { s with regs := t.regs, reports := t.reports, dram := t.dram, saf := t.saf, pmc := t.pmc, flashLog := t.flashLog, pci := t.pci,
               host := t.host }

namespace OnlyDramEffects

theorem refl (s : State) : OnlyDramEffects s s := rfl

theorem trans (h : OnlyDramEffects s t) (h' : OnlyDramEffects t u) : OnlyDramEffects s u := by
  unfold OnlyDramEffects at *
  rw [h', h]

theorem hts (h : OnlyDramEffects s t) : t.hts = s.hts := by
  unfold OnlyDramEffects at h
  rw [h]

theorem fte (h : OnlyDramEffects s t) : t.fte = s.fte := by
  unfold OnlyDramEffects at h
  rw [h]

theorem foldl {α : Type} {f : State → α → State} (hf : ∀ s a, OnlyDramEffects s (f s a)) (l : List α) (s : State) :
    OnlyDramEffects s (l.foldl f s) := by
  induction l generalizing s with
  | nil => exact refl s
  | cons a l ih => exact (hf s a).trans (ih (f s a))

theorem ite {p : Prop} [Decidable p] (h : OnlyDramEffects s t) (h' : OnlyDramEffects s u) : OnlyDramEffects s (if p then t else u) := by
  split
  · exact h
  · exact h'

theorem report (s : State) (agent status part : Nat) : OnlyDramEffects s (s.report agent status part) := rfl

theorem count (s : State) (i n : Nat) : OnlyDramEffects s (s.count i n) :=
  ite (refl s) (ite rfl rfl)

theorem bwCount (s : State) (k n : Nat) : OnlyDramEffects s (s.bwCount k n) := ite (refl s) rfl

theorem bump (s : State) (off : Nat) : OnlyDramEffects s (s.bump off) := by
  unfold State.bump State.bumpN
  split
  · exact trans (t := s.incReg off 1) rfl (count _ _ _)
  · rfl

theorem notice (s : State) (b : Nat) : OnlyDramEffects s (s.notice b) :=
  trans (t := s.setFlag R.SAF_NOTICE_PEND b true) rfl ((count _ _ _).trans rfl)

theorem cause (s : State) (code agent part : Nat) (info : Word) : OnlyDramEffects s (s.cause code agent part info) :=
  ite (refl s) (ite rfl (ite rfl rfl))

/-- The first integrity error is logged (R504). -/
theorem dramLog (s : State) (w : Who) (blk : Nat) (scrub restored both merge : Bool) :
    OnlyDramEffects s (s.dramLog w blk scrub restored both merge) := ite (refl s) rfl

theorem withDram (s : State) (d : DramSt) : OnlyDramEffects s { s with dram := d } := rfl

theorem restore (s : State) (dst src : Nat) : OnlyDramEffects s (s.restore dst src) := by
  unfold State.restore
  exact (withDram s _).trans (bump _ _)

/-- A lost block asks for a reload, and is a cause of the safe state or a notice (R508, R540). -/
theorem loseBlock (s : State) (e blk : Nat) : OnlyDramEffects s (s.loseBlock e blk) := by
  have hlost (p : Nat) : OnlyDramEffects s
      ((State.bump { s with dram.lost := s.dram.lost ++ [blk] } R.PANTRY_LOST_CNT).report 0x3C St.integrity p) :=
    (withDram s _).trans ((bump _ _).trans (report _ _ _ _))
  have hreload (t : State) (p : Prop) [Decidable p] : OnlyDramEffects t (if p then { t with dram.reload := t.dram.reload ++ [e] } else t) :=
    ite (withDram t _) (refl t)
  exact ite (refl s) (((hlost _).trans (hreload _ _)).trans (ite (cause _ _ _ _ _) (notice _ _)))

/-- A block whose check fails is restored from its copy or lost (R504, R507, R508). -/
theorem badBlock (s : State) (w : Who) (blk : Nat) (scrub : Bool) : OnlyDramEffects s (s.badBlock w blk scrub) := by
  have hlose (s : State) (restored both merge : Bool) (e b : Nat) :
      OnlyDramEffects s ((s.dramLog w blk scrub restored both merge).loseBlock e b) := (dramLog _ _ _ _ _ _ _).trans (loseBlock _ _ _)
  have hrestore (s : State) (restored both merge : Bool) (b c : Nat) :
      OnlyDramEffects s ((s.dramLog w blk scrub restored both merge).restore b c) := (dramLog _ _ _ _ _ _ _).trans (restore _ _ _)
  unfold State.badBlock
  refine (bump s (if scrub then R.SCRUB_ERR_CNT else R.CRC_ERR_CNT)).trans ?_
  generalize s.bump _ = t
  dsimp only
  split -- whether the block lies in a primary range
  · exact ite (hlose _ _ _ _ _ _) (hrestore _ _ _ _ _ _)
  · split -- whether it lies in a copy range
    · exact ite (dramLog _ _ _ _ _ _ _) (ite (hlose _ _ _ _ _ _) (hrestore _ _ _ _ _ _))
    · exact dramLog _ _ _ _ _ _ _

theorem dramTraffic (s : State) (w : Who) (wr : Bool) (a n : Nat) : OnlyDramEffects s (s.dramTraffic w wr a n) := by
  have hblocks := foldl (f := fun s b => (s.count (1088 + 4 * dramChannel (b * 64) + b2n wr) 1).bwCount (dramChannel (b * 64)) 64)
    (fun s _ => (count s _ _).trans (bwCount _ _ _)) (blocksOf a n) s
  exact ite (hblocks.trans (bwCount _ _ _)) hblocks

/-- A refusal of the firewall is counted, logged and reported (R499, R29). -/
theorem fwRefuse (s : State) (w : Who) (wr : Bool) (a : Nat) : OnlyDramEffects s (s.fwRefuse w wr a) := by
  have hlogged (t : State) (v lo hi : Word) : OnlyDramEffects t (if t.flag R.DMC_FW_LOG 31 then t
      else (((t.setReg R.DMC_FW_LOG v).setReg R.DMC_FW_ADDR_LO lo).setReg R.DMC_FW_ADDR_HI hi).irqRaise 44) := ite (refl t) rfl
  have hreported (v lo hi : Word) :=
    ((bump s R.FW_FAULT_CNT).trans (hlogged _ v lo hi)).trans (report _ w.agent St.partitionFault w.part)
  unfold State.fwRefuse
  dsimp only
  split -- whether a region decides
  · exact (hreported _ _ _).trans (ite (notice _ _) (refl _))
  · exact hreported _ _ _

theorem readBlocks (s : State) (w : Who) (a n : Nat) : OnlyDramEffects s (s.readBlocks w a n) :=
  (dramTraffic s w false a n).trans (foldl (fun s b => badBlock s w b false) _ _)

theorem readPiece (s : State) (w : Who) (p : Nat × Nat) : OnlyDramEffects s (s.readPiece w p) :=
  ite (readBlocks _ _ _ _) (ite (foldl (fun s _ => fwRefuse s w false _) _ _) (refl s))

theorem dramRead (s : State) (w : Who) (a n : Nat) : OnlyDramEffects s (s.dramRead w a n).1 := by
  unfold State.dramRead
  split -- whether the access is refused
  · exact ite (refl s) (foldl (fun s p => readPiece s w p) _ _)
  · split -- whether a block fails its check
    · exact readBlocks _ _ _ _
    · exact dramTraffic _ _ _ _ _

/-- A repeated read (R505) changes no more than one read. -/
theorem readAgain (s : State) (w : Who) (a n m : Nat) : OnlyDramEffects s (s.readAgain w a n m).1 := by
  induction m generalizing s with
  | zero => exact dramRead s w a n
  | succ m ih =>
    unfold State.readAgain
    dsimp only
    split -- whether the read is repeated
    · exact (dramRead s w a n).trans (ih _)
    · exact dramRead s w a n

end OnlyDramEffects

/-! ### Tasks and tables are read from their own parts of the state -/

theorem runningOn_congr (h : t.hts = s.hts) (id : Nat) : t.runningOn id = s.runningOn id := by rw [State.runningOn, h, State.runningOn]

theorem task_congr (h : t.hts = s.hts) (i : Nat) : t.task i = s.task i := by rw [State.task, h, State.task]

/-! ### The status of a load (R329) -/

/-- A command that writes its own register and its status register, and takes a time. -/
theorem onlyCmd_cmdBegin {cmd status : Nat} {x y : Word} : OnlyCmd [cmd, status] s (((s.setReg cmd x).setReg status y).cmdBegin off n) := by
  refine ⟨fun o ho => ?_, rfl⟩
  simp only [List.mem_cons, List.not_mem_nil, or_false, not_or] at ho
  obtain ⟨hcmd, hstatus⟩ := ho
  exact (reg_setReg_other hstatus).trans (reg_setReg_other hcmd)

theorem onlyCmd_ptStatus (st : Nat) : OnlyCmd [R.FTE_PT_CMD, R.FTE_PT_STATUS] s ((s.setFld R.FTE_PT_CMD 1 0 k).ptStatus st) :=
  onlyCmd_cmdBegin

theorem b2n_le_one (b : Bool) : b2n b ≤ 1 := by cases b <;> decide

/-- FTE_PT_STATUS names the status; the four RESIDENT bits lie below it. -/
theorem fld_ptStatus {st : Nat} (h : st < 256) : (s.ptStatus st).fld R.FTE_PT_STATUS 31 24 = st := by
  have hreg : (s.ptStatus st).reg R.FTE_PT_STATUS =
      BitVec.ofNat 32 (2 ^ 24 * st + ((List.range 4).map (fun k => b2n (s.pairTable k).isSome * 2 ^ k)).sum * 16) := reg_setReg_same
  have hresident : ((List.range 4).map (fun k => b2n (s.pairTable k).isSome * 2 ^ k)).sum < 16 := by
    have h0 := b2n_le_one (s.pairTable 0).isSome
    have h1 := b2n_le_one (s.pairTable 1).isSome
    have h2 := b2n_le_one (s.pairTable 2).isSome
    have h3 := b2n_le_one (s.pairTable 3).isSome
    have hrange : List.range 4 = [0, 1, 2, 3] := rfl
    simp only [hrange, List.map_cons, List.map_nil, List.sum_cons, List.sum_nil]
    omega
  rw [State.fld, hreg, bits, nbits, BitVec.toNat_ofNat]
  omega

@[simp] theorem State.ptStatus_fte (s : State) (st : Nat) : (s.ptStatus st).fte = s.fte := (rfl)

/-! ### Loads of a pair table (R320, R329, logs 49 and 85) -/

/-- Table `k` is free or belongs to the agent. -/
def State.pairMine (s : State) (ag : Agent) (k : Nat) : Prop := ∀ t, s.pairTable k = some t → s.ofPart ag t.owner = true

/-- The staged address of an image. -/
def State.pairAddr (s : State) : Nat := (s.reg R.FTE_PT_ADDR_LO).toNat + 2 ^ 32 * s.fld R.FTE_PT_ADDR_HI 7 0

/-- Whose table `k` is after a load by the agent: full authority leaves the owner. -/
def State.pairOwner (s : State) (ag : Agent) (k : Nat) : Nat :=
  match s.pairTable k with | some t => if isFull ag then t.owner else s.partOf ag | none => s.partOf ag

/-- What a load of table `k` answers before it reads the image. -/
def State.pairChecked (s : State) (ag : Agent) (k : Nat) : Nat :=
  chk [(s.pairAddr % 64 != 0, St.alignFault), (s.fteUses (fun w => ftePt w == k), St.busy),
    (s.locked && decide (s.pairOwner ag k ≤ 1) && ag != .safety, St.partitionFault)]

/-- The read of a staged image by FTE0 for the agent. -/
def State.pairRead (s : State) (ag : Agent) : State × Nat × List Byte := s.readAgain { s.whoOf ag with agent := 0x29 } s.pairAddr 1024 2

/-- The 256 words of an image. -/
def pairWords (bs : List Byte) : List Word := (List.range 256).map (wordAt bs)

/-- A load of table `k` that the agent may make. -/
def State.pairLoad (s : State) (ag : Agent) (k : Nat) : State :=
  let r := s.pairRead ag
  if s.pairChecked ag k ≠ St.done then s.ptStatus (s.pairChecked ag k)
  else if r.2.1 ≠ St.done then r.1.ptStatus (Machine.exhausted r.2.1)
  else if !(pairWords r.2.2).all pairOk then r.1.ptStatus St.descInvalid
  else State.ptStatus { r.1 with fte := setAt r.1.fte k (some ⟨s.pairAddr, pairWords r.2.2, s.pairOwner ag k⟩) } St.done

/-- A load of another's table is refused (R231). -/
theorem pairTableLoadOp_refused {t : PairTable} (ht : s.pairTable (bits v 1 0) = some t) (ho : s.ofPart ag t.owner = false) :
    pairTableLoadOp ag v s = s.refuse ag t.owner := by
  simp [pairTableLoadOp, ht, ho]

/-- A load of the agent's own table, or of a free one, is ignored during another (R329), and else checked with the table's index in FTE_PT_CMD. -/
theorem pairTableLoadOp_mine (hm : s.pairMine ag (bits v 1 0)) (hl : bit v 31 = true) :
    pairTableLoadOp ag v s = if s.cmdBusy R.FTE_PT_STATUS then s else (s.setFld R.FTE_PT_CMD 1 0 (bits v 1 0)).pairLoad ag (bits v 1 0) := by
  have hload : ¬(!bit v 31) = true := by simp [hl]
  refine (if_neg ?may).trans ?loads
  case may =>
    cases ht : s.pairTable (bits v 1 0) with
    | none => simp
    | some t => simp [hm t ht]
  case loads => rw [hl, Bool.true_and]; rfl

theorem pairAddr_setFld : (s.setFld R.FTE_PT_CMD 1 0 n).pairAddr = s.pairAddr := by
  have hlo : (s.setFld R.FTE_PT_CMD 1 0 n).reg R.FTE_PT_ADDR_LO = s.reg R.FTE_PT_ADDR_LO := reg_setFld_other (by decide)
  have hhi : (s.setFld R.FTE_PT_CMD 1 0 n).reg R.FTE_PT_ADDR_HI = s.reg R.FTE_PT_ADDR_HI := reg_setFld_other (by decide)
  rw [State.pairAddr, State.fld, hlo, hhi]
  rfl

/-- The checks before the read depend on no register but the lock's and the staged address's. -/
theorem pairChecked_setFld : (s.setFld R.FTE_PT_CMD 1 0 n).pairChecked ag k = s.pairChecked ag k := by
  have hlocked : (s.setFld R.FTE_PT_CMD 1 0 n).locked = s.locked := congrArg (bit · 4) (reg_setFld_other (by decide))
  rw [State.pairChecked, pairAddr_setFld, hlocked]
  rfl

theorem pairChecked_unaligned (h : s.pairAddr % 64 ≠ 0) : s.pairChecked ag k = St.alignFault := by simp [State.pairChecked, chk, h]

theorem pairChecked_inUse (h : s.pairAddr % 64 = 0) (hu : s.fteUses (fun w => ftePt w == k) = true) : s.pairChecked ag k = St.busy := by
  simp [State.pairChecked, chk, h, hu]

theorem pairChecked_done (h : s.pairAddr % 64 = 0) (hu : s.fteUses (fun w => ftePt w == k) = false)
    (ho : s.locked = false ∨ 2 ≤ s.pairOwner ag k) : s.pairChecked ag k = St.done := by
  have hmay : (s.locked && decide (s.pairOwner ag k ≤ 1)) = false := by
    rcases ho with ho | ho
    · simp [ho]
    · simp [Nat.not_le.mpr ho]
  simp [State.pairChecked, chk, h, hu, hmay]

/-- A load that a check before the read refuses answers the check's status alone. -/
theorem pairLoad_refused {st : Nat} (h : s.pairChecked ag k = st) (hd : st ≠ St.done) (hst : st < 256) :
    ((s.setFld R.FTE_PT_CMD 1 0 k).pairLoad ag k).fld R.FTE_PT_STATUS 31 24 = st ∧
      OnlyCmd [R.FTE_PT_CMD, R.FTE_PT_STATUS] s ((s.setFld R.FTE_PT_CMD 1 0 k).pairLoad ag k) := by
  have hload : (s.setFld R.FTE_PT_CMD 1 0 k).pairLoad ag k = (s.setFld R.FTE_PT_CMD 1 0 k).ptStatus st := by
    rw [State.pairLoad, pairChecked_setFld, h]
    exact if_pos hd
  rw [hload]
  exact ⟨fld_ptStatus hst, onlyCmd_ptStatus st⟩

theorem fte_pairRead : (s.pairRead ag).1.fte = s.fte := (OnlyDramEffects.readAgain _ _ _ _ _).fte

/-- A good image makes its words the table. -/
theorem pairLoad_done (h : s.pairChecked ag k = St.done) (hr : (s.pairRead ag).2.1 = St.done)
    (hw : (pairWords (s.pairRead ag).2.2).all pairOk = true) :
    (s.pairLoad ag k).fte = setAt s.fte k (some ⟨s.pairAddr, pairWords (s.pairRead ag).2.2, s.pairOwner ag k⟩) ∧
      (s.pairLoad ag k).fld R.FTE_PT_STATUS 31 24 = St.done := by
  have hload : s.pairLoad ag k = State.ptStatus { (s.pairRead ag).1 with
      fte := setAt (s.pairRead ag).1.fte k (some ⟨s.pairAddr, pairWords (s.pairRead ag).2.2, s.pairOwner ag k⟩) } St.done := by
    simp [State.pairLoad, h, hr, hw]
  rw [hload, State.ptStatus_fte, fte_pairRead]
  exact ⟨rfl, fld_ptStatus (by decide)⟩

/-- An image with an illegal pair is refused. -/
theorem pairLoad_illegal (h : s.pairChecked ag k = St.done) (hr : (s.pairRead ag).2.1 = St.done)
    (hw : (pairWords (s.pairRead ag).2.2).all pairOk = false) :
    (s.pairLoad ag k).fte = s.fte ∧ (s.pairLoad ag k).fld R.FTE_PT_STATUS 31 24 = St.descInvalid := by
  have hload : s.pairLoad ag k = (s.pairRead ag).1.ptStatus St.descInvalid := by simp [State.pairLoad, h, hr, hw]
  rw [hload, State.ptStatus_fte, fte_pairRead]
  exact ⟨rfl, fld_ptStatus (by decide)⟩

/-! ### Parity errors in a pair table (R321, log 49) -/

/-- Table `k` read again from its image: its words are new where the read is good. -/
def State.pairReread (s : State) (k : Nat) (t : PairTable) : State :=
  let r := s.readAgain (whoPart 0x29 t.owner) t.addr 1024 2
  if r.2.1 = St.done then { r.1 with fte := setAt r.1.fte k (some { t with words := pairWords r.2.2 }) } else r.1

theorem hts_pairReread {x : PairTable} : (s.pairReread k x).hts = s.hts := by
  have hread : (s.readAgain (whoPart 0x29 x.owner) x.addr 1024 2).1.hts = s.hts := (OnlyDramEffects.readAgain _ _ _ _ _).hts
  unfold State.pairReread
  dsimp only
  split
  · exact hread
  · exact hread

theorem pairParityOp_absent (h : s.pairTable k = none) : pairParityOp k s = s := by simp [pairParityOp, h]

/-- The job that uses the table starts again or ends (R322). -/
theorem pairParityOp_used {x : PairTable} (h : s.pairTable k = some x) (hi : s.runningOn 0x29 = some i)
    (hk : ftePt (s.task i).params = k) : pairParityOp k s = (s.pairReread k x).engParity 0x29 := by
  have hrun : (s.pairReread k x).runningOn 0x29 = some i := (runningOn_congr hts_pairReread _).trans hi
  have hpt : ftePt ((s.pairReread k x).task i).params = k := by rw [task_congr hts_pairReread, hk]
  unfold pairParityOp
  simp only [h]
  split
  next j hj =>
    obtain rfl : j = i := Option.some.inj (hj.symm.trans hrun)
    exact if_pos hpt
  next hj => exact absurd (hj.symm.trans hrun) nofun

/-- A table that the running job does not use is read again, and nothing else. -/
theorem pairParityOp_unused {x : PairTable} (h : s.pairTable k = some x)
    (hn : ∀ i, s.runningOn 0x29 = some i → ftePt (s.task i).params ≠ k) : pairParityOp k s = s.pairReread k x := by
  unfold pairParityOp
  simp only [h]
  split
  next j hj =>
    have hrun : s.runningOn 0x29 = some j := (runningOn_congr hts_pairReread _).symm.trans hj
    refine if_neg fun hk => hn j hrun ?_
    rw [← task_congr (t := s.pairReread k x) hts_pairReread]
    exact hk
  next => rfl

/-! ### Track sets (R313, R316, R329) -/

theorem trackSetOp_sets (ho : s.ofPart ag (s.fld (R.FTE_TS_CFG k) 31 30) = true) (hv : v ≠ 0)
    (hu : s.fteUses (fun w => fteSet w == k) = false) : trackSetOp ag k v s = s.setReg (R.FTE_TS_NEXT_ID k) v := by
  have hfree : ¬(v = 0 ∨ s.fteUses (fun w => fteSet w == k) = true) := by simpa [hu] using hv
  exact (if_neg (by simp [ho])).trans (if_neg hfree)

/-- The value 0 and a set in use leave the counter (R329). -/
theorem trackSetOp_ignored (ho : s.ofPart ag (s.fld (R.FTE_TS_CFG k) 31 30) = true)
    (h : v = 0 ∨ s.fteUses (fun w => fteSet w == k) = true) : trackSetOp ag k v s = s :=
  (if_neg (by simp [ho])).trans (if_pos h)

theorem trackSetOp_refused (ho : s.ofPart ag (s.fld (R.FTE_TS_CFG k) 31 30) = false) :
    trackSetOp ag k v s = s.refuse ag (s.fld (R.FTE_TS_CFG k) 31 30) := by
  simp [trackSetOp, ho]

theorem onlyRegs_setReg : OnlyRegs [off] s (s.setReg off v) := ⟨fun _ ho => reg_setReg_other (by simpa using ho), rfl⟩

/-! ### What the commands answer -/

section
variable (hs : s.awake = true)
include hs

theorem exec_pairTableLoad : exec (.pairTableLoad ag v) s = .next (pairTableLoadOp ag v s) := awakeNext_awake hs
theorem exec_pairTableParityError {k : Fin 4} : exec (.pairTableParityError k) s = .next (pairParityOp k s) := awakeNext_awake hs
theorem exec_trackSetNextIdWrite {k : Fin 16} : exec (.trackSetNextIdWrite ag k v) s = .next (trackSetOp ag k v s) := awakeNext_awake hs

end

/-- Settles O34: a load, a parity error and a write of NEXT_ID by what each operation leaves, with authority and without. -/
theorem pairTablesAndTrackSets : Obligations.PairTablesAndTrackSets := by
  intro ag v s hs
  refine ⟨?load, fun k => ⟨fun h => ?absent, fun x hx => ⟨fun hn => ⟨fun hr => ?reread, fun hr => ?unreadable⟩, fun i hi hk => ?recomputed⟩⟩,
    fun k ho => ⟨fun hv hu => ?nextId, fun h => ?nextIdStays⟩, fun k ho => ?nextIdRefused⟩
  case load =>
    intro k a u r ws own
    refine ⟨fun t ht ho => ?refused, fun hm hl => ⟨fun hb => ?pending, fun hb => ?idle⟩⟩
    case refused => rw [exec_pairTableLoad hs, pairTableLoadOp_refused ht ho]
    case pending => rw [exec_pairTableLoad hs, pairTableLoadOp_mine hm hl, if_pos hb]
    case idle =>
      rw [exec_pairTableLoad hs, pairTableLoadOp_mine hm hl, if_neg (by simp [hb])]
      refine ⟨fun ha => ⟨_, rfl, pairLoad_refused (pairChecked_unaligned ha) (by decide) (by decide)⟩,
        fun ha hu => ⟨_, rfl, pairLoad_refused (pairChecked_inUse ha hu) (by decide) (by decide)⟩, fun ha hu hown hr => ?read⟩
      have haddr : u.pairAddr = a := pairAddr_setFld
      have hread : u.pairRead ag = r := by rw [State.pairRead, haddr]
      have hcheck : u.pairChecked ag k = St.done := pairChecked_setFld.trans (pairChecked_done ha hu hown)
      have hdone := pairLoad_done hcheck (hread ▸ hr)
      have hillegal := pairLoad_illegal hcheck (hread ▸ hr)
      rw [hread] at hdone hillegal
      rw [haddr] at hdone
      exact ⟨fun hw => ⟨_, rfl, hdone hw⟩, fun hw => ⟨_, rfl, hillegal hw⟩⟩
  case absent => rw [exec_pairTableParityError hs, pairParityOp_absent h]
  case reread =>
    rw [exec_pairTableParityError hs, pairParityOp_unused hx hn]
    exact congrArg Host.Outcome.next (if_pos hr)
  case unreadable =>
    rw [exec_pairTableParityError hs, pairParityOp_unused hx hn]
    exact congrArg Host.Outcome.next (if_neg hr)
  case recomputed => rw [exec_pairTableParityError hs, pairParityOp_used hx hi hk]; rfl
  case nextId =>
    rw [exec_trackSetNextIdWrite hs, trackSetOp_sets ho hv hu]
    exact ⟨_, rfl, reg_setReg_same, onlyRegs_setReg⟩
  case nextIdStays => rw [exec_trackSetNextIdWrite hs, trackSetOp_ignored ho h]
  case nextIdRefused => rw [exec_trackSetNextIdWrite hs, trackSetOp_refused ho]

end Sys2Proof.Machine
end

section
/-! The statements of 10_tensor_descriptors.md about the commands of the tensor descriptor unit: creates, destroys and reads of descriptors
(R391, R392, R405) and of regions (R379, R380, R406), one command of a set at a time (R407). -/

namespace Sys2Proof.Machine

variable {s : State} {ag : Agent} {p st row dim h id w : Nat} {d : Desc} {f : State → State}

/-! ### Runs of registers written in turn -/

section
variable {off : Nat → Nat} {val : Nat → Word}

/-- Writing registers in turn changes registers alone. -/
theorem foldl_setReg_regs (l : List Nat) (s : State) :
    l.foldl (fun s w => s.setReg (off w) (val w)) s = { s with regs := (l.foldl (fun s w => s.setReg (off w) (val w)) s).regs } := by
  induction l generalizing s with
  | nil => rfl
  | cons w l ih => exact ih (s.setReg (off w) (val w))

/-- Of registers at offsets of their own, each that is written reads its value. -/
theorem reg_foldl_setReg (hoff : off.Injective) (l : List Nat) (s : State) :
    (l.foldl (fun s w => s.setReg (off w) (val w)) s).reg (off w) = if w ∈ l then val w else s.reg (off w) := by
  induction l generalizing s with
  | nil => rfl
  | cons a l ih =>
    rw [List.foldl_cons, ih]
    by_cases hw : w ∈ l
    · rw [if_pos hw, if_pos (List.mem_cons_of_mem a hw)]
    · rw [if_neg hw]
      by_cases ha : w = a
      · rw [ha, reg_setReg_same, if_pos List.mem_cons_self]
      · rw [reg_setReg_other (fun he => ha (hoff he)), if_neg (fun hm => (List.mem_cons.mp hm).elim ha hw)]

end

/-! ### Statuses -/

/-- The top byte of a status register names the status. -/
theorem bits_status {n : Nat} (hst : st < 256) (hn : n < 2 ^ 24) : bits (BitVec.ofNat 32 (2 ^ 24 * st + n)) 31 24 = st := by
  rw [bits, nbits, BitVec.toNat_ofNat]
  omega

theorem reg_cmdBegin (off bound o : Nat) : (s.cmdBegin off bound).reg o = s.reg o := rfl

/-- What two runs of writes change together. -/
theorem onlyRegs_trans {a b : List Nat} {t u : State} (h : OnlyRegs a s t) (h' : OnlyRegs b t u) : OnlyRegs (a ++ b) s u := by
  obtain ⟨hregs, ht⟩ := h
  obtain ⟨hregs', hu⟩ := h'
  refine ⟨fun o ho => ?_, hu.trans (congrArg (fun x : State => { x with regs := u.regs }) ht)⟩
  rw [List.mem_append, not_or] at ho
  exact (hregs' o ho.2).trans (hregs o ho.1)

/-- A command that writes registers and is then in progress. -/
theorem onlyCmd_of_onlyRegs {offs : List Nat} {t : State} (h : OnlyRegs offs s t) (off bound : Nat) : OnlyCmd offs s (t.cmdBegin off bound) := by
  obtain ⟨hregs, ht⟩ := h
  refine ⟨hregs, ?_⟩
  rw [ht]
  rfl

/-! ### One command of a set at a time (R407, R231) -/

theorem tduCmd_refused (ho : s.ofPart ag p = false) : s.tduCmd ag p f = s.refuse ag p := by simp [State.tduCmd, State.tduFor, ho]

theorem tduCmd_busy (ho : s.ofPart ag p = true) (hb : s.cmdBusy (R.TDU_STATUS p) = true) : s.tduCmd ag p f = s := by
  simp [State.tduCmd, State.tduFor, ho, hb]

theorem tduCmd_idle (ho : s.ofPart ag p = true) (hb : s.cmdBusy (R.TDU_STATUS p) = false) :
    s.tduCmd ag p f = (f s).cmdBegin (R.TDU_STATUS p) 2000 := by
  simp [State.tduCmd, State.tduFor, ho, hb]

theorem regionCmd_busy (hb : s.cmdBusy R.TDU_REG_STATUS = true) : s.regionCmd f = s := if_pos hb

theorem regionCmd_idle (hb : s.cmdBusy R.TDU_REG_STATUS = false) : s.regionCmd f = (f s).cmdBegin R.TDU_REG_STATUS 2000 :=
  if_neg (by simp [hb])

/-! ### What a descriptor command answers (R405) -/

theorem tduResult_eq (s : State) (p st check dim : Nat) : s.tduResult p st check dim =
    ((s.setReg (R.TDU_STATUS p) (BitVec.ofNat 32 (2 ^ 24 * st))).setReg (R.TDU_DETAIL p) (BitVec.ofNat 32 (check * 16 + dim))).setReg
      (R.TDU_USED p) (BitVec.ofNat 32 (s.table p).used.length) := (rfl)

/-- The answer of a descriptor command of set `p`, which is then in progress. -/
def State.tduAnswer (s : State) (p st check dim : Nat) : State := (s.tduResult p st check dim).cmdBegin (R.TDU_STATUS p) 2000

@[simp] theorem State.tduAnswer_tdu (s : State) (p st check dim : Nat) : (s.tduAnswer p st check dim).tdu = s.tdu := by
  simp [State.tduAnswer, tduResult_eq]

theorem onlyCmd_tduAnswer : OnlyCmd [R.TDU_STATUS p, R.TDU_DETAIL p, R.TDU_USED p] s (s.tduAnswer p st row dim) :=
  onlyCmd_of_onlyRegs (onlyRegs_trans (onlyRegs_trans onlyRegs_setReg onlyRegs_setReg) onlyRegs_setReg) _ _

theorem reg_tduAnswer_other {o : Nat} (h : o ∉ [R.TDU_STATUS p, R.TDU_DETAIL p, R.TDU_USED p]) : (s.tduAnswer p st row dim).reg o = s.reg o :=
  onlyCmd_tduAnswer.1 o h

@[simp] theorem reg_tduAnswer_status : (s.tduAnswer p st row dim).reg (R.TDU_STATUS p) = BitVec.ofNat 32 (2 ^ 24 * st) := by
  rw [State.tduAnswer, reg_cmdBegin, tduResult_eq, reg_setReg_other (by simp), reg_setReg_other (by simp), reg_setReg_same]

theorem reg_tduAnswer_detail : (s.tduAnswer p st row dim).reg (R.TDU_DETAIL p) = BitVec.ofNat 32 (row * 16 + dim) := by
  rw [State.tduAnswer, reg_cmdBegin, tduResult_eq, reg_setReg_other (by simp), reg_setReg_same]

theorem fld_tduAnswer_status (hst : st < 256) : (s.tduAnswer p st row dim).fld (R.TDU_STATUS p) 31 24 = st := by
  rw [State.fld, reg_tduAnswer_status]
  exact bits_status (n := 0) hst (by decide)

/-! ### Handle tables (R381, R382) -/

@[simp] theorem State.setTable_tables (s : State) (p : Nat) (t : HandleTable) : (s.setTable p t).tdu.tables = setAt s.tdu.tables p t := (rfl)
@[simp] theorem State.setTable_regions (s : State) (p : Nat) (t : HandleTable) : (s.setTable p t).tdu.regions = s.tdu.regions := (rfl)

theorem table_congr {t : State} (h : t.tdu = s.tdu) (p : Nat) : t.table p = s.table p := by rw [State.table, h, State.table]

theorem table_setTable_same {t : HandleTable} (hp : p < s.tdu.tables.length) : (s.setTable p t).table p = t := by
  simp [State.table, setAt, List.getD_eq_getElem?_getD, hp]

/-! ### Descriptor commands past the check of authority (R391, R392, R405) -/

/-- The table after a create took its head `h` for `d` (R382, log 44). -/
def HandleTable.take (t : HandleTable) (h : Nat) (d : Desc) : HandleTable :=
  { (if t.fresh < 16384 then { t with fresh := t.fresh + 1 } else { t with freed := t.freed.drop 1 }) with used := t.used ++ [(h, d)] }

@[simp] theorem HandleTable.take_used (t : HandleTable) (h : Nat) (d : Desc) : (t.take h d).used = t.used ++ [(h, d)] := (rfl)

/-- The table after a destroy of `h`, which is the last to be used again (R382, log 44). -/
def HandleTable.free (t : HandleTable) (h : Nat) : HandleTable :=
  { t with used := t.used.filter (fun e => e.1 != h), freed := t.freed ++ [h] }

/-- A descriptor to the staging words of set `p` (R405). -/
def State.stageDesc (s : State) (p : Nat) (d : Desc) : State :=
  (List.range d.words.length).foldl (fun s w => s.setReg (R.TDU_STAGE p w) (wd d.words w)) s

@[simp] theorem State.stageDesc_tdu (s : State) (p : Nat) (d : Desc) : (s.stageDesc p d).tdu = s.tdu := by
  rw [State.stageDesc, foldl_setReg_regs]

theorem reg_stageDesc (hw : w < d.words.length) : (s.stageDesc p d).reg (R.TDU_STAGE p w) = wd d.words w := by
  refine (reg_foldl_setReg (off := R.TDU_STAGE p) (val := wd d.words) (fun a b h => ?_) _ s).trans (if_pos (List.mem_range.mpr hw))
  have hab : 0xe00080 + p * 0x100 + a * 4 = 0xe00080 + p * 0x100 + b * 4 := h
  omega

section
variable (ho : s.ofPart ag p = true) (hb : s.cmdBusy (R.TDU_STATUS p) = false)
include ho hb

theorem tduCreateOp_fails (hc : s.createCheck ag p (s.staged p) = some (row, dim, st)) : tduCreateOp ag p s = s.tduAnswer p st row dim := by
  rw [tduCreateOp, tduCmd_idle ho hb]
  simp only [hc]
  rfl

theorem tduCreateOp_passes (hc : s.createCheck ag p (s.staged p) = none) (hh : (s.table p).head = some h) :
    tduCreateOp ag p s =
      ((s.setTable p ((s.table p).take h (s.staged p))).setReg (R.TDU_HANDLE p) (BitVec.ofNat 32 h)).tduAnswer p St.done 0 15 := by
  rw [tduCreateOp, tduCmd_idle ho hb]
  simp only [hc, hh, HandleTable.take]
  split <;> rfl

theorem tduDestroyOp_unknown (hd : s.desc? p (s.fld (R.TDU_HANDLE p) 15 0) = none) :
    tduDestroyOp ag p s = s.tduAnswer p St.descInvalid 0 15 := by
  rw [tduDestroyOp, tduCmd_idle ho hb]
  simp only [hd]
  rfl

theorem tduDestroyOp_pinned (hd : s.desc? p (s.fld (R.TDU_HANDLE p) 15 0) = some d) (hp : d.pins ≠ 0) :
    tduDestroyOp ag p s = s.tduAnswer p St.busy 0 15 := by
  rw [tduDestroyOp, tduCmd_idle ho hb]
  simp only [hd, if_pos (Or.inl hp)]
  rfl

theorem tduDestroyOp_free (hd : s.desc? p (s.fld (R.TDU_HANDLE p) 15 0) = some d) (hp : d.pins = 0)
    (hc : (s.table p).used.any (fun e => e.2.elem == El.se8 && e.2.companion == s.fld (R.TDU_HANDLE p) 15 0) = false) :
    tduDestroyOp ag p s = (s.setTable p ((s.table p).free (s.fld (R.TDU_HANDLE p) 15 0))).tduAnswer p St.done 0 15 := by
  rw [tduDestroyOp, tduCmd_idle ho hb]
  simp only [hd, hp, hc, ne_eq, not_true_eq_false, Bool.false_eq_true, or_self, if_false]
  rfl

theorem tduReadOp_unknown (hd : s.desc? p (s.fld (R.TDU_HANDLE p) 15 0) = none) : tduReadOp ag p s = s.tduAnswer p St.descInvalid 0 15 := by
  rw [tduReadOp, tduCmd_idle ho hb]
  simp only [hd]
  rfl

theorem tduReadOp_known (hd : s.desc? p (s.fld (R.TDU_HANDLE p) 15 0) = some d) :
    tduReadOp ag p s = (s.stageDesc p d).tduAnswer p St.done 0 15 := by
  rw [tduReadOp, tduCmd_idle ho hb]
  simp only [hd]
  rfl

theorem tduClearOp_idle : tduClearOp ag p s = (s.zeroRegs [R.TDU_OOB_READ_CNT p, R.TDU_OOB_WRITE_CNT p]).tduAnswer p St.done 0 15 :=
  tduCmd_idle ho hb

/-- A create past its checks (R391): DONE, the handle shown, and the staged descriptor under it behind the others of the table. -/
theorem tduCreateOp_creates (hc : s.createCheck ag p (s.staged p) = none) (hh : (s.table p).head = some h) :
    (tduCreateOp ag p s).reg (R.TDU_STATUS p) = 0 ∧ (tduCreateOp ag p s).reg (R.TDU_HANDLE p) = BitVec.ofNat 32 h ∧
      (p < s.tdu.tables.length → ((tduCreateOp ag p s).table p).used = (s.table p).used ++ [(h, s.staged p)]) ∧
      (tduCreateOp ag p s).tdu.regions = s.tdu.regions := by
  rw [tduCreateOp_passes ho hb hc hh]
  refine ⟨reg_tduAnswer_status, ?handle, fun hp => ?table, by simp⟩
  case handle => rw [reg_tduAnswer_other (by simp), reg_setReg_same]
  case table => rw [table_congr ((State.tduAnswer_tdu ..).trans (State.setReg_tdu ..)), table_setTable_same hp, HandleTable.take_used]

/-- A read of a descriptor (R405): DONE, and its words in the staging registers. -/
theorem tduReadOp_reads (hd : s.desc? p (s.fld (R.TDU_HANDLE p) 15 0) = some d) :
    (tduReadOp ag p s).reg (R.TDU_STATUS p) = 0 ∧ (tduReadOp ag p s).tdu = s.tdu ∧
      ∀ w, w < d.words.length → (tduReadOp ag p s).reg (R.TDU_STAGE p w) = wd d.words w := by
  rw [tduReadOp_known ho hb hd]
  refine ⟨reg_tduAnswer_status, by simp, fun w hw => ?words⟩
  rw [reg_tduAnswer_other, reg_stageDesc hw]
  simp only [List.mem_cons, List.not_mem_nil, or_false, not_or]
  grind

/-- CLEAR zeroes the two counters of accesses out of bounds (R405). -/
theorem tduClearOp_clears : (tduClearOp ag p s).reg (R.TDU_OOB_READ_CNT p) = 0 ∧ (tduClearOp ag p s).reg (R.TDU_OOB_WRITE_CNT p) = 0 ∧
    (tduClearOp ag p s).tdu = s.tdu := by
  rw [tduClearOp_idle ho hb]
  refine ⟨?reads, ?writes, by simp⟩
  case reads => rw [reg_tduAnswer_other (by simp), reg_zeroRegs, if_pos (by simp)]
  case writes => rw [reg_tduAnswer_other (by simp), reg_zeroRegs, if_pos (by simp)]

end

/-! ### What a region command answers (R406) -/

/-- The answer of a region command, which is then in progress. -/
def State.regionAnswer (s : State) (st : Nat) : State := (s.regionStatus st).cmdBegin R.TDU_REG_STATUS 2000

@[simp] theorem State.regionAnswer_tdu (s : State) (st : Nat) : (s.regionAnswer st).tdu = s.tdu := (rfl)

theorem reg_regionAnswer_status : (s.regionAnswer st).reg R.TDU_REG_STATUS =
    BitVec.ofNat 32 (2 ^ 24 * st + 2 ^ 13 * b2n (decide (4096 ≤ s.tdu.regions.length)) + s.tdu.regions.length % 4096 * 2) := reg_setReg_same

theorem reg_regionAnswer_other {o : Nat} (h : o ≠ R.TDU_REG_STATUS) : (s.regionAnswer st).reg o = s.reg o := by
  rw [State.regionAnswer, reg_cmdBegin, State.regionStatus, reg_setReg_other h]

theorem fld_regionAnswer_status (hst : st < 256) : (s.regionAnswer st).fld R.TDU_REG_STATUS 31 24 = st := by
  have hfull := b2n_le_one (decide (4096 ≤ s.tdu.regions.length))
  rw [State.fld, reg_regionAnswer_status, Nat.add_assoc]
  exact bits_status hst (by omega)

theorem onlyCmd_regionAnswer : OnlyCmd [R.TDU_REG_STATUS] s (s.regionAnswer st) :=
  onlyCmd_of_onlyRegs onlyRegs_setReg _ _

/-! ### Region commands (R379, R380, R406) -/

theorem freeRegion_lt (h : s.freeRegion = some id) : id < 4096 := by
  unfold State.freeRegion at h
  exact List.mem_range.mp (List.mem_of_find?_eq_some h)

theorem locked_setFld_regCmd : (s.setFld R.TDU_REG_CMD 11 0 id).locked = s.locked := congrArg (bit · 4) (reg_setFld_other (by decide))

/-- A region to the staging words (R380). -/
def State.stageRegion (s : State) (r : Region) : State := (List.range 4).foldl (fun s w => s.setReg (R.TDU_REG_STAGE w) (wd r.words w)) s

@[simp] theorem State.stageRegion_tdu (s : State) (r : Region) : (s.stageRegion r).tdu = s.tdu := by
  rw [State.stageRegion, foldl_setReg_regs]

theorem reg_stageRegion {r : Region} (hw : w < 4) : (s.stageRegion r).reg (R.TDU_REG_STAGE w) = wd r.words w := by
  refine (reg_foldl_setReg (off := R.TDU_REG_STAGE) (val := wd r.words) (fun a b h => ?_) _ s).trans (if_pos (List.mem_range.mpr hw))
  have hab : 0xe01010 + a * 4 = 0xe01010 + b * 4 := h
  omega

/-- The staged words of a region. -/
def State.regionWords (s : State) : List Word := (List.range 4).map (fun w => s.reg (R.TDU_REG_STAGE w))

section
variable (hb : s.cmdBusy R.TDU_REG_STATUS = false)
include hb

theorem regionCreateOp_fails (hc : s.regionCheck ag s.regionWords ≠ St.done) :
    regionCreateOp ag s = s.regionAnswer (s.regionCheck ag s.regionWords) := by
  rw [regionCreateOp, regionCmd_idle hb]
  exact congrArg (State.cmdBegin · _ _) (if_pos hc)

theorem regionCreateOp_passes (hc : s.regionCheck ag s.regionWords = St.done) (hf : s.freeRegion = some id) :
    regionCreateOp ag s = ((s.addRegion id (regionOf s.regionWords)).setFld R.TDU_REG_CMD 11 0 id).regionAnswer St.done := by
  rw [regionCreateOp, regionCmd_idle hb]
  refine (congrArg (State.cmdBegin · _ _) (if_neg (fun hn => hn hc))).trans ?_
  simp only [hf]
  rfl

/-- A create past its checks (R379): DONE, and the staged region under the lowest free ID, which REG_CMD shows. -/
theorem regionCreateOp_creates (hc : s.regionCheck ag s.regionWords = St.done) (hf : s.freeRegion = some id) :
    (regionCreateOp ag s).tdu.regions = s.tdu.regions ++ [(id, regionOf s.regionWords)] ∧ (regionCreateOp ag s).fld R.TDU_REG_CMD 11 0 = id ∧
      (regionCreateOp ag s).fld R.TDU_REG_STATUS 31 24 = St.done := by
  rw [regionCreateOp_passes hb hc hf]
  refine ⟨rfl, ?id, fld_regionAnswer_status (by decide)⟩
  rw [State.fld, reg_regionAnswer_other (by decide)]
  exact (fld_setFld_same (by decide) (by decide)).trans (Nat.mod_eq_of_lt (freeRegion_lt hf))

variable (hid : id < 4096)
include hid

theorem regionDestroyOp_unknown (hr : s.region? id = none) :
    regionDestroyOp ag id s = (s.setFld R.TDU_REG_CMD 11 0 id).regionAnswer St.descInvalid := by
  have hr' : (s.setFld R.TDU_REG_CMD 11 0 id).region? id = none := hr
  rw [regionDestroyOp, regionCmd_idle hb]
  simp only [Nat.mod_eq_of_lt hid, hr']
  rfl

theorem regionReadOp_unknown (hr : s.region? id = none) :
    regionReadOp ag id s = (s.setFld R.TDU_REG_CMD 11 0 id).regionAnswer St.descInvalid := by
  have hr' : (s.setFld R.TDU_REG_CMD 11 0 id).region? id = none := hr
  rw [regionReadOp, regionCmd_idle hb]
  simp only [Nat.mod_eq_of_lt hid, hr']
  rfl

variable {r : Region} (hr : s.region? id = some r) (hk : r.kind < 2)
include hr hk

/-- A destroy that the agent may make: BUSY while a descriptor uses the region, else the region goes (R380). -/
theorem regionDestroyOp_may (hm : s.locked = false ∨ 2 ≤ r.owner ∨ ag = .safety) :
    regionDestroyOp ag id s =
      if s.tdu.tables.any (fun t => t.used.any (fun e => e.2.region == id)) then (s.setFld R.TDU_REG_CMD 11 0 id).regionAnswer St.busy
      else ((s.setFld R.TDU_REG_CMD 11 0 id).dropRegion id).regionAnswer St.done := by
  have hr' : (s.setFld R.TDU_REG_CMD 11 0 id).region? id = some r := hr
  have hmay : ¬(2 ≤ r.kind ∨ (s.setFld R.TDU_REG_CMD 11 0 id).locked = true ∧ r.owner ≤ 1 ∧ ag ≠ .safety) := by
    rw [locked_setFld_regCmd]
    rintro (hkind | ⟨hlocked, howner, hagent⟩)
    · omega
    · rcases hm with hm | hm | hm
      · exact absurd (hlocked.symm.trans hm) (by decide)
      · omega
      · exact hagent hm
  rw [regionDestroyOp, regionCmd_idle hb]
  simp only [Nat.mod_eq_of_lt hid, hr', if_neg hmay, State.setFld_tdu]
  split <;> rfl

theorem regionReadOp_known : regionReadOp ag id s = ((s.setFld R.TDU_REG_CMD 11 0 id).stageRegion r).regionAnswer St.done := by
  have hr' : (s.setFld R.TDU_REG_CMD 11 0 id).region? id = some r := hr
  rw [regionReadOp, regionCmd_idle hb]
  simp only [Nat.mod_eq_of_lt hid, hr', Nat.not_le.mpr hk, false_and, if_false]
  rfl

/-- A read of a region of DRAM or PEER: its words in the staging registers (R380). -/
theorem regionReadOp_reads : (regionReadOp ag id s).tdu = s.tdu ∧ ∀ w, w < 4 → (regionReadOp ag id s).reg (R.TDU_REG_STAGE w) = wd r.words w := by
  rw [regionReadOp_known hb hid hr hk]
  refine ⟨by simp, fun w hw => ?_⟩
  rw [reg_regionAnswer_other (by grind), reg_stageRegion hw]

end

/-! ### What the commands answer -/

section
variable (hs : s.awake = true)
include hs

theorem exec_tduCreate {p : Fin 4} : exec (.tduCreate ag p) s = .next (tduCreateOp ag p s) := awakeNext_awake hs
theorem exec_tduDestroy {p : Fin 4} : exec (.tduDestroy ag p) s = .next (tduDestroyOp ag p s) := awakeNext_awake hs
theorem exec_tduRead {p : Fin 4} : exec (.tduRead ag p) s = .next (tduReadOp ag p s) := awakeNext_awake hs
theorem exec_tduClearCounts {p : Fin 4} : exec (.tduClearCounts ag p) s = .next (tduClearOp ag p s) := awakeNext_awake hs
theorem exec_regionCreate : exec (.regionCreate ag) s = .next (regionCreateOp ag s) := awakeNext_awake hs
theorem exec_regionDestroy : exec (.regionDestroy ag id) s = .next (regionDestroyOp ag id s) := awakeNext_awake hs
theorem exec_regionRead : exec (.regionRead ag id) s = .next (regionReadOp ag id s) := awakeNext_awake hs

/-- Each descriptor command of set `p` is a command of that set (R407). -/
theorem exec_eq_tduCmd {p : Fin 4} {c : Instr} (hc : c ∈ [Instr.tduCreate ag p, .tduDestroy ag p, .tduRead ag p, .tduClearCounts ag p]) :
    ∃ f, exec c s = .next (s.tduCmd ag p f) := by
  simp only [List.mem_cons, List.not_mem_nil, or_false] at hc
  rcases hc with rfl | rfl | rfl | rfl
  · exact ⟨_, exec_tduCreate hs⟩
  · exact ⟨_, exec_tduDestroy hs⟩
  · exact ⟨_, exec_tduRead hs⟩
  · exact ⟨_, exec_tduClearCounts hs⟩

/-- Each region command is a command of the regions' set (R407). -/
theorem exec_eq_regionCmd {c : Instr} (hc : c ∈ [Instr.regionCreate ag, .regionDestroy ag id, .regionRead ag id]) :
    ∃ f, exec c s = .next (s.regionCmd f) := by
  simp only [List.mem_cons, List.not_mem_nil, or_false] at hc
  rcases hc with rfl | rfl | rfl
  · exact ⟨_, exec_regionCreate hs⟩
  · exact ⟨_, exec_regionDestroy hs⟩
  · exact ⟨_, exec_regionRead hs⟩

/-- A handle that names nothing is DESC_INVALID to DESTROY and READ (R392, R405). -/
theorem exec_tdu_unknown {p : Fin 4} {c : Instr} (ho : s.ofPart ag p = true) (hb : s.cmdBusy (R.TDU_STATUS p) = false)
    (hd : s.desc? p (s.fld (R.TDU_HANDLE p) 15 0) = none) (hc : c ∈ [Instr.tduDestroy ag p, .tduRead ag p]) :
    exec c s = .next (s.tduAnswer p St.descInvalid 0 15) := by
  simp only [List.mem_cons, List.not_mem_nil, or_false] at hc
  rcases hc with rfl | rfl
  · rw [exec_tduDestroy hs, tduDestroyOp_unknown ho hb hd]
  · rw [exec_tduRead hs, tduReadOp_unknown ho hb hd]

/-- An ID that names nothing is DESC_INVALID to a destroy and a read (R380). -/
theorem exec_region_unknown {c : Instr} (hb : s.cmdBusy R.TDU_REG_STATUS = false) (hid : id < 4096) (hr : s.region? id = none)
    (hc : c ∈ [Instr.regionDestroy ag id, .regionRead ag id]) :
    exec c s = .next ((s.setFld R.TDU_REG_CMD 11 0 id).regionAnswer St.descInvalid) := by
  simp only [List.mem_cons, List.not_mem_nil, or_false] at hc
  rcases hc with rfl | rfl
  · rw [exec_regionDestroy hs, regionDestroyOp_unknown hb hid hr]
  · rw [exec_regionRead hs, regionReadOp_unknown hb hid hr]

end

/-- Settles O37: the commands of a set refused or ignored by the set's own rule, each accepted one by what its operation answers. -/
theorem tensorDescriptorsAndRegions : Obligations.TensorDescriptorsAndRegions := by
  intro ag s hs
  refine ⟨fun p ho c hc => ?foreign, fun p ho hb c hc => ?pending, fun hb id c hc => ?regionPending,
    fun p ho hb => ⟨fun row dim st hc => ?createFails, fun h hc hh => ?creates,
      ⟨fun hd c hc => ?unknown, fun d hd => ⟨fun hp => ?pinned, fun hp hc => ?destroys, fun _ => ?reads⟩⟩, ?clears⟩,
    fun hb => ⟨fun hc => ?regionFails, fun id hc hf => ?regionCreates⟩,
    fun hb id hid => ⟨fun hr c hc => ?regionUnknown, fun r hr hk hm => ⟨fun hu => ?regionUsed, fun hu => ?regionGoes⟩, fun r hr hk => ?regionReads⟩⟩
  case foreign =>
    obtain ⟨f, hf⟩ := exec_eq_tduCmd hs hc
    rw [hf, tduCmd_refused ho]
  case pending =>
    obtain ⟨f, hf⟩ := exec_eq_tduCmd hs hc
    rw [hf, tduCmd_busy ho hb]
  case regionPending =>
    obtain ⟨f, hf⟩ := exec_eq_regionCmd hs hc
    rw [hf, regionCmd_busy hb]
  case createFails =>
    rw [exec_tduCreate hs, tduCreateOp_fails ho hb hc]
    exact ⟨_, rfl, State.tduAnswer_tdu .., reg_tduAnswer_status, reg_tduAnswer_detail, onlyCmd_tduAnswer⟩
  case creates =>
    obtain ⟨hstatus, hhandle, htable, hregions⟩ := tduCreateOp_creates ho hb hc hh
    exact ⟨_, exec_tduCreate hs, hstatus, hhandle, htable, rfl, hregions⟩
  case unknown => exact ⟨_, exec_tdu_unknown hs ho hb hd hc, State.tduAnswer_tdu .., fld_tduAnswer_status (by decide)⟩
  case pinned =>
    rw [exec_tduDestroy hs, tduDestroyOp_pinned ho hb hd hp]
    exact ⟨_, rfl, State.tduAnswer_tdu .., fld_tduAnswer_status (by decide)⟩
  case destroys =>
    rw [exec_tduDestroy hs, tduDestroyOp_free ho hb hd hp hc]
    exact ⟨_, rfl, reg_tduAnswer_status, by simp [HandleTable.free]⟩
  case reads => exact ⟨_, exec_tduRead hs, tduReadOp_reads ho hb hd⟩
  case clears => exact ⟨_, exec_tduClearCounts hs, tduClearOp_clears ho hb⟩
  case regionFails =>
    rw [exec_regionCreate hs, regionCreateOp_fails hb hc]
    exact ⟨_, rfl, rfl, onlyCmd_regionAnswer, reg_regionAnswer_status⟩
  case regionCreates => exact ⟨_, exec_regionCreate hs, regionCreateOp_creates hb hc hf⟩
  case regionUnknown => exact ⟨_, exec_region_unknown hs hb hid hr hc, rfl, fld_regionAnswer_status (by decide)⟩
  case regionUsed =>
    rw [exec_regionDestroy hs, regionDestroyOp_may hb hid hr hk hm, if_pos hu]
    exact ⟨_, rfl, rfl, fld_regionAnswer_status (by decide)⟩
  case regionGoes =>
    rw [exec_regionDestroy hs, regionDestroyOp_may hb hid hr hk hm, if_neg (by simp [hu])]
    exact ⟨_, rfl, rfl, rfl⟩
  case regionReads => exact ⟨_, exec_regionRead hs, regionReadOp_reads hb hid hr hk⟩

end Sys2Proof.Machine
end
